-- ==== Sys2Proof/Word.lean ====
section
/-!
DEFINITION. Word.lean: the word types of the module and the sparse, sorted map every memory and register file of the model is.
A register of the set-up space is a 64-bit word (R4's table of forms), a cell of memory is a byte.
-/
namespace Sys2Proof

/-- One byte of a memory, a descriptor or a packet's payload. -/
abbrev Byte := BitVec 8

/-- A 64-bit word: a set-up register, a descriptor word, a Spool instruction word. -/
abbrev Word := BitVec 64

/-- A sparse map: (key, value) pairs with strictly rising keys. What an unlisted key reads as is a function
the reader passes; no pair holds that value (the canonical form, `SMap.wf` in Machine/SMap.lean). -/
abbrev SMap (β : Type) := List (Nat × β)

end Sys2Proof
end

