-- ==== Sys2Proof/Machine/Bits.lean ====
section
/-!
DEFINITION. Machine/Bits.lean: bit fields, byte order, sign extension and the description of a set-up register.
Every multi-byte value of the manual's records and operands is little-endian (byte 0 holds the least significant bits).
-/
namespace Sys2Proof.Machine

/-- Bits [lo + w - 1 : lo] of `x`. -/
def bitsAt (x lo w : Nat) : Nat := (x >>> lo) % 2 ^ w

/-- Bit `i` of `x`. -/
def bitAt (x i : Nat) : Bool := (x >>> i) % 2 = 1

/-- `x` with bits [lo + w - 1 : lo] replaced by the low bits of `v`. -/
def withBits (x lo w v : Nat) : Nat :=
  x - (bitsAt x lo w <<< lo) + ((v % 2 ^ w) <<< lo)

/-- 1 for true. -/
def b2n (b : Bool) : Nat := if b then 1 else 0

/-- The two's-complement value of the low `w` bits of `x`. -/
def toSigned (w x : Nat) : Int :=
  let y := x % 2 ^ w
  if 2 * y < 2 ^ w then (y : Int) else (y : Int) - (2 ^ w : Nat)

/-- The low `w` bits of an integer, as two's complement. -/
def ofSigned (w : Nat) (x : Int) : Nat := (x % ((2 ^ w : Nat) : Int)).toNat

/-- Little-endian value of a list of bytes. -/
def leNat : List Byte → Nat
  | [] => 0
  | b :: bs => b.toNat + 256 * leNat bs

/-- The `n` low bytes of `x`, least significant first. -/
def leBytes : Nat → Nat → List Byte
  | 0, _ => []
  | n + 1, x => BitVec.ofNat 8 x :: leBytes n (x / 256)

/-- Cut a list into pieces of `n` (`fuel` pieces at most). -/
def chunks {α : Type} (n : Nat) : Nat → List α → List (List α)
  | 0, _ => []
  | _, [] => []
  | f + 1, l => l.take n :: chunks n f (l.drop n)

/-- Put `x` at place `n` of a list that reads as `dflt` beyond its end. -/
def setAt {α : Type} (dflt : α) (l : List α) (n : Nat) (x : α) : List α :=
  if n < l.length then l.set n x else l ++ List.replicate (n - l.length) dflt ++ [x]

/-- `⌈a / b⌉`. -/
def ceilDiv (a b : Nat) : Nat := (a + b - 1) / b

/-- The number of set bits among the low `w` bits. -/
def popcount : Nat → Nat → Nat
  | 0, _ => 0
  | w + 1, x => x % 2 + popcount w (x / 2)

/-- The bit length of `x`: 0 for 0. -/
def bitLen (x : Nat) : Nat := if x = 0 then 0 else Nat.log2 x + 1

/-- `f 0, …, f (n-1)`. -/
def tabulate {α : Type} (n : Nat) (f : Nat → α) : List α := (List.range n).map f

/-- A field of a set-up register: the register's offset, the field's lowest bit and its width. -/
structure Fld where
  off : Nat
  lo : Nat
  w : Nat
deriving DecidableEq, Repr

/-- The access codes of R5. -/
inductive Access | rw | ro | w1c | wo
deriving DecidableEq, Repr

/-- What a value outside a field's defined range becomes (R477). -/
inductive Clamp
  /-- every value of the field is in range -/
  | none
  /-- the nearest value in the range -/
  | range (lo hi : Nat)
  /-- a value above `hi` acts as `v` -/
  | above (hi v : Nat)
  /-- zero acts as `v` -/
  | zero (v : Nat)
  /-- zero and every value above `hi` act as `v` -/
  | oneTo (hi v : Nat)
  /-- `v` is kept as written and counted -/
  | keep (v : Nat)
  /-- GRN_COMMON.GRANULES: down to a multiple of 1,024, at most 2,097,152 (R356) -/
  | granules
deriving DecidableEq, Repr

/-- The value a written value takes, and whether the write counts in CFG_CLAMP_COUNT (R477). -/
def Clamp.apply : Clamp → Nat → Nat × Bool
  | .none, v => (v, false)
  | .range lo hi, v => if v < lo then (lo, true) else if hi < v then (hi, true) else (v, false)
  | .above hi x, v => if hi < v then (x, true) else (v, false)
  | .zero x, v => if v = 0 then (x, true) else (v, false)
  | .oneTo hi x, v => if v = 0 ∨ hi < v then (x, true) else (v, false)
  | .keep x, v => (v, v = x)
  | .granules, v => if 2097152 < v then (2097152, true) else if v % 1024 = 0 then (v, false) else (v - v % 1024, true)

/-- The planes of R11. -/
inductive Plane | control | data | management
deriving DecidableEq, Repr

/-- When a write of an RW or WO field takes effect, beside the rule of its plane (R711). -/
inductive Apply
  /-- the plane's rule -/
  | plain
  /-- at the next boundary, in either column of R711 -/
  | boundary
  /-- at the next partition reset of the owner (R13) -/
  | ownerReset
  /-- at the next reset of every partition together (R378) -/
  | allReset
deriving DecidableEq, Repr

/-- One field of a register's table. -/
structure FieldSpec where
  name : String
  lo : Nat
  w : Nat
  acc : Access
  reset : Nat
  clamp : Clamp
deriving DecidableEq, Repr

/-- A register, or an array of registers with one or two indices (stride, count), outermost first (R718). -/
structure RegSpec where
  name : String
  base : Nat
  dims : List (Nat × Nat)
  plane : Plane
  apply : Apply
  fields : List FieldSpec
deriving DecidableEq, Repr

/-- The indices that offset `rel` (from the array's base) stands for, none when it is not one of the array's registers. -/
def arrayIndex : List (Nat × Nat) → Nat → Option (List Nat)
  | [], rel => if rel = 0 then some [] else none
  | (stride, count) :: ds, rel =>
    if rel / stride < count then (arrayIndex ds (rel % stride)).map (fun is => rel / stride :: is) else none

/-- The register's own reset word, from its fields (R719's closing paragraph). -/
def RegSpec.resetWord (r : RegSpec) : Nat := r.fields.foldl (fun x f => withBits x f.lo f.w f.reset) 0

end Sys2Proof.Machine
end

