-- ==== Sys2Proof/Machine/SplDecode.lean ====
section
/-!
DEFINITION. Machine/SplDecode.lean: Spool instruction words: formats and fields (R274 to R276), the opcode table's operand
kinds (R283), what makes an encoding reserved (R277), the decoder and the encoder.
-/
namespace Sys2Proof.Machine

/-- The formats of R274; FA is FM for atomics. -/
inductive SFmt | fr | fi | fm | fa | fc
deriving DecidableEq, Repr

/-- What a register field names (R275): nothing, a vector register of 32 bits, one as wide as TYPE, a scalar, a predicate. -/
inductive RK | none | v | w | s | p
deriving DecidableEq, Repr

/-- The fields of an instruction word; a field its format does not have is 0. -/
structure SIns where
  op : Nat
  pg : Nat := 0
  pn : Bool := false
  d : Nat := 0
  a : Nat := 0
  b : Nat := 0
  c : Nat := 0
  sub : Nat := 0
  typ : Nat := 0
  fmt : Nat := 0
  imm : Nat := 0
  sb : Nat := 0
  amode : Nat := 0
  sp : Bool := false
  hint : Nat := 0
  scope : Nat := 0
  ord : Nat := 0
  size : Nat := 0
  sign : Bool := false
  /-- OFF as its field's bits, two's complement -/
  off : Nat := 0
deriving DecidableEq, Repr

/-- One row of the opcode table (R283). -/
structure OpSpec where
  fmt : SFmt
  d : RK := .none
  a : RK := .none
  b : RK := .none
  c : RK := .none
  types : List Nat := [0]
  subs : List Nat := [0]
  /-- a guard or condition is allowed (R277) -/
  guard : Bool := true
deriving DecidableEq, Repr

/-- The opcode table: none for a reserved opcode. -/
def opSpec (op : Nat) : Option OpSpec :=
  let fr (d a b c : RK) (types subs : List Nat) : Option OpSpec :=
    some { fmt := .fr, d := d, a := a, b := b, c := c, types := types, subs := subs }
  let sc (d a b : RK) (types subs : List Nat) : Option OpSpec :=
    some { fmt := .fr, d := d, a := a, b := b, types := types, subs := subs, guard := false }
  let ints := [0, 1, 2, 3]
  let any := [0, 1, 2, 3, 4, 5, 6, 7]
  if op = 0x00 then fr .none .none .none .none [0] [0]
  else if op ≤ 0x04 then fr .w .w .w .none ints [0]
  else if op = 0x05 then fr .w .w .w .w ints [0]
  else if op ≤ 0x07 then fr .w .w .w .none ints [0]
  else if op ≤ 0x0A then fr .w .w .w .none [0, 2] [0]
  else if op = 0x0B then fr .w .w .none .none [0, 2] [0]
  else if op ≤ 0x0D then fr .w .w .w .none ints [0]
  else if op ≤ 0x0F then fr .w .w .none .none [0, 2] [0]
  else if op = 0x10 then fr .w .w .none .none any [0]
  else if op = 0x11 then some { fmt := .fi, d := .v }
  else if op = 0x12 then some { fmt := .fi, d := .w, a := .w, types := [0, 2] }
  else if op = 0x13 then fr .w .w .w .p any [0]
  else if op = 0x14 then fr .p .w .w .none ints [0, 1, 2, 3, 4, 5]
  else if op = 0x15 then fr .v .v .v .none [0] [0, 1, 2, 3]
  else if op = 0x16 then fr .s .p .none .none [0] [0]
  else if op = 0x17 then fr .s .w .none .none [0, 2] [0]
  else if op = 0x18 then fr .w .s .none .none [0, 2] [0]
  else if op < 0x20 then none
  else if op ≤ 0x22 then fr .w .w .w .none [4, 5] [0]
  else if op = 0x23 then fr .w .w .w .w [4, 5] [0]
  else if op ≤ 0x25 then fr .w .w .w .none [4, 5] [0]
  else if op ≤ 0x27 then fr .w .w .none .none [4, 5] [0]
  else if op = 0x28 then fr .p .w .w .none [4, 5] any
  else if op = 0x29 then fr .v .v .none .none [0] [0, 1, 2, 3, 4, 5, 6, 7, 8, 9, 10]
  else if op = 0x2A then fr .w .w .none .none [4, 5] [0]
  else if op = 0x2B then fr .v .v .v .v [6, 7] [0]
  else if op ≤ 0x2D then fr .v .v .v .none [6, 7] [0]
  else if op < 0x40 then none
  else if op ≤ 0x41 then fr .w .w .none .none [4, 5] [0]
  else if op ≤ 0x46 then fr .v .v .none .none [4] [0]
  else if op < 0x50 then none
  else if op ≤ 0x51 then some { fmt := .fm, d := .v, a := .v }
  else if op ≤ 0x53 then some { fmt := .fm, d := .s, guard := false }
  else if op = 0x54 then some { fmt := .fa, d := .v, a := .v, b := .v }
  else if op = 0x55 then some { fmt := .fa, d := .v, a := .v, b := .v, c := .v }
  else if op = 0x56 then some { fmt := .fa, a := .v, b := .v }
  else if op ≤ 0x5C then some { fmt := .fm, d := .s, a := .s, guard := false }
  else if op < 0x60 then none
  else if op ≤ 0x65 then sc .s .s .s [0] [0]
  else if op ≤ 0x67 then sc .s .s .s [2, 3] [0]
  else if op ≤ 0x69 then some { fmt := .fi, d := .s, guard := false }
  else if op = 0x6A then some { fmt := .fi, d := .s, a := .s, guard := false }
  else if op = 0x6B then sc .p .s .s [2, 3] [0, 1, 2, 3, 4, 5]
  else if op ≤ 0x6E then sc .p .p .p [0] [0]
  else if op = 0x6F then sc .p .p .none [0] [0]
  else if op = 0x70 then some { fmt := .fc, guard := false }
  else if op ≤ 0x73 then some { fmt := .fc }
  else if op = 0x74 then some { fmt := .fc, guard := false }
  else if op = 0x75 then some { fmt := .fc }
  else if op ≤ 0x77 then some { fmt := .fc, guard := false }
  else if op = 0x78 then some { fmt := .fc, subs := [0, 1, 2], guard := false }
  else if op ≤ 0x7A then some { fmt := .fc, guard := false }
  else if op ≤ 0x7D then some { fmt := .fc, d := .s, a := .s, guard := false }
  else if op = 0x7E then some { fmt := .fc, d := .s, guard := false }
  else if op = 0x7F then some { fmt := .fc, a := .s, guard := false }
  else if op ≤ 0x81 then some { fmt := .fc, d := .s, guard := false }
  else none

/-- A 64-bit TYPE (R276). -/
def typeWide (t : Nat) : Bool := decide (t = 2 ∨ t = 3 ∨ t = 5)

/-- A 64-bit source or destination code of cvt (R282). -/
def cvtWide (c : Nat) : Bool := decide (c = 2 ∨ c = 3 ∨ c = 5)

/-- Vector registers an access of a SIZE takes (R275): 1, a pair or a quad. -/
def sizeRegs (size : Nat) : Nat := if size = 4 then 4 else if size = 3 then 2 else 1

/-- Registers that field D names, by kind and number of registers. -/
def SIns.dCount (i : SIns) : Nat :=
  if i.op = 0x29 then (if cvtWide i.sub then 2 else 1)
  else if i.op = 0x50 ∨ i.op = 0x51 then sizeRegs i.size
  else if i.op = 0x52 ∨ i.op = 0x53 then (if i.size = 4 then 2 else 1)
  else if i.op = 0x54 ∨ i.op = 0x55 then (if i.size = 3 then 2 else 1)
  else if typeWide i.typ then 2 else 1

/-- Registers that field A names. -/
def SIns.aCount (i : SIns) : Nat :=
  if i.op = 0x29 then (if cvtWide i.fmt then 2 else 1)
  else if 0x50 ≤ i.op ∧ i.op ≤ 0x5C then (if i.amode = 2 then 2 else 1)
  else if typeWide i.typ then 2 else 1

/-- Registers that fields B and C name. -/
def SIns.bCount (i : SIns) : Nat :=
  if 0x54 ≤ i.op ∧ i.op ≤ 0x56 then (if i.size = 3 then 2 else 1) else if typeWide i.typ then 2 else 1

/-- A register field is numbered as its kind allows (R275). -/
def regOk (k : RK) (n count : Nat) : Bool :=
  match k with
  | .none => true
  | .v | .w => decide (n % count = 0)
  | .s => decide (n < 32) && decide (n % count = 0)
  | .p => decide (n < 8)

/-- The kind of field A of an instruction: a memory instruction uses its index register in AMODE 1 to 3. -/
def SIns.aKind (i : SIns) (s : OpSpec) : RK :=
  if (s.fmt = .fm ∨ s.fmt = .fa) ∧ s.a = .v ∧ i.amode = 0 then .none else s.a

/-- Scalar kinds take one register each, but for the 16-byte scalar accesses. -/
def SIns.dRegs (i : SIns) (s : OpSpec) : Nat := if s.d = .s ∧ ¬(i.op = 0x52 ∨ i.op = 0x53) then 1 else i.dCount
def SIns.aRegs (i : SIns) (s : OpSpec) : Nat := if s.a = .s then 1 else i.aCount
def SIns.bRegs (i : SIns) (s : OpSpec) : Nat := if s.b = .s then 1 else i.bCount

/-- The encoding is not reserved (R277), given the fields of a word without reserved bits. A register field that an opcode
does not use is ignored (log entry 32). -/
def SIns.legal (i : SIns) (s : OpSpec) : Bool :=
  let mem := decide (s.fmt = .fm) || decide (s.fmt = .fa)
  regOk s.d i.d (i.dRegs s) && regOk (i.aKind s) i.a (i.aRegs s) && regOk s.b i.b (i.bRegs s) && regOk s.c i.c (i.bRegs s)
  && s.types.contains i.typ && s.subs.contains i.sub
  && (s.guard || (decide (i.pg = 0) && !i.pn))
  && (if i.op = 0x29 then decide (i.fmt ≤ 10) else decide (i.fmt = 0))
  && (if s.fmt = .fc then decide (i.scope ≤ 4) && (decide (i.op = 0x78) || decide (i.scope = 0)) else true)
  && (if mem then decide (i.ord = 0) || decide (i.scope ≤ 4) else true)
  && (if i.op = 0x50 then decide (i.ord ≤ 1) && decide (i.size ≤ 4) else true)
  && (if i.op = 0x51 then decide (i.ord % 2 = 0) && decide (i.ord ≤ 2) && decide (i.size ≤ 4) else true)
  && (if i.op = 0x52 then decide (i.ord ≤ 1) && decide (i.amode = 0) && decide (2 ≤ i.size) && decide (i.size ≤ 4) else true)
  && (if i.op = 0x53 then decide (i.ord % 2 = 0) && decide (i.ord ≤ 2) && decide (i.amode = 0) && decide (2 ≤ i.size) && decide (i.size ≤ 4) else true)
  && (if s.fmt = .fa then !i.sp && decide (1 ≤ i.size) && decide (i.size ≤ 3) && (decide (i.op ≠ 0x55) || decide (2 ≤ i.size))
        && (decide (i.op ≠ 0x56) || decide (i.d = 0)) else true)
  && (if 0x57 ≤ i.op ∧ i.op ≤ 0x5C then !i.sp && decide (i.amode = 0) && decide (i.size = 0) && decide (i.ord = 0) else true)
  && (if i.op = 0x7B ∨ i.op = 0x7C then decide (i.a % 8 = 0) else true)

/-- The fields of a word in a format (R274). -/
def fieldsOf (f : SFmt) (w : Nat) : SIns :=
  let i : SIns := { op := bitsAt w 0 8, pg := bitsAt w 8 3, pn := bitAt w 11, d := bitsAt w 12 6, a := bitsAt w 18 6 }
  match f with
  | .fr => { i with b := bitsAt w 24 6, c := bitsAt w 30 6, sub := bitsAt w 36 4, typ := bitsAt w 40 3, fmt := bitsAt w 43 5 }
  | .fi => { i with typ := bitsAt w 28 3, imm := bitsAt w 32 32 }
  | .fm => { i with sb := bitsAt w 24 5, amode := bitsAt w 29 2, sp := bitAt w 31, hint := bitsAt w 32 2, scope := bitsAt w 34 3,
                    ord := bitsAt w 37 2, size := bitsAt w 39 3, sign := bitAt w 42, off := bitsAt w 43 21 }
  | .fa => { i with sb := bitsAt w 24 5, amode := bitsAt w 29 2, sp := bitAt w 31, hint := bitsAt w 32 2, scope := bitsAt w 34 3,
                    ord := bitsAt w 37 2, size := bitsAt w 39 3, sign := bitAt w 42, b := bitsAt w 43 6, c := bitsAt w 49 6,
                    off := bitsAt w 55 9 }
  | .fc => { i with sub := bitsAt w 30 4, scope := bitsAt w 34 3, off := bitsAt w 40 24 }

/-- The reserved bits of a format are zero (R274). -/
def reservedZero (f : SFmt) (w : Nat) : Bool :=
  match f with
  | .fr => decide (bitsAt w 48 16 = 0)
  | .fi => decide (bitsAt w 24 4 = 0) && decide (bitsAt w 31 1 = 0)
  | .fm | .fa => true
  | .fc => decide (bitsAt w 24 6 = 0) && decide (bitsAt w 37 3 = 0)

/-- The instruction of a 64-bit word: none when its encoding is reserved (R277). -/
def decodeSpool (w : Nat) : Option SIns :=
  match opSpec (bitsAt w 0 8) with
  | none => none
  | some s =>
    let i := fieldsOf s.fmt w
    if reservedZero s.fmt w && i.legal s then some i else none

/-- Each field of an instruction fits its place in its format, and the fields of other formats are 0. -/
def SIns.fits (i : SIns) (f : SFmt) : Bool :=
  decide (i.op < 256) && decide (i.pg < 8) && decide (i.d < 64) && decide (i.a < 64)
  && (match f with
    | .fr => decide (i.b < 64) && decide (i.c < 64) && decide (i.sub < 16) && decide (i.typ < 8) && decide (i.fmt < 32)
        && [i.imm, i.sb, i.amode, i.hint, i.scope, i.ord, i.size, i.off].all (fun x => decide (x = 0)) && !i.sp && !i.sign
    | .fi => decide (i.typ < 8) && decide (i.imm < 2 ^ 32)
        && [i.b, i.c, i.sub, i.fmt, i.sb, i.amode, i.hint, i.scope, i.ord, i.size, i.off].all (fun x => decide (x = 0)) && !i.sp && !i.sign
    | .fm => decide (i.sb < 32) && decide (i.amode < 4) && decide (i.hint < 4) && decide (i.scope < 8) && decide (i.ord < 4)
        && decide (i.size < 8) && decide (i.off < 2 ^ 21) && [i.b, i.c, i.sub, i.typ, i.fmt, i.imm].all (fun x => decide (x = 0))
    | .fa => decide (i.sb < 32) && decide (i.amode < 4) && decide (i.hint < 4) && decide (i.scope < 8) && decide (i.ord < 4)
        && decide (i.size < 8) && decide (i.b < 64) && decide (i.c < 64) && decide (i.off < 2 ^ 9)
        && [i.sub, i.typ, i.fmt, i.imm].all (fun x => decide (x = 0))
    | .fc => decide (i.sub < 16) && decide (i.scope < 8) && decide (i.off < 2 ^ 24)
        && [i.b, i.c, i.typ, i.fmt, i.imm, i.sb, i.amode, i.hint, i.ord, i.size].all (fun x => decide (x = 0)) && !i.sp && !i.sign)

/-- An instruction that a word can spell: its opcode is in the table, its fields fit and its encoding is not reserved. -/
def SIns.wellFormed (i : SIns) : Bool :=
  match opSpec i.op with
  | none => false
  | some s => i.fits s.fmt && i.legal s

/-- The word of an instruction (R274). -/
def encodeSpool (i : SIns) : Nat :=
  let low := i.op + i.pg * 2 ^ 8 + b2n i.pn * 2 ^ 11 + i.d * 2 ^ 12 + i.a * 2 ^ 18
  match (opSpec i.op).map (fun (s : OpSpec) => s.fmt) with
  | some .fr => low + i.b * 2 ^ 24 + i.c * 2 ^ 30 + i.sub * 2 ^ 36 + i.typ * 2 ^ 40 + i.fmt * 2 ^ 43
  | some .fi => low + i.typ * 2 ^ 28 + i.imm * 2 ^ 32
  | some .fm => low + i.sb * 2 ^ 24 + i.amode * 2 ^ 29 + b2n i.sp * 2 ^ 31 + i.hint * 2 ^ 32 + i.scope * 2 ^ 34 + i.ord * 2 ^ 37
      + i.size * 2 ^ 39 + b2n i.sign * 2 ^ 42 + i.off * 2 ^ 43
  | some .fa => low + i.sb * 2 ^ 24 + i.amode * 2 ^ 29 + b2n i.sp * 2 ^ 31 + i.hint * 2 ^ 32 + i.scope * 2 ^ 34 + i.ord * 2 ^ 37
      + i.size * 2 ^ 39 + b2n i.sign * 2 ^ 42 + i.b * 2 ^ 43 + i.c * 2 ^ 49 + i.off * 2 ^ 55
  | _ => low + i.sub * 2 ^ 30 + i.scope * 2 ^ 34 + i.off * 2 ^ 40

end Sys2Proof.Machine
end

