-- ==== Sys2Proof/Machine/Packets.lean ====
section
/-!
DEFINITION. Machine/Packets.lean: the packets of the device fabric (R509, R510) and of the Companion Link (R641), their
headers as bytes, and the flit (R492) with its CRC-32C.
-/
namespace Sys2Proof.Machine

/-- A fabric packet (R509). -/
structure Packet where
  kind : Nat
  dst : Nat := 0
  src : Nat := 0
  job : Nat := 0
  len : Nat := 0
  tag : Nat := 0
  sub : Nat := 0
  typ : Nat := 0
  status : Nat := 0
  noret : Bool := false
  aux : Nat := 0
  addr : Nat := 0
  payload : List Byte := []
deriving DecidableEq, Repr

/-- A Companion Link packet (R641). -/
structure CplPacket where
  op : Nat
  tag : Nat := 0
  len : Nat := 0
  poison : Bool := false
  code : Nat := 0
  arg : Nat := 0
  addr : Nat := 0
  payload : List Byte := []
  /-- the bits of the header's zero fields: word 0 [31:30], word 1 [63:52] above them; 0 in every packet the module sends -/
  resv : Nat := 0
deriving DecidableEq, Repr

/-- The three header words of a fabric packet (R509). -/
def Packet.header (p : Packet) : Nat × Nat × Nat :=
  (p.kind % 16 + (p.dst % 2 ^ 18) * 2 ^ 4 + (p.src % 2 ^ 18) * 2 ^ 22 + (p.job % 2 ^ 16) * 2 ^ 40,
   p.len % 512 + (p.tag % 1024) * 2 ^ 9 + (p.sub % 16) * 2 ^ 19 + (p.typ % 8) * 2 ^ 23 + (p.status % 4) * 2 ^ 26
     + b2n p.noret * 2 ^ 28 + (p.aux % 2 ^ 32) * 2 ^ 32,
   p.addr % 2 ^ 52)

/-- `bs` padded with zeros to a multiple of 8 bytes. -/
def pad8 (bs : List Byte) : List Byte := bs ++ List.replicate ((8 - bs.length % 8) % 8) 0

/-- A fabric packet as bytes: header, payload, padding (R509). -/
def Packet.bytes (p : Packet) : List Byte :=
  let (w0, w1, w2) := p.header
  leBytes 8 w0 ++ leBytes 8 w1 ++ leBytes 8 w2 ++ pad8 p.payload

/-- The packet at the front of a byte stream and the rest; none while it is not complete (R496, R509). -/
def Packet.parse (bs : List Byte) : Option (Packet × List Byte) :=
  if bs.length < 24 then none
  else
    let w0 := leNat (bs.take 8)
    let w1 := leNat ((bs.drop 8).take 8)
    let w2 := leNat ((bs.drop 16).take 8)
    let plen := match bitsAt w0 0 4 with
      | 0x1 | 0x5 | 0x9 | 0xA | 0xD => 0
      | _ => bitsAt w1 0 9
    let padded := (plen + 7) / 8 * 8
    if bs.length < 24 + padded then none
    else some ({ kind := bitsAt w0 0 4, dst := bitsAt w0 4 18, src := bitsAt w0 22 18, job := bitsAt w0 40 16,
                 len := bitsAt w1 0 9, tag := bitsAt w1 9 10, sub := bitsAt w1 19 4, typ := bitsAt w1 23 3,
                 status := bitsAt w1 26 2, noret := bitAt w1 28, aux := bitsAt w1 32 32, addr := bitsAt w2 0 52,
                 payload := (bs.drop 24).take plen }, bs.drop (24 + padded))

/-- A Companion Link packet as bytes (R641). -/
def CplPacket.bytes (p : CplPacket) : List Byte :=
  leBytes 8 (p.op % 256 + (p.tag % 4096) * 2 ^ 8 + (p.len % 512) * 2 ^ 20 + b2n p.poison * 2 ^ 29 + (p.code % 256) * 2 ^ 32
    + (p.arg % 2 ^ 24) * 2 ^ 40 + (p.resv % 4) * 2 ^ 30) ++ leBytes 8 (p.addr % 2 ^ 52 + (p.resv / 4 % 2 ^ 12) * 2 ^ 52) ++ pad8 p.payload

/-- The operations of the Companion Link whose packets carry a payload (R642, R654). -/
def cplHasPayload (op : Nat) : Bool :=
  [0x03, 0x04, 0x30, 0x41, 0x42, 0x43, 0x48, 0x4A].contains op

/-- The Companion Link packet at the front of a byte stream and the rest. -/
def CplPacket.parse (bs : List Byte) : Option (CplPacket × List Byte) :=
  if bs.length < 16 then none
  else
    let w0 := leNat (bs.take 8)
    let w1 := leNat ((bs.drop 8).take 8)
    let plen := if cplHasPayload (bitsAt w0 0 8) then bitsAt w0 20 9 else 0
    let padded := (plen + 7) / 8 * 8
    if bs.length < 16 + padded then none
    else some ({ op := bitsAt w0 0 8, tag := bitsAt w0 8 12, len := bitsAt w0 20 9, poison := bitAt w0 29,
                 code := bitsAt w0 32 8, arg := bitsAt w0 40 24, addr := bitsAt w1 0 52,
                 payload := (bs.drop 16).take plen, resv := bitsAt w0 30 2 + 4 * bitsAt w1 52 12 }, bs.drop (16 + padded))

/-- One step of CRC-32C (reflected polynomial 0x82F63B78) over one bit. -/
def crcBit (c : Nat) : Nat := if c % 2 = 1 then (c / 2) ^^^ 0x82F63B78 else c / 2

/-- One byte of CRC-32C. -/
def crcByte (c : Nat) (b : Byte) : Nat :=
  crcBit (crcBit (crcBit (crcBit (crcBit (crcBit (crcBit (crcBit (c ^^^ b.toNat))))))))

/-- CRC-32C of a byte string (R492). -/
def crc32c (bs : List Byte) : Nat := (bs.foldl crcByte 0xFFFFFFFF) ^^^ 0xFFFFFFFF

/-- A flit of a fabric port or of the Companion Link (R492): 256 bytes. -/
abbrev Flit := List Byte

/-- The header word of a flit. -/
def flitHeader (f : Flit) : Nat := leNat (f.take 8)

/-- R492: the check fails, the length exceeds 244, or the flit is not 256 bytes. -/
def flitBad (f : Flit) : Bool :=
  f.length ≠ 256 || leNat ((f.drop 252).take 4) ≠ crc32c (f.take 252) || decide (244 < bitsAt (flitHeader f) 30 8)

end Sys2Proof.Machine
end

