-- ==== Sys2Proof/Machine/Numeric.lean ====
section
/-!
DEFINITION. Machine/Numeric.lean: the number formats of chapter 02, exact values, rounding, and the conversion rule of R83.
Values are exact: a finite non-zero value is a sign, a positive integer and a power of two. Arithmetic is exact, and one
rounding at the end narrows it, as the manual's units do.
-/
namespace Sys2Proof.Machine

/-- The formats of R48, under the manual's names. -/
inductive Fmt
  | fp4 | fp6e2m3 | fp6e3m2 | fp8e4m3 | fp8e5m2 | int8
  | mxfp4 | mxfp6e2m3 | mxfp6e3m2 | mxfp8e4m3 | mxfp8e5m2 | mxint8
  | bf16 | fp16 | fp32 | fp64 | int32 | w128
deriving DecidableEq, Repr

/-- The format a 5-bit code names; the reserved codes name none (R48, R49). -/
def Fmt.ofCode : Nat → Option Fmt
  | 0x01 => some .fp4 | 0x02 => some .fp6e2m3 | 0x03 => some .fp6e3m2 | 0x04 => some .fp8e4m3
  | 0x05 => some .fp8e5m2 | 0x06 => some .int8 | 0x07 => some .mxfp4 | 0x08 => some .mxfp6e2m3
  | 0x09 => some .mxfp6e3m2 | 0x0A => some .mxfp8e4m3 | 0x0B => some .mxfp8e5m2 | 0x0C => some .mxint8
  | 0x0D => some .bf16 | 0x0E => some .fp16 | 0x0F => some .fp32 | 0x10 => some .fp64
  | 0x11 => some .int32 | 0x12 => some .w128 | _ => none

/-- The code of a format (R48). -/
def Fmt.code : Fmt → Nat
  | .fp4 => 1 | .fp6e2m3 => 2 | .fp6e3m2 => 3 | .fp8e4m3 => 4 | .fp8e5m2 => 5 | .int8 => 6
  | .mxfp4 => 7 | .mxfp6e2m3 => 8 | .mxfp6e3m2 => 9 | .mxfp8e4m3 => 10 | .mxfp8e5m2 => 11 | .mxint8 => 12
  | .bf16 => 13 | .fp16 => 14 | .fp32 => 15 | .fp64 => 16 | .int32 => 17 | .w128 => 18

/-- Element bits (R48). -/
def Fmt.bits : Fmt → Nat
  | .fp4 | .mxfp4 => 4
  | .fp6e2m3 | .fp6e3m2 | .mxfp6e2m3 | .mxfp6e3m2 => 6
  | .fp8e4m3 | .fp8e5m2 | .int8 | .mxfp8e4m3 | .mxfp8e5m2 | .mxint8 => 8
  | .bf16 | .fp16 => 16
  | .fp32 | .int32 => 32
  | .fp64 => 64
  | .w128 => 128

/-- A format with an E8M0 scale byte per 32 elements (R48, R59). -/
def Fmt.isMx : Fmt → Bool
  | .mxfp4 | .mxfp6e2m3 | .mxfp6e3m2 | .mxfp8e4m3 | .mxfp8e5m2 | .mxint8 => true
  | _ => false

/-- The format of one element without its block scale. -/
def Fmt.elem : Fmt → Fmt
  | .mxfp4 => .fp4 | .mxfp6e2m3 => .fp6e2m3 | .mxfp6e3m2 => .fp6e3m2
  | .mxfp8e4m3 => .fp8e4m3 | .mxfp8e5m2 => .fp8e5m2 | f => f

/-- An integer format (R72); MXINT8 is fixed point and counts as one for its encoding (R62). -/
def Fmt.isInt : Fmt → Bool
  | .int8 | .int32 | .mxint8 => true
  | _ => false

/-- Exponent bits of a floating-point format (R51). -/
def Fmt.ebits : Fmt → Nat
  | .fp4 | .mxfp4 | .fp6e2m3 | .mxfp6e2m3 => 2
  | .fp6e3m2 | .mxfp6e3m2 => 3
  | .fp8e4m3 | .mxfp8e4m3 => 4
  | .fp8e5m2 | .mxfp8e5m2 | .fp16 => 5
  | .bf16 | .fp32 => 8
  | .fp64 => 11
  | .int8 | .int32 | .mxint8 | .w128 => 0

/-- Mantissa bits of a floating-point format (R51). -/
def Fmt.mbits : Fmt → Nat
  | .fp4 | .mxfp4 => 1
  | .fp6e3m2 | .mxfp6e3m2 | .fp8e5m2 | .mxfp8e5m2 => 2
  | .fp6e2m3 | .mxfp6e2m3 | .fp8e4m3 | .mxfp8e4m3 => 3
  | .bf16 => 7
  | .fp16 => 10
  | .fp32 => 23
  | .fp64 => 52
  | .int8 | .int32 | .mxint8 | .w128 => 0

/-- Exponent bias (R51). -/
def Fmt.bias : Fmt → Int
  | .fp4 | .mxfp4 | .fp6e2m3 | .mxfp6e2m3 => 1
  | .fp6e3m2 | .mxfp6e3m2 => 3
  | .fp8e4m3 | .mxfp8e4m3 => 7
  | .fp8e5m2 | .mxfp8e5m2 | .fp16 => 15
  | .bf16 | .fp32 => 127
  | .fp64 => 1023
  | .int8 | .int32 | .mxint8 | .w128 => 0

/-- Formats with infinities (R52). -/
def Fmt.hasInf : Fmt → Bool
  | .fp8e5m2 | .mxfp8e5m2 | .bf16 | .fp16 | .fp32 | .fp64 => true
  | _ => false

/-- Formats with a NaN (R52). -/
def Fmt.hasNan : Fmt → Bool
  | .fp8e4m3 | .mxfp8e4m3 => true
  | f => f.hasInf

/-- The NaN the module produces (R52, R53). -/
def Fmt.canonNan : Fmt → Nat
  | .fp8e4m3 | .mxfp8e4m3 | .fp8e5m2 | .mxfp8e5m2 => 0x7F
  | .bf16 => 0x7FC0
  | .fp16 => 0x7E00
  | .fp32 => 0x7FC00000
  | .fp64 => 0x7FF8000000000000
  | _ => 0

/-- An exact value of a format: NaN, an infinity, a signed zero, or ± m × 2^e with m > 0. -/
inductive Num
  | nan
  | inf (neg : Bool)
  | zero (neg : Bool)
  | fin (neg : Bool) (m : Nat) (e : Int)
deriving DecidableEq, Repr

/-- The sign of a value; NaN counts as positive. -/
def Num.neg? : Num → Bool
  | .nan => false
  | .inf n | .zero n | .fin n _ _ => n

def Num.isNan : Num → Bool
  | .nan => true
  | _ => false

/-- `±m × 2^e`, a zero of sign `neg` when m = 0. -/
def Num.mk' (neg : Bool) (m : Nat) (e : Int) : Num := if m = 0 then .zero neg else .fin neg m e

/-- The value of an integer, +0 for 0. -/
def Num.ofInt (x : Int) : Num := if x = 0 then .zero false else .fin (decide (x < 0)) x.natAbs 0

/-- `x × 2^e` for an integer x, +0 for 0. -/
def Num.ofScaled (x e : Int) : Num := if x = 0 then .zero false else .fin (decide (x < 0)) x.natAbs e

/-- The largest finite magnitude of a format as m × 2^e (R51, R71, R83). For an integer format the end on the side of `neg`. -/
def Fmt.maxFin (f : Fmt) (neg : Bool) : Nat × Int :=
  match f with
  | .int8 => (if neg then 128 else 127, 0)
  | .int32 => (if neg then 2 ^ 31 else 2 ^ 31 - 1, 0)
  | .mxint8 => (127, -6)
  | .fp4 | .mxfp4 => (3, 1)
  | .fp6e2m3 | .mxfp6e2m3 => (15, -1)
  | .fp6e3m2 | .mxfp6e3m2 => (7, 2)
  | .fp8e4m3 | .mxfp8e4m3 => (14, 5)
  | .fp8e5m2 | .mxfp8e5m2 => (7, 13)
  | .bf16 => (2 ^ 8 - 1, 120)
  | .fp16 => (2 ^ 11 - 1, 5)
  | .fp32 => (2 ^ 24 - 1, 104)
  | .fp64 => (2 ^ 53 - 1, 971)
  | .w128 => (1, 0)

/-- The value an element's bits encode (R50, R52, R62, R72), without a block scale. -/
def Fmt.decode (f : Fmt) (x : Nat) : Num :=
  match f with
  | .int8 => Num.ofInt (toSigned 8 x)
  | .int32 => Num.ofInt (toSigned 32 x)
  | .mxint8 => Num.ofScaled (toSigned 8 x) (-6)
  | .w128 => .zero false
  | _ =>
    let m := bitsAt x 0 f.mbits
    let e := bitsAt x f.mbits f.ebits
    let s := bitAt x (f.mbits + f.ebits)
    let top := 2 ^ f.ebits - 1
    if f.hasInf ∧ e = top then (if m = 0 then .inf s else .nan)
    else if f.elem = .fp8e4m3 ∧ e = top ∧ m = 7 then .nan
    else if e = 0 then Num.mk' s m (1 - f.bias - f.mbits)
    else .fin s (2 ^ f.mbits + m) ((e : Int) - f.bias - f.mbits)

/-- Rounding modes (R78). -/
inductive RMode | rne | rtz | rdn | rup | sr
deriving DecidableEq, Repr

/-- R78: 5 to 7 act as 0. -/
def RMode.ofBits : Nat → RMode
  | 1 => .rtz | 2 => .rdn | 3 => .rup | 4 => .sr | _ => .rne

/-- ⌊log2 (m × 2^e)⌋ for m > 0. -/
def ilog2 (m : Nat) (e : Int) : Int := (Nat.log2 m : Int) + e

/-- m × 2^e in units of 2^u, rounded to an integer under `mode` (R78, R82); `r` is the 16-bit random value of SR. -/
def roundUnits (mode : RMode) (r : Nat) (neg : Bool) (m : Nat) (e u : Int) : Nat :=
  if u ≤ e then m <<< (e - u).toNat
  else
    let sh := (u - e).toNat
    let q := m >>> sh
    let rem := m % 2 ^ sh
    if rem = 0 then q
    else match mode with
      | .rne => if 2 * rem > 2 ^ sh ∨ (2 * rem = 2 ^ sh ∧ q % 2 = 1) then q + 1 else q
      | .rtz => q
      | .rdn => if neg then q + 1 else q
      | .rup => if neg then q else q + 1
      | .sr => if (rem <<< 16) >>> sh + r ≥ 2 ^ 16 then q + 1 else q

/-- The exponent of the last kept bit when a value of leading exponent `l` is rounded to `f` (R82's u). -/
def Fmt.unit (f : Fmt) (l : Int) : Int :=
  match f with
  | .int8 | .int32 => 0
  | .mxint8 => -6
  | _ => max (l - f.mbits) (1 - f.bias - f.mbits)

/-- a × 2^ea < b × 2^eb. -/
def magLt (a : Nat) (ea : Int) (b : Nat) (eb : Int) : Bool :=
  if ea ≤ eb then decide (a < b <<< (eb - ea).toNat) else decide (a <<< (ea - eb).toNat < b)

/-- The bits of ±q × 2^u, a value of the format (R50). -/
def Fmt.encode (f : Fmt) (neg : Bool) (q : Nat) (u : Int) : Nat :=
  match f with
  | .int8 | .mxint8 => ofSigned 8 (if neg then -(q : Int) else q)
  | .int32 => ofSigned 32 (if neg then -(q : Int) else q)
  | _ =>
    let sgn := b2n neg <<< (f.mbits + f.ebits)
    if q < 2 ^ f.mbits then sgn + q
    else
      let l := Nat.log2 q
      let man := if l ≤ f.mbits then q <<< (f.mbits - l) else q >>> (l - f.mbits)
      let ex := ((l : Int) + u + f.bias).toNat
      sgn + (ex <<< f.mbits) + (man - 2 ^ f.mbits)

/-- The bits of the signed zero; an integer format has one zero. -/
def Fmt.zeroBits (f : Fmt) (neg : Bool) : Nat := if f.isInt then 0 else b2n neg <<< (f.mbits + f.ebits)

/-- The bits of an infinity (R52). -/
def Fmt.infBits (f : Fmt) (neg : Bool) : Nat :=
  (b2n neg <<< (f.mbits + f.ebits)) + ((2 ^ f.ebits - 1) <<< f.mbits)

/-- The bits of ± the largest finite value (R83). -/
def Fmt.maxBits (f : Fmt) (neg : Bool) : Nat := f.encode neg (f.maxFin neg).1 (f.maxFin neg).2

/-- The result of one conversion: the bits and the two flag outputs of R83. -/
structure Conv where
  bits : Nat
  sat : Bool := false
  nan : Bool := false
deriving DecidableEq, Repr

/-- The conversion rule (R83). `r` is the random value of SR (R81). -/
def convert (x : Num) (f : Fmt) (mode : RMode) (ftz : Bool) (r : Nat) : Conv :=
  match x with
  | .nan => { bits := if f.hasNan then f.canonNan else 0, nan := true }
  | .inf s => if f.hasInf then { bits := f.infBits s } else { bits := f.maxBits s, sat := true }
  | .zero s => { bits := f.zeroBits s }
  | .fin s m e =>
    let u := f.unit (ilog2 m e)
    let q := roundUnits mode r s m e u
    if magLt (f.maxFin s).1 (f.maxFin s).2 q u then { bits := f.maxBits s, sat := true }
    else if ftz ∧ ¬f.isInt ∧ magLt q u 1 (1 - f.bias) then { bits := f.zeroBits s }
    else if q = 0 then { bits := f.zeroBits s }
    else { bits := f.encode s q u }

/-- IEEE 754 rounding of a value to a Spool format: overflow goes to infinity or to the largest finite value as the
direction requires (R84). -/
def ieeeRound (x : Num) (f : Fmt) (mode : RMode) : Nat :=
  match x with
  | .nan => f.canonNan
  | .inf s => f.infBits s
  | .zero s => f.zeroBits s
  | .fin s m e =>
    let u := f.unit (ilog2 m e)
    let q := roundUnits mode 0 s m e u
    if magLt (f.maxFin s).1 (f.maxFin s).2 q u then
      match mode, s with
      | .rtz, _ => f.maxBits s
      | .rdn, false => f.maxBits s
      | .rup, true => f.maxBits s
      | _, _ => f.infBits s
    else if q = 0 then f.zeroBits s
    else f.encode s q u

/-- ±m as a signed integer. -/
def signedOf (neg : Bool) (m : Nat) : Int := if neg then -(m : Int) else m

/-- The exact sum. An exact zero of operands of opposite sign is +0, −0 under round-down (IEEE 754, R84). -/
def Num.add (rdn : Bool) : Num → Num → Num
  | .nan, _ => .nan
  | _, .nan => .nan
  | .inf a, .inf b => if a = b then .inf a else .nan
  | .inf a, _ => .inf a
  | _, .inf b => .inf b
  | .zero a, .zero b => .zero (if a = b then a else rdn)
  | .zero _, y => y
  | x, .zero _ => x
  | .fin a m e, .fin b n f =>
    let g := min e f
    let v := signedOf a (m <<< (e - g).toNat) + signedOf b (n <<< (f - g).toNat)
    if v = 0 then .zero rdn else .fin (decide (v < 0)) v.natAbs g

/-- The value with its sign inverted. -/
def Num.negate : Num → Num
  | .nan => .nan
  | .inf a => .inf (!a)
  | .zero a => .zero (!a)
  | .fin a m e => .fin (!a) m e

/-- The exact product (R76 for zero times infinity). -/
def Num.mul : Num → Num → Num
  | .nan, _ => .nan
  | _, .nan => .nan
  | .inf _, .zero _ => .nan
  | .zero _, .inf _ => .nan
  | .inf a, y => .inf (xor a y.neg?)
  | x, .inf b => .inf (xor x.neg? b)
  | .zero a, y => .zero (xor a y.neg?)
  | x, .zero b => .zero (xor x.neg? b)
  | .fin a m e, .fin b n f => .fin (xor a b) (m * n) (e + f)

/-- The value times 2^k. -/
def Num.scale (k : Int) : Num → Num
  | .fin a m e => .fin a m (e + k)
  | x => x

/-- The magnitude. -/
def Num.abs : Num → Num
  | .nan => .nan
  | .inf _ => .inf false
  | .zero _ => .zero false
  | .fin _ m e => .fin false m e

/-- The order of two values, none when either is NaN; the two zeros are equal (IEEE 754). -/
def Num.cmp : Num → Num → Option Ordering
  | .nan, _ => none
  | _, .nan => none
  | x, y =>
    match Num.add false x (Num.negate y) with
    | .nan => some .eq
    | .zero _ => some .eq
    | .inf s => some (if s then .lt else .gt)
    | .fin s _ _ => some (if s then .lt else .gt)

/-- ⌊√x⌋, deciding bit k − 1 first; `acc` holds the bits decided. -/
def isqrtBits (x : Nat) : Nat → Nat → Nat
  | 0, acc => acc
  | k + 1, acc => isqrtBits x k (if (acc + 2 ^ k) * (acc + 2 ^ k) ≤ x then acc + 2 ^ k else acc)

/-- The square root to about 65 bits with a sticky last bit: enough for one correct rounding to 53 bits. -/
def Num.sqrt : Num → Num
  | .nan => .nan
  | .zero s => .zero s
  | .inf s => if s then .nan else .inf false
  | .fin true _ _ => .nan
  | .fin false m e =>
    let sh := 130 - Nat.log2 m
    let e1 := e - sh
    let (x, e2) := if e1 % 2 = 0 then (m <<< sh, e1) else (m <<< (sh + 1), e1 - 1)
    let q := isqrtBits x (Nat.log2 x / 2 + 1) 0
    .fin false (2 * q + b2n (q * q != x)) (e2 / 2 - 1)

/-- Philox-4×32 with 10 rounds, from the round, the counter and the key (R81). -/
def philoxRounds : Nat → Nat × Nat × Nat × Nat → Nat × Nat → Nat × Nat × Nat × Nat
  | 0, c, _ => c
  | n + 1, (c0, c1, c2, c3), (k0, k1) =>
    let p0 := 0xD2511F53 * c0
    let p1 := 0xCD9E8D57 * c2
    let c' := ((p1 / 2 ^ 32) ^^^ c1 ^^^ k0, p1 % 2 ^ 32, (p0 / 2 ^ 32) ^^^ c3 ^^^ k1, p0 % 2 ^ 32)
    philoxRounds n c' ((k0 + 0x9E3779B9) % 2 ^ 32, (k1 + 0xBB67AE85) % 2 ^ 32)

/-- The four output words of Philox-4×32-10. -/
def philox (c : Nat × Nat × Nat × Nat) (k : Nat × Nat) : Nat × Nat × Nat × Nat := philoxRounds 10 c k

/-- Output word `j` of four. -/
def pick4 (w : Nat × Nat × Nat × Nat) (j : Nat) : Nat :=
  match j with
  | 0 => w.1 | 1 => w.2.1 | 2 => w.2.2.1 | _ => w.2.2.2

/-- The 16-bit random value of stochastic rounding for output element `i` under `seed` (R81). -/
def srRandom (seed i : Nat) : Nat :=
  let q := i / 8
  let j := i % 8
  let w := philox (q % 2 ^ 32, q / 2 ^ 32 % 2 ^ 32, 0, 0) (seed % 2 ^ 32, seed / 2 ^ 32 % 2 ^ 32)
  bitsAt (pick4 w (j / 2)) (16 * (j % 2)) 16

/-- The value of an element under its E8M0 scale byte (R61, R62). -/
def scaled (x : Num) (sc : Nat) : Num := if sc = 255 then .nan else x.scale ((sc : Int) - 127)

/-- e_max of R67. -/
def Fmt.emax (f : Fmt) : Int :=
  match f.elem with
  | .fp4 | .fp6e2m3 => 2
  | .fp6e3m2 => 4
  | .fp8e4m3 => 8
  | .fp8e5m2 => 15
  | _ => 0

/-- The larger of two magnitudes among finite values; specials are left out (R66, R68). -/
def maxFinite (a : Option (Nat × Int)) (x : Num) : Option (Nat × Int) :=
  match x with
  | .fin _ m e => match a with
    | none => some (m, e)
    | some (n, f) => if magLt n f m e then some (m, e) else a
  | _ => a

/-- The scale exponent X of a block and whether it was held at 127 (R67, R68). -/
def mxScale (f : Fmt) (ceil : Bool) (xs : List Num) : Int × Bool :=
  match xs.foldl maxFinite none with
  | none => (-127, false)
  | some (m, e) =>
    let x0 := ilog2 m e - f.emax
    let (mm, me) := f.maxFin false
    -- the smallest X with A ≤ max_elem × 2^X is the floor rule's X or one above it
    let x := if ceil ∧ magLt mm (me + x0) m e then x0 + 1 else x0
    if x < -127 then (-127, false) else if x > 127 then (127, true) else (x, false)

/-- One MX element of a block under the scale exponent `x` (R66, R69, R70): bits, SAT, NAN. -/
def mxElem (f : Fmt) (x : Int) (mode : RMode) (ftz : Bool) (r : Nat) (v : Num) : Conv :=
  match v with
  | .nan => { bits := if f.hasNan then f.canonNan else 0, nan := true }
  | .inf s => if f.elem = .fp8e5m2 then { bits := f.infBits s } else { bits := f.maxBits s, sat := true }
  | _ => { convert (v.scale (-x)) f mode ftz r with sat := false }

/-- An MX output block: the element bits, the scale byte and the two flags (R66 to R71). The values given are already
FP32 values (R66's first step). `rs` gives each element's SR value. -/
def mxBlock (f : Fmt) (ceil : Bool) (mode : RMode) (ftz : Bool) (xs : List (Num × Nat)) : List Nat × Nat × Bool × Bool :=
  let (x, held) := mxScale f ceil (xs.map (·.1))
  let es := xs.map (fun (v, r) => mxElem f x mode ftz r v)
  let anyNan := es.any (·.nan)
  let sc := if anyNan ∧ ¬f.hasNan then 255 else (x + 127).toNat
  (es.map (·.bits), sc, held || es.any (·.sat), anyNan)

/-- FP32 nearest-even of a value, decoded again; the SAT output of R83 beside it. -/
def toFp32 (x : Num) : Num × Bool :=
  let c := convert x .fp32 .rne false 0
  (Fmt.decode .fp32 c.bits, c.sat)

end Sys2Proof.Machine
end

