-- ==== Sys2Proof/Machine/StBoot.lean ====
section
/-!
DEFINITION. Machine/StBoot.lean: the state of start-up, images, pattern packs and configuration generations (chapter 16, R603),
the card's flash (R667), and power, telemetry and the I3C target (chapter 19).
-/
namespace Sys2Proof.Machine

/-- A pattern-pack slot of the card's flash: the announced length and the bytes of the last pack written there. -/
structure PackSlot where
  len : Nat
  bytes : SMap Byte
deriving DecidableEq, Repr

/-- The card's flash (R667). It is no part of the module: no reset and no loss of power changes it. The identity record, which the
module only reads, is a constant of Config. -/
structure Flash where
  /-- the firmware image slot; none: as the card came (Config.shippedImage) -/
  image : Option (List Byte) := none
  /-- the pattern-pack slots 0 and 1; none: as the card came (Config.shippedPack) -/
  pack0 : Option PackSlot := none
  pack1 : Option PackSlot := none
deriving DecidableEq, Repr

/-- An image or a pack that arrives in BLOCK packets (R656, R664, R670). -/
structure Upload where
  /-- the length announced by BEGIN -/
  len : Nat
  /-- received bytes; an unlisted byte was never received -/
  got : SMap (Option Byte) := []
  /-- a BLOCK reached beyond the announced length -/
  beyond : Bool := false
deriving DecidableEq, Repr

/-- Start-up, images and packs. SEC_STATUS.STAGE is the boot stage. -/
structure BootSt where
  /-- the boot ROM stopped: the Miller SRAM failed its test (R665) -/
  dead : Bool := false
  /-- an image or a pack is being received -/
  image : Option Upload := none
  pack : Option Upload := none
  /-- the image that runs; empty until the firmware starts -/
  running : List Byte := []
  /-- the boot ROM rejected the flash image in this start-up: posted at step 4 -/
  rejected : Bool := false
  /-- the identity key's seed has been derived and accepted (R679) -/
  seed : Option Nat := none
  /-- the pattern pack in use, by slot, and the one that becomes active at the next boundary (R604) -/
  packActive : Option Nat := none
  packDue : Option Nat := none
  /-- steps 5a and 5b of start-up: built-in test done, stacks trained (mask) -/
  tested : Bool := false
  trained : Nat := 0
  /-- BOOT_STATUS 0x06 has been sent -/
  ready : Bool := false
deriving DecidableEq, Repr

/-- A configuration blob (R671). -/
structure Blob where
  gen : Nat
  health : Nat
  recs : List (Nat × Word)
  /-- DIGEST: the configuration measurement -/
  meas : Nat
deriving DecidableEq, Repr

/-- The configuration store (R675) and what stages and tries generations. The generation numbers and the trial's counts are fields of
SEC_CFG_GEN and SEC_CFG_STAT. -/
structure CfgSt where
  /-- the current blob: none for generation 0, or when it is lost -/
  current : Option Blob := none
  previous : Option Blob := none
  undo : List (Nat × Word) := []
  staged : Option Blob := none
  /-- the current blob was lost to a store mismatch: the next commit has no previous generation -/
  lost : Bool := false
  /-- fatal records posted and ports running at B0 (R676) -/
  fatalsAt : Nat := 0
  portsAt : Nat := 0
  /-- the failed HEALTH bit of the return staged by a trial; none: CFG_RETURN staged it -/
  failed : Option Nat := none
  /-- set-up registers written at the boundary in progress, for STAGE_LOST (R714) -/
  applied : List Nat := []
deriving DecidableEq, Repr

/-- What the sensors read at the end of a Turn (R734): mean module power in W, the highest junction sensor and its number, the highest
DRAM temperature, coolant inlet and outlet in °C. -/
structure Telemetry where
  power : Nat
  tj : Nat
  sensor : Nat
  td : Nat
  tIn : Nat
  tOut : Nat
deriving DecidableEq, Repr

/-- Power, temperature and the I3C target (R733 to R740). -/
structure PwrSt where
  /-- the last 16 Turns, newest first: (mean power in W, withheld) -/
  window : List (Nat × Bool) := []
  lp : Nat := 0
  lt : Nat := 0
  calm : Nat := 0
  /-- the telemetry of the last Turn: I3C_POWER and I3C_TEMP -/
  pTurn : Nat := 0
  pOpen : Nat := 0
  tj : Nat := 0
  td : Nat := 0
  tIn : Nat := 0
  tOut : Nat := 0
  /-- I3C_LIMIT -/
  limit : Nat := 0x07D0
  floor : Nat := 0
  /-- Turns for which the conditions of R739 have been absent, at most 64: power limiting, thermal limiting, hot, inlet -/
  absentPower : Nat := 64
  absentThermal : Nat := 64
  absentHot : Nat := 64
  absentInlet : Nat := 64
  /-- I3C_STATUS.TRIP_CAUSE: 0 none; the trip itself is a latch of the board's state -/
  cause : Nat := 0
  /-- the dynamic address taken by ENTDAA -/
  addr : Option Nat := none
deriving DecidableEq, Repr

end Sys2Proof.Machine
end

