-- ==== Sys2Proof/Machine/StMem.lean ====
section
/-!
DEFINITION. Machine/StMem.lean: the state of the memories: HBM with its poison lists, the Granary's lines, the scratchpad and
the Hopper with their poison marks, the channel lists, the translation caches and the open fault records
(chapters 08, 09 and 10).
-/
namespace Sys2Proof.Machine

/-- A byte read from or written to a memory, with its poison mark. -/
structure MByte where
  b : Byte
  p : Bool := false
deriving DecidableEq, Repr

/-- The states of a way (R326); an Invalid way is a line that is not listed. -/
inductive LineSt | fill | clean | dirty | tomb
deriving DecidableEq, Repr

/-- The operations of the reduction unit (R341). -/
inductive RedKind | add | min | max | and | or | xor | exch | cas
deriving DecidableEq, Repr

/-- The types of the reduction unit (R341): the signed and unsigned integers share add, and, or, xor and exchange. -/
inductive RedType | i32 | u32 | i64 | u64 | f32 | bf16
deriving DecidableEq, Repr

/-- One element of a reduction request: byte offset in the line, operation, type, operand, compare value, whether the old
value is returned, and the sequence number in an ordered page (R342, R345). -/
structure RedElem where
  off : Nat
  op : RedKind
  ty : RedType
  val : Nat
  cmp : Nat := 0
  ret : Bool := false
  /-- the page is ordered (ORD of R389) -/
  ordered : Bool := false
  /-- the sequence number, none when the source supplies none (counted unkeyed, R345) -/
  seq : Option Nat := none
  /-- the operand carried poison -/
  poison : Bool := false
deriving DecidableEq, Repr

/-- An add held in the ordered buffer (R345). -/
structure HeldAdd where
  off : Nat
  ty : RedType
  seq : Nat
  val : Nat
  /-- its arrival number at the module's slices -/
  arr : Nat
  poison : Bool
deriving DecidableEq, Repr

/-- What a request asks of a slice. -/
inductive SliceOp
  /-- read of bytes [lo, lo+len) of the line -/
  | read (lo len : Nat)
  /-- masked write: (offset in the line, byte) pairs -/
  | write (bytes : List (Nat × MByte))
  /-- reduction of elements, in lane or element order -/
  | reduce (elems : List RedElem)
deriving DecidableEq, Repr

/-- A request at a slice (R319, R320). -/
structure SliceReq where
  /-- the requester's own number for the request -/
  id : Nat
  /-- the partition of the requester; none for work without a partition (R691) -/
  part : Option Nat
  op : SliceOp
  /-- an engine's own access: it is answered inside the module and tried again by the engine (R471) -/
  own : Bool := false
  /-- the hint of R327: 0 normal, 1 keep, 2 evict-first, 3 acts as normal -/
  hint : Nat := 0
deriving DecidableEq, Repr

/-- One way of a slice that holds a line (R326). `mask` and `data` are the bytes written and not yet in HBM. -/
structure Line where
  st : LineSt
  mask : Nat := 0
  data : Nat := 0
  keep : Bool := false
  age : Nat := 0
  /-- poison bit of each 64-byte half (R332) -/
  poison : Nat := 0
  /-- 0 demand, 1 granule prefetcher, 2 software prefetch: not yet counted under R335 -/
  pf : Nat := 0
  held : List HeldAdd := []
  /-- requests that wait for the line's data, in arrival order; pinned reductions are among them (R343) -/
  waits : List SliceReq := []
  /-- a dead reached the way while it was in Fill (R340) -/
  deadFill : Bool := false
deriving DecidableEq, Repr

/-- A write-back in progress (R331, R344). -/
structure WriteBack where
  mask : Nat
  data : Nat
  poison : Nat
  /-- reductions forwarded to the base die's read-modify-write path, in arrival order -/
  fwd : List SliceReq := []
  /-- reads and writes that wait for the write-back -/
  waits : List SliceReq := []
  /-- a dead reached the line after its write-back began: a Tombstone is left (R340) -/
  deadAfter : Bool := false
deriving DecidableEq, Repr

/-- A refetch of a shared-weight line (R471 to R473). -/
structure Refetch where
  key : Nat
  region : Nat
  /-- the Miller has begun to read the source -/
  started : Bool
  failures : Nat
  /-- when the attempt under way began (R473) -/
  startedAt : Nat := 0
  /-- the accesses held at the slice -/
  held : List SliceReq
deriving DecidableEq, Repr

/-- Where a leaf points (TGT of R389). -/
inductive Tgt | region | common | companion
deriving DecidableEq, Repr

/-- A cached page-table entry of a walk that succeeded: a pointer or a leaf, with the virtual bits that index it (R395). -/
structure TlbEntry where
  part : Nat
  level : Nat
  /-- the virtual address divided by what one entry of the level maps -/
  pre : Nat
  word : Nat
deriving DecidableEq, Repr

/-- The kinds of access of a fault record (R400). -/
inductive Acc | read | write | atomic | dead | fetch
deriving DecidableEq, Repr

/-- The range operations that reach a slice. -/
inductive RangeOp | prefetch | flush | inval | dead
deriving DecidableEq, Repr

/-- What the array returns for one half beside its stored codeword: the symbols in error, and the pins a probe finds stuck
(R367). `chan` is the channel within its stack. -/
structure HalfErr where
  chan : Nat := 0
  half : Nat
  errs : List (Nat × Nat)
  stuck : List Nat := []
deriving DecidableEq, Repr

/-- Who waits on a fault record. -/
inductive Waiter
  /-- an item of an engine queue, by its number -/
  | item (id : Nat)
  /-- a request of a skein: Spool, slot, request number -/
  | skein (spool slot req : Nat)
  /-- a unit of the management plane or a collective, by a number -/
  | unit (n : Nat)
deriving DecidableEq, Repr

/-- A fault record (R400) while it is open (R402). -/
structure FaultRec where
  /-- the model's own number of the record: ID is known only when it is posted -/
  key : Nat
  id : Nat
  part : Nat
  cause : Nat
  engine : Nat
  unit : Nat
  access : Nat
  level : Nat
  va : Nat
  tag : Nat
  ring : Nat
  turn : Nat
  position : Nat
  slot : Nat
  lanes : Nat
  time : Nat
  entry : Nat
  /-- written to the ring; false while it waits for a slot (R404) -/
  posted : Bool
  /-- boundaries since it was posted (R405) -/
  bounds : Nat
  /-- the faults it answers: its own first, then the attached ones (R402) -/
  waiters : List Waiter
deriving DecidableEq, Repr

/-- The memories and what reaches them. -/
structure MemSt where
  /-- HBM: key channel × 2^31 + channel byte offset; an unlisted byte is 0 (R380 step 5, log entry 5) -/
  hbm : SMap Byte
  /-- the poison lists: key channel × 2^25 + half index (R369) -/
  dramPoison : SMap Bool
  /-- the Granary's lines: key slice × 2^24 + line index -/
  lines : SMap (Option Line)
  /-- write-backs in progress, under the same key -/
  wbs : SMap (Option WriteBack)
  /-- held adds that have arrived so far -/
  arrivals : Nat
  /-- per slice and line of a granule, the demand misses the granule prefetcher has seen: key granule, 8-bit mask (R334) -/
  missMask : SMap Nat
  /-- requests that wait at a slice's input for a way or a pin: (slice, line, request) in arrival order (R328, R343) -/
  sliceWaits : List (Nat × Nat × SliceReq)
  refetches : List Refetch
  /-- lines whose refetch failed three times: they stay poisoned (R473) -/
  refetchDead : List Nat
  /-- retrainings in progress: channels that accept no command (R382) -/
  retraining : List Nat
  /-- channels that failed in this step and whose fencing is not yet carried out (R376): empty between steps -/
  fenceDue : List Nat
  /-- °C of each channel's core dies, and at its last training (R374, R382) -/
  temps : SMap Nat
  trainedAt : SMap Nat
  /-- scratchpad: key bank × 393,216 + byte in bank (R307) -/
  spad : SMap Byte
  /-- poisoned 8-byte granules of the scratchpad (R354) -/
  spadPoison : SMap Bool
  /-- Hopper: key bank × 262,144 + byte in bank (R312) -/
  hop : SMap Byte
  hopPoison : SMap Bool
  /-- the channel list L_p of each partition (R322) -/
  chanLists : List (List Nat)
  /-- the channel lists the common region's view was built from (R378) -/
  commonLists : List (List Nat)
  /-- GRN_COMMON.GRANULES in force (R321) -/
  commonGranules : Nat
  /-- the root and save-area registers in force (R13, R711): per partition -/
  rootInForce : List Nat
  csaInForce : List Nat
  tlb : List TlbEntry
  nextFault : Nat
  faults : List FaultRec
  /-- the digest accumulator D (R594) -/
  digest : Nat
  /-- per partition, the numbers of posted records answered but not yet freed in order (R404) -/
  answered : List (List Nat)
deriving DecidableEq, Repr

/-- The memories when the module has no power: nothing is held. -/
def MemSt.reset : MemSt :=
  { hbm := [], dramPoison := [], lines := [], wbs := [], arrivals := 0, missMask := [], sliceWaits := [], refetches := [], refetchDead := [],
    retraining := [], fenceDue := [], temps := [], trainedAt := [], spad := [], spadPoison := [], hop := [], hopPoison := [],
    chanLists := [[], [], [], []], commonLists := [[], [], [], []], commonGranules := 0,
    rootInForce := [0, 0, 0, 0], csaInForce := [0, 0, 0, 0], tlb := [], nextFault := 0, faults := [], digest := 0, answered := [[], [], [], []] }

end Sys2Proof.Machine
end

