-- ==== Sys2Proof/Machine/StCol.lean ====
section
/-!
DEFINITION. Machine/StCol.lean: the state of the collective engines: group entries in force, running items, carry records
(chapter 13), and digest passes (R597).
-/
namespace Sys2Proof.Machine

/-- A running collective item on this module. -/
structure ColRun where
  item : Nat
  /-- the group indices it names, in order -/
  groups : List Nat
  /-- the place in `groups` of the group it works on (NORM2) -/
  stage : Nat := 0
  /-- it passes through without a contribution (R560) -/
  late : Bool := false
  /-- the reference of a carried contribution (R561) -/
  carry : Option Nat := none
  discarded : Bool := false
  /-- packets that each group's NEXT has granted: the last index plus one -/
  granted : List Nat := [0, 0, 0]
  /-- packets granted to each group's PREV -/
  gave : List Nat := [0, 0, 0]
  /-- packets of the NEXT stream sent -/
  sent : Nat := 0
  /-- packets of the PREV stream handled -/
  got : Nat := 0
  /-- indices of delivered or gathered packets handled -/
  delivered : List Nat := []
  /-- elements written at OUT; KV_PASS: blocks received -/
  written : Nat := 0
  /-- KV_PASS: the accepted release count -/
  release : Nat := 0
  /-- NORM2: the vector the current group starts from, FP32 bits -/
  vec : List Nat := []
  /-- squares of this rank's contributions and of its chunk of the result, by element (R567) -/
  localSq : SMap Nat := []
  ownSq : SMap Nat := []
  /-- a packet arrived in this Turn; whole Turns without one (R554) -/
  heard : Bool := false
  quiet : Nat := 0
deriving DecidableEq, Repr

/-- A late contribution held for the next item of the group (R561). -/
structure Carry where
  group : Nat
  src : Nat
  count : Nat
  fmt : Nat
deriving DecidableEq, Repr

/-- A digest pass on a group entry (R597, R598). -/
structure DigPass where
  group : Nat
  /-- rank ↦ digest -/
  table : SMap (Option Nat) := []
  /-- this module's own digest is in the table: the pass has begun here -/
  begun : Bool := false
  /-- Turns since the pass began -/
  turns : Nat := 0
deriving DecidableEq, Repr

/-- The collective engines beside their registers. -/
structure ColSt where
  /-- A and B words of the group entries in force; unlisted: 0 -/
  grpA : SMap Nat := []
  grpB : SMap Nat := []
  runs : List ColRun := []
  carries : List Carry := []
  /-- items whose gate has been met -/
  gatesMet : List Nat := []
  passes : List DigPass := []
deriving DecidableEq, Repr

end Sys2Proof.Machine
end

