-- ==== Sys2Proof/Machine/StCtl.lean ====
section
/-!
DEFINITION. Machine/StCtl.lean: the state of the control plane: the Turn generator (chapter 01), rings, admitted items and
partitions (chapter 11).
-/
namespace Sys2Proof.Machine

/-- A descriptor: eight words (R441). -/
structure Desc where
  w0 : Word
  w1 : Word
  w2 : Word
  w3 : Word
  w4 : Word
  w5 : Word
  w6 : Word
  w7 : Word
deriving DecidableEq, Repr

/-- Word `k` of a descriptor as a number. -/
def Desc.word (d : Desc) (k : Nat) : Nat :=
  match k with
  | 0 => d.w0.toNat | 1 => d.w1.toNat | 2 => d.w2.toNat | 3 => d.w3.toNat
  | 4 => d.w4.toNat | 5 => d.w5.toNat | 6 => d.w6.toNat | _ => d.w7.toNat

/-- Bits [lo + w - 1 : lo] of word `k`. -/
def Desc.fld (d : Desc) (k lo w : Nat) : Nat := bitsAt (d.word k) lo w

/-- The operation code (R441). -/
def Desc.opcode (d : Desc) : Nat := d.fld 0 0 8
/-- TURN_BOUND, word 0 bit 8 (R119, R407). -/
def Desc.turnBound (d : Desc) : Bool := d.fld 0 8 1 = 1
/-- WAIT, word 0 bit 9 (R108). -/
def Desc.wait (d : Desc) : Bool := d.fld 0 9 1 = 1
/-- The TAG echoed in the completion record (R441). -/
def Desc.tag (d : Desc) : Nat := d.fld 0 16 16

/-- The words of a descriptor as bytes, for the context-save area (R428). -/
def Desc.bytes (d : Desc) : List Byte :=
  (List.range 8).flatMap (fun k => leBytes 8 (d.word k))

/-- The descriptor that 8 words spell. -/
def Desc.ofWords (f : Nat → Nat) : Desc :=
  { w0 := BitVec.ofNat 64 (f 0), w1 := BitVec.ofNat 64 (f 1), w2 := BitVec.ofNat 64 (f 2), w3 := BitVec.ofNat 64 (f 3),
    w4 := BitVec.ofNat 64 (f 4), w5 := BitVec.ofNat 64 (f 5), w6 := BitVec.ofNat 64 (f 6), w7 := BitVec.ofNat 64 (f 7) }

/-- Where an admitted item is (R38, R447 to R449, R421). -/
inductive Place
  /-- in the deferred pool -/
  | pool
  /-- waiting in its engine queue, or being built -/
  | queued
  /-- its engine works on it -/
  | running
  /-- pre-empted: its drain and save are under way -/
  | draining
  /-- in the context-save area -/
  | saved
deriving DecidableEq, Repr

/-- Why an item is saved (R421's table of causes). -/
inductive SaveCause | none | overrun | preempt | partition
deriving DecidableEq, Repr

/-- Where a Stones operation posted by a matrix-issue instruction came from (R250): launch, Spool, skein slot and ticket. -/
structure Posted where
  launch : Nat
  spool : Nat
  slot : Nat
  ticket : Nat
deriving DecidableEq, Repr

/-- An admitted descriptor until its final record is written. -/
structure Item where
  id : Nat
  part : Nat
  ring : Nat
  /-- its count q in the ring (R432) -/
  seq : Nat
  desc : Desc
  place : Place
  /-- it came from a deferred ring (R448) -/
  deferred : Bool := false
  /-- boundaries counted under R39 -/
  overruns : Nat := 0
  /-- held by PREEMPT with HOLD (R421) -/
  held : Bool := false
  cause : SaveCause := .none
  /-- engine instance: sub-array, Sluice number -/
  unit : Nat := 0
  /-- progress: vectors, elements, bundles, bytes, rows as R452 names -/
  prog : Nat := 0
  /-- of these, the vectors whose outputs were cut at the end of their space: PROGRESS leaves them out (R9, R452, log entry 15) -/
  short : Nat := 0
  /-- resume position (R403, R428) -/
  pos : Nat × Nat × Nat := (0, 0, 0)
  /-- engine-specific values of the save area's STATE words (R428) -/
  aux : List Nat := []
  /-- partial results the engine holds, as bits -/
  vals : List Nat := []
  /-- a COPY's source bytes as they were before a later operation of its queue overwrote them: (address, value, 256 added for a poisoned
  one) (R111, log entry 93) -/
  kept : List (Nat × Nat) := []
  /-- a deferred item: the items of its engine that were saved when it entered its queue, against which it is not ordered (R451) -/
  apart : List Nat := []
  sat : Bool := false
  nan : Bool := false
  clamped : Bool := false
  poison : Bool := false
  /-- address kind and address of the first poisoned value read (R573) -/
  poisonAt : Option (Nat × Nat) := none
  /-- the code of a cause that ended it early (R456, rule 1) -/
  early : Option Nat := none
  /-- DETAIL of the completion record -/
  detail : Nat := 0
  /-- the open fault record it waits on -/
  fault : Option Nat := none
  posted : Option Posted := none
  /-- Stones: the words of the extension block and of the PACKED table, read when the descriptor was checked (R122 to R124) -/
  ext : List Nat := []
deriving DecidableEq, Repr

/-- A fetched and checked descriptor that is not yet admitted (R440). -/
structure Fetched where
  seq : Nat
  desc : Desc
  /-- none: it passed; else the status it completes with at admission (R442, R443) -/
  bad : Option Nat
  /-- the words read with it: extension block and PACKED table -/
  ext : List Nat := []
deriving DecidableEq, Repr

/-- One ring (R431, R433, R453, R454). HEAD, STOPPED, ACTIVE, STOP_STATUS and BAD_DB are fields of QUE_RSTATn. -/
structure Ring where
  tail : Nat := 0
  /-- fetched and not admitted, in count order -/
  fetched : List Fetched := []
  /-- completion records written, modulo 2^32 -/
  prod : Nat := 0
  /-- the accepted consumer count -/
  cons : Nat := 0
  /-- held by PREEMPT with HOLD (R421) -/
  held : Bool := false
  /-- the head changed at this boundary (R435) -/
  headMoved : Bool := false
  /-- the doorbell line's last read was bad: repeated reads count nothing (R438) -/
  badDb : Bool := false
  badCons : Bool := false
  /-- enabled at this boundary: its admission begins at the next (R466) -/
  joining : Bool := false
deriving DecidableEq, Repr

/-- A partition reset under way (R464). -/
structure ResetRun where
  part : Nat
  /-- it was part of a reset of every partition together (R378) -/
  together : Bool
  /-- the channel lists have been rebuilt by the first partition of that reset -/
  built : Bool := false
deriving DecidableEq, Repr

/-- The control plane's state beside its registers. -/
structure CtlSt where
  rings : SMap Ring := []
  items : List Item := []
  nextId : Nat := 0
  /-- (partition, PRIO level) ↦ the ring that went first at the level's last turn, plus one; 0 none (R445) -/
  prioStart : SMap Nat := []
  /-- 1 after the first boundary of a layout change (R34, R462) -/
  changing : Bool := false
  /-- partition-reset requests for the next boundary (R463) -/
  resetReq : Nat := 0
  resets : List ResetRun := []
  /-- announced periods: (Turn number, period) (R22, R24) -/
  announced : List (Nat × Nat) := []
  /-- the period the master announced at its last boundary (R23) -/
  masterNext : Nat := 1000000
  /-- the number the next boundary is due to carry (R29) -/
  due : Option Nat := none
  /-- phase error not yet removed, in ns (R28) -/
  phaseLeft : Int := 0
  /-- when the Turn in progress ends, in ns -/
  boundaryAt : Nat := 1000000
  /-- expected boundaries since the last symbol on the UPSTREAM port (R30) -/
  sinceSymbol : Nat := 0
  /-- THERM_LEVEL: the floor F_setup as written (R43) -/
  floorSetup : Nat := 0
  /-- the firmware's level staged for the next boundary (R734) -/
  levelStaged : Nat := 0
deriving DecidableEq, Repr

end Sys2Proof.Machine
end

