-- ==== Sys2Proof/Machine/StErr.lean ====
section
/-!
DEFINITION. Machine/StErr.lean: error records and the error block's intake, logs and error ring (R572 to R580, R716), and
the counters of the performance monitor that lie outside its registers (chapter 17).
-/
namespace Sys2Proof.Machine

/-- An error record (R574). CHECK is the complement of word 0 and is formed when the record is written out. -/
structure ErrRec where
  cls : Nat
  source : Nat
  event : Nat
  inst : Nat := 0
  parts : Nat := 0
  scan : Bool := false
  count : Nat := 1
  turn : Nat := 0
  seq : Nat := 0
  time : Nat := 0
  addr : Nat := 0
  akind : Nat := 0
  detail0 : Nat := 0
  detail1 : Nat := 0
  job : Nat := 0
  tag : Nat := 0
  ring : Nat := 0
deriving DecidableEq, Repr

/-- Word 0 of a record outside COUNT. -/
def ErrRec.word0base (r : ErrRec) : Nat :=
  r.cls % 8 + (r.source % 256) * 2 ^ 8 + (r.event % 256) * 2 ^ 16 + (r.inst % 256) * 2 ^ 24 + (r.parts % 16) * 2 ^ 32
    + b2n r.scan * 2 ^ 36

/-- Word 3 of a record. -/
def ErrRec.word3 (r : ErrRec) : Nat := r.addr % 2 ^ 52 + (r.akind % 16) * 2 ^ 52

/-- The eight words of a record (R574). -/
def ErrRec.word (r : ErrRec) (k : Nat) : Nat :=
  let w0 := r.word0base + (r.count % 2 ^ 16) * 2 ^ 48
  match k with
  | 0 => w0
  | 1 => r.turn % 2 ^ 32 + (r.seq % 2 ^ 32) * 2 ^ 32
  | 2 => r.time % 2 ^ 64
  | 3 => r.word3
  | 4 => r.detail0 % 2 ^ 64
  | 5 => r.detail1 % 2 ^ 64
  | 6 => r.job % 2 ^ 16 + (r.tag % 2 ^ 16) * 2 ^ 16 + (r.ring % 64) * 2 ^ 32
  | _ => 2 ^ 64 - 1 - w0

/-- The 64 bytes of a record. -/
def ErrRec.bytes (r : ErrRec) : List Byte := (List.range 8).flatMap (fun k => leBytes 8 (r.word k))

/-- The error block beside its registers. -/
structure ErrSt where
  /-- the intake queue, oldest first (R576) -/
  intake : List ErrRec := []
  /-- SEQ of the next accepted record -/
  nextSeq : Nat := 0
  /-- the correctable log, oldest first (R578) -/
  clog : List ErrRec := []
  /-- the fatal log, oldest first (R579) -/
  flog : List ErrRec := []
  /-- the read buffer of ERR_LOG_WORD0; none while it is empty (R716) -/
  readBuf : Option (List Nat) := none
  /-- logged records the Miller has still to copy to the error ring (R580) -/
  toCopy : List ErrRec := []
  ringProd : Nat := 0
  ringCons : Nat := 0
  /-- fatal-partition and fatal-device records posted since power-on: E of R589 -/
  fatals : Nat := 0
deriving DecidableEq, Repr

/-- A sampled instruction whose record is not yet written (R701, R703). -/
structure Sample where
  part : Nat
  spool : Nat
  slot : Nat
  pc : Nat
  event : Nat
  daddr : Nat
  sp : Bool
  /-- it has no address and writes no register -/
  noReg : Bool
  lane : Nat
  tag : Nat
  ring : Nat
deriving DecidableEq, Repr

/-- The performance monitor beside its registers (chapter 17). -/
structure PmuSt where
  /-- counters with INT_EN that overflowed in the Turn in progress (R695) -/
  overflowed : Nat := 0
  /-- partitions whose sampling buffer filled in the Turn in progress -/
  bufferFull : Nat := 0
  /-- per Spool, the countdown of precise sampling; unlisted: not loaded (R701) -/
  countdown : SMap Nat := []
  samples : List Sample := []
  /-- bytes of the bandwidth window in progress: port n in at 2n, out at 2n + 1 (R698) -/
  bw : SMap Nat := []
  /-- a window that has ended and is not yet shown: its counts and its length in ns (R699) -/
  bwDone : Option (SMap Nat × Nat) := none
  /-- boundaries passed in the window, and the timestamp at which it began (R699) -/
  bwTurns : Nat := 0
  bwStart : Nat := 0
  /-- a write of TURNS ends the window at the next boundary -/
  bwRestart : Bool := false
  /-- partitions whose user counter area is still to be written since the boundary (R697) -/
  userDue : Nat := 0
deriving DecidableEq, Repr

end Sys2Proof.Machine
end

