-- ==== Sys2Proof/Machine/StFab.lean ====
section
/-!
DEFINITION. Machine/StFab.lean: the state of the fabric ports and of the Companion Link: flit sequences, replay, credits,
lanes, windows, message operations, mailboxes, job stops (chapter 12); the Companion cache and the module's outstanding
requests (chapter 16).
-/
namespace Sys2Proof.Machine

/-- The link layer of one port (R492 to R497): 0 to 5 the fabric ports, 6 the Companion Link. -/
structure LinkSt where
  /-- the SEQ the next data flit must have -/
  rxNext : Nat := 0
  /-- a data flit has been received since the link came up (ACKV) -/
  rxAny : Bool := false
  /-- flits are discarded until the replay arrives (R494) -/
  naking : Bool := false
  txNext : Nat := 0
  /-- unacknowledged data flits, oldest first (R494) -/
  replay : List (Nat × Flit) := []
  /-- data flits that wait for a credit or for room in the replay buffer: (VC, payload) in order -/
  txWait : List (Nat × List Byte) := []
  /-- the virtual channel that sent last among those that take turns (R496) -/
  lastVc : Nat := 0
  /-- credits held per VC (R495) -/
  credits : List Nat := [2048, 2048, 2048, 2048, 2048, 2048, 2048, 2048]
  /-- flits in the receive buffer of each VC (R495) -/
  rxUsed : List Nat := [0, 0, 0, 0, 0, 0, 0, 0]
  /-- reassembled bytes of each VC not yet a whole packet (R496) -/
  rxBytes : List (List Byte) := [[], [], [], [], [], [], [], []]
  /-- whole packets that wait to be handled: (VC, packet) -/
  rxPackets : List (Nat × Packet) := []
  rxCpl : List (Nat × CplPacket) := []
  /-- training step reached, 0 none (R497) -/
  step : Nat := 0
  /-- healthy lane groups of this end and of the peer, one bit per group (R489, R638) -/
  groupsOwn : Nat := 15
  groupsPeer : Nat := 15
  /-- groups out of service until the link next trains in full (R490) -/
  groupsOut : Nat := 0
  /-- groups that return at the next boundary -/
  groupsBack : Nat := 0
  /-- lanes in retraining and failed retrainings in a row of each lane (R490) -/
  retraining : List Nat := []
  laneFails : SMap Nat := []
  /-- delay exchanges measured since training began, in 1/16 ns, and the send time t1 of the one under way (R532) -/
  delays : List Int := []
  /-- hop delay in 1/16 ns -/
  hopDelay : Int := 0
  /-- the first flit at the width agreed in the last width change, sent and received (R490, R640) -/
  widthAtTx : Option (Nat × Nat) := none
  widthAtRx : Option (Nat × Nat) := none
  /-- the coordinate the peer announced (R499) -/
  peerNode : Option Nat := none
  /-- a timeout record was posted in this Turn (R518, R645) -/
  timeoutPosted : Bool := false
deriving DecidableEq, Repr

/-- What a window request does (R511, R517). -/
inductive WinKind | load | store | atomicRet | atomicNoret
deriving DecidableEq, Repr

/-- A window request (R511, R512, R518). -/
structure WinReq where
  port : Nat
  tag : Nat
  off : Nat
  len : Nat
  kind : WinKind
  part : Nat
  /-- who made it -/
  owner : Waiter
  sentAt : Nat
  /-- 0 outstanding, 1 answered, 2 timed out (its tag is not yet free) -/
  state : Nat := 0
  /-- its maker has had the data, or it returns none -/
  taken : Bool := false
  data : List MByte := []
deriving DecidableEq, Repr

/-- A message operation in progress (R520). -/
structure MsgOp where
  item : Nat
  /-- 0 PUT, 1 GET, 2 SEND -/
  kind : Nat
  port : Nat
  tag : Nat
  /-- bytes after clamping -/
  len : Nat
  /-- packets sent -/
  sent : Nat := 0
  /-- PUT: packets performed at the target; GET: requests answered; SEND: 1 when accepted -/
  acked : Nat := 0
  /-- GET: indices answered -/
  got : List Nat := []
  /-- refused FULL, to be sent again at the next boundary (R523) -/
  refused : Bool := false
  /-- packets outstanding: (index, send time) -/
  times : List (Nat × Nat) := []
deriving DecidableEq, Repr

/-- The packets performed of a PUT that arrives here, by sender and tag (R520). -/
structure PutRx where
  src : Nat
  tag : Nat
  count : Nat
deriving DecidableEq, Repr

/-- The fabric beside its registers. -/
structure FabSt where
  /-- NODE of the FAB_COORD pair in force, the 18 bits of the FAB_DIMS pair in force after R503 (R501) -/
  node : Option Nat := none
  dims : Option Nat := none
  /-- the A words of the route overrides and ingress entries in force; unlisted: 0, not enabled -/
  rte : SMap Nat := []
  ing : SMap Nat := []
  /-- offsets of complement-pair registers written since the last boundary -/
  pairs : List Nat := []
  links : List LinkSt := [{}, {}, {}, {}, {}, {}, {}]
  wins : List WinReq := []
  msgs : List MsgOp := []
  putRx : List PutRx := []
  /-- the last 16 (JOB, STOP_ID) pairs, oldest first (R528) -/
  jobStops : List (Nat × Nat) := []
  /-- mailbox counts of each partition: produced and accepted consumed (R521, R522) -/
  mboxProd : List Nat := [0, 0, 0, 0]
  mboxCons : List Nat := [0, 0, 0, 0]
deriving DecidableEq, Repr

/-- A line of the Companion cache (R647): Shared or Pinned. -/
structure CLine where
  bytes : List Byte
  poison : Bool := false
  pinned : Bool := false
  /-- its place in the order of allocation: the smallest is the oldest -/
  age : Nat
  used : Bool := false
deriving DecidableEq, Repr

/-- A request of the module to the companion (R644). -/
structure CplReq where
  tag : Nat
  /-- 1 RD, 2 RD_SH, 3 WR, 4 WR_MASK: the operation codes of R642 -/
  op : Nat
  addr : Nat
  len : Nat
  got : Nat := 0
  sentAt : Nat
  /-- the line was snooped while the RD_SH was outstanding: it is delivered and not kept (R651) -/
  snooped : Bool := false
  /-- the units whose accesses wait for the line -/
  who : List Waiter := []
deriving DecidableEq, Repr

/-- A line delivered to a unit whose access waited for it (R645, R651). -/
structure CplGot where
  line : Nat
  who : Waiter
  bytes : List Byte
  poison : Bool
deriving DecidableEq, Repr

/-- A write to companion memory as the packet that carries it: WR, or WR_MASK with its mask (R642, R648). -/
structure CplWrite where
  op : Nat
  addr : Nat
  payload : List Byte
  poison : Bool
  /-- the item whose write it is, where its end waits for the write (R593, R646) -/
  who : List Waiter := []
deriving DecidableEq, Repr

structure CplSt where
  cache : SMap (Option CLine) := []
  nextAge : Nat := 0
  reqs : List CplReq := []
  /-- writes that wait for the coherent classes or for one of the 1,024 places, in the order of issue (R644, R646) -/
  queue : List CplWrite := []
  /-- lines delivered to accesses that wait (R645, R651) -/
  got : List CplGot := []
  /-- violations of this Turn: request and snoop class (R659) -/
  violReq : Nat := 0
  violSnp : Nat := 0
  /-- requests that failed in this Turn: one record at its end (R645) -/
  failTurn : Nat := 0
  /-- followed lines, one entry for each reason (R652): 64-byte line numbers -/
  followed : List Nat := []
  /-- followed lines that are polled (R652) -/
  polled : List Nat := []
  /-- LINK_CTL width change under way: the groups asked for -/
  widthAsked : Option Nat := none
  /-- tags of requests that failed: a late answer is counted (R645) -/
  failedTags : List Nat := []
deriving DecidableEq, Repr

end Sys2Proof.Machine
end

