-- ==== Sys2Proof/Machine/StPress.lean ====
section
/-!
DEFINITION. Machine/StPress.lean: the state of the Press: the lane registers (R213) and the hand-off from the Stones (R218).
-/
namespace Sys2Proof.Machine

/-- A linked MANGLE and its producer (R218 to R220). -/
structure PressLink where
  mangle : Nat
  producer : Nat
  /-- the producer's partition, descriptor and extension words -/
  part : Nat
  desc : Desc
  ext : List Nat
  /-- the producer's final status and the rows it wrote, once it has completed -/
  done : Option (Nat × Nat) := none
deriving DecidableEq, Repr

/-- The Press: the lane registers, key 2,048 r + e, value the 32 bits plus 2^32 for a poison mark; the links. -/
structure PressSt where
  lanes : SMap Nat := []
  links : List PressLink := []
deriving DecidableEq, Repr

end Sys2Proof.Machine
end

