-- ==== Sys2Proof/Machine/StSpool.lean ====
section
/-!
DEFINITION. Machine/StSpool.lean: the state of the Spools: skeins (R231, R270), their requests (R266), bundles, Spool caches
(R261).
-/
namespace Sys2Proof.Machine

/-- An entry of the divergence stack (R240). -/
structure DivEntry where
  outer : Nat
  els : Nat
  taken : Bool
  elsePc : Nat
deriving DecidableEq, Repr

/-- The completion of a posted operation as stn.wait writes it (R251). -/
structure TicketDone where
  status : Nat
  sat : Bool := false
  nan : Bool := false
  clamped : Bool := false
deriving DecidableEq, Repr

/-- A ticket: its number, the thread it is attributed to (R291), its completion once it is known. -/
structure Ticket where
  num : Nat
  lane : Nat
  done : Option TicketDone := none
deriving DecidableEq, Repr

/-- What a memory request of a skein does. -/
inductive SKind
  | ld | st | lds | sts
  /-- atom or cas: it returns old values -/
  | atom
  | red
  | pfs
  /-- pf.g, flush, inval.g, dead: 0 to 3 -/
  | range (op : Nat)
deriving DecidableEq, Repr

/-- A line, or a bank word of the scratchpad, that a request has still to access (R266). -/
structure SPart where
  line : Nat
  /-- the fault record it waits on (R259) -/
  fault : Option Nat := none
  /-- atomics through a window: lanes already performed -/
  lanesDone : Nat := 0
deriving DecidableEq, Repr

/-- A memory request of a skein that has issued (R266). Its slots are its parts; one slot for a range request. -/
structure SReq where
  id : Nat
  kind : SKind
  /-- the instruction -/
  ins : SIns
  pc : Nat
  /-- (lane, address), in ascending lane order; lane 0 for a scalar access -/
  lanes : List (Nat × Nat)
  /-- bytes to store, in the order in which they win (R281): (lane, address, byte) -/
  bytes : List (Nat × Nat × MByte) := []
  /-- elements of an atomic: lane and element; its offset is the address -/
  elems : List (Nat × RedElem) := []
  /-- bytes and old values received: (address, byte) -/
  got : List (Nat × MByte) := []
  olds : List (Nat × Nat × Bool) := []
  parts : List SPart
  /-- range requests: next address, end, bytes acted on so far -/
  next : Nat := 0
  stop : Nat := 0
  acted : Nat := 0
  issuedAt : Nat := 0
deriving DecidableEq, Repr

/-- A resident or saved skein (R231, R270). Registers: bits and, above them, a poison mark for each lane or register. -/
structure Skein where
  launch : Nat
  part : Nat
  bundle : Nat
  index : Nat
  vregs : Nat
  pc : Nat
  active : Nat := 2 ^ 32 - 1
  ended : Nat := 0
  region : Nat := 0
  regionOpen : Bool := false
  stack : List DivEntry := []
  sks : Nat := 0
  /-- key r: 64 bits, and 2^64 for poison -/
  sreg : SMap Nat := []
  /-- key 32 r + lane: 32 bits, and 2^32 for poison -/
  vreg : SMap Nat := []
  /-- key p: the lanes, and 2^32 × the poisoned lanes; p0 is not kept -/
  preg : SMap Nat := []
  tickets : List Ticket := []
  nextTicket : Nat := 0
  /-- waiting at the bundle barrier, with the threads that have arrived (R253) -/
  atBar : Bool := false
  arrived : Nat := 0
  reqs : List SReq := []
  nextReq : Nat := 0
  /-- the fault record an instruction fetch waits on -/
  fetchFault : Option Nat := none
  /-- order of the last issue among the skeins (R239) -/
  lastIssue : Nat := 0
deriving DecidableEq, Repr

/-- A bundle from its dispatch to its end (R230, R255): saved skeins are kept with it. -/
structure Bundle where
  launch : Nat
  ordinal : Nat
  /-- none while it is saved -/
  spool : Option Nat
  /-- boundaries passed while resident since the barrier began; none: no barrier is under way -/
  barTurns : Option Nat := none
  saved : List Skein := []
deriving DecidableEq, Repr

/-- A line of a Spool cache (R261): a larger age was used more recently. -/
structure ScLine where
  bytes : List MByte
  age : Nat
deriving DecidableEq, Repr

/-- The Spools. Keys: skeins 16 × Spool + slot; cache lines Spool × 2^45 + virtual line number. -/
structure SpoolSt where
  skeins : SMap (Option Skein) := []
  bundles : List Bundle := []
  cache : SMap (Option ScLine) := []
  clock : Nat := 1
  /-- ones of SPL_HEALTH that an open scan slot tests (R229) -/
  scanning : List Nat := []
deriving DecidableEq, Repr

end Sys2Proof.Machine
end

