-- ==== Sys2Proof/Machine/StSrv.lean ====
section
/-!
DEFINITION. Machine/StSrv.lean: the state of the serving services, one for each partition (chapter 15).
-/
namespace Sys2Proof.Machine

/-- A serving control block after clamping (R615): addresses in bytes. -/
structure SrvCfg where
  reqBase : Nat := 0
  reqLog2 : Nat := 4
  reqDb : Nat := 0
  tokBase : Nat := 0
  tokLog2 : Nat := 4
  tokProd : Nat := 0
  model : Nat := 0
  kvBase : Nat := 0
  kvPages : Nat := 1
  fill : Nat := 1
  batchTurns : Nat := 0
  batchMax : Nat := 1
  maxContext : Nat := 1
  prefillMax : Nat := 1
deriving DecidableEq, Repr

/-- A request of the waiting list or the batch (R617). -/
structure SrvReq where
  id : Nat
  prompt : List Nat
  maxNew : Nat
  mode : Nat
  topK : Nat
  temp : Nat
  topP : Nat
  stop : Nat
  seed : Nat
  /-- tokens generated so far -/
  toks : List Nat := []
  /-- boundaries passed since it was fetched (R624) -/
  age : Nat := 0
deriving DecidableEq, Repr

/-- A sequence of the batch, in join order. -/
structure SrvSeq where
  req : SrvReq
  /-- positions whose keys and values the pool holds -/
  done : Nat := 0
  /-- it has prompt positions to process (R626) -/
  pre : Bool := true
  /-- positions that the step in progress processes; 0: it is not in the step -/
  step : Nat := 0
deriving DecidableEq, Repr

/-- One serving service. STATE and CAUSE are fields of MIL_SRV_STAT. -/
structure Srv where
  cfg : SrvCfg := {}
  /-- words M0 to M7 of the model table (R616) -/
  table : List Nat := []
  /-- a write of MIL_SRV_CTL took effect at this boundary; the control block and the model table are being read (R611) -/
  due : Bool := false
  starting : Bool := false
  /-- its four words are followed (R437, R652) -/
  following : Bool := false
  waiting : List SrvReq := []
  batch : List SrvSeq := []
  /-- a step is in progress -/
  stepping : Bool := false
  /-- the delayed step has been counted (R621) -/
  stalled : Bool := false
  /-- ENABLE was cleared: it stops at the end of the step (R613) -/
  stopping : Bool := false
  /-- PREEMPT: true with HOLD (R612) -/
  pause : Option Bool := none
  /-- counts of the request ring and the token ring (R436) -/
  head : Nat := 0
  tail : Nat := 0
  prod : Nat := 0
  cons : Nat := 0
  badDb : Bool := false
  badCons : Bool := false
  /-- token records that wait for a free slot, oldest first -/
  toWrite : List (List Byte) := []
deriving DecidableEq, Repr

end Sys2Proof.Machine
end

