-- ==== Sys2Proof/Machine/StStones.lean ====
section
/-!
DEFINITION. Machine/StStones.lean: the state of the Stones: beds, dressing records and vectors in the pipeline (chapters 03, 04).
-/
namespace Sys2Proof.Machine

/-- An operand reference (R120). -/
structure Ref where
  base : Nat
  space : Nat
  stride : Nat
  hint : Nat
deriving DecidableEq, Repr

/-- A bed or runner element with its block scale applied, and its poison mark. -/
structure Elem where
  v : Num
  p : Bool
deriving DecidableEq, Repr

/-- One stationary matrix of an operation and where its rows and columns lie: the whole operation, or a block of a PACKED
table (R119, R124). -/
structure StnBlk where
  row0 : Nat
  k : Nat
  col0 : Nat
  n : Nat
  m : Nat
  bed : Ref
  run : Ref
  dest : Ref
  bedScale : Nat
  runScale : Nat
  outScale : Nat
deriving DecidableEq, Repr

/-- The dressing record of a sub-array (R141): format and blocks of the bed it last dressed. -/
structure DressRec where
  fmt : Nat
  blocks : List StnBlk
deriving DecidableEq, Repr

/-- The elements of one block of a bed, by column (R94). -/
structure BedBlock where
  row0 : Nat
  k : Nat
  col0 : Nat
  n : Nat
  cols : List (List Elem)
deriving DecidableEq, Repr

/-- A fill under way (R99 to R107): blocks written and the rows of the block being written. -/
structure StnFill where
  item : Nat
  done : List BedBlock
  rows : List (List Elem)
deriving DecidableEq, Repr

/-- A column sum: ACC96 with its anchor and sticky bits (R74, R75), or the FP32 sum of the Igoux order (R164). -/
structure ColSum where
  acc : Int := 0
  anchor : Int := 0
  sat : Bool := false
  nan : Bool := false
  pinf : Bool := false
  ninf : Bool := false
  s32 : Option Nat := none
  p : Bool := false
deriving DecidableEq, Repr

/-- A vector that has been issued and whose outputs are not yet written (R95): its item, its number, for SLICE64 its phase,
and the column sums of each block. -/
structure Flight where
  item : Nat
  vec : Nat
  phase : Nat := 0
  sums : List (Nat × List ColSum)
deriving DecidableEq, Repr

/-- One sub-array. -/
structure SubArr where
  dressed : Option DressRec := none
  bed : List BedBlock := []
  fills : List StnFill := []
  flight : List Flight := []
  /-- the fault record that holds the epilogue (R98, R137) -/
  held : Option Nat := none
deriving DecidableEq, Repr

/-- The Stones: four sub-arrays at most; what pre-empted operations left in the context-save area (R139, R141). -/
structure StonesSt where
  subs : List SubArr := [{}, {}, {}, {}]
  parked : List Flight := []
  parkedRec : List (Nat × DressRec) := []
deriving DecidableEq, Repr

end Sys2Proof.Machine
end

