-- ==== Sys2Proof/Machine/StTst.lean ====
section
/-!
DEFINITION. Machine/StTst.lean: the state of in-field scan, checkpoints and the units withheld from service (R44, R45, R116,
R592, R593, R600 to R606).
-/
namespace Sys2Proof.Machine

/-- An open scan slot (R44, R601). -/
structure ScanSlot where
  group : Nat
  /-- Turns still to run -/
  left : Nat
  /-- number and timestamp of the boundary that began it -/
  turn : Nat
  time : Nat
deriving DecidableEq, Repr

/-- One internal COPY of a checkpoint slice (R593). -/
structure CkptPart where
  src : Nat
  dst : Nat
  len : Nat
  pos : Nat := 0
  fault : Option Nat := none
deriving DecidableEq, Repr

/-- The CKPT that runs (R593). -/
structure CkptRun where
  item : Nat
  /-- bytes of the share after clamping, and bytes released so far -/
  total : Nat
  released : Nat := 0
  /-- the slice under way; empty: none -/
  parts : List CkptPart := []
  /-- its companion-memory write failed (R645) -/
  lost : Bool := false
deriving DecidableEq, Repr

/-- What a built-in test finds: masks of Stones column groups, Spools, Press lane groups and scratchpad banks, the copy engines, and
the collective engines by port (R464, R602, R605, R662). -/
structure TestResult where
  stones : Nat := 0
  spools : Nat := 0
  press : Nat := 0
  banks : Nat := 0
  copy : Bool := false
  col : Nat := 0
deriving DecidableEq, Repr

structure TstSt where
  slot : Option ScanSlot := none
  /-- the group scheduled next, how many slots have been scheduled, and the time from which they are counted -/
  nextGroup : Nat := 0
  scheduled : Nat := 0
  since : Nat := 0
  /-- deferrals of the slot that is due (R601) -/
  deferrals : Nat := 0
  /-- groups whose slots come ahead of the schedule (R598) -/
  forced : List Nat := []
  /-- per group: Turn number and timestamp of the boundary of its last passing slot, and of the end of its last passing
  built-in test (R581) -/
  slotPass : SMap (Option (Nat × Nat)) := []
  testPass : SMap (Option (Nat × Nat)) := []
  /-- partitions that admit no Stones operation until their reset (R116) -/
  stnWithheld : Nat := 0
  /-- units that built-in test or scan has found bad and a reset has taken out: column groups, Spools; scratchpad banks, from start-up -/
  badStones : Nat := 0
  badSpools : Nat := 0
  badBanks : Nat := 0
  /-- quartered layout: pending column groups whose upper and whose lower sub-array has been reset (R116) -/
  stnDone0 : Nat := 0
  stnDone1 : Nat := 0
  /-- Press lane groups, copy engines and collective engines out of service until the module is replaced (R602) -/
  pressDead : Nat := 0
  copyDead : Bool := false
  colDead : Nat := 0
  /-- partitions that admit service-ring work only (R363, R606) -/
  serviceOnly : Nat := 0
  /-- SNAP and CLEAR wait for the boundary (R596) -/
  snapDue : Bool := false
  clearDue : Bool := false
  ckpt : Option CkptRun := none
deriving DecidableEq, Repr

end Sys2Proof.Machine
end

