-- ==== Sys2Proof/Machine/StDev.lean ====
section
/-!
DEFINITION. Machine/StDev.lean: what leaves the module, and the module's whole state while it has power.
-/
namespace Sys2Proof.Machine

/-- What an observer outside the module sees. -/
inductive Out
  /-- a packet handed to fabric port 0 to 5 (X+, X−, Y+, Y−, Z+, Z−) -/
  | fabric (port : Nat) (pkt : Packet)
  /-- a packet handed to the Companion Link -/
  | link (pkt : CplPacket)
  /-- a flit on port 0 to 5, or 6 the Companion Link: new, replayed, or idle with acknowledgement and credits (R492 to R495) -/
  | flit (port : Nat) (bytes : Flit)
  /-- data of a slice request -/
  | sliceData (id : Nat) (bytes : List MByte)
  /-- old values of a slice reduction -/
  | sliceOld (id : Nat) (vals : List (Nat × Bool))
  /-- a slice request is performed (write, reduction without return, range part) -/
  | sliceDone (id : Nat)
  /-- a pin of the module changes: THERMTRIP_N (R737) -/
  | thermtrip (level : Bool)
  /-- an in-band interrupt on the I3C sideband with its byte (R733) -/
  | i3cIbi (byte : Nat)
  /-- the I3C target's answer to ENTDAA (R733) -/
  | i3cAddr (addr : Nat)
deriving DecidableEq, Repr

/-- The module while it has power: its registers, its memories and its units. -/
structure Dev where
  /-- the module timestamp in ns (CFG_TIME, R719) -/
  time : Nat := 0
  /-- the set-up register file: key set-up offset; an unlisted register holds its reset value -/
  regs : SMap Word := []
  /-- staged set-up writes in the order of their last writes: (offset, value) (R12, R712) -/
  staged : List (Nat × Word) := []
  /-- everything that left the module, oldest first -/
  out : List Out := []
  /-- the model's own counter of free values (log entry 3) -/
  fresh : Nat := 0
  ctl : CtlSt := {}
  mem : MemSt := MemSt.reset
  err : ErrSt := {}
  pmu : PmuSt := {}
  fab : FabSt := {}
  col : ColSt := {}
  cpl : CplSt := {}
  stn : StonesSt := {}
  prs : PressSt := {}
  spl : SpoolSt := {}
  tst : TstSt := {}
  /-- the serving services of partitions 0 to 3 -/
  srv : List Srv := [{}, {}, {}, {}]
  boot : BootSt := {}
  cfg : CfgSt := {}
  pwr : PwrSt := {}
  /-- the card's flash, the same over every reset and loss of power -/
  flash : Flash := {}
deriving DecidableEq, Repr

/-- The module's surroundings: power and reset (R724 to R727), the latched trip (R737, R738), and the address straps (R733). -/
structure Board where
  /-- the rails are in their windows and PWR_OK has been asserted since (R725) -/
  power : Bool
  pwrOk : Bool
  /-- the level of RESET_N: true is high -/
  resetN : Bool
  tripped : Bool
  /-- 2 × I3C_ADDR1 + I3C_ADDR0 -/
  straps : Nat
deriving DecidableEq, Repr

end Sys2Proof.Machine
end

