-- ==== Sys2Proof/Syntax.lean ====
section
/-!
DEFINITION. Syntax.lean: the commands of the module, one constructor per row of spec/opcode_table.json, in the table's order. What a
command's operands are: `item` the number of an admitted operation or launch; `n`, `k` how many steps of its work are done; `k` of a Spool
command a skein, 16 × Spool + slot; `pkt` the packet that arrives; `part`, `ring`, `port`, `slice`, `ch`, `stack` the unit concerned; and
what only the outside knows: an arrival time, a temperature, a read-back word with `bad` for a failed or poisoned read, a test result.
-/
namespace Sys2Proof

open Sys2Proof.Machine

/-- A command (spec/opcode_table.json). -/
inductive Instr
  /-- TURN_BOUNDARY (R33): The Turn period expires and the module runs the ordered boundary steps. -/
  | turnBoundary (tel : Telemetry)
  /-- HOLDOVER (R30): No Turn symbol arrived for two expected boundaries, or UPSTREAM is none, and the module runs on its own period. -/
  | holdover
  /-- TURN_SYMBOL (R28): A TURN packet arrives, is paired with an own boundary and corrects the phase. -/
  | turnSymbol (port : Nat) (arrival : Nat) (rpl : Bool) (pkt : Packet)
  /-- CONTEXT_SAVE_DONE (R38): A pre-empted item's drain and save end and its OVERRUN_RESUMED record is written. -/
  | contextSaveDone (item : Nat)
  /-- DOORBELL (R438): A reread doorbell line is examined and a valid tail is accepted or ignored. -/
  | doorbell (part : Nat) (ring : Nat) (which : Nat) (word : Nat) (bad : Bool)
  /-- DESCRIPTOR_FETCH (R440): A fetched descriptor arrives and is checked. -/
  | descriptorFetch (part : Nat) (ring : Nat) (desc : Desc) (bad : Bool)
  /-- DEFERRED_ENTRY (R449): A deferred-pool descriptor enters its empty engine queue in an open Turn. -/
  | deferredEntry (part : Nat)
  /-- MATMUL (R117): A MATMUL operation starts at the head of its sub-array queue. -/
  | matmul (item : Nat) (n : Nat) (k : Nat)
  /-- MATMUL_ACC (R110): A MATMUL_ACC operation starts and combines its pass with the partial in DEST. -/
  | matmulAcc (item : Nat) (n : Nat) (k : Nat)
  /-- PACKED (R124): A PACKED operation runs up to 16 diagonal blocks on one bed. -/
  | packed (item : Nat) (n : Nat) (k : Nat)
  /-- SLICE64 (R175): A SLICE64 operation runs preparation, phases and completion. -/
  | slice64 (item : Nat) (n : Nat) (k : Nat)
  /-- DRESSING (R104): The shadow bed is dressed when the fill and queue conditions are met, and the first vector issues. -/
  | dressing (item : Nat) (n : Nat)
  /-- STONES_COMPLETION (R135): A Stones operation's last output is written and its completion is posted. -/
  | stonesCompletion (item : Nat)
  /-- MANGLE (R204): A MANGLE operation passes its tensors through the element program chain. -/
  | mangle (item : Nat) (n : Nat)
  /-- LANE (R214): A LANE operation runs its lane program on the lane registers. -/
  | lane (item : Nat) (n : Nat)
  /-- PRESS_COMPLETION (R194): A Press operation's last output and reduction value are written and its completion is posted. -/
  | pressCompletion (item : Nat)
  /-- SPL_LAUNCH (R228): A Spool launch starts dispatching bundles. -/
  | splLaunch (item : Nat)
  /-- BUNDLE_DISPATCH (R230): A bundle is dispatched whole to a Spool with enough free skein slots. -/
  | bundleDispatch (part : Nat) (spool : Nat)
  /-- LAUNCH_COMPLETION (R232): Every bundle and posted Stones operation of a launch has ended and its record is written. -/
  | launchCompletion (item : Nat)
  /-- COPY (R408): A Sluice COPY moves rows and planes between spaces. -/
  | copy (item : Nat) (n : Nat)
  /-- FILL (R408): A Sluice FILL writes a repeating 64-bit pattern. -/
  | fill (item : Nat) (n : Nat)
  /-- PREFETCH (R412): A Sluice PREFETCH fetches a range into the Granary. -/
  | prefetch (item : Nat) (n : Nat)
  /-- SLUICE_FLUSH (R412): A Sluice FLUSH writes back a range's dirty Granary lines. -/
  | sluiceFlush (item : Nat) (n : Nat)
  /-- SLUICE_INVAL (R412): A Sluice INVAL writes back and drops a range's Granary lines. -/
  | sluiceInval (item : Nat) (n : Nat)
  /-- SLUICE_DEAD (R412): A Sluice DEAD declares a range dead. -/
  | sluiceDead (item : Nat) (n : Nat)
  /-- SLUICE_COMPLETION (R409): A Sluice descriptor finishes and reports the bytes moved. -/
  | sluiceCompletion (item : Nat)
  /-- GATHER (R416): The Bolter gathers table rows by index. -/
  | gather (item : Nat) (n : Nat)
  /-- SCATTER (R417): The Bolter applies source rows at indexed rows by store or reduction. -/
  | scatter (item : Nat) (n : Nat)
  /-- SORT (R419): The Bolter stably sorts key and value pairs per segment. -/
  | sort (item : Nat) (n : Nat)
  /-- DEDUP (R420): The Bolter removes adjacent equal keys per segment. -/
  | dedup (item : Nat) (n : Nat)
  /-- BOLTER_COMPLETION (R413): A Bolter operation finishes and its completion is posted. -/
  | bolterCompletion (item : Nat)
  /-- TLB_INVAL (R397): Translation caches drop entries overlapping a range. -/
  | tlbInval (item : Nat)
  /-- PREEMPT (R421): Named rings' items are pre-empted and saved, optionally held. -/
  | preempt (item : Nat)
  /-- RESUME (R421): Held items become resumable and the rings restart. -/
  | resume (item : Nat)
  /-- RESTART (R457): A stopped ring admits again from the next boundary. -/
  | restart (item : Nat)
  /-- DRAIN (R457): Completes when named rings' earlier items have final records, then stores VALUE at ADDR. -/
  | drain (item : Nat)
  /-- CKPT (R592): A checkpoint share starts and is carried by slices. -/
  | ckpt (item : Nat) (n : Nat)
  /-- CKPT_SLICE_DONE (R593): A checkpoint slice's COPY parts have all completed. -/
  | ckptSliceDone
  /-- PUT (R520): A PUT message operation sends local bytes to a remote virtual address. -/
  | put (item : Nat) (n : Nat)
  /-- GET (R520): A GET message operation requests remote bytes. -/
  | get (item : Nat) (n : Nat)
  /-- SEND (R521): A SEND message operation delivers up to 256 bytes to a remote mailbox. -/
  | send (item : Nat) (n : Nat)
  /-- MESSAGE_COMPLETION (R526): A message operation is fully acknowledged or answered and completes. -/
  | messageCompletion (item : Nat)
  /-- MESSAGE_TIMEOUT (R525): A message packet stays unanswered for one Turn period and the operation completes with POISON. -/
  | messageTimeout (item : Nat)
  /-- REDUCE_SCATTER (R547): A REDUCE_SCATTER item starts its rank-ordered chain. -/
  | reduceScatter (item : Nat) (n : Nat)
  /-- ALL_GATHER (R548): An ALL_GATHER item starts streaming its chunk along the ring. -/
  | allGather (item : Nat) (n : Nat)
  /-- ALL_REDUCE (R548): An ALL_REDUCE item starts its chain and full delivery. -/
  | allReduce (item : Nat) (n : Nat)
  /-- KV_PASS (R562): A KV_PASS item starts circulating key and value blocks. -/
  | kvPass (item : Nat) (n : Nat)
  /-- NORM2 (R564): A NORM2 item starts reducing a vector over up to three groups. -/
  | norm2 (item : Nat) (n : Nat)
  /-- COLLECTIVE_COMPLETION (R556): A collective item finishes on this module and its record is written. -/
  | collectiveCompletion (item : Nat)
  /-- COLLECTIVE_STALL (R554): A running item receives no packet for STALL_TURNS Turns and ends with GROUP_STALE. -/
  | collectiveStall (item : Nat)
  /-- GATE_WORD (R557): An observed gate word is judged met or not met. -/
  | gateWord (item : Nat) (word : Nat) (bad : Bool)
  /-- KV_RELEASE_POLL (R563): The engine rereads the RELEASE word while waiting. -/
  | kvReleasePoll (item : Nat)
  /-- TRANSLATION_FAULT (R400): An access faults on its walk and a fault record is posted or attached. -/
  | translationFault (who : Waiter) (va : Nat) (site : Nat) (acc : Acc)
  /-- FAULT_ANSWER (R401): A written fault answer is accepted as RETRY or ABORT, or ignored. -/
  | faultAnswer (part : Nat) (id : Nat) (word : Nat)
  /-- FAULT_TIMEOUT (R405): An unanswered fault reaches FAULT_TURNS boundaries and is answered ABORT. -/
  | faultTimeout (part : Nat) (id : Nat)
  /-- BARRIER_STALL (R255): A barrier not completed by the end of the following Turn halts the bundle's skeins. -/
  | barrierStall (k : Nat)
  /-- NOP_INSTR (R283): The Spool nop instruction has no effect. -/
  | nopInstr (k : Nat)
  /-- IADD (R283): Integer add. -/
  | iadd (k : Nat)
  /-- ISUB (R283): Integer subtract. -/
  | isub (k : Nat)
  /-- IMUL (R283): Low half of an integer product. -/
  | imul (k : Nat)
  /-- IMULHI (R283): High half of an integer product. -/
  | imulhi (k : Nat)
  /-- IMAD (R283): Integer multiply-add. -/
  | imad (k : Nat)
  /-- IMIN (R283): Integer minimum. -/
  | imin (k : Nat)
  /-- IMAX (R283): Integer maximum. -/
  | imax (k : Nat)
  /-- AND (R283): Bitwise and on vectors. -/
  | and (k : Nat)
  /-- OR (R283): Bitwise or on vectors. -/
  | or (k : Nat)
  /-- XOR (R283): Bitwise xor on vectors. -/
  | xor (k : Nat)
  /-- NOT (R283): Bitwise not on vectors. -/
  | not (k : Nat)
  /-- SHL (R283): Shift left. -/
  | shl (k : Nat)
  /-- SHR (R283): Shift right, logical or arithmetic by type. -/
  | shr (k : Nat)
  /-- POPC (R283): Population count. -/
  | popc (k : Nat)
  /-- CLZ (R283): Count leading zeros. -/
  | clz (k : Nat)
  /-- MOV (R283): Vector register move. -/
  | mov (k : Nat)
  /-- MOVI (R283): Move immediate to a vector register. -/
  | movi (k : Nat)
  /-- IADDI (R283): Add a sign-extended immediate. -/
  | iaddi (k : Nat)
  /-- SEL (R283): Select per lane by predicate. -/
  | sel (k : Nat)
  /-- ISETP (R283): Integer compare to predicate. -/
  | isetp (k : Nat)
  /-- SHFL (R283): Lane shuffle. -/
  | shfl (k : Nat)
  /-- VOTE (R283): Predicate mask to scalar. -/
  | vote (k : Nat)
  /-- V2S (R283): Vector lane value to scalar. -/
  | v2s (k : Nat)
  /-- S2V (R283): Scalar broadcast to vector. -/
  | s2v (k : Nat)
  /-- FADD (R283): Floating-point add. -/
  | fadd (k : Nat)
  /-- FSUB (R283): Floating-point subtract. -/
  | fsub (k : Nat)
  /-- FMUL (R283): Floating-point multiply. -/
  | fmul (k : Nat)
  /-- FMA (R283): Fused multiply-add. -/
  | fma (k : Nat)
  /-- FMIN (R283): Floating-point minimum. -/
  | fmin (k : Nat)
  /-- FMAX (R283): Floating-point maximum. -/
  | fmax (k : Nat)
  /-- FABS (R283): Clear the sign bit. -/
  | fabs (k : Nat)
  /-- FNEG (R283): Invert the sign bit. -/
  | fneg (k : Nat)
  /-- FSETP (R283): Floating-point compare to predicate. -/
  | fsetp (k : Nat)
  /-- CVT (R282): Format conversion recording SAT and NAN in SKS. -/
  | cvt (k : Nat)
  /-- FRND (R283): Round to integral value. -/
  | frnd (k : Nat)
  /-- HFMA (R283): Paired 16-bit fused multiply-add. -/
  | hfma (k : Nat)
  /-- HADD (R283): Paired 16-bit add. -/
  | hadd (k : Nat)
  /-- HMUL (R283): Paired 16-bit multiply. -/
  | hmul (k : Nat)
  /-- FRCP (R284): Reciprocal on the function unit. -/
  | frcp (k : Nat)
  /-- FSQRT (R284): Square root on the function unit. -/
  | fsqrt (k : Nat)
  /-- FRSQRT (R284): Reciprocal square root. -/
  | frsqrt (k : Nat)
  /-- FEXP2 (R284): Base-2 exponential. -/
  | fexp2 (k : Nat)
  /-- FLOG2 (R284): Base-2 logarithm. -/
  | flog2 (k : Nat)
  /-- FSIN (R284): Sine. -/
  | fsin (k : Nat)
  /-- FCOS (R284): Cosine. -/
  | fcos (k : Nat)
  /-- LD (R279): Per-lane load issued with slots, optionally acquire. -/
  | ld (k : Nat)
  /-- ST (R281): Per-lane store, optionally release. -/
  | st (k : Nat)
  /-- LDS (R283): Scalar load once per skein. -/
  | lds (k : Nat)
  /-- STS (R283): Scalar store once per skein. -/
  | sts (k : Nat)
  /-- ATOM (R297): Returning atomic performed at the Granary. -/
  | atom (k : Nat) (sub : Nat) (typ : Nat)
  /-- CAS (R297): Compare-and-swap at the Granary. -/
  | cas (k : Nat)
  /-- RED (R297): Non-returning reduction at the Granary. -/
  | red (k : Nat) (sub : Nat) (typ : Nat)
  /-- LOAD_RETURN (R266): Load data returns, freeing slots and writing the destination. -/
  | loadReturn (k : Nat) (req : Nat) (arg : Nat)
  /-- STORE_ACK (R266): A store or atomic is acknowledged and its slot is freed. -/
  | storeAck (k : Nat) (req : Nat) (line : Nat)
  /-- PF_S (R301): Prefetch a range into the Spool cache. -/
  | pfS (k : Nat)
  /-- PF_G (R301): Prefetch a range into the Granary. -/
  | pfG (k : Nat)
  /-- FLUSH (R301): Write back a range's dirty Granary lines. -/
  | flush (k : Nat)
  /-- INVAL_S (R303): Drop the Spool's cached copies of a range. -/
  | invalS (k : Nat)
  /-- INVAL_G (R301): Write back and drop a range's Granary lines. -/
  | invalG (k : Nat)
  /-- DEAD (R305): Declare a range dead. -/
  | dead (k : Nat)
  /-- SADD (R283): Scalar add. -/
  | sadd (k : Nat)
  /-- SSUB (R283): Scalar subtract. -/
  | ssub (k : Nat)
  /-- SMUL (R283): Scalar multiply. -/
  | smul (k : Nat)
  /-- SAND (R283): Scalar and. -/
  | sand (k : Nat)
  /-- SOR (R283): Scalar or. -/
  | sor (k : Nat)
  /-- SXOR (R283): Scalar xor. -/
  | sxor (k : Nat)
  /-- SSHL (R283): Scalar shift left. -/
  | sshl (k : Nat)
  /-- SSHR (R283): Scalar shift right. -/
  | sshr (k : Nat)
  /-- SMOVI (R283): Scalar move of a sign-extended immediate. -/
  | smovi (k : Nat)
  /-- SMOVHI (R283): Scalar move into the upper half. -/
  | smovhi (k : Nat)
  /-- SADDI (R283): Scalar add immediate. -/
  | saddi (k : Nat)
  /-- SSETP (R283): Scalar compare to predicate. -/
  | ssetp (k : Nat)
  /-- PAND (R283): Predicate and. -/
  | pand (k : Nat)
  /-- POR (R283): Predicate or. -/
  | por (k : Nat)
  /-- PXOR (R283): Predicate xor. -/
  | pxor (k : Nat)
  /-- PNOT (R283): Predicate not. -/
  | pnot (k : Nat)
  /-- BRA (R241): Uniform branch. -/
  | bra (k : Nat)
  /-- BRA_ANY (R241): Branch when the predicate holds in any active thread. -/
  | braAny (k : Nat)
  /-- BRA_NONE (R241): Branch when the predicate holds in no active thread. -/
  | braNone (k : Nat)
  /-- FORK (R241): Push a divergence entry and narrow the active mask. -/
  | fork (k : Nat)
  /-- SEAM (R241): Switch to the else arm or pop the divergence stack. -/
  | seam (k : Nat)
  /-- BRK (R241): Remove predicated threads from the active mask. -/
  | brk (k : Nat)
  /-- EXIT (R241): End the active threads. -/
  | exit (k : Nat)
  /-- BAR (R253): Arrive at the bundle barrier. -/
  | bar (k : Nat)
  /-- FENCE (R295): Acquire, release or both at a scope. -/
  | fence (k : Nat)
  /-- MTX_ENTER (R246): Record the region mask and open a matrix region. -/
  | mtxEnter (k : Nat)
  /-- MTX_LEAVE (R246): End the matrix region. -/
  | mtxLeave (k : Nat)
  /-- STN_ISSUE (R247): Post a Stones operation when the active mask equals the region mask. -/
  | stnIssue (k : Nat)
  /-- STN_ISSUE_LEAD (R248): Post a Stones operation from the lowest active thread. -/
  | stnIssueLead (k : Nat)
  /-- STN_WAIT (R251): Wait for a ticket's completion and write its status. -/
  | stnWait (k : Nat)
  /-- SKS_RD (R285): Read the skein status register. -/
  | sksRd (k : Nat)
  /-- SKS_WR (R285): Write RMODE and the sticky bits. -/
  | sksWr (k : Nat)
  /-- RDTIME (R283): Read the module timestamp. -/
  | rdtime (k : Nat)
  /-- RDTURN (R283): Read TRN_COUNT. -/
  | rdturn (k : Nat)
  /-- SLICE_READ (R330): A read request is served at its Granary slice. -/
  | sliceRead (id : Nat) (part : Nat) (slice : Nat) (line : Nat) (lo : Nat) (n : Nat) (hint : Nat)
  /-- SLICE_WRITE (R329): A masked write is merged or allocated at its slice. -/
  | sliceWrite (id : Nat) (part : Nat) (slice : Nat) (line : Nat) (lo : Nat) (bytes : List MByte) (hint : Nat)
  /-- SLICE_REDUCTION (R341): An atomic or reduction is applied or held at its slice. -/
  | sliceReduction (id : Nat) (part : Nat) (slice : Nat) (line : Nat) (elems : List RedElem) (hint : Nat)
  /-- RANGE_REQUEST (R333): A slice walks its tags for a prefetch, flush, inval or dead range. -/
  | rangeRequest (id : Nat) (slice : Nat) (op : RangeOp) (base : Nat) (count : Nat) (hint : Nat)
  /-- LINE_FILL (R326): Line data arrives from HBM and the way leaves Fill. -/
  | lineFill (slice : Nat) (line : Nat) (errs : List HalfErr) (lost : Bool)
  /-- WRITE_BACK_DONE (R344): A line's write-back ends, forwarded reductions are applied in DRAM, and waiting accesses proceed. -/
  | writeBackDone (slice : Nat) (line : Nat)
  /-- SCRUB (R371): The patrol scrub interval expires and the next line of each channel is scrubbed. -/
  | scrub (stack : Nat) (errs : List HalfErr)
  /-- REFRESH (R374): A per-bank refresh falls due and is performed. -/
  | refresh (ch : Nat) (temp : Nat)
  /-- HBM_RETRAIN (R382): A channel's temperature moved by RETRAIN_DELTA and retraining starts. -/
  | hbmRetrain (ch : Nat) (temp : Nat)
  /-- HBM_RETRAIN_DONE (R382): A channel's retraining ends and requests resume, or the channel fails. -/
  | hbmRetrainDone (ch : Nat) (ok : Bool)
  /-- REFETCH (R472): The Miller starts reading a held line from its refetch source. -/
  | refetch (slice : Nat) (line : Nat)
  /-- REFETCH_LINE_ARRIVAL (R472): The refetched line is written to the slice and held accesses retry. -/
  | refetchLineArrival (slice : Nat) (line : Nat)
  /-- REFETCH_TIMEOUT (R473): A refetch attempt times out and is repeated or the line is left poisoned. -/
  | refetchTimeout (slice : Nat) (line : Nat)
  /-- FLIT_RECEIVED (R494): A flit is received, checked, sequenced and its acknowledgement and credits are taken. -/
  | flitReceived (port : Nat) (flit : Flit)
  /-- NAK_RESEND (R494): No replay began within 2 µs and a new NAK is sent. -/
  | nakResend (port : Nat)
  /-- LANE_RETRAIN (R490): A lane reaches UCW_LIMIT or loses marker lock and its group leaves service. -/
  | laneRetrain (port : Nat) (laneNum : Nat)
  /-- LANE_RETRAIN_DONE (R490): A lane retraining ends and its group returns at the next boundary or stays out. -/
  | laneRetrainDone (port : Nat) (laneNum : Nat) (ok : Bool)
  /-- LINK_TRAINING_DONE (R497): A port's training step completes and it advances or restarts. -/
  | linkTrainingDone (port : Nat) (groups : Nat) (ok : Bool)
  /-- DELAY_REQUEST (R532): A LINK SUB 0 packet arrives and a delay response is sent. -/
  | delayRequest (port : Nat) (t2 : Nat) (t3 : Nat) (pkt : Packet)
  /-- DELAY_RESPONSE (R532): A LINK SUB 2 packet arrives and the hop delay is computed. -/
  | delayResponse (port : Nat) (t1 : Nat) (t4 : Nat) (pkt : Packet)
  /-- IDENTITY (R498): A peer identity block arrives and is stored in FAB_PEERn. -/
  | identity (port : Nat) (pkt : Packet)
  /-- COORDINATE (R499): A peer coordinate announcement sets the port running or miswired. -/
  | coordinate (port : Nat) (pkt : Packet)
  /-- WIDTH_CHANGE (R490): A width-change packet narrows or widens the port at a named flit. -/
  | widthChange (port : Nat) (pkt : Packet)
  /-- FORWARD_PACKET (R504): A packet not addressed here is routed to an output port or discarded. -/
  | forwardPacket (port : Nat) (atEdge : Bool) (pkt : Packet)
  /-- WLOAD (R515): A window load arrives, is checked and performed. -/
  | wload (port : Nat) (pkt : Packet)
  /-- WSTORE (R517): A window store arrives, is checked, performed and acknowledged. -/
  | wstore (port : Nat) (pkt : Packet)
  /-- WATOM (R517): A window atomic arrives, is checked and performed. -/
  | watom (port : Nat) (pkt : Packet)
  /-- PUT_PACKET (R520): A PUT packet arrives and is written at the target. -/
  | putPacket (port : Nat) (last : Bool) (pkt : Packet)
  /-- GET_PACKET (R520): A GET request arrives and is answered with GDATA. -/
  | getPacket (port : Nat) (pkt : Packet)
  /-- SEND_PACKET (R521): A SEND arrives and is written to the mailbox or refused FULL. -/
  | sendPacket (port : Nat) (pkt : Packet)
  /-- WDATA (R511): Window load or returning atomic data arrives and frees its tag. -/
  | wdata (port : Nat) (pkt : Packet)
  /-- WACK (R517): A window store or non-returning atomic is acknowledged. -/
  | wack (port : Nat) (pkt : Packet)
  /-- PACK (R520): A PUT or SEND acknowledgement or FULL refusal arrives. -/
  | pack (port : Nat) (pkt : Packet)
  /-- GDATA (R520): GET data arrives and is written at its offset. -/
  | gdata (port : Nat) (pkt : Packet)
  /-- WINDOW_TIMEOUT (R518): A window request has no response within one Turn period. -/
  | windowTimeout (port : Nat) (tag : Nat)
  /-- REDUCE_PARTIAL (R547): A reduce partial arrives, the rank adds its contribution and passes it on. -/
  | reducePartial (port : Nat) (pkt : Packet)
  /-- DELIVERED_RESULT (R548): A delivered result or gathered chunk arrives and is written and forwarded. -/
  | deliveredResult (port : Nat) (pkt : Packet)
  /-- GRANT (R550): A receive-window grant arrives and lets the sender send. -/
  | grant (port : Nat) (pkt : Packet)
  /-- KV_BLOCK (R563): A KV block arrives and ARRIVE is written. -/
  | kvBlock (port : Nat) (pkt : Packet)
  /-- NORM2_PARTIAL (R564): A NORM2 partial arrives and is added and passed on. -/
  | norm2Partial (port : Nat) (pkt : Packet)
  /-- NORM2_RESULT (R565): A NORM2 result arrives and is written with its clip factor. -/
  | norm2Result (port : Nat) (pkt : Packet)
  /-- DIGEST_RECORD (R597): A digest record arrives, is tabled and forwarded. -/
  | digestRecord (port : Nat) (pkt : Packet)
  /-- JOB_STOP (R528): A JOB_STOP packet is received, recorded, flooded and the job's partitions are stopped. -/
  | jobStop (port : Nat) (pkt : Packet)
  /-- FAB_JOBSTOP (R527): A write to FAB_JOBSTOP originates a JOB_STOP and applies it locally. -/
  | fabJobstop (pkt : CplPacket)
  /-- CPL_RD (R643): A companion read request is performed at the Granary and answered with DATA. -/
  | cplRd (pkt : CplPacket)
  /-- CPL_WR (R643): A companion write is performed and acknowledged. -/
  | cplWr (pkt : CplPacket)
  /-- CPL_WR_MASK (R643): A companion masked line write is performed and acknowledged. -/
  | cplWrMask (pkt : CplPacket)
  /-- SNP_INV (R650): A snoop drops the line, is acknowledged and a Pinned line is reread. -/
  | snpInv (pkt : CplPacket)
  /-- CPL_DATA (R644): Read data for a module request arrives. -/
  | cplData (pkt : CplPacket)
  /-- CPL_ACK (R644): An acknowledgement of a module write arrives and frees its tag. -/
  | cplAck (pkt : CplPacket)
  /-- CPL_NAK (R645): A NAK of a module request arrives and the request fails. -/
  | cplNak (pkt : CplPacket)
  /-- CPL_REQUEST_TIMEOUT (R645): A module request is unanswered for one Turn period and fails. -/
  | cplRequestTimeout (tag : Nat)
  /-- POLL_LINE (R652): A polled followed line is reread every 2 µs. -/
  | pollLine (line : Nat)
  /-- SETUP_RD (R708): A set-up read is answered with SETUP_DATA. -/
  | setupRd (pkt : CplPacket)
  /-- ERR_LOG_WORD0 (R716): A read of ERR_LOG_WORD0 copies the selected entry into the read buffer. -/
  | errLogWord0 (pkt : CplPacket)
  /-- SETUP_WR (R709): A set-up write to a register without its own row is applied or staged and answered. -/
  | setupWr (pkt : CplPacket)
  /-- PRT_RESET (R463): A write requests partition resets for the next boundary. -/
  | prtReset (pkt : CplPacket)
  /-- PARTITION_RESET_DONE (R464): A partition reset's test, rebuild and zeroing end and READY is set. -/
  | partitionResetDone (part : Nat) (result : TestResult)
  /-- ERR_FLOG_CLEAR (R579): A write empties the fatal log and its overflow count. -/
  | errFlogClear (pkt : CplPacket)
  /-- ERR_LOG_SEL (R716): A write selects a log entry and empties the read buffer. -/
  | errLogSel (pkt : CplPacket)
  /-- DIGEST_SNAP (R596): A write of SNAP requests a digest latch and pass at its boundary. -/
  | digestSnap (pkt : CplPacket)
  /-- DIGEST_CLEAR (R596): A write of CLEAR requests the digest accumulator cleared at its boundary. -/
  | digestClear (pkt : CplPacket)
  /-- SAMPLING_RESTART (R704): A write of RESTART clears FULL and INDEX. -/
  | samplingRestart (pkt : CplPacket)
  /-- PMU_COUNT_WRITE (R693): A write sets a programmable counter. -/
  | pmuCountWrite (pkt : CplPacket)
  /-- PMU_SELECT (R692): A write to a counter select changes its event from the next cycle. -/
  | pmuSelect (pkt : CplPacket)
  /-- LOOPBACK_MODE (R384): A write of HBM_LOOP.MODE starts loop-back or is refused. -/
  | loopbackMode (pkt : CplPacket)
  /-- THERM_LEVEL (R735): A write of TRN_CTRL.THERM_LEVEL sets the floor F_setup. -/
  | thermLevel (pkt : CplPacket)
  /-- I3C_LIMIT (R740): A write sets the power limit and level floor used from the next evaluation. -/
  | i3cLimit (value : Nat)
  /-- I3C_ENTDAA (R733): The I3C target takes a dynamic address. -/
  | i3cEntdaa (addr : Nat)
  /-- BLOCK (R656): Bytes of an image or pattern pack are placed at their offset. -/
  | block (pkt : CplPacket)
  /-- LINK_COHERENT (R653): The coherent classes of the Companion Link open. -/
  | linkCoherent (pkt : CplPacket)
  /-- RELEASE (R659): Quarantine of the named classes ends. -/
  | release (pkt : CplPacket)
  /-- IMG_BEGIN (R664): A firmware image transfer of a given length begins. -/
  | imgBegin (pkt : CplPacket)
  /-- IMG_END (R664): A received image is verified, run as recovery or written to flash. -/
  | imgEnd (pkt : CplPacket) (flashOk : Bool)
  /-- PACK_BEGIN (R670): A pattern-pack transfer begins. -/
  | packBegin (pkt : CplPacket)
  /-- PACK_END (R670): A received pattern pack is checked and installed or rejected. -/
  | packEnd (pkt : CplPacket) (flashOk : Bool)
  /-- CFG_STAGE (R672): A configuration blob is read, checked and staged. -/
  | cfgStage (pkt : CplPacket) (blob : List Byte) (bad : Bool)
  /-- CFG_RETURN (R678): A return to the previous generation is staged. -/
  | cfgReturn (pkt : CplPacket)
  /-- CFG_CONFIRM (R676): The current trial is confirmed. -/
  | cfgConfirm (pkt : CplPacket)
  /-- ATTEST (R683): A signed attestation report is returned for a nonce. -/
  | attest (pkt : CplPacket)
  /-- ID_GET (R681): The identity public key, serial and certificate are returned. -/
  | idGet (pkt : CplPacket)
  /-- LINK_CTL_GROUPS (R640): The peer's healthy lane groups arrive and the width is set. -/
  | linkCtlGroups (pkt : CplPacket)
  /-- LINK_CTL_WIDTH_CHANGE (R640): A width change request is answered and applied at the named flits. -/
  | linkCtlWidthChange (pkt : CplPacket)
  /-- LINK_CTL_WIDTH_ANSWER (R640): A width change answer arrives and the width changes. -/
  | linkCtlWidthAnswer (pkt : CplPacket)
  /-- CONFIG_STORE_CHECK (R675): Every 1,024 Turns the configuration store's complements are checked. -/
  | configStoreCheck (place : Nat)
  /-- LOG_WRITE (R577): The log writer takes the next intake record and logs, merges or leaves it out. -/
  | logWrite
  /-- ERROR_RING_COPY (R580): The Miller copies a logged record to the error ring or drops it when full. -/
  | errorRingCopy (word : Nat) (bad : Bool)
  /-- SCAN_SLOT_RESULT (R602): A scan slot ends and a failing group is reported and acted on. -/
  | scanSlotResult (bad : Nat)
  /-- SERVING_REQUEST_FETCH (R622): The Miller fetches a request record into the waiting list or ends it. -/
  | servingRequestFetch (part : Nat) (rec : Desc) (toks : List Nat) (bad : Bool)
  /-- SERVING_STEP (R621): A serving step begins once the token ring has room. -/
  | servingStep (part : Nat)
  /-- SERVING_STEP_DONE (R619): A serving step ends and its token and final records are written. -/
  | servingStepDone (part : Nat) (poisoned : List Nat) (halted : Bool)
  /-- BW_WINDOW_END (R699): A bandwidth window of TURNS boundaries ends and its counts are latched. -/
  | bwWindowEnd
  /-- USER_COUNTER_AREA (R697): After a boundary the user counter area is written between TURN_A and TURN_B. -/
  | userCounterArea
  /-- SAMPLE (R701): A Spool's sampling countdown reaches zero and a sample record is written or dropped. -/
  | sample (soon : Bool)
  /-- PWR_OK (R725): The board asserts PWR_OK. -/
  | pwrOk
  /-- RESET_RELEASE (R662): RESET_N is released and the boot ROM starts the start-up sequence. -/
  | resetRelease (sramOk : Bool)
  /-- STARTUP_TEST_DONE (R662): Built-in test of the compute and link dies ends. -/
  | startupTestDone (result : TestResult)
  /-- HBM_TRAINING_DONE (R380): Stack training, pin screen and zero fill end and the stack becomes ready. -/
  | hbmTrainingDone (stack : Nat) (ifaceOk : Bool) (badChans : Nat) (marks : List (Nat × List Nat))
  /-- RESET_PULSE (R726): A low pulse of at least 1 ms on RESET_N causes a full module reset. -/
  | resetPulse (sramOk : Bool)
  /-- TRIP (R737): A temperature, rail or PWR_OK cause trips the module and THERMTRIP_N falls. -/
  | trip (causes : Nat) (inst : Nat)
  /-- POWER_DOWN (R727): Rails are removed and every state of the module is lost. -/
  | powerDown
  /-- RESERVED_ENCODING (R235): A Spool instruction word with a reserved opcode executes as a no-op, sets SKS.ILLEGAL and increments SPL_EVENTS.ILLEGAL. -/
  | reservedEncoding (k : Nat)
  /-- WINDOW_TAG_REUSE (R518): One further Turn period after a window request timed out, its tag becomes free again for a waiting request. -/
  | windowTagReuse (port : Nat) (tag : Nat)
  /-- BAD_OP (R658): A Companion Link packet whose OP its class or direction does not carry, or a LINK_CTL with SUB above 2, is dropped, answered NAK BAD_OP and counted in CPL_VIOL. -/
  | badOp (pkt : CplPacket)
  /-- RESERVED_COMMAND (R658): A CMD with a reserved command code is answered RESULT UNKNOWN. -/
  | reservedCommand (pkt : CplPacket)
deriving DecidableEq, Repr

end Sys2Proof
end

