-- ==== Sys2Proof/WellFormed.lean ====
section
/-!
DEFINITION. WellFormed.lean: what the operands of a command may be: unit numbers that exist, fields that fit, whole flits. A meaning is
given to every command, well formed or not; an ill-formed one names nothing and changes nothing it cannot reach.
-/
namespace Sys2Proof.Machine

/-- Every field fits its place and the payload its length: the packet is what its bytes spell (R509). -/
def Packet.fits (p : Packet) : Bool := decide (Packet.parse p.bytes = some (p, []))

/-- The same for the Companion Link (R641). -/
def CplPacket.fits (p : CplPacket) : Bool := decide (CplPacket.parse p.bytes = some (p, []))

/-- A half has 72 symbols of 8 bits (R365); a channel of a stack is one of 32. -/
def HalfErr.fits (e : HalfErr) : Bool := decide (e.chan < 32) && decide (e.half < 2) && e.errs.all (fun x => decide (x.1 < 72 ∧ x.2 < 256))

/-- A waiter names an item or a skein that can exist. -/
def Waiter.fits : Waiter → Bool
  | .item _ => true
  | .skein spool slot _ => decide (spool < 256 ∧ slot < 16)
  | .unit _ => false

end Sys2Proof.Machine

namespace Sys2Proof

open Sys2Proof.Machine

/-- The operands of a command are in range. -/
def Instr.wellFormed (i : Instr) : Bool :=
  match i with
  | .turnBoundary _ => true
  | .holdover => true
  | .turnSymbol port _ _ pkt => decide (port < 6) && pkt.fits
  | .contextSaveDone _ => true
  | .doorbell part ring which word _ => decide (part < 4) && decide (ring < 64) && decide (which < 4) && decide (word < 2 ^ 64)
  | .descriptorFetch part ring _ _ => decide (part < 4) && decide (ring < 64)
  | .deferredEntry part => decide (part < 4)
  | .matmul _ _ _ => true
  | .matmulAcc _ _ _ => true
  | .packed _ _ _ => true
  | .slice64 _ _ _ => true
  | .dressing _ _ => true
  | .stonesCompletion _ => true
  | .mangle _ _ => true
  | .lane _ _ => true
  | .pressCompletion _ => true
  | .splLaunch _ => true
  | .bundleDispatch part spool => decide (part < 4) && decide (spool < 256)
  | .launchCompletion _ => true
  | .copy _ _ => true
  | .fill _ _ => true
  | .prefetch _ _ => true
  | .sluiceFlush _ _ => true
  | .sluiceInval _ _ => true
  | .sluiceDead _ _ => true
  | .sluiceCompletion _ => true
  | .gather _ _ => true
  | .scatter _ _ => true
  | .sort _ _ => true
  | .dedup _ _ => true
  | .bolterCompletion _ => true
  | .tlbInval _ => true
  | .preempt _ => true
  | .resume _ => true
  | .restart _ => true
  | .drain _ => true
  | .ckpt _ _ => true
  | .ckptSliceDone => true
  | .put _ _ => true
  | .get _ _ => true
  | .send _ _ => true
  | .messageCompletion _ => true
  | .messageTimeout _ => true
  | .reduceScatter _ _ => true
  | .allGather _ _ => true
  | .allReduce _ _ => true
  | .kvPass _ _ => true
  | .norm2 _ _ => true
  | .collectiveCompletion _ => true
  | .collectiveStall _ => true
  | .gateWord _ word _ => decide (word < 2 ^ 64)
  | .kvReleasePoll _ => true
  | .translationFault who va site _ => who.fits && decide (va < 2 ^ 52) && decide (site < 3)
  | .faultAnswer part _ word => decide (part < 4) && decide (word < 2 ^ 64)
  | .faultTimeout part _ => decide (part < 4)
  | .barrierStall k => decide (k < 4096)
  | .nopInstr k => decide (k < 4096)
  | .iadd k => decide (k < 4096)
  | .isub k => decide (k < 4096)
  | .imul k => decide (k < 4096)
  | .imulhi k => decide (k < 4096)
  | .imad k => decide (k < 4096)
  | .imin k => decide (k < 4096)
  | .imax k => decide (k < 4096)
  | .and k => decide (k < 4096)
  | .or k => decide (k < 4096)
  | .xor k => decide (k < 4096)
  | .not k => decide (k < 4096)
  | .shl k => decide (k < 4096)
  | .shr k => decide (k < 4096)
  | .popc k => decide (k < 4096)
  | .clz k => decide (k < 4096)
  | .mov k => decide (k < 4096)
  | .movi k => decide (k < 4096)
  | .iaddi k => decide (k < 4096)
  | .sel k => decide (k < 4096)
  | .isetp k => decide (k < 4096)
  | .shfl k => decide (k < 4096)
  | .vote k => decide (k < 4096)
  | .v2s k => decide (k < 4096)
  | .s2v k => decide (k < 4096)
  | .fadd k => decide (k < 4096)
  | .fsub k => decide (k < 4096)
  | .fmul k => decide (k < 4096)
  | .fma k => decide (k < 4096)
  | .fmin k => decide (k < 4096)
  | .fmax k => decide (k < 4096)
  | .fabs k => decide (k < 4096)
  | .fneg k => decide (k < 4096)
  | .fsetp k => decide (k < 4096)
  | .cvt k => decide (k < 4096)
  | .frnd k => decide (k < 4096)
  | .hfma k => decide (k < 4096)
  | .hadd k => decide (k < 4096)
  | .hmul k => decide (k < 4096)
  | .frcp k => decide (k < 4096)
  | .fsqrt k => decide (k < 4096)
  | .frsqrt k => decide (k < 4096)
  | .fexp2 k => decide (k < 4096)
  | .flog2 k => decide (k < 4096)
  | .fsin k => decide (k < 4096)
  | .fcos k => decide (k < 4096)
  | .ld k => decide (k < 4096)
  | .st k => decide (k < 4096)
  | .lds k => decide (k < 4096)
  | .sts k => decide (k < 4096)
  | .atom k sub typ => decide (k < 4096) && decide (sub < 16) && decide (typ < 8)
  | .cas k => decide (k < 4096)
  | .red k sub typ => decide (k < 4096) && decide (sub < 16) && decide (typ < 8)
  | .loadReturn k _ _ => decide (k < 4096)
  | .storeAck k _ _ => decide (k < 4096)
  | .pfS k => decide (k < 4096)
  | .pfG k => decide (k < 4096)
  | .flush k => decide (k < 4096)
  | .invalS k => decide (k < 4096)
  | .invalG k => decide (k < 4096)
  | .dead k => decide (k < 4096)
  | .sadd k => decide (k < 4096)
  | .ssub k => decide (k < 4096)
  | .smul k => decide (k < 4096)
  | .sand k => decide (k < 4096)
  | .sor k => decide (k < 4096)
  | .sxor k => decide (k < 4096)
  | .sshl k => decide (k < 4096)
  | .sshr k => decide (k < 4096)
  | .smovi k => decide (k < 4096)
  | .smovhi k => decide (k < 4096)
  | .saddi k => decide (k < 4096)
  | .ssetp k => decide (k < 4096)
  | .pand k => decide (k < 4096)
  | .por k => decide (k < 4096)
  | .pxor k => decide (k < 4096)
  | .pnot k => decide (k < 4096)
  | .bra k => decide (k < 4096)
  | .braAny k => decide (k < 4096)
  | .braNone k => decide (k < 4096)
  | .fork k => decide (k < 4096)
  | .seam k => decide (k < 4096)
  | .brk k => decide (k < 4096)
  | .exit k => decide (k < 4096)
  | .bar k => decide (k < 4096)
  | .fence k => decide (k < 4096)
  | .mtxEnter k => decide (k < 4096)
  | .mtxLeave k => decide (k < 4096)
  | .stnIssue k => decide (k < 4096)
  | .stnIssueLead k => decide (k < 4096)
  | .stnWait k => decide (k < 4096)
  | .sksRd k => decide (k < 4096)
  | .sksWr k => decide (k < 4096)
  | .rdtime k => decide (k < 4096)
  | .rdturn k => decide (k < 4096)
  | .sliceRead _ _ slice line lo n hint => decide (slice < 256) && decide (line < 2 ^ 24) && decide (0 < n ∧ lo + n ≤ 128) && decide (hint < 4)
  | .sliceWrite _ _ slice line lo bytes hint => decide (slice < 256) && decide (line < 2 ^ 24) && decide (0 < bytes.length ∧ lo + bytes.length ≤ 128) && decide (hint < 4)
  | .sliceReduction _ _ slice line elems hint => decide (slice < 256) && decide (line < 2 ^ 24) && elems.all (fun e => decide (e.off < 128)) && decide (hint < 4)
  | .rangeRequest _ slice _ _ _ hint => decide (slice < 256) && decide (hint < 4)
  | .lineFill slice line errs _ => decide (slice < 256) && decide (line < 2 ^ 24) && errs.all HalfErr.fits
  | .writeBackDone slice line => decide (slice < 256) && decide (line < 2 ^ 24)
  | .scrub stack errs => decide (stack < 8) && errs.all HalfErr.fits
  | .refresh ch temp => decide (ch < 256) && decide (temp < 256)
  | .hbmRetrain ch temp => decide (ch < 256) && decide (temp < 256)
  | .hbmRetrainDone ch _ => decide (ch < 256)
  | .refetch slice line => decide (slice < 256) && decide (line < 2 ^ 24)
  | .refetchLineArrival slice line => decide (slice < 256) && decide (line < 2 ^ 24)
  | .refetchTimeout slice line => decide (slice < 256) && decide (line < 2 ^ 24)
  | .flitReceived port flit => decide (port < 7) && decide (flit.length = 256)
  | .nakResend port => decide (port < 7)
  | .laneRetrain port laneNum => decide (port < 7) && decide (laneNum < 32)
  | .laneRetrainDone port laneNum _ => decide (port < 7) && decide (laneNum < 32)
  | .linkTrainingDone port groups _ => decide (port < 7) && decide (groups < 16)
  | .delayRequest port _ _ pkt => decide (port < 6) && pkt.fits
  | .delayResponse port _ _ pkt => decide (port < 6) && pkt.fits
  | .identity port pkt => decide (port < 6) && pkt.fits
  | .coordinate port pkt => decide (port < 6) && pkt.fits
  | .widthChange port pkt => decide (port < 6) && pkt.fits
  | .forwardPacket port _ pkt => decide (port < 6) && pkt.fits
  | .wload port pkt => decide (port < 6) && pkt.fits
  | .wstore port pkt => decide (port < 6) && pkt.fits
  | .watom port pkt => decide (port < 6) && pkt.fits
  | .putPacket port _ pkt => decide (port < 6) && pkt.fits
  | .getPacket port pkt => decide (port < 6) && pkt.fits
  | .sendPacket port pkt => decide (port < 6) && pkt.fits
  | .wdata port pkt => decide (port < 6) && pkt.fits
  | .wack port pkt => decide (port < 6) && pkt.fits
  | .pack port pkt => decide (port < 6) && pkt.fits
  | .gdata port pkt => decide (port < 6) && pkt.fits
  | .windowTimeout port tag => decide (port < 6) && decide (tag < 1024)
  | .reducePartial port pkt => decide (port < 6) && pkt.fits
  | .deliveredResult port pkt => decide (port < 6) && pkt.fits
  | .grant port pkt => decide (port < 6) && pkt.fits
  | .kvBlock port pkt => decide (port < 6) && pkt.fits
  | .norm2Partial port pkt => decide (port < 6) && pkt.fits
  | .norm2Result port pkt => decide (port < 6) && pkt.fits
  | .digestRecord port pkt => decide (port < 6) && pkt.fits
  | .jobStop port pkt => decide (port < 6) && pkt.fits
  | .fabJobstop pkt => pkt.fits
  | .cplRd pkt => pkt.fits
  | .cplWr pkt => pkt.fits
  | .cplWrMask pkt => pkt.fits
  | .snpInv pkt => pkt.fits
  | .cplData pkt => pkt.fits
  | .cplAck pkt => pkt.fits
  | .cplNak pkt => pkt.fits
  | .cplRequestTimeout tag => decide (tag < 4096)
  | .pollLine line => decide (line < 2 ^ 46)
  | .setupRd pkt => pkt.fits
  | .errLogWord0 pkt => pkt.fits
  | .setupWr pkt => pkt.fits
  | .prtReset pkt => pkt.fits
  | .partitionResetDone part _ => decide (part < 4)
  | .errFlogClear pkt => pkt.fits
  | .errLogSel pkt => pkt.fits
  | .digestSnap pkt => pkt.fits
  | .digestClear pkt => pkt.fits
  | .samplingRestart pkt => pkt.fits
  | .pmuCountWrite pkt => pkt.fits
  | .pmuSelect pkt => pkt.fits
  | .loopbackMode pkt => pkt.fits
  | .thermLevel pkt => pkt.fits
  | .i3cLimit value => decide (value < 2 ^ 32)
  | .i3cEntdaa addr => decide (addr < 128)
  | .block pkt => pkt.fits
  | .linkCoherent pkt => pkt.fits
  | .release pkt => pkt.fits
  | .imgBegin pkt => pkt.fits
  | .imgEnd pkt _ => pkt.fits
  | .packBegin pkt => pkt.fits
  | .packEnd pkt _ => pkt.fits
  | .cfgStage pkt blob _ => pkt.fits && decide (blob.length % 8 = 0)
  | .cfgReturn pkt => pkt.fits
  | .cfgConfirm pkt => pkt.fits
  | .attest pkt => pkt.fits
  | .idGet pkt => pkt.fits
  | .linkCtlGroups pkt => pkt.fits
  | .linkCtlWidthChange pkt => pkt.fits
  | .linkCtlWidthAnswer pkt => pkt.fits
  | .configStoreCheck place => decide (place < 3)
  | .logWrite => true
  | .errorRingCopy word _ => decide (word < 2 ^ 64)
  | .scanSlotResult bad => decide (bad < 2 ^ 32)
  | .servingRequestFetch part _ _ _ => decide (part < 4)
  | .servingStep part => decide (part < 4)
  | .servingStepDone part _ _ => decide (part < 4)
  | .bwWindowEnd => true
  | .userCounterArea => true
  | .sample _ => true
  | .pwrOk => true
  | .resetRelease _ => true
  | .startupTestDone _ => true
  | .hbmTrainingDone stack _ badChans _ => decide (stack < 8) && decide (badChans < 2 ^ 32)
  | .resetPulse _ => true
  | .trip causes inst => decide (causes % 2 = 0 ∧ 0 < causes ∧ causes < 32) && decide (inst < 256)
  | .powerDown => true
  | .reservedEncoding k => decide (k < 4096)
  | .windowTagReuse port tag => decide (port < 6) && decide (tag < 1024)
  | .badOp pkt => pkt.fits
  | .reservedCommand pkt => pkt.fits

end Sys2Proof
end

