-- ==== Sys2Proof/Decode.lean ====
section
/-!
DEFINITION. Decode.lean: the command a word of the table spells. spec/opcode_table.json gives its rows no bits: the commands are events of
the block, not words. The encodings the manual does give are decoded where they are used: the Spool's instruction words in
Machine/SplDecode.lean (R274 to R283), descriptors in Machine/StCtl.lean (R441), the packets of both links in Machine/Packets.lean
(R509, R641) and the Spool commands by the word at a skein's program counter.
-/
namespace Sys2Proof

/-- No row of the table has bits, so no word spells a command. -/
def decodeTableWord (_nbits _w : Nat) : Option Instr := none

end Sys2Proof
end

