-- ==== Sys2Proof/Config.lean ====
section
/-!
DEFINITION. Config.lean: the constants the manual fixes for the part, and the free values: what the manual leaves open.
A free value is an opaque constant: no proof can see what it is. The state's counter `fresh` gives a new one each time
where the manual ties it to nothing (log entries 3 and 4).
-/
namespace Sys2Proof.Config

/-- Bytes of one HBM channel (R357). -/
def channelBytes : Nat := 0x80000000
/-- Granules of 1 KiB per channel (R321). -/
def channelGranules : Nat := 2097152
/-- Scratchpad banks and bytes per bank (R306). -/
def spadBanks : Nat := 512
def spadBankBytes : Nat := 393216
/-- Hopper banks and bytes per bank (R312). -/
def hopBanks : Nat := 64
def hopBankBytes : Nat := 262144

/-- FREE. R396: a translation changed and not yet invalidated: true uses the new one. -/
opaque translationChoice (n : Nat) : Bool
/-- FREE. R410: a COPY that overlaps itself: true gives the source byte from before the copy. -/
opaque overlapChoice (n : Nat) : Bool
/-- FREE. A value the manual leaves open, `k` names which. -/
opaque freeNat (k n : Nat) : Nat
/-- FREE. A choice the manual leaves open, `k` names which. -/
opaque freeBool (k n : Nat) : Bool
/-- FREE. The result of a function unit whose table gives only an error bound (R200, R284): `f` the function, `a` and `b`
the operands' bits. -/
opaque functionUnit (f a b : Nat) : Nat
/-- FREE. SHA3-512 of a byte string (FIPS 202), outside the manual's text: 64 bytes as a number. -/
opaque sha3_512 (bytes : List Byte) : Nat
/-- FREE. ML-DSA-87 verification (FIPS 204): key, message, signature. -/
opaque mldsaVerify (key msg sig : List Byte) : Bool
/-- FREE. ML-DSA-87 signing with the module's identity key: the signature's bytes. -/
opaque mldsaSign (seed : Nat) (msg : List Byte) : List Byte
/-- FREE. The identity public key of ML-DSA-87 KeyGen_internal for a seed (R679): 2,592 bytes. -/
opaque identityKey (seed : Nat) : List Byte
/-- The part's serial number (R498, R681), set when the part is made. -/
opaque serial : Nat
/-- FREE. The secret K that the part's PUF block and the helper data of its identity record give (R679): 32 bytes, and whether
the record is valid (R681). -/
opaque pufSecret : List Byte
opaque identityRecordValid : Bool
/-- FREE. K_CHECK and CERT of the card's identity record (R681). -/
opaque identityCheck : Nat
opaque identityCert : List Byte
/-- FREE. ROM_KEY_HASH of the part's mask ROM (R663). -/
opaque romKeyHash : Nat
/-- FREE. The card's flash as it came: it answers JESD216 discovery with at least 16 MiB, the firmware image, the packs (R667). -/
opaque flashFound : Bool
opaque shippedImage : List Byte
opaque shippedPack (slot : Nat) : List Byte
/-- FREE. The manual gives a pack's parts and no layout (R603): its version, its digest, whether the digest is right and the
signature verifies under a key of the given hash, its slot lengths in ns. -/
opaque packVersion (bytes : List Byte) : Nat
opaque packDigest (bytes : List Byte) : Nat
opaque packValid (keyHash bytes : List Byte) : Bool
opaque packSlotNs (bytes : List Byte) (group : Nat) : Nat
/-- FREE. What a failed write leaves in the image slot (R669). -/
opaque flashGarbage (n : Nat) : List Byte

/-- FREE. The FP32 logit of a token after a sequence of tokens (R616, R633): the layout, the words of the model table, the
memory that holds the model (HBM, and key, mask and data of each Granary line), the tokens before it, the token's ID. -/
opaque servingLogit (layout : Nat) (table : List Nat) (hbm : SMap Byte) (lines : List (Nat × Nat × Nat)) (tokens : List Nat)
    (id : Nat) : Nat

end Sys2Proof.Config
end

