-- ==== Sys2Proof/Machine/RegTab.lean ====
section
/-!
DEFINITION. Machine/RegTab.lean: the set-up registers of R718, each with the fields its chapter's table gives it:
place, width, access code (R5), reset value, clamp (R477) and the time at which a write takes effect (R711).
The tables are those of R47, R142, R227, R273, R355, R356, R386, R429, R430, R479 to R484, R533, R571, R609, R610, R636,
R685, R686, R705 and R719; a reset value the spec gives as "per part" is 0 until its step has run (R742).
-/
namespace Sys2Proof.Machine

/-- The registers of block TRN (R718). -/
def regsTrn : List RegSpec :=
  [{ name := "TRN_PERIOD", base := 0x200000, dims := [], plane := .control, apply := .plain,
     fields := [⟨"PERIOD_NS", 0, 30, .rw, 0xF4240, .range 100000 1000000000⟩,
       ⟨"ACTIVE_NS", 32, 30, .ro, 0xF4240, .none⟩] },
   { name := "TRN_CTRL", base := 0x200008, dims := [], plane := .control, apply := .plain,
     fields := [⟨"MASTER", 0, 1, .rw, 0x1, .none⟩,
       ⟨"UPSTREAM", 1, 3, .rw, 0x0, .keep 7⟩,
       ⟨"THERM_LEVEL", 8, 4, .rw, 0x0, .none⟩] },
   { name := "TRN_COUNT", base := 0x200010, dims := [], plane := .control, apply := .plain,
     fields := [⟨"COUNT", 0, 32, .ro, 0x0, .none⟩] },
   { name := "TRN_LAST_BOUNDARY", base := 0x200018, dims := [], plane := .control, apply := .plain,
     fields := [⟨"TIMESTAMP_NS", 0, 64, .ro, 0x0, .none⟩] },
   { name := "TRN_STATUS", base := 0x200020, dims := [], plane := .control, apply := .plain,
     fields := [⟨"HOLDOVER", 0, 1, .ro, 0x0, .none⟩,
       ⟨"RENUMBERED", 1, 1, .w1c, 0x0, .none⟩,
       ⟨"SKEW_ALARM", 2, 1, .w1c, 0x0, .none⟩,
       ⟨"COMMIT_REPLACED", 3, 1, .w1c, 0x0, .none⟩,
       ⟨"WITHHELD", 4, 1, .ro, 0x0, .none⟩,
       ⟨"FOREIGN_SYMBOLS", 32, 32, .ro, 0x0, .none⟩] },
   { name := "TRN_PHASE_ERR", base := 0x200028, dims := [], plane := .control, apply := .plain,
     fields := [⟨"ERR_NS", 0, 32, .ro, 0x0, .none⟩,
       ⟨"HOP_DELAY_NS", 32, 16, .ro, 0x0, .none⟩] },
   { name := "TRN_CKPT_SLICE", base := 0x200030, dims := [], plane := .control, apply := .plain,
     fields := [⟨"SLICE_BYTES", 0, 31, .rw, 0x10000000, .range 0 0x40000000⟩] },
   { name := "TRN_EVENTS", base := 0x200038, dims := [], plane := .control, apply := .plain,
     fields := [⟨"OVERRUNS", 0, 48, .ro, 0x0, .none⟩] },
   { name := "TRN_WITHHELD", base := 0x200040, dims := [], plane := .control, apply := .plain,
     fields := [⟨"COUNT", 0, 48, .ro, 0x0, .none⟩] }]

/-- The registers of block STN (R718). -/
def regsStn : List RegSpec :=
  [{ name := "STN_WIDTH", base := 0x400000, dims := [], plane := .data, apply := .plain,
     fields := [⟨"FUSED", 0, 12, .ro, 0x0, .none⟩,
       ⟨"HALF0", 12, 12, .ro, 0x0, .none⟩,
       ⟨"HALF1", 24, 12, .ro, 0x0, .none⟩,
       ⟨"BYPASSED", 36, 8, .ro, 0x0, .none⟩,
       ⟨"DEGRADED", 44, 1, .ro, 0x0, .none⟩] },
   { name := "STN_BYPASS", base := 0x400008, dims := [(0x8, 2)], plane := .data, apply := .plain,
     fields := [⟨"GROUPS", 0, 64, .ro, 0x0, .none⟩] },
   { name := "STN_PENDING", base := 0x400018, dims := [(0x8, 2)], plane := .data, apply := .plain,
     fields := [⟨"GROUPS", 0, 64, .ro, 0x0, .none⟩] },
   { name := "STN_STATUS", base := 0x400028, dims := [], plane := .data, apply := .plain,
     fields := [⟨"OCC0", 0, 7, .ro, 0x0, .none⟩,
       ⟨"OCC1", 8, 7, .ro, 0x0, .none⟩,
       ⟨"OCC2", 16, 7, .ro, 0x0, .none⟩,
       ⟨"OCC3", 24, 7, .ro, 0x0, .none⟩,
       ⟨"WITHHELD", 32, 4, .ro, 0x0, .none⟩,
       ⟨"BUSY", 36, 4, .ro, 0x0, .none⟩,
       ⟨"HELD", 40, 4, .ro, 0x0, .none⟩,
       ⟨"LAYOUT_CHANGED", 44, 1, .w1c, 0x0, .none⟩] },
   { name := "STN_LAYOUT", base := 0x400030, dims := [], plane := .data, apply := .plain,
     fields := [⟨"LAYOUT", 0, 2, .ro, 0x0, .none⟩] }]

/-- The registers of block PRS (R718). -/
def regsPrs : List RegSpec :=
  [{ name := "PRS_STATUS", base := 0x500000, dims := [], plane := .data, apply := .plain,
     fields := [⟨"OCC0", 0, 6, .ro, 0x0, .none⟩,
       ⟨"OCC1", 8, 6, .ro, 0x0, .none⟩,
       ⟨"OCC2", 16, 6, .ro, 0x0, .none⟩,
       ⟨"OCC3", 24, 6, .ro, 0x0, .none⟩,
       ⟨"BUSY", 32, 4, .ro, 0x0, .none⟩,
       ⟨"HELD", 36, 4, .ro, 0x0, .none⟩,
       ⟨"LINKWAIT", 40, 4, .ro, 0x0, .none⟩,
       ⟨"LANE_AVAIL", 44, 1, .ro, 0x1, .none⟩] },
   { name := "PRS_LANES", base := 0x500008, dims := [], plane := .data, apply := .plain,
     fields := [⟨"LANES", 0, 12, .ro, 0x800, .none⟩] },
   { name := "PRS_CLAMPS", base := 0x500010, dims := [], plane := .data, apply := .plain,
     fields := [⟨"COUNT", 0, 48, .ro, 0x0, .none⟩] }]

/-- The registers of block SPL (R718). -/
def regsSpl : List RegSpec :=
  [{ name := "SPL_HEALTH", base := 0x600000, dims := [(0x8, 4)], plane := .data, apply := .plain,
     fields := [⟨"SPOOLS", 0, 64, .ro, 0x0, .none⟩] },
   { name := "SPL_PENDING", base := 0x600020, dims := [(0x8, 4)], plane := .data, apply := .plain,
     fields := [⟨"SPOOLS", 0, 64, .ro, 0x0, .none⟩] },
   { name := "SPL_STATUS", base := 0x600040, dims := [], plane := .data, apply := .plain,
     fields := [⟨"HEALTHY", 0, 9, .ro, 0x0, .none⟩,
       ⟨"RES0", 12, 9, .ro, 0x0, .none⟩,
       ⟨"RES1", 21, 8, .ro, 0x0, .none⟩,
       ⟨"RES2", 29, 8, .ro, 0x0, .none⟩,
       ⟨"RES3", 37, 8, .ro, 0x0, .none⟩,
       ⟨"HALTED", 48, 4, .ro, 0x0, .none⟩,
       ⟨"SCANNING", 52, 1, .ro, 0x0, .none⟩] },
   { name := "SPL_EVENTS", base := 0x600048, dims := [], plane := .data, apply := .plain,
     fields := [⟨"ILLEGAL", 0, 24, .ro, 0x0, .none⟩,
       ⟨"VREG_RANGE", 24, 24, .ro, 0x0, .none⟩] }]

/-- The registers of block SCP (R718). -/
def regsScp : List RegSpec :=
  [{ name := "SCP_LAYOUT", base := 0x700000, dims := [], plane := .data, apply := .plain,
     fields := [⟨"SCP_MIB", 0, 8, .ro, 0xC0, .none⟩,
       ⟨"SCP_BANKS", 8, 10, .ro, 0x200, .none⟩,
       ⟨"HOP_MIB", 18, 6, .ro, 0x10, .none⟩,
       ⟨"HOP_BANKS", 24, 8, .ro, 0x40, .none⟩] },
   { name := "SCP_HSTREAM", base := 0x700100, dims := [(0x8, 64)], plane := .data, apply := .plain,
     fields := [⟨"ENABLE", 0, 1, .rw, 0x0, .none⟩,
       ⟨"SLOTS", 4, 12, .rw, 0x0, .none⟩,
       ⟨"SLOT_UNITS", 16, 4, .rw, 0x0, .above 8 8⟩,
       ⟨"BASE", 32, 12, .rw, 0x0, .none⟩] },
   { name := "SCP_HSTREAM_STAT", base := 0x700300, dims := [(0x8, 64)], plane := .data, apply := .plain,
     fields := [⟨"HEAD", 0, 32, .ro, 0x0, .none⟩,
       ⟨"TAIL", 32, 32, .ro, 0x0, .none⟩] },
   { name := "SCP_ECC", base := 0x700008, dims := [], plane := .data, apply := .plain,
     fields := [⟨"CORRECTED", 0, 24, .ro, 0x0, .none⟩,
       ⟨"UNCORRECTED", 24, 24, .ro, 0x0, .none⟩] }]

/-- The registers of block GRN (R718). -/
def regsGrn : List RegSpec :=
  [{ name := "GRN_CTRL", base := 0x900000, dims := [], plane := .data, apply := .plain,
     fields := [⟨"HWPF", 0, 1, .rw, 0x1, .none⟩,
       ⟨"KEEP_WAYS", 4, 4, .rw, 0xC, .none⟩] },
   { name := "GRN_DEADCHK", base := 0x900008, dims := [], plane := .data, apply := .plain,
     fields := [⟨"PART", 0, 4, .rw, 0x0, .none⟩] },
   { name := "GRN_DEAD_REREAD", base := 0x900010, dims := [], plane := .data, apply := .plain,
     fields := [⟨"COUNT", 0, 48, .ro, 0x0, .none⟩] },
   { name := "GRN_COMMON", base := 0x900018, dims := [], plane := .data, apply := .allReset,
     fields := [⟨"GRANULES", 0, 22, .rw, 0x0, .granules⟩] },
   { name := "GRN_SEGMENT", base := 0x900020, dims := [], plane := .data, apply := .plain,
     fields := [⟨"LEN0", 0, 11, .ro, 0x0, .none⟩,
       ⟨"LEN1", 16, 11, .ro, 0x0, .none⟩,
       ⟨"LEN2", 32, 11, .ro, 0x0, .none⟩,
       ⟨"LEN3", 48, 11, .ro, 0x0, .none⟩] },
   { name := "GRN_BUCKET", base := 0x900800, dims := [(0x8, 256)], plane := .data, apply := .plain,
     fields := [⟨"CHANNEL0", 0, 8, .ro, 0x0, .none⟩,
       ⟨"CHANNEL1", 16, 8, .ro, 0x0, .none⟩,
       ⟨"CHANNEL2", 32, 8, .ro, 0x0, .none⟩,
       ⟨"CHANNEL3", 48, 8, .ro, 0x0, .none⟩,
       ⟨"VALID0", 15, 1, .ro, 0x0, .none⟩,
       ⟨"VALID1", 31, 1, .ro, 0x0, .none⟩,
       ⟨"VALID2", 47, 1, .ro, 0x0, .none⟩,
       ⟨"VALID3", 63, 1, .ro, 0x0, .none⟩] },
   { name := "GRN_ORD_EVENTS", base := 0x900028, dims := [], plane := .data, apply := .plain,
     fields := [⟨"BROKEN", 0, 16, .ro, 0x0, .none⟩,
       ⟨"TIES", 16, 16, .ro, 0x0, .none⟩,
       ⟨"UNKEYED", 32, 16, .ro, 0x0, .none⟩,
       ⟨"BROKEN_SEEN", 48, 1, .w1c, 0x0, .none⟩] },
   { name := "GRN_SLICE_STATUS", base := 0x800000, dims := [(0x1000, 256)], plane := .data, apply := .plain,
     fields := [⟨"CHANNEL", 0, 8, .ro, 0, .none⟩,
       ⟨"FENCED", 8, 1, .ro, 0x0, .none⟩,
       ⟨"MAPPED_OUT", 9, 1, .ro, 0x0, .none⟩,
       ⟨"OWNER", 10, 2, .ro, 0x0, .none⟩,
       ⟨"PINNED", 12, 13, .ro, 0x0, .none⟩,
       ⟨"ORD_FILL", 25, 12, .ro, 0x0, .none⟩,
       ⟨"DISCARDED", 40, 24, .ro, 0x0, .none⟩] },
   { name := "GRN_SLICE_HOTBANK", base := 0x800008, dims := [(0x1000, 256)], plane := .data, apply := .plain,
     fields := [⟨"COUNT", 0, 48, .ro, 0x0, .none⟩] },
   { name := "GRN_SLICE_ECC", base := 0x800010, dims := [(0x1000, 256)], plane := .data, apply := .plain,
     fields := [⟨"CORRECTED", 0, 24, .ro, 0x0, .none⟩,
       ⟨"UNCORRECTED", 24, 24, .ro, 0x0, .none⟩] }]

/-- The registers of block HBM (R718). -/
def regsHbm : List RegSpec :=
  [{ name := "HBM_STATUS", base := 0xA00000, dims := [(0x10000, 8)], plane := .data, apply := .plain,
     fields := [⟨"STATE", 0, 3, .ro, 0x0, .none⟩,
       ⟨"HEALTHY", 8, 6, .ro, 0x0, .none⟩,
       ⟨"DRAM_TEMP", 16, 8, .ro, 0x0, .none⟩,
       ⟨"HOT", 24, 1, .ro, 0x0, .none⟩,
       ⟨"LOOP_REFUSED", 32, 16, .ro, 0x0, .none⟩,
       ⟨"RETRAINS", 48, 16, .ro, 0x0, .none⟩] },
   { name := "HBM_CTRL", base := 0xA00008, dims := [(0x10000, 8)], plane := .data, apply := .plain,
     fields := [⟨"UE_LIMIT", 0, 8, .rw, 0x40, .none⟩,
       ⟨"MARK_MAPOUT", 8, 4, .rw, 0x4, .oneTo 8 8⟩,
       ⟨"SCRUB_EN", 12, 1, .rw, 0x1, .none⟩,
       ⟨"RETRAIN_EN", 13, 1, .rw, 0x1, .none⟩,
       ⟨"RETRAIN_DELTA", 16, 8, .rw, 0xA, .zero 1⟩] },
   { name := "HBM_CHAN", base := 0xA00100, dims := [(0x10000, 8), (0x8, 32)], plane := .data, apply := .plain,
     fields := [⟨"STATE", 0, 2, .ro, 0x0, .none⟩,
       ⟨"LANE", 2, 4, .ro, 0xF, .none⟩,
       ⟨"PINS", 6, 8, .ro, 0x0, .none⟩,
       ⟨"POISON", 14, 10, .ro, 0x0, .none⟩,
       ⟨"CORRECTED", 24, 24, .ro, 0x0, .none⟩,
       ⟨"UNCORR", 48, 16, .ro, 0x0, .none⟩] },
   { name := "HBM_SCRUB", base := 0xA00010, dims := [(0x10000, 8)], plane := .data, apply := .plain,
     fields := [⟨"LINE", 0, 24, .ro, 0x0, .none⟩,
       ⟨"PASSES", 32, 24, .ro, 0x0, .none⟩] },
   { name := "HBM_LOOP", base := 0xA00018, dims := [(0x10000, 8)], plane := .data, apply := .plain,
     fields := [⟨"MODE", 0, 2, .rw, 0x0, .none⟩,
       ⟨"PATTERN", 2, 2, .rw, 0x0, .none⟩,
       ⟨"CHANNEL", 4, 5, .rw, 0x0, .none⟩,
       ⟨"RUN", 9, 1, .rw, 0x0, .none⟩] },
   { name := "HBM_LOOP_ERR", base := 0xA00020, dims := [(0x10000, 8)], plane := .data, apply := .plain,
     fields := [⟨"ERRORS", 0, 48, .ro, 0x0, .none⟩,
       ⟨"FIRST_PIN", 48, 8, .ro, 0xFF, .none⟩] }]

/-- The registers of block MMU (R718). -/
def regsMmu : List RegSpec :=
  [{ name := "MMU_ROOT", base := 0xB00000, dims := [(0x8, 4)], plane := .data, apply := .ownerReset,
     fields := [⟨"ROOT", 16, 36, .rw, 0x0, .none⟩] },
   { name := "MMU_CSA", base := 0xB00020, dims := [(0x8, 4)], plane := .data, apply := .ownerReset,
     fields := [⟨"BASE", 12, 40, .rw, 0x0, .none⟩] },
   { name := "MMU_FRING_BASE", base := 0xB00040, dims := [(0x8, 4)], plane := .data, apply := .plain,
     fields := [⟨"BASE", 6, 46, .rw, 0x0, .none⟩] },
   { name := "MMU_FRING_CTL", base := 0xB00060, dims := [(0x8, 4)], plane := .data, apply := .plain,
     fields := [⟨"LOG2SIZE", 0, 5, .rw, 0x4, .range 4 16⟩,
       ⟨"PRODUCER", 8, 47, .rw, 0x0, .none⟩] },
   { name := "MMU_FRING_STAT", base := 0xB00080, dims := [(0x8, 4)], plane := .data, apply := .plain,
     fields := [⟨"POSTED", 0, 32, .ro, 0x0, .none⟩,
       ⟨"FREED", 32, 32, .ro, 0x0, .none⟩] },
   { name := "MMU_CTRL", base := 0xB000A0, dims := [], plane := .data, apply := .plain,
     fields := [⟨"FAULT_TURNS", 0, 16, .rw, 0x40, .none⟩] },
   { name := "MMU_STATUS", base := 0xB000A8, dims := [], plane := .data, apply := .plain,
     fields := [⟨"BAD_REPLY", 0, 16, .ro, 0x0, .none⟩,
       ⟨"TIMEOUTS", 16, 16, .ro, 0x0, .none⟩,
       ⟨"FRING_FULL", 32, 14, .ro, 0x0, .none⟩,
       ⟨"ATTACHED", 46, 14, .ro, 0x0, .none⟩,
       ⟨"CSA_BAD", 60, 4, .ro, 0x0, .none⟩] }]

/-- The registers of block SLC (R718). -/
def regsSlc : List RegSpec :=
  [{ name := "SLC_STATUS", base := 0xC00000, dims := [], plane := .data, apply := .plain,
     fields := [⟨"BUSY", 0, 32, .ro, 0x0, .none⟩,
       ⟨"BOLT_BUSY", 32, 4, .ro, 0x0, .none⟩,
       ⟨"STOPPED", 36, 4, .ro, 0x0, .none⟩,
       ⟨"OCC0", 40, 5, .ro, 0x0, .none⟩,
       ⟨"OCC1", 45, 5, .ro, 0x0, .none⟩,
       ⟨"OCC2", 50, 5, .ro, 0x0, .none⟩,
       ⟨"OCC3", 55, 5, .ro, 0x0, .none⟩] },
   { name := "SLC_ALLOC", base := 0xC00008, dims := [], plane := .data, apply := .plain,
     fields := [⟨"SLUICES", 0, 6, .ro, 0x20, .none⟩] },
   { name := "SLC_EVENTS", base := 0xC00010, dims := [], plane := .data, apply := .plain,
     fields := [⟨"IDX_RANGE", 0, 24, .ro, 0x0, .none⟩,
       ⟨"CLAMPS", 24, 24, .ro, 0x0, .none⟩] }]

/-- The registers of block QUE (R718). -/
def regsQue : List RegSpec :=
  [{ name := "QUE_RBASE", base := 0xD00000, dims := [(0x40, 256)], plane := .control, apply := .plain,
     fields := [⟨"BASE", 6, 46, .rw, 0x0, .none⟩] },
   { name := "QUE_CBASE", base := 0xD00008, dims := [(0x40, 256)], plane := .control, apply := .plain,
     fields := [⟨"BASE", 6, 46, .rw, 0x0, .none⟩] },
   { name := "QUE_DB", base := 0xD00010, dims := [(0x40, 256)], plane := .control, apply := .plain,
     fields := [⟨"ADDR", 3, 49, .rw, 0x0, .none⟩] },
   { name := "QUE_HEADW", base := 0xD00018, dims := [(0x40, 256)], plane := .control, apply := .plain,
     fields := [⟨"ADDR", 3, 49, .rw, 0x0, .none⟩] },
   { name := "QUE_CPROD", base := 0xD00020, dims := [(0x40, 256)], plane := .control, apply := .plain,
     fields := [⟨"ADDR", 3, 49, .rw, 0x0, .none⟩] },
   { name := "QUE_CCONS", base := 0xD00028, dims := [(0x40, 256)], plane := .control, apply := .plain,
     fields := [⟨"ADDR", 3, 49, .rw, 0x0, .none⟩] },
   { name := "QUE_RCTL", base := 0xD00030, dims := [(0x40, 256)], plane := .control, apply := .plain,
     fields := [⟨"ENABLE", 0, 1, .rw, 0x0, .none⟩,
       ⟨"CLASS", 1, 2, .rw, 0x0, .none⟩,
       ⟨"DEFERRED", 3, 1, .rw, 0x0, .none⟩,
       ⟨"PRIO", 4, 2, .rw, 0x0, .none⟩,
       ⟨"LOG2SIZE", 6, 5, .rw, 0x4, .range 4 16⟩,
       ⟨"CLOG2SIZE", 11, 5, .rw, 0x4, .range 4 16⟩,
       ⟨"ADMIT_MAX", 16, 11, .rw, 0x7FF, .none⟩] },
   { name := "QUE_RSTAT", base := 0xD00038, dims := [(0x40, 256)], plane := .control, apply := .plain,
     fields := [⟨"HEAD", 0, 32, .ro, 0x0, .none⟩,
       ⟨"STOPPED", 32, 1, .ro, 0x0, .none⟩,
       ⟨"ACTIVE", 33, 1, .ro, 0x0, .none⟩,
       ⟨"STOP_STATUS", 40, 8, .ro, 0x0, .none⟩,
       ⟨"BAD_DB", 48, 16, .ro, 0x0, .none⟩] },
   { name := "QUE_EVENTS", base := 0xD04000, dims := [], plane := .control, apply := .plain,
     fields := [⟨"BAD_CONSUMER", 0, 16, .ro, 0x0, .none⟩,
       ⟨"CPL_DROPPED", 16, 16, .ro, 0x0, .none⟩,
       ⟨"FETCH_POISON", 32, 16, .ro, 0x0, .none⟩] },
   { name := "QUE_DPOOL", base := 0xD04008, dims := [], plane := .control, apply := .plain,
     fields := [⟨"OCC0", 0, 7, .ro, 0x0, .none⟩,
       ⟨"OCC1", 8, 7, .ro, 0x0, .none⟩,
       ⟨"OCC2", 16, 7, .ro, 0x0, .none⟩,
       ⟨"OCC3", 24, 7, .ro, 0x0, .none⟩] }]

/-- The registers of block PRT (R718). -/
def regsPrt : List RegSpec :=
  [{ name := "PRT_LAYOUT", base := 0x300000, dims := [], plane := .control, apply := .plain,
     fields := [⟨"COUNT", 0, 2, .rw, 0x0, .above 2 2⟩,
       ⟨"ACTIVE", 8, 2, .ro, 0x0, .none⟩] },
   { name := "PRT_RESET", base := 0x300008, dims := [], plane := .control, apply := .boundary,
     fields := [⟨"PART", 0, 4, .wo, 0x0, .none⟩] },
   { name := "PRT_STATUS", base := 0x300010, dims := [], plane := .control, apply := .plain,
     fields := [⟨"READY", 0, 4, .ro, 0x0, .none⟩,
       ⟨"RESETTING", 4, 4, .ro, 0x0, .none⟩,
       ⟨"STOPPED", 8, 4, .ro, 0x0, .none⟩,
       ⟨"WITHHELD", 12, 4, .ro, 0x0, .none⟩,
       ⟨"RESETS", 32, 16, .ro, 0x0, .none⟩] },
   { name := "PRT_PART", base := 0x300020, dims := [(0x8, 4)], plane := .control, apply := .plain,
     fields := [⟨"JOB", 0, 16, .rw, 0x0, .none⟩] },
   { name := "PRT_SWR_A", base := 0x300100, dims := [(0x8, 16)], plane := .control, apply := .plain,
     fields := [⟨"ENABLE", 0, 1, .rw, 0x0, .none⟩,
       ⟨"MAP", 1, 4, .rw, 0x0, .none⟩,
       ⟨"SRC", 5, 2, .rw, 0x0, .keep 3⟩,
       ⟨"PORT", 7, 3, .rw, 0x0, .none⟩,
       ⟨"BASE", 16, 36, .rw, 0x0, .none⟩] },
   { name := "PRT_SWR_B", base := 0x300180, dims := [(0x8, 16)], plane := .control, apply := .plain,
     fields := [⟨"PAGES", 0, 36, .rw, 0x0, .none⟩] },
   { name := "PRT_SWR_C", base := 0x300200, dims := [(0x8, 16)], plane := .control, apply := .plain,
     fields := [⟨"SOURCE", 7, 45, .rw, 0x0, .none⟩] },
   { name := "PRT_SWR_STAT", base := 0x300280, dims := [(0x8, 16)], plane := .control, apply := .plain,
     fields := [⟨"REFETCHED", 0, 24, .ro, 0x0, .none⟩,
       ⟨"POISONED", 24, 24, .ro, 0x0, .none⟩,
       ⟨"ACTIVE", 48, 1, .ro, 0x0, .none⟩] }]

/-- The registers of block FAB (R718). -/
def regsFab : List RegSpec :=
  [{ name := "FAB_PORT_CTL", base := 0xE00000, dims := [(0x8, 6)], plane := .data, apply := .plain,
     fields := [⟨"ENABLE", 0, 1, .rw, 0x1, .none⟩,
       ⟨"PROFILE", 1, 1, .rw, 0x0, .none⟩,
       ⟨"MIN_WIDTH", 2, 2, .rw, 0x0, .none⟩,
       ⟨"RETRAIN_EN", 4, 1, .rw, 0x1, .none⟩,
       ⟨"UCW_LIMIT", 8, 8, .rw, 0x10, .zero 1⟩] },
   { name := "FAB_PORT_STAT", base := 0xE00040, dims := [(0x8, 6)], plane := .data, apply := .plain,
     fields := [⟨"STATE", 0, 3, .ro, 0x0, .none⟩,
       ⟨"GROUPS", 3, 4, .ro, 0x0, .none⟩,
       ⟨"WIDTH", 7, 6, .ro, 0x0, .none⟩,
       ⟨"DEGRADED", 13, 1, .ro, 0x0, .none⟩,
       ⟨"LINKUPS", 16, 16, .ro, 0x0, .none⟩,
       ⟨"RETRAINS", 32, 16, .ro, 0x0, .none⟩] },
   { name := "FAB_PORT_ERR", base := 0xE00080, dims := [(0x8, 6)], plane := .data, apply := .plain,
     fields := [⟨"BAD_FLITS", 0, 24, .ro, 0x0, .none⟩,
       ⟨"REPLAYS", 24, 24, .ro, 0x0, .none⟩,
       ⟨"NO_CREDIT", 48, 16, .ro, 0x0, .none⟩] },
   { name := "FAB_PEER", base := 0xE00100, dims := [(0x80, 6), (0x8, 12)], plane := .data, apply := .plain,
     fields := [⟨"WORD", 0, 64, .ro, 0x0, .none⟩] },
   { name := "FAB_COORD", base := 0xE00400, dims := [], plane := .data, apply := .plain,
     fields := [⟨"NODE", 0, 18, .rw, 0x0, .none⟩,
       ⟨"NODE_N", 32, 18, .rw, 0x0, .none⟩,
       ⟨"VALID", 63, 1, .ro, 0x0, .none⟩] },
   { name := "FAB_DIMS", base := 0xE00408, dims := [], plane := .data, apply := .plain,
     fields := [⟨"XS", 0, 6, .rw, 0x0, .none⟩,
       ⟨"YS", 6, 6, .rw, 0x0, .none⟩,
       ⟨"ZS", 12, 6, .rw, 0x0, .none⟩,
       ⟨"DIMS_N", 32, 18, .rw, 0x0, .none⟩,
       ⟨"VALID", 63, 1, .ro, 0x0, .none⟩] },
   { name := "FAB_RTE_A", base := 0xE00800, dims := [(0x8, 64)], plane := .data, apply := .plain,
     fields := [⟨"VALUE", 0, 18, .rw, 0x0, .none⟩,
       ⟨"MASK", 18, 18, .rw, 0x0, .none⟩,
       ⟨"PORT", 36, 3, .rw, 0x0, .keep 7⟩,
       ⟨"FORCE_VC1", 39, 1, .rw, 0x0, .none⟩,
       ⟨"ENABLE", 40, 1, .rw, 0x0, .none⟩] },
   { name := "FAB_RTE_B", base := 0xE00A00, dims := [(0x8, 64)], plane := .data, apply := .plain,
     fields := [⟨"COMPL", 0, 41, .rw, 0x0, .none⟩] },
   { name := "FAB_ING_A", base := 0xE00C00, dims := [(0x8, 64)], plane := .data, apply := .plain,
     fields := [⟨"JOB", 0, 16, .rw, 0x0, .none⟩,
       ⟨"PART", 16, 2, .rw, 0x0, .none⟩,
       ⟨"PORTS", 18, 6, .rw, 0x0, .none⟩,
       ⟨"RD", 24, 1, .rw, 0x0, .none⟩,
       ⟨"WR", 25, 1, .rw, 0x0, .none⟩,
       ⟨"ATOM", 26, 1, .rw, 0x0, .none⟩,
       ⟨"MSG", 27, 1, .rw, 0x0, .none⟩,
       ⟨"ENABLE", 28, 1, .rw, 0x0, .none⟩] },
   { name := "FAB_ING_B", base := 0xE00E00, dims := [(0x8, 64)], plane := .data, apply := .plain,
     fields := [⟨"COMPL", 0, 29, .rw, 0x0, .none⟩] },
   { name := "FAB_ING_STOP", base := 0xE00430, dims := [], plane := .data, apply := .plain,
     fields := [⟨"STOPPED", 0, 64, .ro, 0x0, .none⟩] },
   { name := "FAB_MBOX_A", base := 0xE00440, dims := [(0x8, 4)], plane := .data, apply := .plain,
     fields := [⟨"LOG2SLOTS", 0, 4, .rw, 0x0, .above 12 12⟩,
       ⟨"BASE", 6, 46, .rw, 0x0, .none⟩] },
   { name := "FAB_MBOX_B", base := 0xE00460, dims := [(0x8, 4)], plane := .data, apply := .plain,
     fields := [⟨"PROD", 3, 49, .rw, 0x0, .none⟩] },
   { name := "FAB_JOBSTOP", base := 0xE00410, dims := [], plane := .data, apply := .plain,
     fields := [⟨"JOB", 0, 16, .wo, 0x0, .none⟩,
       ⟨"STOP_ID", 16, 32, .wo, 0x0, .none⟩] },
   { name := "FAB_EVENTS", base := 0xE00418, dims := [], plane := .data, apply := .plain,
     fields := [⟨"NO_ROUTE", 0, 16, .ro, 0x0, .none⟩,
       ⟨"KIND_DROP", 16, 16, .ro, 0x0, .none⟩,
       ⟨"BAD_PAIR", 32, 8, .ro, 0x0, .none⟩,
       ⟨"MBOX_DROP", 40, 16, .ro, 0x0, .none⟩,
       ⟨"STOPS", 56, 8, .ro, 0x0, .none⟩] },
   { name := "FAB_DENY", base := 0xE00420, dims := [], plane := .data, apply := .plain,
     fields := [⟨"JOB", 0, 16, .ro, 0x0, .none⟩,
       ⟨"PERM", 16, 16, .ro, 0x0, .none⟩,
       ⟨"PART", 32, 16, .ro, 0x0, .none⟩,
       ⟨"XLAT", 48, 16, .ro, 0x0, .none⟩] },
   { name := "FAB_TIMEOUTS", base := 0xE00428, dims := [], plane := .data, apply := .plain,
     fields := [⟨"TIMEOUTS", 0, 24, .ro, 0x0, .none⟩,
       ⟨"LATE", 24, 24, .ro, 0x0, .none⟩,
       ⟨"MBOX_BAD", 48, 16, .ro, 0x0, .none⟩] }]

/-- The registers of block COL (R718). -/
def regsCol : List RegSpec :=
  [{ name := "COL_GRP_A", base := 0xF00000, dims := [(0x8, 256)], plane := .data, apply := .plain,
     fields := [⟨"NEXT", 0, 18, .rw, 0x0, .none⟩,
       ⟨"PREV", 18, 18, .rw, 0x0, .none⟩,
       ⟨"RANK", 36, 16, .rw, 0x0, .none⟩,
       ⟨"PART", 52, 2, .rw, 0x0, .none⟩,
       ⟨"LENIENT", 54, 1, .rw, 0x0, .none⟩,
       ⟨"CARRY", 55, 1, .rw, 0x0, .none⟩,
       ⟨"ENABLE", 56, 1, .rw, 0x0, .none⟩] },
   { name := "COL_GRP_B", base := 0xF00800, dims := [(0x8, 256)], plane := .data, apply := .plain,
     fields := [⟨"SIZE", 0, 16, .rw, 0x0, .none⟩,
       ⟨"JOB", 16, 16, .rw, 0x0, .none⟩,
       ⟨"GEN", 32, 32, .rw, 0x0, .none⟩] },
   { name := "COL_GRP_C", base := 0xF01000, dims := [(0x8, 256)], plane := .data, apply := .plain,
     fields := [⟨"COMPL", 0, 57, .rw, 0x0, .none⟩] },
   { name := "COL_GRP_D", base := 0xF01800, dims := [(0x8, 256)], plane := .data, apply := .plain,
     fields := [⟨"COMPL", 0, 64, .rw, 0x0, .none⟩] },
   { name := "COL_GRP_STAT", base := 0xF02000, dims := [(0x8, 256)], plane := .data, apply := .plain,
     fields := [⟨"OPSEQ", 0, 32, .ro, 0x0, .none⟩,
       ⟨"VALID", 32, 1, .ro, 0x0, .none⟩,
       ⟨"BUSY", 33, 1, .ro, 0x0, .none⟩,
       ⟨"CARRY_PEND", 34, 1, .ro, 0x0, .none⟩] },
   { name := "COL_CTRL", base := 0xF02800, dims := [], plane := .data, apply := .plain,
     fields := [⟨"STALL_TURNS", 0, 8, .rw, 0x4, .zero 1⟩] },
   { name := "COL_STATUS", base := 0xF02808, dims := [], plane := .data, apply := .plain,
     fields := [⟨"OCC0", 0, 6, .ro, 0x0, .none⟩,
       ⟨"OCC1", 8, 6, .ro, 0x0, .none⟩,
       ⟨"OCC2", 16, 6, .ro, 0x0, .none⟩,
       ⟨"OCC3", 24, 6, .ro, 0x0, .none⟩,
       ⟨"RUN0", 32, 4, .ro, 0x0, .none⟩,
       ⟨"RUN1", 36, 4, .ro, 0x0, .none⟩,
       ⟨"RUN2", 40, 4, .ro, 0x0, .none⟩,
       ⟨"RUN3", 44, 4, .ro, 0x0, .none⟩] },
   { name := "COL_EVENTS", base := 0xF02810, dims := [], plane := .data, apply := .plain,
     fields := [⟨"STALE", 0, 16, .ro, 0x0, .none⟩,
       ⟨"DROP", 16, 16, .ro, 0x0, .none⟩,
       ⟨"LATE", 32, 12, .ro, 0x0, .none⟩,
       ⟨"TIMEOUTS", 44, 12, .ro, 0x0, .none⟩,
       ⟨"BAD_PAIR", 56, 8, .ro, 0x0, .none⟩] }]

/-- The registers of block ERR (R718). -/
def regsErr : List RegSpec :=
  [{ name := "ERR_CTRL", base := 0x1300000, dims := [], plane := .management, apply := .plain,
     fields := [⟨"RING_EN", 0, 1, .rw, 0x0, .none⟩,
       ⟨"RING_MIN", 1, 3, .rw, 0x0, .above 4 4⟩] },
   { name := "ERR_RING_BASE", base := 0x1300008, dims := [], plane := .management, apply := .plain,
     fields := [⟨"BASE", 6, 46, .rw, 0x0, .none⟩] },
   { name := "ERR_RING_CTL", base := 0x1300010, dims := [], plane := .management, apply := .plain,
     fields := [⟨"LOG2SIZE", 0, 5, .rw, 0x4, .range 4 16⟩,
       ⟨"PRODUCER", 8, 47, .rw, 0x0, .none⟩] },
   { name := "ERR_STATUS", base := 0x1300018, dims := [], plane := .management, apply := .plain,
     fields := [⟨"DEVICE_FATAL", 0, 1, .ro, 0x0, .none⟩,
       ⟨"PART_FATAL", 1, 4, .ro, 0x0, .none⟩,
       ⟨"DEGRADED", 5, 1, .ro, 0x0, .none⟩,
       ⟨"INTAKE_LOST", 16, 16, .ro, 0x0, .none⟩,
       ⟨"RING_DROPPED", 32, 16, .ro, 0x0, .none⟩,
       ⟨"BAD_CONSUMER", 48, 16, .ro, 0x0, .none⟩] },
   { name := "ERR_CLOG_STAT", base := 0x1300020, dims := [], plane := .management, apply := .plain,
     fields := [⟨"ENTRIES", 0, 13, .ro, 0x0, .none⟩,
       ⟨"OVERFLOW", 32, 32, .ro, 0x0, .none⟩] },
   { name := "ERR_FLOG_STAT", base := 0x1300028, dims := [], plane := .management, apply := .plain,
     fields := [⟨"ENTRIES", 0, 13, .ro, 0x0, .none⟩,
       ⟨"OVERFLOW", 32, 32, .ro, 0x0, .none⟩] },
   { name := "ERR_LOG_SEL", base := 0x1300030, dims := [], plane := .management, apply := .plain,
     fields := [⟨"INDEX", 0, 12, .rw, 0x0, .none⟩,
       ⟨"LOG", 12, 1, .rw, 0x0, .none⟩] },
   { name := "ERR_LOG_WORD", base := 0x1300040, dims := [(0x8, 8)], plane := .management, apply := .plain,
     fields := [⟨"WORD", 0, 64, .ro, 0x0, .none⟩] },
   { name := "ERR_FLOG_CLEAR", base := 0x1300080, dims := [], plane := .management, apply := .plain,
     fields := [⟨"CLEAR", 0, 1, .wo, 0x0, .none⟩] },
   { name := "ERR_RATE_PRIOR", base := 0x1300088, dims := [], plane := .management, apply := .plain,
     fields := [⟨"PRIOR_FIT", 0, 32, .rw, 0x4BCE, .zero 1⟩] },
   { name := "ERR_RATE_HIST", base := 0x1300090, dims := [], plane := .management, apply := .plain,
     fields := [⟨"EVENTS", 0, 32, .rw, 0x0, .none⟩,
       ⟨"HOURS", 32, 32, .rw, 0x0, .none⟩] },
   { name := "ERR_RATE", base := 0x1300098, dims := [], plane := .management, apply := .plain,
     fields := [⟨"FIT", 0, 32, .ro, 0x4BCE, .none⟩,
       ⟨"EVENTS", 32, 16, .ro, 0x0, .none⟩] },
   { name := "ERR_CKPT_CTL", base := 0x13000A0, dims := [], plane := .management, apply := .plain,
     fields := [⟨"MODULES", 0, 17, .rw, 0x1, .range 1 65536⟩,
       ⟨"COST_US", 20, 44, .rw, 0x0, .none⟩] },
   { name := "ERR_CKPT_COVER", base := 0x13000A8, dims := [], plane := .management, apply := .plain,
     fields := [⟨"COVER", 0, 17, .rw, 0x10000, .zero 1⟩] },
   { name := "ERR_CKPT_INTERVAL", base := 0x13000B0, dims := [], plane := .management, apply := .plain,
     fields := [⟨"TURNS", 0, 32, .ro, 0x0, .none⟩] }]

/-- The registers of block TST (R718). -/
def regsTst : List RegSpec :=
  [{ name := "TST_SCAN_CTL", base := 0x1400000, dims := [], plane := .management, apply := .boundary,
     fields := [⟨"ENABLE", 0, 1, .rw, 0x1, .none⟩] },
   { name := "TST_SCAN_STAT", base := 0x1400008, dims := [], plane := .management, apply := .plain,
     fields := [⟨"GROUP", 0, 6, .ro, 0x0, .none⟩,
       ⟨"OPEN", 6, 1, .ro, 0x0, .none⟩,
       ⟨"PASSES", 16, 16, .ro, 0x0, .none⟩,
       ⟨"FAILS", 32, 16, .ro, 0x0, .none⟩,
       ⟨"SKIPPED", 48, 16, .ro, 0x0, .none⟩] },
   { name := "TST_SCAN_FAIL", base := 0x1400010, dims := [], plane := .management, apply := .plain,
     fields := [⟨"GROUPS", 0, 43, .ro, 0x0, .none⟩] },
   { name := "TST_PACK", base := 0x1400018, dims := [], plane := .management, apply := .plain,
     fields := [⟨"VERSION", 0, 32, .ro, 0x0, .none⟩,
       ⟨"SLOT", 32, 1, .ro, 0x0, .none⟩,
       ⟨"VALID", 33, 1, .ro, 0x0, .none⟩] },
   { name := "TST_DIG_CTL", base := 0x1400020, dims := [], plane := .management, apply := .boundary,
     fields := [⟨"ENABLE", 0, 1, .rw, 0x0, .none⟩,
       ⟨"PART", 1, 2, .rw, 0x0, .none⟩,
       ⟨"GROUP", 3, 8, .rw, 0x0, .none⟩,
       ⟨"SNAP", 11, 1, .wo, 0x0, .none⟩,
       ⟨"CLEAR", 12, 1, .wo, 0x0, .none⟩,
       ⟨"GEN", 32, 32, .rw, 0x0, .none⟩] },
   { name := "TST_DIG_KEY", base := 0x1400028, dims := [], plane := .management, apply := .boundary,
     fields := [⟨"KEY0", 0, 32, .rw, 0x0, .none⟩,
       ⟨"KEY1", 32, 32, .rw, 0x0, .none⟩] },
   { name := "TST_DIG_RANGE_A", base := 0x1400040, dims := [(0x8, 4)], plane := .management, apply := .boundary,
     fields := [⟨"ENABLE", 0, 1, .rw, 0x0, .none⟩,
       ⟨"BASE", 16, 36, .rw, 0x0, .none⟩] },
   { name := "TST_DIG_RANGE_B", base := 0x1400060, dims := [(0x8, 4)], plane := .management, apply := .boundary,
     fields := [⟨"PAGES", 0, 36, .rw, 0x0, .none⟩] },
   { name := "TST_DIG_TABLE", base := 0x1400080, dims := [], plane := .management, apply := .boundary,
     fields := [⟨"BASE", 6, 46, .rw, 0x0, .none⟩] },
   { name := "TST_DIG_SNAP", base := 0x1400088, dims := [(0x8, 4)], plane := .management, apply := .plain,
     fields := [⟨"WORD", 0, 64, .ro, 0x0, .none⟩] },
   { name := "TST_DIG_STAT", base := 0x14000A8, dims := [], plane := .management, apply := .plain,
     fields := [⟨"SNAP_GEN", 0, 32, .ro, 0x0, .none⟩,
       ⟨"AGREED", 32, 16, .ro, 0x0, .none⟩,
       ⟨"MISMATCH", 48, 8, .ro, 0x0, .none⟩,
       ⟨"SKEW", 56, 8, .ro, 0x0, .none⟩] }]

/-- The registers of block MIL (R718). -/
def regsMil : List RegSpec :=
  [{ name := "MIL_SRV_CTL", base := 0x100100, dims := [(0x8, 4)], plane := .management, apply := .boundary,
     fields := [⟨"ENABLE", 0, 1, .rw, 0x0, .none⟩,
       ⟨"SCB", 6, 46, .rw, 0x0, .none⟩] },
   { name := "MIL_SRV_STAT", base := 0x100120, dims := [(0x8, 4)], plane := .management, apply := .plain,
     fields := [⟨"STATE", 0, 2, .ro, 0x0, .none⟩,
       ⟨"CAUSE", 2, 4, .ro, 0x0, .none⟩,
       ⟨"ACTIVE", 6, 12, .ro, 0x0, .none⟩,
       ⟨"WAITING", 18, 12, .ro, 0x0, .none⟩,
       ⟨"FREE_PAGES", 32, 32, .ro, 0x0, .none⟩] },
   { name := "MIL_SRV_EVENTS", base := 0x100140, dims := [(0x8, 4)], plane := .management, apply := .plain,
     fields := [⟨"STEPS", 0, 24, .ro, 0x0, .none⟩,
       ⟨"EVICTIONS", 24, 16, .ro, 0x0, .none⟩,
       ⟨"TOKSTALL", 40, 12, .ro, 0x0, .none⟩,
       ⟨"BAD", 52, 12, .ro, 0x0, .none⟩] }]

/-- The registers of block CPL (R718). -/
def regsCpl : List RegSpec :=
  [{ name := "CPL_STATUS", base := 0x1000000, dims := [], plane := .data, apply := .plain,
     fields := [⟨"STATE", 0, 2, .ro, 0x0, .none⟩,
       ⟨"GROUPS", 2, 4, .ro, 0x0, .none⟩,
       ⟨"WIDTH", 6, 5, .ro, 0x0, .none⟩,
       ⟨"QUAR", 11, 2, .ro, 0x0, .none⟩,
       ⟨"LINKUPS", 16, 16, .ro, 0x0, .none⟩] },
   { name := "CPL_CTL", base := 0x1000008, dims := [], plane := .data, apply := .plain,
     fields := [⟨"UCW_LIMIT", 0, 8, .rw, 0x10, .zero 1⟩,
       ⟨"VIOL_LIMIT", 8, 16, .rw, 0x40, .zero 1⟩] },
   { name := "CPL_VIOL", base := 0x1000010, dims := [], plane := .data, apply := .plain,
     fields := [⟨"REQ", 0, 12, .ro, 0x0, .none⟩,
       ⟨"SNP", 12, 12, .ro, 0x0, .none⟩,
       ⟨"RSP", 24, 12, .ro, 0x0, .none⟩,
       ⟨"DAT", 36, 12, .ro, 0x0, .none⟩,
       ⟨"MGT", 48, 12, .ro, 0x0, .none⟩] },
   { name := "CPL_NAK_LAST", base := 0x1000018, dims := [], plane := .data, apply := .plain,
     fields := [⟨"CODE", 0, 8, .ro, 0x0, .none⟩,
       ⟨"CLASS", 8, 3, .ro, 0x0, .none⟩,
       ⟨"TAG", 11, 12, .ro, 0x0, .none⟩,
       ⟨"TURN", 32, 32, .ro, 0x0, .none⟩] },
   { name := "CPL_EVENTS", base := 0x1000020, dims := [], plane := .data, apply := .plain,
     fields := [⟨"FAILED", 0, 16, .ro, 0x0, .none⟩,
       ⟨"LATE", 16, 16, .ro, 0x0, .none⟩,
       ⟨"QUARANTINES", 32, 16, .ro, 0x0, .none⟩] },
   { name := "CPL_CACHE", base := 0x1000028, dims := [], plane := .data, apply := .plain,
     fields := [⟨"SHARED", 0, 17, .ro, 0x0, .none⟩,
       ⟨"PINNED", 17, 16, .ro, 0x0, .none⟩,
       ⟨"POLLING", 33, 1, .ro, 0x0, .none⟩,
       ⟨"POLLED", 34, 16, .ro, 0x0, .none⟩] }]

/-- The registers of block SEC (R718). -/
def regsSec : List RegSpec :=
  [{ name := "SEC_STATUS", base := 0x1200000, dims := [], plane := .management, apply := .plain,
     fields := [⟨"IDENTITY", 0, 1, .ro, 0x0, .none⟩,
       ⟨"RECOVERY", 1, 1, .ro, 0x0, .none⟩,
       ⟨"STORE_FAULT", 2, 1, .ro, 0x0, .none⟩,
       ⟨"STAGE", 3, 8, .ro, 0x0, .none⟩,
       ⟨"FW_VERSION", 32, 32, .ro, 0x0, .none⟩] },
   { name := "SEC_FW_MEAS", base := 0x1200040, dims := [(0x8, 8)], plane := .management, apply := .plain,
     fields := [⟨"WORD", 0, 64, .ro, 0x0, .none⟩] },
   { name := "SEC_ID_HASH", base := 0x1200080, dims := [(0x8, 8)], plane := .management, apply := .plain,
     fields := [⟨"WORD", 0, 64, .ro, 0x0, .none⟩] },
   { name := "SEC_CFG_MEAS", base := 0x12000C0, dims := [(0x8, 8)], plane := .management, apply := .plain,
     fields := [⟨"WORD", 0, 64, .ro, 0x0, .none⟩] },
   { name := "SEC_CFG_GEN", base := 0x1200100, dims := [], plane := .management, apply := .plain,
     fields := [⟨"CURRENT", 0, 32, .ro, 0x0, .none⟩,
       ⟨"PREVIOUS", 32, 32, .ro, 0x0, .none⟩] },
   { name := "SEC_CFG_STAT", base := 0x1200108, dims := [], plane := .management, apply := .plain,
     fields := [⟨"STAGED", 0, 32, .ro, 0x0, .none⟩,
       ⟨"STAGED_VALID", 32, 1, .ro, 0x0, .none⟩,
       ⟨"PREV_VALID", 33, 1, .ro, 0x0, .none⟩,
       ⟨"TRIAL", 34, 1, .ro, 0x0, .none⟩,
       ⟨"TRIAL_LEFT", 35, 7, .ro, 0x0, .none⟩,
       ⟨"CONFIRMED", 42, 1, .ro, 0x0, .none⟩,
       ⟨"HEALTH", 43, 4, .ro, 0x0, .none⟩,
       ⟨"RETURN_STAGED", 47, 1, .ro, 0x0, .none⟩] }]

/-- The registers of block PMU (R718). -/
def regsPmu : List RegSpec :=
  [{ name := "PMU_SEL", base := 0x1100000, dims := [(0x80, 42), (0x8, 16)], plane := .management, apply := .plain,
     fields := [⟨"EVENT", 0, 12, .rw, 0x0, .none⟩,
       ⟨"PARTS", 12, 5, .rw, 0x1F, .none⟩,
       ⟨"INST", 17, 8, .rw, 0xFF, .none⟩,
       ⟨"ENABLE", 25, 1, .rw, 0x0, .none⟩,
       ⟨"INT_EN", 26, 1, .rw, 0x0, .none⟩] },
   { name := "PMU_CNT", base := 0x1102000, dims := [(0x80, 42), (0x8, 16)], plane := .management, apply := .plain,
     fields := [⟨"COUNT", 0, 48, .rw, 0x0, .none⟩,
       ⟨"OVF", 48, 1, .w1c, 0x0, .none⟩] },
   { name := "PMU_FIX_STN", base := 0x1106000, dims := [(0x80, 4), (0x8, 11)], plane := .management, apply := .plain,
     fields := [⟨"COUNT", 0, 48, .ro, 0x0, .none⟩,
       ⟨"OVF", 48, 1, .w1c, 0x0, .none⟩] },
   { name := "PMU_FIX_PRS", base := 0x1106200, dims := [(0x40, 4), (0x8, 8)], plane := .management, apply := .plain,
     fields := [⟨"COUNT", 0, 48, .ro, 0x0, .none⟩,
       ⟨"OVF", 48, 1, .w1c, 0x0, .none⟩] },
   { name := "PMU_FIX_SPL", base := 0x1108000, dims := [(0x80, 256), (0x8, 11)], plane := .management, apply := .plain,
     fields := [⟨"COUNT", 0, 48, .ro, 0x0, .none⟩,
       ⟨"OVF", 48, 1, .w1c, 0x0, .none⟩] },
   { name := "PMU_FIX_SLC", base := 0x1110000, dims := [(0x40, 32), (0x8, 5)], plane := .management, apply := .plain,
     fields := [⟨"COUNT", 0, 48, .ro, 0x0, .none⟩,
       ⟨"OVF", 48, 1, .w1c, 0x0, .none⟩] },
   { name := "PMU_FIX_BOL", base := 0x1110800, dims := [(0x8, 7)], plane := .management, apply := .plain,
     fields := [⟨"COUNT", 0, 48, .ro, 0x0, .none⟩,
       ⟨"OVF", 48, 1, .w1c, 0x0, .none⟩] },
   { name := "PMU_SNAP_CNT", base := 0x1122000, dims := [(0x80, 42), (0x8, 16)], plane := .management, apply := .plain,
     fields := [⟨"COUNT", 0, 48, .ro, 0x0, .none⟩,
       ⟨"OVF", 48, 1, .ro, 0x0, .none⟩] },
   { name := "PMU_SNAP_FIX_STN", base := 0x1126000, dims := [(0x80, 4), (0x8, 11)], plane := .management, apply := .plain,
     fields := [⟨"COUNT", 0, 48, .ro, 0x0, .none⟩,
       ⟨"OVF", 48, 1, .ro, 0x0, .none⟩] },
   { name := "PMU_SNAP_FIX_PRS", base := 0x1126200, dims := [(0x40, 4), (0x8, 8)], plane := .management, apply := .plain,
     fields := [⟨"COUNT", 0, 48, .ro, 0x0, .none⟩,
       ⟨"OVF", 48, 1, .ro, 0x0, .none⟩] },
   { name := "PMU_SNAP_FIX_SPL", base := 0x1128000, dims := [(0x80, 256), (0x8, 11)], plane := .management, apply := .plain,
     fields := [⟨"COUNT", 0, 48, .ro, 0x0, .none⟩,
       ⟨"OVF", 48, 1, .ro, 0x0, .none⟩] },
   { name := "PMU_SNAP_FIX_SLC", base := 0x1130000, dims := [(0x40, 32), (0x8, 5)], plane := .management, apply := .plain,
     fields := [⟨"COUNT", 0, 48, .ro, 0x0, .none⟩,
       ⟨"OVF", 48, 1, .ro, 0x0, .none⟩] },
   { name := "PMU_SNAP_FIX_BOL", base := 0x1130800, dims := [(0x8, 7)], plane := .management, apply := .plain,
     fields := [⟨"COUNT", 0, 48, .ro, 0x0, .none⟩,
       ⟨"OVF", 48, 1, .ro, 0x0, .none⟩] },
   { name := "PMU_CTRL", base := 0x1140000, dims := [], plane := .management, apply := .plain,
     fields := [⟨"FIX_INT", 0, 1, .rw, 0x0, .none⟩,
       ⟨"SAMP_INT", 1, 1, .rw, 0x1, .none⟩] },
   { name := "PMU_OVF", base := 0x1140008, dims := [], plane := .management, apply := .plain,
     fields := [⟨"BLOCKS", 0, 42, .ro, 0x0, .none⟩,
       ⟨"FIXED", 42, 1, .ro, 0x0, .none⟩] },
   { name := "PMU_USER", base := 0x1140020, dims := [(0x8, 4)], plane := .management, apply := .plain,
     fields := [⟨"USER_EN", 0, 1, .rw, 0x0, .none⟩,
       ⟨"BAD", 1, 1, .ro, 0x0, .none⟩,
       ⟨"BASE", 16, 36, .rw, 0x0, .none⟩] },
   { name := "PMU_BW_CTL", base := 0x1140040, dims := [], plane := .management, apply := .plain,
     fields := [⟨"TURNS", 0, 8, .rw, 0x1, .zero 1⟩] },
   { name := "PMU_BW_TIME", base := 0x1140048, dims := [], plane := .management, apply := .plain,
     fields := [⟨"NS", 0, 64, .ro, 0x0, .none⟩] },
   { name := "PMU_BW_SEQ", base := 0x1140050, dims := [], plane := .management, apply := .plain,
     fields := [⟨"WINDOWS", 0, 32, .ro, 0x0, .none⟩] },
   { name := "PMU_BW_IN", base := 0x1140100, dims := [(0x8, 39)], plane := .management, apply := .plain,
     fields := [⟨"BYTES", 0, 48, .ro, 0x0, .none⟩] },
   { name := "PMU_BW_OUT", base := 0x1140300, dims := [(0x8, 32)], plane := .management, apply := .plain,
     fields := [⟨"BYTES", 0, 48, .ro, 0x0, .none⟩] },
   { name := "PMU_SAMP_CTL", base := 0x1140400, dims := [(0x8, 4)], plane := .management, apply := .plain,
     fields := [⟨"EVENT", 0, 12, .rw, 0x0, .none⟩,
       ⟨"PERIOD", 12, 24, .rw, 0x0, .none⟩,
       ⟨"ENABLE", 36, 1, .rw, 0x0, .none⟩,
       ⟨"RESTART", 37, 1, .wo, 0x0, .none⟩] },
   { name := "PMU_SAMP_BASE", base := 0x1140420, dims := [(0x8, 4)], plane := .management, apply := .plain,
     fields := [⟨"BASE", 20, 32, .rw, 0x0, .none⟩] },
   { name := "PMU_SAMP_STAT", base := 0x1140440, dims := [(0x8, 4)], plane := .management, apply := .plain,
     fields := [⟨"INDEX", 0, 16, .ro, 0x0, .none⟩,
       ⟨"FULL", 16, 1, .ro, 0x0, .none⟩,
       ⟨"BAD", 17, 1, .ro, 0x0, .none⟩,
       ⟨"DROPPED", 24, 24, .ro, 0x0, .none⟩] }]

/-- The registers of block CFG (R718). -/
def regsCfg : List RegSpec :=
  [{ name := "CFG_ID", base := 0x0, dims := [], plane := .management, apply := .plain,
     fields := [⟨"VENDOR", 0, 16, .ro, 0x4155, .none⟩,
       ⟨"PART", 16, 16, .ro, 0x4E54, .none⟩,
       ⟨"STEPPING", 32, 8, .ro, 0x1, .none⟩,
       ⟨"MAP", 40, 8, .ro, 0x1, .none⟩] },
   { name := "CFG_TIME", base := 0x8, dims := [], plane := .management, apply := .plain,
     fields := [⟨"NS", 0, 64, .ro, 0x0, .none⟩] },
   { name := "CFG_STATUS", base := 0x10, dims := [], plane := .management, apply := .plain,
     fields := [⟨"FIRST_COMMIT", 0, 1, .ro, 0x0, .none⟩,
       ⟨"STAGED", 1, 11, .ro, 0x0, .none⟩,
       ⟨"STAGE_LOST", 16, 16, .ro, 0x0, .none⟩,
       ⟨"STAGE_BUSY", 32, 16, .ro, 0x0, .none⟩] },
   { name := "CFG_CLAMP_COUNT", base := 0x18, dims := [], plane := .management, apply := .plain,
     fields := [⟨"COUNT", 0, 48, .ro, 0x0, .none⟩] },
   { name := "CFG_VIOL", base := 0x20, dims := [], plane := .management, apply := .plain,
     fields := [⟨"OUTSIDE", 0, 16, .ro, 0x0, .none⟩,
       ⟨"MISALIGNED", 16, 16, .ro, 0x0, .none⟩,
       ⟨"WIDTH", 32, 16, .ro, 0x0, .none⟩] },
   { name := "CFG_VIOL_LAST", base := 0x28, dims := [], plane := .management, apply := .plain,
     fields := [⟨"OFFSET", 0, 26, .ro, 0x0, .none⟩,
       ⟨"WRITE", 26, 1, .ro, 0x0, .none⟩,
       ⟨"HIGH", 27, 1, .ro, 0x0, .none⟩,
       ⟨"TURN", 32, 32, .ro, 0x0, .none⟩] },
   { name := "CFG_SCRATCH", base := 0x30, dims := [(0x8, 4)], plane := .management, apply := .plain,
     fields := [⟨"VALUE", 0, 64, .rw, 0x0, .none⟩] }]

/-- The registers of the block that holds offset `off` (R717). -/
def regsAt (off : Nat) : List RegSpec :=
  match off / 0x100000 with
  | 0 => regsCfg
  | 1 => regsMil
  | 2 => regsTrn
  | 3 => regsPrt
  | 4 => regsStn
  | 5 => regsPrs
  | 6 => regsSpl
  | 7 => regsScp
  | 8 => regsGrn
  | 9 => regsGrn
  | 10 => regsHbm
  | 11 => regsMmu
  | 12 => regsSlc
  | 13 => regsQue
  | 14 => regsFab
  | 15 => regsCol
  | 16 => regsCpl
  | 17 => regsPmu
  | 18 => regsSec
  | 19 => regsErr
  | 20 => regsTst
  | _ => []

namespace F

def TRN_PERIOD_PERIOD_NS : Fld := ⟨0x200000, 0, 30⟩
def TRN_PERIOD_ACTIVE_NS : Fld := ⟨0x200000, 32, 30⟩
def TRN_CTRL_MASTER : Fld := ⟨0x200008, 0, 1⟩
def TRN_CTRL_UPSTREAM : Fld := ⟨0x200008, 1, 3⟩
def TRN_CTRL_THERM_LEVEL : Fld := ⟨0x200008, 8, 4⟩
def TRN_COUNT_COUNT : Fld := ⟨0x200010, 0, 32⟩
def TRN_LAST_BOUNDARY_TIMESTAMP_NS : Fld := ⟨0x200018, 0, 64⟩
def TRN_STATUS_HOLDOVER : Fld := ⟨0x200020, 0, 1⟩
def TRN_STATUS_RENUMBERED : Fld := ⟨0x200020, 1, 1⟩
def TRN_STATUS_SKEW_ALARM : Fld := ⟨0x200020, 2, 1⟩
def TRN_STATUS_COMMIT_REPLACED : Fld := ⟨0x200020, 3, 1⟩
def TRN_STATUS_WITHHELD : Fld := ⟨0x200020, 4, 1⟩
def TRN_STATUS_FOREIGN_SYMBOLS : Fld := ⟨0x200020, 32, 32⟩
def TRN_PHASE_ERR_ERR_NS : Fld := ⟨0x200028, 0, 32⟩
def TRN_PHASE_ERR_HOP_DELAY_NS : Fld := ⟨0x200028, 32, 16⟩
def TRN_CKPT_SLICE_SLICE_BYTES : Fld := ⟨0x200030, 0, 31⟩
def TRN_EVENTS_OVERRUNS : Fld := ⟨0x200038, 0, 48⟩
def TRN_WITHHELD_COUNT : Fld := ⟨0x200040, 0, 48⟩
def STN_WIDTH_FUSED : Fld := ⟨0x400000, 0, 12⟩
def STN_WIDTH_HALF0 : Fld := ⟨0x400000, 12, 12⟩
def STN_WIDTH_HALF1 : Fld := ⟨0x400000, 24, 12⟩
def STN_WIDTH_BYPASSED : Fld := ⟨0x400000, 36, 8⟩
def STN_WIDTH_DEGRADED : Fld := ⟨0x400000, 44, 1⟩
def STN_BYPASS_GROUPS (n : Nat) : Fld := ⟨0x400008 + 0x8 * n, 0, 64⟩
def STN_PENDING_GROUPS (n : Nat) : Fld := ⟨0x400018 + 0x8 * n, 0, 64⟩
def STN_STATUS_OCC0 : Fld := ⟨0x400028, 0, 7⟩
def STN_STATUS_OCC1 : Fld := ⟨0x400028, 8, 7⟩
def STN_STATUS_OCC2 : Fld := ⟨0x400028, 16, 7⟩
def STN_STATUS_OCC3 : Fld := ⟨0x400028, 24, 7⟩
def STN_STATUS_WITHHELD : Fld := ⟨0x400028, 32, 4⟩
def STN_STATUS_BUSY : Fld := ⟨0x400028, 36, 4⟩
def STN_STATUS_HELD : Fld := ⟨0x400028, 40, 4⟩
def STN_STATUS_LAYOUT_CHANGED : Fld := ⟨0x400028, 44, 1⟩
def STN_LAYOUT_LAYOUT : Fld := ⟨0x400030, 0, 2⟩
def PRS_STATUS_OCC0 : Fld := ⟨0x500000, 0, 6⟩
def PRS_STATUS_OCC1 : Fld := ⟨0x500000, 8, 6⟩
def PRS_STATUS_OCC2 : Fld := ⟨0x500000, 16, 6⟩
def PRS_STATUS_OCC3 : Fld := ⟨0x500000, 24, 6⟩
def PRS_STATUS_BUSY : Fld := ⟨0x500000, 32, 4⟩
def PRS_STATUS_HELD : Fld := ⟨0x500000, 36, 4⟩
def PRS_STATUS_LINKWAIT : Fld := ⟨0x500000, 40, 4⟩
def PRS_STATUS_LANE_AVAIL : Fld := ⟨0x500000, 44, 1⟩
def PRS_LANES_LANES : Fld := ⟨0x500008, 0, 12⟩
def PRS_CLAMPS_COUNT : Fld := ⟨0x500010, 0, 48⟩
def SPL_HEALTH_SPOOLS (n : Nat) : Fld := ⟨0x600000 + 0x8 * n, 0, 64⟩
def SPL_PENDING_SPOOLS (n : Nat) : Fld := ⟨0x600020 + 0x8 * n, 0, 64⟩
def SPL_STATUS_HEALTHY : Fld := ⟨0x600040, 0, 9⟩
def SPL_STATUS_RES0 : Fld := ⟨0x600040, 12, 9⟩
def SPL_STATUS_RES1 : Fld := ⟨0x600040, 21, 8⟩
def SPL_STATUS_RES2 : Fld := ⟨0x600040, 29, 8⟩
def SPL_STATUS_RES3 : Fld := ⟨0x600040, 37, 8⟩
def SPL_STATUS_HALTED : Fld := ⟨0x600040, 48, 4⟩
def SPL_STATUS_SCANNING : Fld := ⟨0x600040, 52, 1⟩
def SPL_EVENTS_ILLEGAL : Fld := ⟨0x600048, 0, 24⟩
def SPL_EVENTS_VREG_RANGE : Fld := ⟨0x600048, 24, 24⟩
def SCP_LAYOUT_SCP_MIB : Fld := ⟨0x700000, 0, 8⟩
def SCP_LAYOUT_SCP_BANKS : Fld := ⟨0x700000, 8, 10⟩
def SCP_LAYOUT_HOP_MIB : Fld := ⟨0x700000, 18, 6⟩
def SCP_LAYOUT_HOP_BANKS : Fld := ⟨0x700000, 24, 8⟩
def SCP_HSTREAM_ENABLE (n : Nat) : Fld := ⟨0x700100 + 0x8 * n, 0, 1⟩
def SCP_HSTREAM_SLOTS (n : Nat) : Fld := ⟨0x700100 + 0x8 * n, 4, 12⟩
def SCP_HSTREAM_SLOT_UNITS (n : Nat) : Fld := ⟨0x700100 + 0x8 * n, 16, 4⟩
def SCP_HSTREAM_BASE (n : Nat) : Fld := ⟨0x700100 + 0x8 * n, 32, 12⟩
def SCP_HSTREAM_STAT_HEAD (n : Nat) : Fld := ⟨0x700300 + 0x8 * n, 0, 32⟩
def SCP_HSTREAM_STAT_TAIL (n : Nat) : Fld := ⟨0x700300 + 0x8 * n, 32, 32⟩
def SCP_ECC_CORRECTED : Fld := ⟨0x700008, 0, 24⟩
def SCP_ECC_UNCORRECTED : Fld := ⟨0x700008, 24, 24⟩
def GRN_CTRL_HWPF : Fld := ⟨0x900000, 0, 1⟩
def GRN_CTRL_KEEP_WAYS : Fld := ⟨0x900000, 4, 4⟩
def GRN_DEADCHK_PART : Fld := ⟨0x900008, 0, 4⟩
def GRN_DEAD_REREAD_COUNT : Fld := ⟨0x900010, 0, 48⟩
def GRN_COMMON_GRANULES : Fld := ⟨0x900018, 0, 22⟩
def GRN_SEGMENT_LEN0 : Fld := ⟨0x900020, 0, 11⟩
def GRN_SEGMENT_LEN1 : Fld := ⟨0x900020, 16, 11⟩
def GRN_SEGMENT_LEN2 : Fld := ⟨0x900020, 32, 11⟩
def GRN_SEGMENT_LEN3 : Fld := ⟨0x900020, 48, 11⟩
def GRN_BUCKET_CHANNEL0 (n : Nat) : Fld := ⟨0x900800 + 0x8 * n, 0, 8⟩
def GRN_BUCKET_CHANNEL1 (n : Nat) : Fld := ⟨0x900800 + 0x8 * n, 16, 8⟩
def GRN_BUCKET_CHANNEL2 (n : Nat) : Fld := ⟨0x900800 + 0x8 * n, 32, 8⟩
def GRN_BUCKET_CHANNEL3 (n : Nat) : Fld := ⟨0x900800 + 0x8 * n, 48, 8⟩
def GRN_BUCKET_VALID0 (n : Nat) : Fld := ⟨0x900800 + 0x8 * n, 15, 1⟩
def GRN_BUCKET_VALID1 (n : Nat) : Fld := ⟨0x900800 + 0x8 * n, 31, 1⟩
def GRN_BUCKET_VALID2 (n : Nat) : Fld := ⟨0x900800 + 0x8 * n, 47, 1⟩
def GRN_BUCKET_VALID3 (n : Nat) : Fld := ⟨0x900800 + 0x8 * n, 63, 1⟩
def GRN_ORD_EVENTS_BROKEN : Fld := ⟨0x900028, 0, 16⟩
def GRN_ORD_EVENTS_TIES : Fld := ⟨0x900028, 16, 16⟩
def GRN_ORD_EVENTS_UNKEYED : Fld := ⟨0x900028, 32, 16⟩
def GRN_ORD_EVENTS_BROKEN_SEEN : Fld := ⟨0x900028, 48, 1⟩
def GRN_SLICE_STATUS_CHANNEL (n : Nat) : Fld := ⟨0x800000 + 0x1000 * n, 0, 8⟩
def GRN_SLICE_STATUS_FENCED (n : Nat) : Fld := ⟨0x800000 + 0x1000 * n, 8, 1⟩
def GRN_SLICE_STATUS_MAPPED_OUT (n : Nat) : Fld := ⟨0x800000 + 0x1000 * n, 9, 1⟩
def GRN_SLICE_STATUS_OWNER (n : Nat) : Fld := ⟨0x800000 + 0x1000 * n, 10, 2⟩
def GRN_SLICE_STATUS_PINNED (n : Nat) : Fld := ⟨0x800000 + 0x1000 * n, 12, 13⟩
def GRN_SLICE_STATUS_ORD_FILL (n : Nat) : Fld := ⟨0x800000 + 0x1000 * n, 25, 12⟩
def GRN_SLICE_STATUS_DISCARDED (n : Nat) : Fld := ⟨0x800000 + 0x1000 * n, 40, 24⟩
def GRN_SLICE_HOTBANK_COUNT (n : Nat) : Fld := ⟨0x800008 + 0x1000 * n, 0, 48⟩
def GRN_SLICE_ECC_CORRECTED (n : Nat) : Fld := ⟨0x800010 + 0x1000 * n, 0, 24⟩
def GRN_SLICE_ECC_UNCORRECTED (n : Nat) : Fld := ⟨0x800010 + 0x1000 * n, 24, 24⟩
def HBM_STATUS_STATE (n : Nat) : Fld := ⟨0xA00000 + 0x10000 * n, 0, 3⟩
def HBM_STATUS_HEALTHY (n : Nat) : Fld := ⟨0xA00000 + 0x10000 * n, 8, 6⟩
def HBM_STATUS_DRAM_TEMP (n : Nat) : Fld := ⟨0xA00000 + 0x10000 * n, 16, 8⟩
def HBM_STATUS_HOT (n : Nat) : Fld := ⟨0xA00000 + 0x10000 * n, 24, 1⟩
def HBM_STATUS_LOOP_REFUSED (n : Nat) : Fld := ⟨0xA00000 + 0x10000 * n, 32, 16⟩
def HBM_STATUS_RETRAINS (n : Nat) : Fld := ⟨0xA00000 + 0x10000 * n, 48, 16⟩
def HBM_CTRL_UE_LIMIT (n : Nat) : Fld := ⟨0xA00008 + 0x10000 * n, 0, 8⟩
def HBM_CTRL_MARK_MAPOUT (n : Nat) : Fld := ⟨0xA00008 + 0x10000 * n, 8, 4⟩
def HBM_CTRL_SCRUB_EN (n : Nat) : Fld := ⟨0xA00008 + 0x10000 * n, 12, 1⟩
def HBM_CTRL_RETRAIN_EN (n : Nat) : Fld := ⟨0xA00008 + 0x10000 * n, 13, 1⟩
def HBM_CTRL_RETRAIN_DELTA (n : Nat) : Fld := ⟨0xA00008 + 0x10000 * n, 16, 8⟩
def HBM_CHAN_STATE (n k : Nat) : Fld := ⟨0xA00100 + 0x10000 * n + 0x8 * k, 0, 2⟩
def HBM_CHAN_LANE (n k : Nat) : Fld := ⟨0xA00100 + 0x10000 * n + 0x8 * k, 2, 4⟩
def HBM_CHAN_PINS (n k : Nat) : Fld := ⟨0xA00100 + 0x10000 * n + 0x8 * k, 6, 8⟩
def HBM_CHAN_POISON (n k : Nat) : Fld := ⟨0xA00100 + 0x10000 * n + 0x8 * k, 14, 10⟩
def HBM_CHAN_CORRECTED (n k : Nat) : Fld := ⟨0xA00100 + 0x10000 * n + 0x8 * k, 24, 24⟩
def HBM_CHAN_UNCORR (n k : Nat) : Fld := ⟨0xA00100 + 0x10000 * n + 0x8 * k, 48, 16⟩
def HBM_SCRUB_LINE (n : Nat) : Fld := ⟨0xA00010 + 0x10000 * n, 0, 24⟩
def HBM_SCRUB_PASSES (n : Nat) : Fld := ⟨0xA00010 + 0x10000 * n, 32, 24⟩
def HBM_LOOP_MODE (n : Nat) : Fld := ⟨0xA00018 + 0x10000 * n, 0, 2⟩
def HBM_LOOP_PATTERN (n : Nat) : Fld := ⟨0xA00018 + 0x10000 * n, 2, 2⟩
def HBM_LOOP_CHANNEL (n : Nat) : Fld := ⟨0xA00018 + 0x10000 * n, 4, 5⟩
def HBM_LOOP_RUN (n : Nat) : Fld := ⟨0xA00018 + 0x10000 * n, 9, 1⟩
def HBM_LOOP_ERR_ERRORS (n : Nat) : Fld := ⟨0xA00020 + 0x10000 * n, 0, 48⟩
def HBM_LOOP_ERR_FIRST_PIN (n : Nat) : Fld := ⟨0xA00020 + 0x10000 * n, 48, 8⟩
def MMU_ROOT_ROOT (n : Nat) : Fld := ⟨0xB00000 + 0x8 * n, 16, 36⟩
def MMU_CSA_BASE (n : Nat) : Fld := ⟨0xB00020 + 0x8 * n, 12, 40⟩
def MMU_FRING_BASE_BASE (n : Nat) : Fld := ⟨0xB00040 + 0x8 * n, 6, 46⟩
def MMU_FRING_CTL_LOG2SIZE (n : Nat) : Fld := ⟨0xB00060 + 0x8 * n, 0, 5⟩
def MMU_FRING_CTL_PRODUCER (n : Nat) : Fld := ⟨0xB00060 + 0x8 * n, 8, 47⟩
def MMU_FRING_STAT_POSTED (n : Nat) : Fld := ⟨0xB00080 + 0x8 * n, 0, 32⟩
def MMU_FRING_STAT_FREED (n : Nat) : Fld := ⟨0xB00080 + 0x8 * n, 32, 32⟩
def MMU_CTRL_FAULT_TURNS : Fld := ⟨0xB000A0, 0, 16⟩
def MMU_STATUS_BAD_REPLY : Fld := ⟨0xB000A8, 0, 16⟩
def MMU_STATUS_TIMEOUTS : Fld := ⟨0xB000A8, 16, 16⟩
def MMU_STATUS_FRING_FULL : Fld := ⟨0xB000A8, 32, 14⟩
def MMU_STATUS_ATTACHED : Fld := ⟨0xB000A8, 46, 14⟩
def MMU_STATUS_CSA_BAD : Fld := ⟨0xB000A8, 60, 4⟩
def SLC_STATUS_BUSY : Fld := ⟨0xC00000, 0, 32⟩
def SLC_STATUS_BOLT_BUSY : Fld := ⟨0xC00000, 32, 4⟩
def SLC_STATUS_STOPPED : Fld := ⟨0xC00000, 36, 4⟩
def SLC_STATUS_OCC0 : Fld := ⟨0xC00000, 40, 5⟩
def SLC_STATUS_OCC1 : Fld := ⟨0xC00000, 45, 5⟩
def SLC_STATUS_OCC2 : Fld := ⟨0xC00000, 50, 5⟩
def SLC_STATUS_OCC3 : Fld := ⟨0xC00000, 55, 5⟩
def SLC_ALLOC_SLUICES : Fld := ⟨0xC00008, 0, 6⟩
def SLC_EVENTS_IDX_RANGE : Fld := ⟨0xC00010, 0, 24⟩
def SLC_EVENTS_CLAMPS : Fld := ⟨0xC00010, 24, 24⟩
def QUE_RBASE_BASE (n : Nat) : Fld := ⟨0xD00000 + 0x40 * n, 6, 46⟩
def QUE_CBASE_BASE (n : Nat) : Fld := ⟨0xD00008 + 0x40 * n, 6, 46⟩
def QUE_DB_ADDR (n : Nat) : Fld := ⟨0xD00010 + 0x40 * n, 3, 49⟩
def QUE_HEADW_ADDR (n : Nat) : Fld := ⟨0xD00018 + 0x40 * n, 3, 49⟩
def QUE_CPROD_ADDR (n : Nat) : Fld := ⟨0xD00020 + 0x40 * n, 3, 49⟩
def QUE_CCONS_ADDR (n : Nat) : Fld := ⟨0xD00028 + 0x40 * n, 3, 49⟩
def QUE_RCTL_ENABLE (n : Nat) : Fld := ⟨0xD00030 + 0x40 * n, 0, 1⟩
def QUE_RCTL_CLASS (n : Nat) : Fld := ⟨0xD00030 + 0x40 * n, 1, 2⟩
def QUE_RCTL_DEFERRED (n : Nat) : Fld := ⟨0xD00030 + 0x40 * n, 3, 1⟩
def QUE_RCTL_PRIO (n : Nat) : Fld := ⟨0xD00030 + 0x40 * n, 4, 2⟩
def QUE_RCTL_LOG2SIZE (n : Nat) : Fld := ⟨0xD00030 + 0x40 * n, 6, 5⟩
def QUE_RCTL_CLOG2SIZE (n : Nat) : Fld := ⟨0xD00030 + 0x40 * n, 11, 5⟩
def QUE_RCTL_ADMIT_MAX (n : Nat) : Fld := ⟨0xD00030 + 0x40 * n, 16, 11⟩
def QUE_RSTAT_HEAD (n : Nat) : Fld := ⟨0xD00038 + 0x40 * n, 0, 32⟩
def QUE_RSTAT_STOPPED (n : Nat) : Fld := ⟨0xD00038 + 0x40 * n, 32, 1⟩
def QUE_RSTAT_ACTIVE (n : Nat) : Fld := ⟨0xD00038 + 0x40 * n, 33, 1⟩
def QUE_RSTAT_STOP_STATUS (n : Nat) : Fld := ⟨0xD00038 + 0x40 * n, 40, 8⟩
def QUE_RSTAT_BAD_DB (n : Nat) : Fld := ⟨0xD00038 + 0x40 * n, 48, 16⟩
def QUE_EVENTS_BAD_CONSUMER : Fld := ⟨0xD04000, 0, 16⟩
def QUE_EVENTS_CPL_DROPPED : Fld := ⟨0xD04000, 16, 16⟩
def QUE_EVENTS_FETCH_POISON : Fld := ⟨0xD04000, 32, 16⟩
def QUE_DPOOL_OCC0 : Fld := ⟨0xD04008, 0, 7⟩
def QUE_DPOOL_OCC1 : Fld := ⟨0xD04008, 8, 7⟩
def QUE_DPOOL_OCC2 : Fld := ⟨0xD04008, 16, 7⟩
def QUE_DPOOL_OCC3 : Fld := ⟨0xD04008, 24, 7⟩
def PRT_LAYOUT_COUNT : Fld := ⟨0x300000, 0, 2⟩
def PRT_LAYOUT_ACTIVE : Fld := ⟨0x300000, 8, 2⟩
def PRT_RESET_PART : Fld := ⟨0x300008, 0, 4⟩
def PRT_STATUS_READY : Fld := ⟨0x300010, 0, 4⟩
def PRT_STATUS_RESETTING : Fld := ⟨0x300010, 4, 4⟩
def PRT_STATUS_STOPPED : Fld := ⟨0x300010, 8, 4⟩
def PRT_STATUS_WITHHELD : Fld := ⟨0x300010, 12, 4⟩
def PRT_STATUS_RESETS : Fld := ⟨0x300010, 32, 16⟩
def PRT_PART_JOB (n : Nat) : Fld := ⟨0x300020 + 0x8 * n, 0, 16⟩
def PRT_SWR_A_ENABLE (n : Nat) : Fld := ⟨0x300100 + 0x8 * n, 0, 1⟩
def PRT_SWR_A_MAP (n : Nat) : Fld := ⟨0x300100 + 0x8 * n, 1, 4⟩
def PRT_SWR_A_SRC (n : Nat) : Fld := ⟨0x300100 + 0x8 * n, 5, 2⟩
def PRT_SWR_A_PORT (n : Nat) : Fld := ⟨0x300100 + 0x8 * n, 7, 3⟩
def PRT_SWR_A_BASE (n : Nat) : Fld := ⟨0x300100 + 0x8 * n, 16, 36⟩
def PRT_SWR_B_PAGES (n : Nat) : Fld := ⟨0x300180 + 0x8 * n, 0, 36⟩
def PRT_SWR_C_SOURCE (n : Nat) : Fld := ⟨0x300200 + 0x8 * n, 7, 45⟩
def PRT_SWR_STAT_REFETCHED (n : Nat) : Fld := ⟨0x300280 + 0x8 * n, 0, 24⟩
def PRT_SWR_STAT_POISONED (n : Nat) : Fld := ⟨0x300280 + 0x8 * n, 24, 24⟩
def PRT_SWR_STAT_ACTIVE (n : Nat) : Fld := ⟨0x300280 + 0x8 * n, 48, 1⟩
def FAB_PORT_CTL_ENABLE (n : Nat) : Fld := ⟨0xE00000 + 0x8 * n, 0, 1⟩
def FAB_PORT_CTL_PROFILE (n : Nat) : Fld := ⟨0xE00000 + 0x8 * n, 1, 1⟩
def FAB_PORT_CTL_MIN_WIDTH (n : Nat) : Fld := ⟨0xE00000 + 0x8 * n, 2, 2⟩
def FAB_PORT_CTL_RETRAIN_EN (n : Nat) : Fld := ⟨0xE00000 + 0x8 * n, 4, 1⟩
def FAB_PORT_CTL_UCW_LIMIT (n : Nat) : Fld := ⟨0xE00000 + 0x8 * n, 8, 8⟩
def FAB_PORT_STAT_STATE (n : Nat) : Fld := ⟨0xE00040 + 0x8 * n, 0, 3⟩
def FAB_PORT_STAT_GROUPS (n : Nat) : Fld := ⟨0xE00040 + 0x8 * n, 3, 4⟩
def FAB_PORT_STAT_WIDTH (n : Nat) : Fld := ⟨0xE00040 + 0x8 * n, 7, 6⟩
def FAB_PORT_STAT_DEGRADED (n : Nat) : Fld := ⟨0xE00040 + 0x8 * n, 13, 1⟩
def FAB_PORT_STAT_LINKUPS (n : Nat) : Fld := ⟨0xE00040 + 0x8 * n, 16, 16⟩
def FAB_PORT_STAT_RETRAINS (n : Nat) : Fld := ⟨0xE00040 + 0x8 * n, 32, 16⟩
def FAB_PORT_ERR_BAD_FLITS (n : Nat) : Fld := ⟨0xE00080 + 0x8 * n, 0, 24⟩
def FAB_PORT_ERR_REPLAYS (n : Nat) : Fld := ⟨0xE00080 + 0x8 * n, 24, 24⟩
def FAB_PORT_ERR_NO_CREDIT (n : Nat) : Fld := ⟨0xE00080 + 0x8 * n, 48, 16⟩
def FAB_PEER_WORD (n k : Nat) : Fld := ⟨0xE00100 + 0x80 * n + 0x8 * k, 0, 64⟩
def FAB_COORD_NODE : Fld := ⟨0xE00400, 0, 18⟩
def FAB_COORD_NODE_N : Fld := ⟨0xE00400, 32, 18⟩
def FAB_COORD_VALID : Fld := ⟨0xE00400, 63, 1⟩
def FAB_DIMS_XS : Fld := ⟨0xE00408, 0, 6⟩
def FAB_DIMS_YS : Fld := ⟨0xE00408, 6, 6⟩
def FAB_DIMS_ZS : Fld := ⟨0xE00408, 12, 6⟩
def FAB_DIMS_DIMS_N : Fld := ⟨0xE00408, 32, 18⟩
def FAB_DIMS_VALID : Fld := ⟨0xE00408, 63, 1⟩
def FAB_RTE_A_VALUE (n : Nat) : Fld := ⟨0xE00800 + 0x8 * n, 0, 18⟩
def FAB_RTE_A_MASK (n : Nat) : Fld := ⟨0xE00800 + 0x8 * n, 18, 18⟩
def FAB_RTE_A_PORT (n : Nat) : Fld := ⟨0xE00800 + 0x8 * n, 36, 3⟩
def FAB_RTE_A_FORCE_VC1 (n : Nat) : Fld := ⟨0xE00800 + 0x8 * n, 39, 1⟩
def FAB_RTE_A_ENABLE (n : Nat) : Fld := ⟨0xE00800 + 0x8 * n, 40, 1⟩
def FAB_RTE_B_COMPL (n : Nat) : Fld := ⟨0xE00A00 + 0x8 * n, 0, 41⟩
def FAB_ING_A_JOB (n : Nat) : Fld := ⟨0xE00C00 + 0x8 * n, 0, 16⟩
def FAB_ING_A_PART (n : Nat) : Fld := ⟨0xE00C00 + 0x8 * n, 16, 2⟩
def FAB_ING_A_PORTS (n : Nat) : Fld := ⟨0xE00C00 + 0x8 * n, 18, 6⟩
def FAB_ING_A_RD (n : Nat) : Fld := ⟨0xE00C00 + 0x8 * n, 24, 1⟩
def FAB_ING_A_WR (n : Nat) : Fld := ⟨0xE00C00 + 0x8 * n, 25, 1⟩
def FAB_ING_A_ATOM (n : Nat) : Fld := ⟨0xE00C00 + 0x8 * n, 26, 1⟩
def FAB_ING_A_MSG (n : Nat) : Fld := ⟨0xE00C00 + 0x8 * n, 27, 1⟩
def FAB_ING_A_ENABLE (n : Nat) : Fld := ⟨0xE00C00 + 0x8 * n, 28, 1⟩
def FAB_ING_B_COMPL (n : Nat) : Fld := ⟨0xE00E00 + 0x8 * n, 0, 29⟩
def FAB_ING_STOP_STOPPED : Fld := ⟨0xE00430, 0, 64⟩
def FAB_MBOX_A_LOG2SLOTS (n : Nat) : Fld := ⟨0xE00440 + 0x8 * n, 0, 4⟩
def FAB_MBOX_A_BASE (n : Nat) : Fld := ⟨0xE00440 + 0x8 * n, 6, 46⟩
def FAB_MBOX_B_PROD (n : Nat) : Fld := ⟨0xE00460 + 0x8 * n, 3, 49⟩
def FAB_JOBSTOP_JOB : Fld := ⟨0xE00410, 0, 16⟩
def FAB_JOBSTOP_STOP_ID : Fld := ⟨0xE00410, 16, 32⟩
def FAB_EVENTS_NO_ROUTE : Fld := ⟨0xE00418, 0, 16⟩
def FAB_EVENTS_KIND_DROP : Fld := ⟨0xE00418, 16, 16⟩
def FAB_EVENTS_BAD_PAIR : Fld := ⟨0xE00418, 32, 8⟩
def FAB_EVENTS_MBOX_DROP : Fld := ⟨0xE00418, 40, 16⟩
def FAB_EVENTS_STOPS : Fld := ⟨0xE00418, 56, 8⟩
def FAB_DENY_JOB : Fld := ⟨0xE00420, 0, 16⟩
def FAB_DENY_PERM : Fld := ⟨0xE00420, 16, 16⟩
def FAB_DENY_PART : Fld := ⟨0xE00420, 32, 16⟩
def FAB_DENY_XLAT : Fld := ⟨0xE00420, 48, 16⟩
def FAB_TIMEOUTS_TIMEOUTS : Fld := ⟨0xE00428, 0, 24⟩
def FAB_TIMEOUTS_LATE : Fld := ⟨0xE00428, 24, 24⟩
def FAB_TIMEOUTS_MBOX_BAD : Fld := ⟨0xE00428, 48, 16⟩
def COL_GRP_A_NEXT (n : Nat) : Fld := ⟨0xF00000 + 0x8 * n, 0, 18⟩
def COL_GRP_A_PREV (n : Nat) : Fld := ⟨0xF00000 + 0x8 * n, 18, 18⟩
def COL_GRP_A_RANK (n : Nat) : Fld := ⟨0xF00000 + 0x8 * n, 36, 16⟩
def COL_GRP_A_PART (n : Nat) : Fld := ⟨0xF00000 + 0x8 * n, 52, 2⟩
def COL_GRP_A_LENIENT (n : Nat) : Fld := ⟨0xF00000 + 0x8 * n, 54, 1⟩
def COL_GRP_A_CARRY (n : Nat) : Fld := ⟨0xF00000 + 0x8 * n, 55, 1⟩
def COL_GRP_A_ENABLE (n : Nat) : Fld := ⟨0xF00000 + 0x8 * n, 56, 1⟩
def COL_GRP_B_SIZE (n : Nat) : Fld := ⟨0xF00800 + 0x8 * n, 0, 16⟩
def COL_GRP_B_JOB (n : Nat) : Fld := ⟨0xF00800 + 0x8 * n, 16, 16⟩
def COL_GRP_B_GEN (n : Nat) : Fld := ⟨0xF00800 + 0x8 * n, 32, 32⟩
def COL_GRP_C_COMPL (n : Nat) : Fld := ⟨0xF01000 + 0x8 * n, 0, 57⟩
def COL_GRP_D_COMPL (n : Nat) : Fld := ⟨0xF01800 + 0x8 * n, 0, 64⟩
def COL_GRP_STAT_OPSEQ (n : Nat) : Fld := ⟨0xF02000 + 0x8 * n, 0, 32⟩
def COL_GRP_STAT_VALID (n : Nat) : Fld := ⟨0xF02000 + 0x8 * n, 32, 1⟩
def COL_GRP_STAT_BUSY (n : Nat) : Fld := ⟨0xF02000 + 0x8 * n, 33, 1⟩
def COL_GRP_STAT_CARRY_PEND (n : Nat) : Fld := ⟨0xF02000 + 0x8 * n, 34, 1⟩
def COL_CTRL_STALL_TURNS : Fld := ⟨0xF02800, 0, 8⟩
def COL_STATUS_OCC0 : Fld := ⟨0xF02808, 0, 6⟩
def COL_STATUS_OCC1 : Fld := ⟨0xF02808, 8, 6⟩
def COL_STATUS_OCC2 : Fld := ⟨0xF02808, 16, 6⟩
def COL_STATUS_OCC3 : Fld := ⟨0xF02808, 24, 6⟩
def COL_STATUS_RUN0 : Fld := ⟨0xF02808, 32, 4⟩
def COL_STATUS_RUN1 : Fld := ⟨0xF02808, 36, 4⟩
def COL_STATUS_RUN2 : Fld := ⟨0xF02808, 40, 4⟩
def COL_STATUS_RUN3 : Fld := ⟨0xF02808, 44, 4⟩
def COL_EVENTS_STALE : Fld := ⟨0xF02810, 0, 16⟩
def COL_EVENTS_DROP : Fld := ⟨0xF02810, 16, 16⟩
def COL_EVENTS_LATE : Fld := ⟨0xF02810, 32, 12⟩
def COL_EVENTS_TIMEOUTS : Fld := ⟨0xF02810, 44, 12⟩
def COL_EVENTS_BAD_PAIR : Fld := ⟨0xF02810, 56, 8⟩
def ERR_CTRL_RING_EN : Fld := ⟨0x1300000, 0, 1⟩
def ERR_CTRL_RING_MIN : Fld := ⟨0x1300000, 1, 3⟩
def ERR_RING_BASE_BASE : Fld := ⟨0x1300008, 6, 46⟩
def ERR_RING_CTL_LOG2SIZE : Fld := ⟨0x1300010, 0, 5⟩
def ERR_RING_CTL_PRODUCER : Fld := ⟨0x1300010, 8, 47⟩
def ERR_STATUS_DEVICE_FATAL : Fld := ⟨0x1300018, 0, 1⟩
def ERR_STATUS_PART_FATAL : Fld := ⟨0x1300018, 1, 4⟩
def ERR_STATUS_DEGRADED : Fld := ⟨0x1300018, 5, 1⟩
def ERR_STATUS_INTAKE_LOST : Fld := ⟨0x1300018, 16, 16⟩
def ERR_STATUS_RING_DROPPED : Fld := ⟨0x1300018, 32, 16⟩
def ERR_STATUS_BAD_CONSUMER : Fld := ⟨0x1300018, 48, 16⟩
def ERR_CLOG_STAT_ENTRIES : Fld := ⟨0x1300020, 0, 13⟩
def ERR_CLOG_STAT_OVERFLOW : Fld := ⟨0x1300020, 32, 32⟩
def ERR_FLOG_STAT_ENTRIES : Fld := ⟨0x1300028, 0, 13⟩
def ERR_FLOG_STAT_OVERFLOW : Fld := ⟨0x1300028, 32, 32⟩
def ERR_LOG_SEL_INDEX : Fld := ⟨0x1300030, 0, 12⟩
def ERR_LOG_SEL_LOG : Fld := ⟨0x1300030, 12, 1⟩
def ERR_LOG_WORD_WORD (n : Nat) : Fld := ⟨0x1300040 + 0x8 * n, 0, 64⟩
def ERR_FLOG_CLEAR_CLEAR : Fld := ⟨0x1300080, 0, 1⟩
def ERR_RATE_PRIOR_PRIOR_FIT : Fld := ⟨0x1300088, 0, 32⟩
def ERR_RATE_HIST_EVENTS : Fld := ⟨0x1300090, 0, 32⟩
def ERR_RATE_HIST_HOURS : Fld := ⟨0x1300090, 32, 32⟩
def ERR_RATE_FIT : Fld := ⟨0x1300098, 0, 32⟩
def ERR_RATE_EVENTS : Fld := ⟨0x1300098, 32, 16⟩
def ERR_CKPT_CTL_MODULES : Fld := ⟨0x13000A0, 0, 17⟩
def ERR_CKPT_CTL_COST_US : Fld := ⟨0x13000A0, 20, 44⟩
def ERR_CKPT_COVER_COVER : Fld := ⟨0x13000A8, 0, 17⟩
def ERR_CKPT_INTERVAL_TURNS : Fld := ⟨0x13000B0, 0, 32⟩
def TST_SCAN_CTL_ENABLE : Fld := ⟨0x1400000, 0, 1⟩
def TST_SCAN_STAT_GROUP : Fld := ⟨0x1400008, 0, 6⟩
def TST_SCAN_STAT_OPEN : Fld := ⟨0x1400008, 6, 1⟩
def TST_SCAN_STAT_PASSES : Fld := ⟨0x1400008, 16, 16⟩
def TST_SCAN_STAT_FAILS : Fld := ⟨0x1400008, 32, 16⟩
def TST_SCAN_STAT_SKIPPED : Fld := ⟨0x1400008, 48, 16⟩
def TST_SCAN_FAIL_GROUPS : Fld := ⟨0x1400010, 0, 43⟩
def TST_PACK_VERSION : Fld := ⟨0x1400018, 0, 32⟩
def TST_PACK_SLOT : Fld := ⟨0x1400018, 32, 1⟩
def TST_PACK_VALID : Fld := ⟨0x1400018, 33, 1⟩
def TST_DIG_CTL_ENABLE : Fld := ⟨0x1400020, 0, 1⟩
def TST_DIG_CTL_PART : Fld := ⟨0x1400020, 1, 2⟩
def TST_DIG_CTL_GROUP : Fld := ⟨0x1400020, 3, 8⟩
def TST_DIG_CTL_SNAP : Fld := ⟨0x1400020, 11, 1⟩
def TST_DIG_CTL_CLEAR : Fld := ⟨0x1400020, 12, 1⟩
def TST_DIG_CTL_GEN : Fld := ⟨0x1400020, 32, 32⟩
def TST_DIG_KEY_KEY0 : Fld := ⟨0x1400028, 0, 32⟩
def TST_DIG_KEY_KEY1 : Fld := ⟨0x1400028, 32, 32⟩
def TST_DIG_RANGE_A_ENABLE (n : Nat) : Fld := ⟨0x1400040 + 0x8 * n, 0, 1⟩
def TST_DIG_RANGE_A_BASE (n : Nat) : Fld := ⟨0x1400040 + 0x8 * n, 16, 36⟩
def TST_DIG_RANGE_B_PAGES (n : Nat) : Fld := ⟨0x1400060 + 0x8 * n, 0, 36⟩
def TST_DIG_TABLE_BASE : Fld := ⟨0x1400080, 6, 46⟩
def TST_DIG_SNAP_WORD (n : Nat) : Fld := ⟨0x1400088 + 0x8 * n, 0, 64⟩
def TST_DIG_STAT_SNAP_GEN : Fld := ⟨0x14000A8, 0, 32⟩
def TST_DIG_STAT_AGREED : Fld := ⟨0x14000A8, 32, 16⟩
def TST_DIG_STAT_MISMATCH : Fld := ⟨0x14000A8, 48, 8⟩
def TST_DIG_STAT_SKEW : Fld := ⟨0x14000A8, 56, 8⟩
def MIL_SRV_CTL_ENABLE (n : Nat) : Fld := ⟨0x100100 + 0x8 * n, 0, 1⟩
def MIL_SRV_CTL_SCB (n : Nat) : Fld := ⟨0x100100 + 0x8 * n, 6, 46⟩
def MIL_SRV_STAT_STATE (n : Nat) : Fld := ⟨0x100120 + 0x8 * n, 0, 2⟩
def MIL_SRV_STAT_CAUSE (n : Nat) : Fld := ⟨0x100120 + 0x8 * n, 2, 4⟩
def MIL_SRV_STAT_ACTIVE (n : Nat) : Fld := ⟨0x100120 + 0x8 * n, 6, 12⟩
def MIL_SRV_STAT_WAITING (n : Nat) : Fld := ⟨0x100120 + 0x8 * n, 18, 12⟩
def MIL_SRV_STAT_FREE_PAGES (n : Nat) : Fld := ⟨0x100120 + 0x8 * n, 32, 32⟩
def MIL_SRV_EVENTS_STEPS (n : Nat) : Fld := ⟨0x100140 + 0x8 * n, 0, 24⟩
def MIL_SRV_EVENTS_EVICTIONS (n : Nat) : Fld := ⟨0x100140 + 0x8 * n, 24, 16⟩
def MIL_SRV_EVENTS_TOKSTALL (n : Nat) : Fld := ⟨0x100140 + 0x8 * n, 40, 12⟩
def MIL_SRV_EVENTS_BAD (n : Nat) : Fld := ⟨0x100140 + 0x8 * n, 52, 12⟩
def CPL_STATUS_STATE : Fld := ⟨0x1000000, 0, 2⟩
def CPL_STATUS_GROUPS : Fld := ⟨0x1000000, 2, 4⟩
def CPL_STATUS_WIDTH : Fld := ⟨0x1000000, 6, 5⟩
def CPL_STATUS_QUAR : Fld := ⟨0x1000000, 11, 2⟩
def CPL_STATUS_LINKUPS : Fld := ⟨0x1000000, 16, 16⟩
def CPL_CTL_UCW_LIMIT : Fld := ⟨0x1000008, 0, 8⟩
def CPL_CTL_VIOL_LIMIT : Fld := ⟨0x1000008, 8, 16⟩
def CPL_VIOL_REQ : Fld := ⟨0x1000010, 0, 12⟩
def CPL_VIOL_SNP : Fld := ⟨0x1000010, 12, 12⟩
def CPL_VIOL_RSP : Fld := ⟨0x1000010, 24, 12⟩
def CPL_VIOL_DAT : Fld := ⟨0x1000010, 36, 12⟩
def CPL_VIOL_MGT : Fld := ⟨0x1000010, 48, 12⟩
def CPL_NAK_LAST_CODE : Fld := ⟨0x1000018, 0, 8⟩
def CPL_NAK_LAST_CLASS : Fld := ⟨0x1000018, 8, 3⟩
def CPL_NAK_LAST_TAG : Fld := ⟨0x1000018, 11, 12⟩
def CPL_NAK_LAST_TURN : Fld := ⟨0x1000018, 32, 32⟩
def CPL_EVENTS_FAILED : Fld := ⟨0x1000020, 0, 16⟩
def CPL_EVENTS_LATE : Fld := ⟨0x1000020, 16, 16⟩
def CPL_EVENTS_QUARANTINES : Fld := ⟨0x1000020, 32, 16⟩
def CPL_CACHE_SHARED : Fld := ⟨0x1000028, 0, 17⟩
def CPL_CACHE_PINNED : Fld := ⟨0x1000028, 17, 16⟩
def CPL_CACHE_POLLING : Fld := ⟨0x1000028, 33, 1⟩
def CPL_CACHE_POLLED : Fld := ⟨0x1000028, 34, 16⟩
def SEC_STATUS_IDENTITY : Fld := ⟨0x1200000, 0, 1⟩
def SEC_STATUS_RECOVERY : Fld := ⟨0x1200000, 1, 1⟩
def SEC_STATUS_STORE_FAULT : Fld := ⟨0x1200000, 2, 1⟩
def SEC_STATUS_STAGE : Fld := ⟨0x1200000, 3, 8⟩
def SEC_STATUS_FW_VERSION : Fld := ⟨0x1200000, 32, 32⟩
def SEC_FW_MEAS_WORD (n : Nat) : Fld := ⟨0x1200040 + 0x8 * n, 0, 64⟩
def SEC_ID_HASH_WORD (n : Nat) : Fld := ⟨0x1200080 + 0x8 * n, 0, 64⟩
def SEC_CFG_MEAS_WORD (n : Nat) : Fld := ⟨0x12000C0 + 0x8 * n, 0, 64⟩
def SEC_CFG_GEN_CURRENT : Fld := ⟨0x1200100, 0, 32⟩
def SEC_CFG_GEN_PREVIOUS : Fld := ⟨0x1200100, 32, 32⟩
def SEC_CFG_STAT_STAGED : Fld := ⟨0x1200108, 0, 32⟩
def SEC_CFG_STAT_STAGED_VALID : Fld := ⟨0x1200108, 32, 1⟩
def SEC_CFG_STAT_PREV_VALID : Fld := ⟨0x1200108, 33, 1⟩
def SEC_CFG_STAT_TRIAL : Fld := ⟨0x1200108, 34, 1⟩
def SEC_CFG_STAT_TRIAL_LEFT : Fld := ⟨0x1200108, 35, 7⟩
def SEC_CFG_STAT_CONFIRMED : Fld := ⟨0x1200108, 42, 1⟩
def SEC_CFG_STAT_HEALTH : Fld := ⟨0x1200108, 43, 4⟩
def SEC_CFG_STAT_RETURN_STAGED : Fld := ⟨0x1200108, 47, 1⟩
def PMU_SEL_EVENT (n k : Nat) : Fld := ⟨0x1100000 + 0x80 * n + 0x8 * k, 0, 12⟩
def PMU_SEL_PARTS (n k : Nat) : Fld := ⟨0x1100000 + 0x80 * n + 0x8 * k, 12, 5⟩
def PMU_SEL_INST (n k : Nat) : Fld := ⟨0x1100000 + 0x80 * n + 0x8 * k, 17, 8⟩
def PMU_SEL_ENABLE (n k : Nat) : Fld := ⟨0x1100000 + 0x80 * n + 0x8 * k, 25, 1⟩
def PMU_SEL_INT_EN (n k : Nat) : Fld := ⟨0x1100000 + 0x80 * n + 0x8 * k, 26, 1⟩
def PMU_CNT_COUNT (n k : Nat) : Fld := ⟨0x1102000 + 0x80 * n + 0x8 * k, 0, 48⟩
def PMU_CNT_OVF (n k : Nat) : Fld := ⟨0x1102000 + 0x80 * n + 0x8 * k, 48, 1⟩
def PMU_FIX_STN_COUNT (n k : Nat) : Fld := ⟨0x1106000 + 0x80 * n + 0x8 * k, 0, 48⟩
def PMU_FIX_STN_OVF (n k : Nat) : Fld := ⟨0x1106000 + 0x80 * n + 0x8 * k, 48, 1⟩
def PMU_FIX_PRS_COUNT (n k : Nat) : Fld := ⟨0x1106200 + 0x40 * n + 0x8 * k, 0, 48⟩
def PMU_FIX_PRS_OVF (n k : Nat) : Fld := ⟨0x1106200 + 0x40 * n + 0x8 * k, 48, 1⟩
def PMU_FIX_SPL_COUNT (n k : Nat) : Fld := ⟨0x1108000 + 0x80 * n + 0x8 * k, 0, 48⟩
def PMU_FIX_SPL_OVF (n k : Nat) : Fld := ⟨0x1108000 + 0x80 * n + 0x8 * k, 48, 1⟩
def PMU_FIX_SLC_COUNT (n k : Nat) : Fld := ⟨0x1110000 + 0x40 * n + 0x8 * k, 0, 48⟩
def PMU_FIX_SLC_OVF (n k : Nat) : Fld := ⟨0x1110000 + 0x40 * n + 0x8 * k, 48, 1⟩
def PMU_FIX_BOL_COUNT (n : Nat) : Fld := ⟨0x1110800 + 0x8 * n, 0, 48⟩
def PMU_FIX_BOL_OVF (n : Nat) : Fld := ⟨0x1110800 + 0x8 * n, 48, 1⟩
def PMU_SNAP_CNT_COUNT (n k : Nat) : Fld := ⟨0x1122000 + 0x80 * n + 0x8 * k, 0, 48⟩
def PMU_SNAP_CNT_OVF (n k : Nat) : Fld := ⟨0x1122000 + 0x80 * n + 0x8 * k, 48, 1⟩
def PMU_SNAP_FIX_STN_COUNT (n k : Nat) : Fld := ⟨0x1126000 + 0x80 * n + 0x8 * k, 0, 48⟩
def PMU_SNAP_FIX_STN_OVF (n k : Nat) : Fld := ⟨0x1126000 + 0x80 * n + 0x8 * k, 48, 1⟩
def PMU_SNAP_FIX_PRS_COUNT (n k : Nat) : Fld := ⟨0x1126200 + 0x40 * n + 0x8 * k, 0, 48⟩
def PMU_SNAP_FIX_PRS_OVF (n k : Nat) : Fld := ⟨0x1126200 + 0x40 * n + 0x8 * k, 48, 1⟩
def PMU_SNAP_FIX_SPL_COUNT (n k : Nat) : Fld := ⟨0x1128000 + 0x80 * n + 0x8 * k, 0, 48⟩
def PMU_SNAP_FIX_SPL_OVF (n k : Nat) : Fld := ⟨0x1128000 + 0x80 * n + 0x8 * k, 48, 1⟩
def PMU_SNAP_FIX_SLC_COUNT (n k : Nat) : Fld := ⟨0x1130000 + 0x40 * n + 0x8 * k, 0, 48⟩
def PMU_SNAP_FIX_SLC_OVF (n k : Nat) : Fld := ⟨0x1130000 + 0x40 * n + 0x8 * k, 48, 1⟩
def PMU_SNAP_FIX_BOL_COUNT (n : Nat) : Fld := ⟨0x1130800 + 0x8 * n, 0, 48⟩
def PMU_SNAP_FIX_BOL_OVF (n : Nat) : Fld := ⟨0x1130800 + 0x8 * n, 48, 1⟩
def PMU_CTRL_FIX_INT : Fld := ⟨0x1140000, 0, 1⟩
def PMU_CTRL_SAMP_INT : Fld := ⟨0x1140000, 1, 1⟩
def PMU_OVF_BLOCKS : Fld := ⟨0x1140008, 0, 42⟩
def PMU_OVF_FIXED : Fld := ⟨0x1140008, 42, 1⟩
def PMU_USER_USER_EN (n : Nat) : Fld := ⟨0x1140020 + 0x8 * n, 0, 1⟩
def PMU_USER_BAD (n : Nat) : Fld := ⟨0x1140020 + 0x8 * n, 1, 1⟩
def PMU_USER_BASE (n : Nat) : Fld := ⟨0x1140020 + 0x8 * n, 16, 36⟩
def PMU_BW_CTL_TURNS : Fld := ⟨0x1140040, 0, 8⟩
def PMU_BW_TIME_NS : Fld := ⟨0x1140048, 0, 64⟩
def PMU_BW_SEQ_WINDOWS : Fld := ⟨0x1140050, 0, 32⟩
def PMU_BW_IN_BYTES (n : Nat) : Fld := ⟨0x1140100 + 0x8 * n, 0, 48⟩
/-- PMU_BW_OUT32 to 38 have the offsets of sampling registers: they are held beyond the set-up space (log entry 89). -/
def PMU_BW_OUT_BYTES (n : Nat) : Fld := ⟨0x1140300 + 0x8 * n + n / 32 * 0x3000000, 0, 48⟩
def PMU_SAMP_CTL_EVENT (n : Nat) : Fld := ⟨0x1140400 + 0x8 * n, 0, 12⟩
def PMU_SAMP_CTL_PERIOD (n : Nat) : Fld := ⟨0x1140400 + 0x8 * n, 12, 24⟩
def PMU_SAMP_CTL_ENABLE (n : Nat) : Fld := ⟨0x1140400 + 0x8 * n, 36, 1⟩
def PMU_SAMP_CTL_RESTART (n : Nat) : Fld := ⟨0x1140400 + 0x8 * n, 37, 1⟩
def PMU_SAMP_BASE_BASE (n : Nat) : Fld := ⟨0x1140420 + 0x8 * n, 20, 32⟩
def PMU_SAMP_STAT_INDEX (n : Nat) : Fld := ⟨0x1140440 + 0x8 * n, 0, 16⟩
def PMU_SAMP_STAT_FULL (n : Nat) : Fld := ⟨0x1140440 + 0x8 * n, 16, 1⟩
def PMU_SAMP_STAT_BAD (n : Nat) : Fld := ⟨0x1140440 + 0x8 * n, 17, 1⟩
def PMU_SAMP_STAT_DROPPED (n : Nat) : Fld := ⟨0x1140440 + 0x8 * n, 24, 24⟩
def CFG_ID_VENDOR : Fld := ⟨0x0, 0, 16⟩
def CFG_ID_PART : Fld := ⟨0x0, 16, 16⟩
def CFG_ID_STEPPING : Fld := ⟨0x0, 32, 8⟩
def CFG_ID_MAP : Fld := ⟨0x0, 40, 8⟩
def CFG_TIME_NS : Fld := ⟨0x8, 0, 64⟩
def CFG_STATUS_FIRST_COMMIT : Fld := ⟨0x10, 0, 1⟩
def CFG_STATUS_STAGED : Fld := ⟨0x10, 1, 11⟩
def CFG_STATUS_STAGE_LOST : Fld := ⟨0x10, 16, 16⟩
def CFG_STATUS_STAGE_BUSY : Fld := ⟨0x10, 32, 16⟩
def CFG_CLAMP_COUNT_COUNT : Fld := ⟨0x18, 0, 48⟩
def CFG_VIOL_OUTSIDE : Fld := ⟨0x20, 0, 16⟩
def CFG_VIOL_MISALIGNED : Fld := ⟨0x20, 16, 16⟩
def CFG_VIOL_WIDTH : Fld := ⟨0x20, 32, 16⟩
def CFG_VIOL_LAST_OFFSET : Fld := ⟨0x28, 0, 26⟩
def CFG_VIOL_LAST_WRITE : Fld := ⟨0x28, 26, 1⟩
def CFG_VIOL_LAST_HIGH : Fld := ⟨0x28, 27, 1⟩
def CFG_VIOL_LAST_TURN : Fld := ⟨0x28, 32, 32⟩
def CFG_SCRATCH_VALUE (n : Nat) : Fld := ⟨0x30 + 0x8 * n, 0, 64⟩

end F

namespace Reg

def TRN_PERIOD : Nat := 0x200000
def TRN_CTRL : Nat := 0x200008
def TRN_COUNT : Nat := 0x200010
def TRN_LAST_BOUNDARY : Nat := 0x200018
def TRN_STATUS : Nat := 0x200020
def TRN_PHASE_ERR : Nat := 0x200028
def TRN_CKPT_SLICE : Nat := 0x200030
def TRN_EVENTS : Nat := 0x200038
def TRN_WITHHELD : Nat := 0x200040
def STN_WIDTH : Nat := 0x400000
def STN_BYPASS (n : Nat) : Nat := 0x400008 + 0x8 * n
def STN_PENDING (n : Nat) : Nat := 0x400018 + 0x8 * n
def STN_STATUS : Nat := 0x400028
def STN_LAYOUT : Nat := 0x400030
def PRS_STATUS : Nat := 0x500000
def PRS_LANES : Nat := 0x500008
def PRS_CLAMPS : Nat := 0x500010
def SPL_HEALTH (n : Nat) : Nat := 0x600000 + 0x8 * n
def SPL_PENDING (n : Nat) : Nat := 0x600020 + 0x8 * n
def SPL_STATUS : Nat := 0x600040
def SPL_EVENTS : Nat := 0x600048
def SCP_LAYOUT : Nat := 0x700000
def SCP_HSTREAM (n : Nat) : Nat := 0x700100 + 0x8 * n
def SCP_HSTREAM_STAT (n : Nat) : Nat := 0x700300 + 0x8 * n
def SCP_ECC : Nat := 0x700008
def GRN_CTRL : Nat := 0x900000
def GRN_DEADCHK : Nat := 0x900008
def GRN_DEAD_REREAD : Nat := 0x900010
def GRN_COMMON : Nat := 0x900018
def GRN_SEGMENT : Nat := 0x900020
def GRN_BUCKET (n : Nat) : Nat := 0x900800 + 0x8 * n
def GRN_ORD_EVENTS : Nat := 0x900028
def GRN_SLICE_STATUS (n : Nat) : Nat := 0x800000 + 0x1000 * n
def GRN_SLICE_HOTBANK (n : Nat) : Nat := 0x800008 + 0x1000 * n
def GRN_SLICE_ECC (n : Nat) : Nat := 0x800010 + 0x1000 * n
def HBM_STATUS (n : Nat) : Nat := 0xA00000 + 0x10000 * n
def HBM_CTRL (n : Nat) : Nat := 0xA00008 + 0x10000 * n
def HBM_CHAN (n k : Nat) : Nat := 0xA00100 + 0x10000 * n + 0x8 * k
def HBM_SCRUB (n : Nat) : Nat := 0xA00010 + 0x10000 * n
def HBM_LOOP (n : Nat) : Nat := 0xA00018 + 0x10000 * n
def HBM_LOOP_ERR (n : Nat) : Nat := 0xA00020 + 0x10000 * n
def MMU_ROOT (n : Nat) : Nat := 0xB00000 + 0x8 * n
def MMU_CSA (n : Nat) : Nat := 0xB00020 + 0x8 * n
def MMU_FRING_BASE (n : Nat) : Nat := 0xB00040 + 0x8 * n
def MMU_FRING_CTL (n : Nat) : Nat := 0xB00060 + 0x8 * n
def MMU_FRING_STAT (n : Nat) : Nat := 0xB00080 + 0x8 * n
def MMU_CTRL : Nat := 0xB000A0
def MMU_STATUS : Nat := 0xB000A8
def SLC_STATUS : Nat := 0xC00000
def SLC_ALLOC : Nat := 0xC00008
def SLC_EVENTS : Nat := 0xC00010
def QUE_RBASE (n : Nat) : Nat := 0xD00000 + 0x40 * n
def QUE_CBASE (n : Nat) : Nat := 0xD00008 + 0x40 * n
def QUE_DB (n : Nat) : Nat := 0xD00010 + 0x40 * n
def QUE_HEADW (n : Nat) : Nat := 0xD00018 + 0x40 * n
def QUE_CPROD (n : Nat) : Nat := 0xD00020 + 0x40 * n
def QUE_CCONS (n : Nat) : Nat := 0xD00028 + 0x40 * n
def QUE_RCTL (n : Nat) : Nat := 0xD00030 + 0x40 * n
def QUE_RSTAT (n : Nat) : Nat := 0xD00038 + 0x40 * n
def QUE_EVENTS : Nat := 0xD04000
def QUE_DPOOL : Nat := 0xD04008
def PRT_LAYOUT : Nat := 0x300000
def PRT_RESET : Nat := 0x300008
def PRT_STATUS : Nat := 0x300010
def PRT_PART (n : Nat) : Nat := 0x300020 + 0x8 * n
def PRT_SWR_A (n : Nat) : Nat := 0x300100 + 0x8 * n
def PRT_SWR_B (n : Nat) : Nat := 0x300180 + 0x8 * n
def PRT_SWR_C (n : Nat) : Nat := 0x300200 + 0x8 * n
def PRT_SWR_STAT (n : Nat) : Nat := 0x300280 + 0x8 * n
def FAB_PORT_CTL (n : Nat) : Nat := 0xE00000 + 0x8 * n
def FAB_PORT_STAT (n : Nat) : Nat := 0xE00040 + 0x8 * n
def FAB_PORT_ERR (n : Nat) : Nat := 0xE00080 + 0x8 * n
def FAB_PEER (n k : Nat) : Nat := 0xE00100 + 0x80 * n + 0x8 * k
def FAB_COORD : Nat := 0xE00400
def FAB_DIMS : Nat := 0xE00408
def FAB_RTE_A (n : Nat) : Nat := 0xE00800 + 0x8 * n
def FAB_RTE_B (n : Nat) : Nat := 0xE00A00 + 0x8 * n
def FAB_ING_A (n : Nat) : Nat := 0xE00C00 + 0x8 * n
def FAB_ING_B (n : Nat) : Nat := 0xE00E00 + 0x8 * n
def FAB_ING_STOP : Nat := 0xE00430
def FAB_MBOX_A (n : Nat) : Nat := 0xE00440 + 0x8 * n
def FAB_MBOX_B (n : Nat) : Nat := 0xE00460 + 0x8 * n
def FAB_JOBSTOP : Nat := 0xE00410
def FAB_EVENTS : Nat := 0xE00418
def FAB_DENY : Nat := 0xE00420
def FAB_TIMEOUTS : Nat := 0xE00428
def COL_GRP_A (n : Nat) : Nat := 0xF00000 + 0x8 * n
def COL_GRP_B (n : Nat) : Nat := 0xF00800 + 0x8 * n
def COL_GRP_C (n : Nat) : Nat := 0xF01000 + 0x8 * n
def COL_GRP_D (n : Nat) : Nat := 0xF01800 + 0x8 * n
def COL_GRP_STAT (n : Nat) : Nat := 0xF02000 + 0x8 * n
def COL_CTRL : Nat := 0xF02800
def COL_STATUS : Nat := 0xF02808
def COL_EVENTS : Nat := 0xF02810
def ERR_CTRL : Nat := 0x1300000
def ERR_RING_BASE : Nat := 0x1300008
def ERR_RING_CTL : Nat := 0x1300010
def ERR_STATUS : Nat := 0x1300018
def ERR_CLOG_STAT : Nat := 0x1300020
def ERR_FLOG_STAT : Nat := 0x1300028
def ERR_LOG_SEL : Nat := 0x1300030
def ERR_LOG_WORD (n : Nat) : Nat := 0x1300040 + 0x8 * n
def ERR_FLOG_CLEAR : Nat := 0x1300080
def ERR_RATE_PRIOR : Nat := 0x1300088
def ERR_RATE_HIST : Nat := 0x1300090
def ERR_RATE : Nat := 0x1300098
def ERR_CKPT_CTL : Nat := 0x13000A0
def ERR_CKPT_COVER : Nat := 0x13000A8
def ERR_CKPT_INTERVAL : Nat := 0x13000B0
def TST_SCAN_CTL : Nat := 0x1400000
def TST_SCAN_STAT : Nat := 0x1400008
def TST_SCAN_FAIL : Nat := 0x1400010
def TST_PACK : Nat := 0x1400018
def TST_DIG_CTL : Nat := 0x1400020
def TST_DIG_KEY : Nat := 0x1400028
def TST_DIG_RANGE_A (n : Nat) : Nat := 0x1400040 + 0x8 * n
def TST_DIG_RANGE_B (n : Nat) : Nat := 0x1400060 + 0x8 * n
def TST_DIG_TABLE : Nat := 0x1400080
def TST_DIG_SNAP (n : Nat) : Nat := 0x1400088 + 0x8 * n
def TST_DIG_STAT : Nat := 0x14000A8
def MIL_SRV_CTL (n : Nat) : Nat := 0x100100 + 0x8 * n
def MIL_SRV_STAT (n : Nat) : Nat := 0x100120 + 0x8 * n
def MIL_SRV_EVENTS (n : Nat) : Nat := 0x100140 + 0x8 * n
def CPL_STATUS : Nat := 0x1000000
def CPL_CTL : Nat := 0x1000008
def CPL_VIOL : Nat := 0x1000010
def CPL_NAK_LAST : Nat := 0x1000018
def CPL_EVENTS : Nat := 0x1000020
def CPL_CACHE : Nat := 0x1000028
def SEC_STATUS : Nat := 0x1200000
def SEC_FW_MEAS (n : Nat) : Nat := 0x1200040 + 0x8 * n
def SEC_ID_HASH (n : Nat) : Nat := 0x1200080 + 0x8 * n
def SEC_CFG_MEAS (n : Nat) : Nat := 0x12000C0 + 0x8 * n
def SEC_CFG_GEN : Nat := 0x1200100
def SEC_CFG_STAT : Nat := 0x1200108
def PMU_SEL (n k : Nat) : Nat := 0x1100000 + 0x80 * n + 0x8 * k
def PMU_CNT (n k : Nat) : Nat := 0x1102000 + 0x80 * n + 0x8 * k
def PMU_FIX_STN (n k : Nat) : Nat := 0x1106000 + 0x80 * n + 0x8 * k
def PMU_FIX_PRS (n k : Nat) : Nat := 0x1106200 + 0x40 * n + 0x8 * k
def PMU_FIX_SPL (n k : Nat) : Nat := 0x1108000 + 0x80 * n + 0x8 * k
def PMU_FIX_SLC (n k : Nat) : Nat := 0x1110000 + 0x40 * n + 0x8 * k
def PMU_FIX_BOL (n : Nat) : Nat := 0x1110800 + 0x8 * n
def PMU_SNAP_CNT (n k : Nat) : Nat := 0x1122000 + 0x80 * n + 0x8 * k
def PMU_SNAP_FIX_STN (n k : Nat) : Nat := 0x1126000 + 0x80 * n + 0x8 * k
def PMU_SNAP_FIX_PRS (n k : Nat) : Nat := 0x1126200 + 0x40 * n + 0x8 * k
def PMU_SNAP_FIX_SPL (n k : Nat) : Nat := 0x1128000 + 0x80 * n + 0x8 * k
def PMU_SNAP_FIX_SLC (n k : Nat) : Nat := 0x1130000 + 0x40 * n + 0x8 * k
def PMU_SNAP_FIX_BOL (n : Nat) : Nat := 0x1130800 + 0x8 * n
def PMU_CTRL : Nat := 0x1140000
def PMU_OVF : Nat := 0x1140008
def PMU_USER (n : Nat) : Nat := 0x1140020 + 0x8 * n
def PMU_BW_CTL : Nat := 0x1140040
def PMU_BW_TIME : Nat := 0x1140048
def PMU_BW_SEQ : Nat := 0x1140050
def PMU_BW_IN (n : Nat) : Nat := 0x1140100 + 0x8 * n
def PMU_BW_OUT (n : Nat) : Nat := 0x1140300 + 0x8 * n + n / 32 * 0x3000000
def PMU_SAMP_CTL (n : Nat) : Nat := 0x1140400 + 0x8 * n
def PMU_SAMP_BASE (n : Nat) : Nat := 0x1140420 + 0x8 * n
def PMU_SAMP_STAT (n : Nat) : Nat := 0x1140440 + 0x8 * n
def CFG_ID : Nat := 0x0
def CFG_TIME : Nat := 0x8
def CFG_STATUS : Nat := 0x10
def CFG_CLAMP_COUNT : Nat := 0x18
def CFG_VIOL : Nat := 0x20
def CFG_VIOL_LAST : Nat := 0x28
def CFG_SCRATCH (n : Nat) : Nat := 0x30 + 0x8 * n

end Reg

end Sys2Proof.Machine
end

