-- ==== Sys2Proof/Machine/RegFile.lean ====
section
/-!
DEFINITION. Machine/RegFile.lean: finding the register of an offset and its reset word.
-/
namespace Sys2Proof.Machine

/-- The first register of the list that holds offset `off`, with its indices. -/
def findReg : List RegSpec → Nat → Option (RegSpec × List Nat)
  | [], _ => none
  | r :: rs, off =>
    if off < r.base then findReg rs off
    else match arrayIndex r.dims (off - r.base) with
      | some is => some (r, is)
      | none => findReg rs off

/-- The register at a set-up offset; none when no table of chapter 18 lists it (R707, R717). -/
def regFind (off : Nat) : Option (RegSpec × List Nat) := findReg (regsAt off) off

/-- What a register that nothing has written holds: the reset value of each of its fields, reserved bits zero. -/
def regReset (off : Nat) : Word :=
  match regFind off with
  | some (r, _) => BitVec.ofNat 64 r.resetWord
  | none => 0

end Sys2Proof.Machine
end

