-- ==== Sys2Proof/Machine/SMap.lean ====
section
/-!
DEFINITION. Machine/SMap.lean: reading and writing a sparse sorted map, and its canonical form.
Every memory of the module (HBM, scratchpad, Hopper), the set-up register file and the Spool registers use it.
-/
namespace Sys2Proof.Machine

/-- What `k` reads as: the listed value, else the value `d` gives an unlisted key. -/
def SMap.get {β : Type} (d : Nat → β) : SMap β → Nat → β
  | [], k => d k
  | (k', v) :: m, k => if k = k' then v else SMap.get d m k

/-- The map without key `k`. -/
def SMap.erase {β : Type} (m : SMap β) (k : Nat) : SMap β := m.filter (fun e => decide (e.1 ≠ k))

/-- Write `v` at `k`, keeping the canonical form: a value equal to the default is not listed. -/
def SMap.set {β : Type} [DecidableEq β] (d : Nat → β) : SMap β → Nat → β → SMap β
  | [], k, v => if v = d k then [] else [(k, v)]
  | (k', v') :: m, k, v =>
    if k < k' then (if v = d k then (k', v') :: SMap.erase m k else (k, v) :: (k', v') :: m)
    else if k = k' then (if v = d k then SMap.erase m k else (k, v) :: m)
    else (k', v') :: SMap.set d m k v

/-- The canonical form above a key bound: keys strictly rising, no entry equal to the default. -/
def SMap.wfFrom {β : Type} [DecidableEq β] (d : Nat → β) : Nat → SMap β → Bool
  | _, [] => true
  | lo, (k, v) :: m => decide (lo ≤ k) && decide (v ≠ d k) && SMap.wfFrom d (k + 1) m

/-- The canonical form of a sparse map. -/
def SMap.wf {β : Type} [DecidableEq β] (d : Nat → β) (m : SMap β) : Bool := SMap.wfFrom d 0 m

/-- Drop every entry whose key the predicate names: those keys read as the default again. -/
def SMap.clearIf {β : Type} (p : Nat → Bool) (m : SMap β) : SMap β := m.filter (fun e => !p e.1)

/-- `len` consecutive keys from `a`. -/
def SMap.getRange {β : Type} (d : Nat → β) (m : SMap β) : Nat → Nat → List β
  | _, 0 => []
  | a, n + 1 => SMap.get d m a :: SMap.getRange d m (a + 1) n

/-- Write a list at consecutive keys from `a`. -/
def SMap.setRange {β : Type} [DecidableEq β] (d : Nat → β) : SMap β → Nat → List β → SMap β
  | m, _, [] => m
  | m, a, v :: vs => SMap.setRange d (SMap.set d m a v) (a + 1) vs

end Sys2Proof.Machine
end

