-- ==== Sys2Proof/Machine/Ops.lean ====
section
/-!
DEFINITION. Machine/Ops.lean: the named operations every meaning is written over: registers and their fields, counters,
error records, performance events, rings, items and completion records.
-/
namespace Sys2Proof.Machine

/-! ### Registers -/

/-- The word a register holds. -/
def Dev.reg (d : Dev) (off : Nat) : Word := SMap.get regReset d.regs off

/-- Set a register's word. -/
def Dev.setReg (d : Dev) (off : Nat) (v : Word) : Dev := { d with regs := SMap.set regReset d.regs off v }

/-- A field of a register. -/
def Dev.rf (d : Dev) (f : Fld) : Nat := bitsAt (d.reg f.off).toNat f.lo f.w

/-- A one-bit field. -/
def Dev.rb (d : Dev) (f : Fld) : Bool := d.rf f = 1

/-- Set a field; the value is taken modulo the field's size. -/
def Dev.wf (d : Dev) (f : Fld) (v : Nat) : Dev :=
  d.setReg f.off (BitVec.ofNat 64 (withBits (d.reg f.off).toNat f.lo f.w v))

/-- Set a one-bit field. -/
def Dev.wb (d : Dev) (f : Fld) (v : Bool) : Dev := d.wf f (b2n v)

/-- Add to a counter field that wraps. -/
def Dev.bump (d : Dev) (f : Fld) (n : Nat) : Dev := if n = 0 then d else d.wf f (d.rf f + n)

/-- Add to a counter field that saturates. -/
def Dev.bumpSat (d : Dev) (f : Fld) (n : Nat) : Dev := d.wf f (min (d.rf f + n) (2 ^ f.w - 1))

/-- Count values clamped or acted on as another value (CFG_CLAMP_COUNT, R477). -/
def Dev.clamped (d : Dev) (n : Nat) : Dev := d.bump F.CFG_CLAMP_COUNT_COUNT n

/-- Bit `i` of a field. -/
def Dev.rbit (d : Dev) (f : Fld) (i : Nat) : Bool := bitAt (d.rf f) i

/-- Set or clear bit `i` of a field. -/
def Dev.wbit (d : Dev) (f : Fld) (i : Nat) (v : Bool) : Dev := d.wf { f with lo := f.lo + i, w := 1 } (b2n v)

/-- Something leaves the module. -/
def Dev.emit (d : Dev) (o : Out) : Dev := { d with out := d.out ++ [o] }

/-- Take a fresh number for a value the manual leaves open (log entry 3). -/
def Dev.tick (d : Dev) : Dev := { d with fresh := d.fresh + 1 }

/-- The number of the Turn in progress (R19). -/
def Dev.turn (d : Dev) : Nat := d.rf F.TRN_COUNT_COUNT

/-- The layout in force: 0 fused, 1 halved, 2 quartered (R484). -/
def Dev.layout (d : Dev) : Nat := d.rf F.PRT_LAYOUT_ACTIVE

/-- The number of partitions of the layout in force. -/
def Dev.parts (d : Dev) : Nat := 2 ^ d.layout

/-- Partition `p` has completed its last reset and no reset of it runs. -/
def Dev.ready (d : Dev) (p : Nat) : Bool :=
  d.rbit F.PRT_STATUS_READY p && !d.rbit F.PRT_STATUS_RESETTING p

/-- A count in the format of a doorbell word (R436). -/
def doorbellWord (c : Nat) : Nat := c % 2 ^ 32 + (2 ^ 32 - 1 - c % 2 ^ 32) * 2 ^ 32

/-- The halves of a doorbell word are complements (R436). -/
def doorbellOk (w : Nat) : Bool := w / 2 ^ 32 % 2 ^ 32 = 2 ^ 32 - 1 - w % 2 ^ 32

/-! ### Error records (R574, R576) -/

/-- The lowest set bit among four. -/
def lowBit4 (x : Nat) : Option Nat := (List.range 4).find? (fun p => bitAt x p)

/-- Post an error record. The intake keeps it or discards it under R576; posting never stalls. A fatal record sets its bits of
ERR_STATUS whether or not it is kept (R579). -/
def Dev.postError (d : Dev) (r : ErrRec) : Dev :=
  let d := if r.cls = 3 then d.wf F.ERR_STATUS_PART_FATAL (d.rf F.ERR_STATUS_PART_FATAL ||| r.parts % 16)
    else if r.cls = 4 then d.wb F.ERR_STATUS_DEVICE_FATAL true else d
  let d := if r.cls = 3 ∨ r.cls = 4 then { d with err := { d.err with fatals := d.err.fatals + 1 } } else d
  let n := d.err.intake.length
  if (192 ≤ n ∧ r.cls ≤ 1) ∨ 256 ≤ n then d.bump F.ERR_STATUS_INTAKE_LOST 1
  else
    let job := match lowBit4 r.parts with
      | some p => d.rf (F.PRT_PART_JOB p)
      | none => 0
    let r' := { r with turn := d.turn, time := d.time, seq := d.err.nextSeq % 2 ^ 32, job := job }
    { d with err := { d.err with intake := d.err.intake ++ [r'], nextSeq := (d.err.nextSeq + 1) % 2 ^ 32 } }

/-! ### Performance events (R688 to R694) -/

/-- The counters of block `b` that are selected: (counter, select word). Only written select registers can be enabled. -/
def Dev.pmuSelected (d : Dev) (b : Nat) : List (Nat × Word) :=
  (d.regs.filter (fun e => decide (Reg.PMU_SEL b 0 ≤ e.1) && decide (e.1 < Reg.PMU_SEL (b + 1) 0))).map
    (fun e => ((e.1 - Reg.PMU_SEL b 0) / 8, e.2))

/-- Add to a 48-bit counter register; a wrap sets its OVF bit (R694). -/
def Dev.pmuAdd (d : Dev) (count ovf : Fld) (n : Nat) : Dev :=
  let v := d.rf count + n
  let d := d.wf count v
  if 2 ^ 48 ≤ v then d.wb ovf true else d

/-- `n` occurrences of event `ev` in PMU block `b`, attributed to a partition or to none, at an instance (R688, R691, R692). -/
def Dev.event (d : Dev) (b ev : Nat) (part : Option Nat) (inst n : Nat) : Dev :=
  if n = 0 then d
  else
    (d.pmuSelected b).foldl (fun d (k, sel) =>
      let s := sel.toNat
      let attr := match part with
        | some p => p
        | none => 4
      let filt := bitsAt s 17 8
      let hasFilter := decide (8 ≤ b) && decide (b < 34) && decide (b ≠ 25) || decide (b = 41)
      if bitAt s 25 && decide (bitsAt s 0 12 = ev) && bitAt (bitsAt s 12 5) attr
          && (!hasFilter || decide (filt = 0xFF) || decide (filt = inst))
      then
        let before := d.rf (F.PMU_CNT_COUNT b k)
        let d := d.pmuAdd (F.PMU_CNT_COUNT b k) (F.PMU_CNT_OVF b k) n
        if 2 ^ 48 ≤ before + n ∧ bitAt s 26 then { d with pmu := { d.pmu with overflowed := d.pmu.overflowed + 1 } } else d
      else d) d

/-- Bytes through a port of the bandwidth windows (R698): port n in, or out. -/
def Dev.bwCount (d : Dev) (port : Nat) (isOut : Bool) (n : Nat) : Dev :=
  let k := 2 * port + b2n isOut
  { d with pmu := { d.pmu with bw := SMap.set (fun _ => 0) d.pmu.bw k (SMap.get (fun _ => 0) d.pmu.bw k + n) } }

/-! ### Sending flits and packets -/

/-- The link layer of port n: 0 to 5 the fabric ports, 6 the Companion Link. -/
def Dev.linkOf (d : Dev) (n : Nat) : LinkSt := d.fab.links.getD n {}

/-- Replace it. -/
def Dev.setLink (d : Dev) (n : Nat) (l : LinkSt) : Dev :=
  { d with fab := { d.fab with links := setAt {} d.fab.links n l } }

/-- A flit with its check (R492). -/
def flitBytes (header : Nat) (payload : List Byte) : Flit :=
  let body := leBytes 8 header ++ (payload ++ List.replicate (244 - payload.length) 0).take 244
  body ++ leBytes 4 (crc32c body)

/-- The header of a flit that port state `l` sends (R492): `len` 0 is an idle flit. -/
def LinkSt.header (l : LinkSt) (seq vc len : Nat) (nak rpl : Bool) (cvc credits : Nat) : Nat :=
  seq % 4096 + ((l.rxNext + 4095) % 4096) * 2 ^ 12 + b2n l.rxAny * 2 ^ 24 + b2n nak * 2 ^ 25 + b2n rpl * 2 ^ 26
    + (vc % 8) * 2 ^ 27 + (len % 256) * 2 ^ 30 + (cvc % 8) * 2 ^ 38 + (credits % 4096) * 2 ^ 41

/-- Send an idle flit with the acknowledgement fields and returned credits (R493 to R495). -/
def Dev.sendIdle (d : Dev) (port : Nat) (nak : Bool) (cvc credits : Nat) : Dev :=
  d.emit (.flit port (flitBytes ((d.linkOf port).header 0 0 0 nak false cvc credits) []))

/-- The VCs with strict priority: the control class of a fabric port (R496), the management class of the Companion Link
(R639). -/
def strictVc (port vc : Nat) : Bool := if port = 6 then vc = 4 else decide (6 ≤ vc)

/-- The virtual channel that sends its next flit: strict priority first, then the others in turn (R496). -/
def LinkSt.nextVc (l : LinkSt) (port : Nat) : Option Nat :=
  let has (v : Nat) : Bool := decide (0 < l.credits.getD v 0) && l.txWait.any (fun e => e.1 = v)
  match (List.range 8).find? (fun v => strictVc port v && has v) with
  | some v => some v
  | none => ((List.range 8).map (fun i => (l.lastVc + 1 + i) % 8)).find? (fun v => !strictVc port v && has v)

/-- The link carries flits: a fabric port from training step 1 on (R497, R499), the Companion Link likewise (R640, R653). -/
def Dev.linkUp (d : Dev) (port : Nat) : Bool :=
  if port = 6 then decide (0 < d.rf F.CPL_STATUS_STATE) else decide (0 < d.rf (F.FAB_PORT_STAT_STATE port))

/-- Send the next waiting flit of a port, if a credit and room in the replay buffer allow (R494, R495). -/
def Dev.sendFlit (d : Dev) (port : Nat) : Dev :=
  let l := d.linkOf port
  if 2047 ≤ l.replay.length || !d.linkUp port then d
  else
    match l.nextVc port with
    | none => d
    | some v =>
      match l.txWait.find? (fun e => e.1 = v) with
      | none => d
      | some (_, pay) =>
        let f := flitBytes (l.header l.txNext v pay.length false false 0 0) pay
        let l' := { l with txNext := (l.txNext + 1) % 4096, replay := l.replay ++ [(l.txNext, f)],
                           txWait := l.txWait.erase (v, pay), credits := l.credits.modify v (· - 1),
                           lastVc := if strictVc port v then l.lastVc else v }
        let d := ((d.setLink port l').emit (.flit port f)).bwCount (32 + port) true pay.length
        if port = 6 then d.event 40 0x800 none 0 1 else d.event (34 + port) 0x700 none 0 1

/-- Send every flit of a port that may be sent now. -/
def Dev.pump (d : Dev) (port : Nat) : Dev :=
  (List.range (d.linkOf port).txWait.length).foldl (fun d _ => d.sendFlit port) d

/-- Hand a packet's bytes to a port's virtual channel: they are cut into flits of 244 payload bytes; a packet begins a flit
of its own (log entry 20). -/
def Dev.transmit (d : Dev) (port vc : Nat) (bytes : List Byte) : Dev :=
  let l := d.linkOf port
  (d.setLink port { l with txWait := l.txWait ++ (chunks 244 bytes.length bytes).map (fun c => (vc, c)) }).pump port

/-- The message class of a Companion Link packet of the module (R639, R642). -/
def cplClass (op : Nat) : Nat :=
  if 1 ≤ op ∧ op ≤ 4 then 0 else if op = 0x10 then 1 else if op = 0x20 ∨ op = 0x21 then 2 else if op = 0x30 then 3 else 4

/-- Send a packet on the Companion Link. -/
def Dev.sendCpl (d : Dev) (p : CplPacket) : Dev := (d.emit (.link p)).transmit 6 (cplClass p.op) p.bytes

/-! ### Writes to companion memory (R644 to R648) -/

/-- The coherent classes are open (R653). -/
def Dev.coherent (d : Dev) : Bool := d.rf F.CPL_STATUS_STATE = 3

/-- A tag that no outstanding request of the module holds (R644): the lowest whose last request did not fail, so that a late answer
(R645) is not taken for an answer to it; else the lowest (log entry 54). -/
def Dev.freeCplTag (d : Dev) : Nat :=
  let free (t : Nat) : Bool := !d.cpl.reqs.any (fun r => r.tag = t)
  match (List.range 4096).find? (fun t => free t && !d.cpl.failedTags.contains t) with
  | some t => t
  | none => ((List.range 4096).find? free).getD 0

/-- Drop the module's own copies of the lines [a, a + n) of companion memory, addresses divided by 64. -/
def Dev.dropLines (d : Dev) (a n : Nat) : Dev :=
  let cache := (List.range n).foldl (fun m i => SMap.set (fun _ => none) m (a + i) none) d.cpl.cache
  { d with cpl := { d.cpl with cache := cache } }

/-- Send the front write of the queue when a place is free. -/
def Dev.sendWrite (d : Dev) : Dev :=
  match d.cpl.queue with
  | [] => d
  | w :: ws =>
    if d.coherent ∧ d.cpl.reqs.length < 1024 then
      let t := d.freeCplTag
      let d := d.dropLines (w.addr / 64) (if w.op = 3 then w.payload.length / 64 else 1)
      let q : CplReq := { tag := t, op := w.op, addr := w.addr, len := w.payload.length, sentAt := d.time, who := w.who }
      let d := { d with cpl := { d.cpl with queue := ws, reqs := d.cpl.reqs ++ [q] } }
      d.sendCpl { op := w.op, tag := t, len := w.payload.length, poison := w.poison, addr := w.addr, payload := w.payload }
    else d

/-- Send every queued write that may be sent now. -/
def Dev.pumpCpl (d : Dev) : Dev := (List.range d.cpl.queue.length).foldl (fun d _ => d.sendWrite) d

/-- The packets of a write of `bs` at companion address `a`: masked writes for partial lines, whole lines in packets of at
most 256 bytes; with poison, packets of one line each (R642, R648). -/
def cplPackets (poisoned : Bool) : Nat → Nat → List MByte → List CplWrite
  | 0, _, _ => []
  | _, _, [] => []
  | f + 1, a, b :: bs' =>
    let bs := b :: bs'
    let o := a % 64
    if o ≠ 0 ∨ bs.length < 64 then
      let part := bs.take (64 - o)
      let mask := (2 ^ part.length - 1) * 2 ^ o
      { op := 4, addr := a - o, poison := part.any (·.p),
        payload := leBytes 8 mask ++ List.replicate o 0 ++ part.map (·.b) ++ List.replicate (64 - o - part.length) 0 }
        :: cplPackets poisoned f (a + part.length) (bs.drop part.length)
    else
      let k := if poisoned then 1 else min 4 (bs.length / 64)
      let part := bs.take (64 * k)
      { op := 3, addr := a, poison := part.any (·.p), payload := part.map (·.b) }
        :: cplPackets poisoned f (a + 64 * k) (bs.drop (64 * k))

/-- A write to companion memory by a unit of the module. -/
def Dev.writeCompanion (d : Dev) (addr : Nat) (bs : List MByte) (who : List Waiter := []) : Dev :=
  let ws := (cplPackets (bs.any (·.p)) bs.length (addr % 2 ^ 52) bs).map (fun w => { w with who := who })
  { d with cpl := { d.cpl with queue := d.cpl.queue ++ ws } }.pumpCpl

/-- A clean write to companion memory. -/
def Dev.toCompanion (d : Dev) (addr : Nat) (bytes : List Byte) : Dev :=
  d.writeCompanion addr (bytes.map (fun b => { b := b }))

/-! ### Rings and items -/

/-- Ring r of partition p has the registers of index 64p + r (R431). -/
def ringIndex (p r : Nat) : Nat := 64 * p + r

/-- The control plane's state of ring n. -/
def Dev.ring (d : Dev) (n : Nat) : Ring := SMap.get (fun _ => {}) d.ctl.rings n

/-- Replace it. -/
def Dev.setRing (d : Dev) (n : Nat) (r : Ring) : Dev :=
  { d with ctl := { d.ctl with rings := SMap.set (fun _ => {}) d.ctl.rings n r } }

/-- The item of a number. -/
def Dev.item (d : Dev) (id : Nat) : Option Item := d.ctl.items.find? (fun i => i.id = id)

/-- Replace the item of the same number. -/
def Dev.setItem (d : Dev) (it : Item) : Dev :=
  { d with ctl := { d.ctl with items := d.ctl.items.map (fun i => if i.id = it.id then it else i) } }

/-- Remove an item. -/
def Dev.dropItem (d : Dev) (id : Nat) : Dev :=
  { d with ctl := { d.ctl with items := d.ctl.items.filter (fun i => i.id ≠ id) } }

/-- Add an item at the end of the admission order, with the next number. -/
def Dev.addItem (d : Dev) (it : Item) : Dev :=
  { d with ctl := { d.ctl with items := d.ctl.items ++ [{ it with id := d.ctl.nextId }], nextId := d.ctl.nextId + 1 } }

/-- The engines an operation code names (R441). -/
inductive Engine | nop | stones | press | launch | sluice | bolter | service | collective | reserved
deriving DecidableEq, Repr

/-- The engine of an operation code (R441). -/
def engineOf (op : Nat) : Engine :=
  if op = 0 then .nop
  else if 0x10 ≤ op ∧ op ≤ 0x13 then .stones
  else if op = 0x20 ∨ op = 0x21 then .press
  else if op = 0x30 then .launch
  else if 0x40 ≤ op ∧ op ≤ 0x45 then .sluice
  else if 0x50 ≤ op ∧ op ≤ 0x53 then .bolter
  else if 0x60 ≤ op ∧ op ≤ 0x65 then .service
  else if 0x70 ≤ op ∧ op ≤ 0x7F then .collective
  else .reserved

def Item.engine (i : Item) : Engine := engineOf i.desc.opcode

/-- The items of partition p's engine, in order of entry, at any of the places `f` admits. -/
def Dev.queueOf (d : Dev) (p : Nat) (e : Engine) (f : Place → Bool) : List Item :=
  d.ctl.items.filter (fun i => decide (i.part = p) && decide (i.engine = e) && f i.place)

/-- Waiting in an engine queue or worked on. -/
def Place.inQueue : Place → Bool
  | .queued | .running | .draining => true
  | _ => false

/-- The head of partition p's queue of an engine: the first item that is queued or running. -/
def Dev.headOf (d : Dev) (p : Nat) (e : Engine) : Option Item :=
  (d.queueOf p e (fun q => q = .queued ∨ q = .running)).head?

/-- The log2 sizes in force of a ring. -/
def Dev.ringLog2 (d : Dev) (n : Nat) : Nat := d.rf (F.QUE_RCTL_LOG2SIZE n)
def Dev.cplLog2 (d : Dev) (n : Nat) : Nat := d.rf (F.QUE_RCTL_CLOG2SIZE n)

/-- Reserved slots of ring n's completion ring: admitted descriptors without a final record (R454). -/
def Dev.reserved (d : Dev) (n : Nat) : Nat :=
  (d.ctl.items.filter (fun i => decide (ringIndex i.part i.ring = n) && i.posted.isNone)).length

/-- Records written and not consumed. -/
def Ring.unconsumed (r : Ring) : Nat := (r.prod + 2 ^ 32 - r.cons) % 2 ^ 32

/-- The 32 bytes of a completion record (R452). -/
def completionBytes (status op tag ring part : Nat) (it : Item) (turn progress time : Nat) : List Byte :=
  leBytes 8 (status % 256 + (op % 256) * 2 ^ 8 + (tag % 2 ^ 16) * 2 ^ 16 + (ring % 64) * 2 ^ 32 + (part % 4) * 2 ^ 38
    + b2n it.sat * 2 ^ 40 + b2n it.nan * 2 ^ 41 + b2n it.clamped * 2 ^ 42 + b2n it.poison * 2 ^ 43
    + (it.overruns % 8) * 2 ^ 44 + b2n it.deferred * 2 ^ 47 + (it.detail % 2 ^ 16) * 2 ^ 48)
  ++ leBytes 8 (it.seq % 2 ^ 32 + (turn % 2 ^ 32) * 2 ^ 32)
  ++ leBytes 8 (progress % 2 ^ 64)
  ++ leBytes 8 (time % 2 ^ 64)

/-- The resume position of an item as the 64-bit POSITION of R403 and R428 (log entry 12 for the packing). -/
def Item.position (i : Item) : Nat :=
  let (a, b, c) := i.pos
  match i.engine with
  | .press => if i.desc.opcode = 0x20 then a % 2 ^ 24 + (b % 2 ^ 16) * 2 ^ 24 + (c % 2 ^ 24) * 2 ^ 40 else a
  | .sluice =>
    if 0x42 ≤ i.desc.opcode then c % 2 ^ 64 else a % 2 ^ 16 + (b % 2 ^ 24) * 2 ^ 16 + (c % 2 ^ 24) * 2 ^ 40
  | .bolter => a % 2 ^ 32 + (b % 2 ^ 32) * 2 ^ 32
  | _ => a

/-- The status of a final record (R456). -/
def Item.status (i : Item) : Nat :=
  match i.early with
  | some c => c
  | none => if i.poison then 0x11 else if i.clamped then 0x01 else if i.sat then 0x50 else 0x00

/-- The error source of an item's engine (R573, R575). -/
def engineSource : Engine → Nat
  | .stones => 0x02
  | .press => 0x03
  | .launch => 0x04
  | .collective => 0x09
  | _ => 0x0A

/-- Write record number `prod` of ring n's completion ring and then its producer word (R453). -/
def Dev.writeRecord (d : Dev) (n status progress : Nat) (it : Item) : Dev :=
  let r := d.ring n
  let base := d.rf (F.QUE_CBASE_BASE n) * 64
  let slot := r.prod % 2 ^ d.cplLog2 n
  let d := d.toCompanion (base + 32 * slot)
    (completionBytes status it.desc.opcode it.desc.tag it.ring it.part it d.turn progress d.time)
  let prod' := (r.prod + 1) % 2 ^ 32
  let d := d.toCompanion (d.rf (F.QUE_CPROD_ADDR n) * 8) (leBytes 8 (doorbellWord prod'))
  (d.setRing n { d.ring n with prod := prod' }).event 41 0x904 (some it.part) it.ring 1

/-- The poison-class record of an item that completes with POISON (R573). -/
def Dev.poisonRecord (d : Dev) (it : Item) : Dev :=
  let (k, a) := match it.poisonAt with
    | some x => x
    | none => (0, 0)
  d.postError { cls := 2, source := engineSource it.engine, event := 0xF0, inst := it.unit, parts := 2 ^ it.part,
                addr := a, akind := k, tag := it.desc.tag, ring := it.ring }

/-- Drop an item's own entry from the open fault records: nothing answers it any more. -/
def Dev.forgetWaiter (d : Dev) (w : Waiter) : Dev :=
  { d with mem := { d.mem with faults := d.mem.faults.map (fun f => { f with waiters := f.waiters.filter (· ≠ w) }) } }

/-- What a linked MANGLE learns when its producer completes, and what is forgotten when the MANGLE itself does (R220). -/
def Dev.noteLinks (d : Dev) (it : Item) : Dev :=
  let ls := (d.prs.links.filter (fun l => l.mangle ≠ it.id)).map (fun l =>
    if l.producer = it.id then { l with done := some (it.status, it.prog) } else l)
  { d with prs := { d.prs with links := ls } }

/-- An item ends: its final record is written with the status of R456 and the item leaves the module (R453, R573). -/
def Dev.finishItem (d : Dev) (it : Item) : Dev :=
  let d := (if it.status = 0x11 then d.poisonRecord it else d).noteLinks it
  let d := d.writeRecord (ringIndex it.part it.ring) it.status (it.prog - it.short) it
  (d.forgetWaiter (.item it.id)).dropItem it.id

/-- An OVERRUN_RESUMED record, written only when an unreserved free slot exists (R454). -/
def Dev.resumedRecord (d : Dev) (it : Item) : Dev :=
  let n := ringIndex it.part it.ring
  let d := d.bump F.TRN_EVENTS_OVERRUNS 1
  if d.reserved n + (d.ring n).unconsumed < 2 ^ d.cplLog2 n then d.writeRecord n 0x02 it.position it
  else d.bump F.QUE_EVENTS_CPL_DROPPED 1

/-- A ring stops admitting, with the status that stopped it (R39, R260, R376, R528). -/
def Dev.stopRing (d : Dev) (n status : Nat) : Dev :=
  (d.wb (F.QUE_RSTAT_STOPPED n) true).wf (F.QUE_RSTAT_STOP_STATUS n) status

/-- The class of a ring: 0 compute, 1 copy, 2 collective, 3 service (R479). -/
def Dev.ringClass (d : Dev) (n : Nat) : Nat := d.rf (F.QUE_RCTL_CLASS n)

end Sys2Proof.Machine
end

