-- ==== Sys2Proof/Machine/Companion.lean ====
section
/-!
DEFINITION. Machine/Companion.lean: reads of companion memory through the Companion cache (R644, R647 to R652, R661). A read
that must ask the companion sends its request and waits; the line is there when CPL_DATA has brought it.
-/
namespace Sys2Proof.Machine

/-- Line n of the Companion cache. -/
def Dev.cplLine (d : Dev) (n : Nat) : Option CLine := SMap.get (fun _ => none) d.cpl.cache n

def Dev.setCplLine (d : Dev) (n : Nat) (l : Option CLine) : Dev :=
  { d with cpl := { d.cpl with cache := SMap.set (fun _ => none) d.cpl.cache n l } }

/-- The snoop class is quarantined: the module reads with RD only and keeps no line (R661). -/
def Dev.snoopQuarantined (d : Dev) : Bool := d.rbit F.CPL_STATUS_QUAR 1

/-- A followed line that is not polled is Pinned (R652). -/
def Dev.pinnedLine (d : Dev) (n : Nat) : Bool := d.cpl.followed.contains n && !d.cpl.polled.contains n

/-- Send a read of one line: RD_SH to hold it, RD otherwise (R642, R647). -/
def Dev.sendRead (d : Dev) (n : Nat) (hold : Bool) (who : List Waiter := []) : Dev :=
  if !d.coherent || decide (1024 ≤ d.cpl.reqs.length) then d
  else
    let t := d.freeCplTag
    let op := if hold && !d.snoopQuarantined then 2 else 1
    let q : CplReq := { tag := t, op := op, addr := 64 * n, len := 64, sentAt := d.time, who := who }
    let d := { d with cpl := { d.cpl with reqs := d.cpl.reqs ++ [q] } }
    let d := if op = 2 then d.event 40 0x804 none 0 1 else d
    d.sendCpl { op := op, tag := t, addr := 64 * n, arg := if op = 1 then 64 else 0 }

/-- A read of the line is outstanding. -/
def Dev.reading (d : Dev) (n : Nat) : Bool :=
  d.cpl.reqs.any (fun r => decide (r.op ≤ 2) && decide (r.addr / 64 = n))

/-- Keep a delivered line: Shared lines of the set are evicted oldest first (R647). -/
def Dev.keepLine (d : Dev) (n : Nat) (bytes : List Byte) (poison : Bool) : Dev :=
  let ways := d.cpl.cache.filterMap (fun e => if e.1 % 4096 = n % 4096 then e.2.map (fun l => (e.1, l)) else none)
  let d := if (d.cplLine n).isNone ∧ 16 ≤ ways.length then
      match (ways.filter (fun w => !w.2.pinned)).foldl (fun (o : Option (Nat × CLine)) w => match o with
          | none => some w
          | some x => if w.2.age < x.2.age then some w else o) none with
      | some (v, _) => d.setCplLine v none
      | none => d
    else d
  let d := d.setCplLine n (some { bytes := bytes, poison := poison, pinned := d.pinnedLine n, age := d.cpl.nextAge })
  { d with cpl := { d.cpl with nextAge := d.cpl.nextAge + 1 } }

/-- The bytes of a companion line for a unit that reads it; none while the read is outstanding (R647). -/
def Dev.fetchLine (d : Dev) (n hint : Nat) (who : Waiter) : Dev × Option (List Byte × Bool) :=
  match d.cpl.got.find? (fun g => decide (g.line = n) && decide (g.who = who)) with
  | some g => (d, some (g.bytes, g.poison))
  | none =>
    match d.cplLine n with
    | some l => (d.setCplLine n (some { l with used := true }), some (l.bytes, l.poison))
    | none =>
      if d.reading n then
        let reqs := d.cpl.reqs.map (fun r =>
          if r.op ≤ 2 ∧ r.addr / 64 = n ∧ !r.who.contains who then { r with who := r.who ++ [who] } else r)
        ({ d with cpl := { d.cpl with reqs := reqs } }, none)
      else (d.sendRead n (hint ≠ 2) [who], none)

/-- A unit's step is complete: the lines and window data brought for it have been used. -/
def Dev.sweep (d : Dev) (who : Waiter) : Dev :=
  let wins := d.fab.wins.filterMap (fun w =>
    if w.owner = who ∧ w.kind = .load ∧ w.state ≠ 0 then (if w.state = 1 then none else some { w with taken := true }) else some w)
  { d with cpl := { d.cpl with got := d.cpl.got.filter (fun g => g.who ≠ who) }, fab := { d.fab with wins := wins } }

/-- Bytes [a, a + n) of companion memory inside one 64-byte line. -/
def Dev.companionPart (d : Dev) (a n hint : Nat) (who : Waiter) : Dev × Option (List MByte) :=
  let (d, r) := d.fetchLine (a / 64) hint who
  (d, r.map (fun (bs, p) => ((bs.drop (a % 64)).take n).map (fun b => { b := b, p := p })))

/-- Bytes [a, a + n) of companion memory inside one 128-byte line. -/
def Dev.companionRead (d : Dev) (a n hint : Nat) (who : Waiter) : Dev × Option (List MByte) :=
  let k := min n (64 - a % 64)
  let (d, x) := d.companionPart a k hint who
  if k = n then (d, x)
  else
    let (d, y) := d.companionPart (a + k) (n - k) hint who
    (d, match x, y with
      | some x, some y => some (x ++ y)
      | _, _ => none)

/-- Follow a line: it is read and Pinned, or polled when 8 lines of its set are Pinned already (R652). -/
def Dev.follow (d : Dev) (n : Nat) : Dev :=
  let was := d.cpl.followed.contains n
  let pins := ((d.cpl.followed.eraseDups).filter (fun m => decide (m % 4096 = n % 4096) && d.pinnedLine m)).length
  let d := { d with cpl := { d.cpl with followed := d.cpl.followed ++ [n] } }
  if was then d
  else if 8 ≤ pins then { d with cpl := { d.cpl with polled := d.cpl.polled ++ [n] } }
  else
    match d.cplLine n with
    | some l => d.setCplLine n (some { l with pinned := true })
    | none => if d.reading n then d else d.sendRead n true

/-- One reason to follow a line ends (R652). -/
def Dev.unfollow (d : Dev) (n : Nat) : Dev :=
  let d := { d with cpl := { d.cpl with followed := d.cpl.followed.erase n } }
  if d.cpl.followed.contains n then d
  else
    let d := { d with cpl := { d.cpl with polled := d.cpl.polled.filter (· ≠ n) } }
    match d.cplLine n with
    | some l => d.setCplLine n (some { l with pinned := false })
    | none => d

/-- A followed line whose read was bad is read again as a polled line (R438). -/
def Dev.pollAgain (d : Dev) (line : Nat) : Dev :=
  if d.cpl.polled.contains line then d else { d with cpl := { d.cpl with polled := d.cpl.polled ++ [line] } }

/-- After a good read the line is Pinned again, unless 8 lines of its set are (R652). -/
def Dev.pollEnd (d : Dev) (line : Nat) : Dev :=
  let pins := ((d.cpl.followed.eraseDups).filter (fun m => decide (m % 4096 = line % 4096) && decide (m ≠ line) && d.pinnedLine m)).length
  if 8 ≤ pins then d else { d with cpl := { d.cpl with polled := d.cpl.polled.filter (· ≠ line) } }

/-- Companion lines held, Shared and Pinned (CPL_CACHE of R685). -/
def Dev.cplShared (d : Dev) : Nat := (d.cpl.cache.filter (fun e => match e.2 with | some l => !l.pinned | none => false)).length
def Dev.cplPinned (d : Dev) : Nat := (d.cpl.cache.filter (fun e => match e.2 with | some l => l.pinned | none => false)).length

end Sys2Proof.Machine
end

