-- ==== Sys2Proof/Machine/Fabric.lean ====
section
/-!
DEFINITION. Machine/Fabric.lean: addresses, routing and the sending of fabric packets (R502 to R510), and the module's own
window requests (R511 to R513, R518).
-/
namespace Sys2Proof.Machine

/-- The coordinate of a node address on axis 0 X, 1 Y, 2 Z (R502). -/
def coordOf (node axis : Nat) : Nat := bitsAt node (12 - 6 * axis) 6

/-- The size of an axis from the 18 bits of FAB_DIMS (R503, R533). -/
def axisSize (dims axis : Nat) : Nat := bitsAt dims (6 * axis) 6 + 1

/-- FAB_DIMS after the reduction of the Z size (R503): the value and whether it was reduced. -/
def reduceDims (dims : Nat) : Nat × Bool :=
  let xy := axisSize dims 0 * axisSize dims 1
  if 65536 < xy * axisSize dims 2 then (withBits dims 12 6 (65536 / xy - 1), true) else (dims, false)

/-- Every coordinate of the node lies within its axis (R503). -/
def nodeInDims (dims node : Nat) : Bool := (List.range 3).all (fun a => decide (coordOf node a < axisSize dims a))

/-- FAB_COORD is valid: its pair is in force and lies within the dimensions in force. -/
def Dev.coordValid (d : Dev) : Bool :=
  match d.fab.node, d.fab.dims with
  | some n, some s => nodeInDims s n
  | _, _ => false

/-- The module's own node address. -/
def Dev.ownNode (d : Dev) : Nat := d.fab.node.getD 0

/-- STATE of port n: 3 is running (R497). -/
def Dev.portRunning (d : Dev) (n : Nat) : Bool := d.rf (F.FAB_PORT_STAT_STATE n) = 3

/-- The class of a packet kind: 0 request, 1 response, 2 collective, 3 control; none for a reserved kind (R510). -/
def kindClass (k : Nat) : Option Nat :=
  if 1 ≤ k ∧ k ≤ 6 then some 0
  else if 8 ≤ k ∧ k ≤ 0xB then some 1
  else if k = 0xC then some 2
  else if 0xD ≤ k ∧ k ≤ 0xF then some 3
  else none

/-- The first enabled route override that matches a destination (R506): its PORT field and FORCE_VC1. -/
def Dev.override (d : Dev) (dst : Nat) : Option (Nat × Bool) :=
  (List.range 64).findSome? (fun i =>
    let a := SMap.get (fun _ => 0) d.fab.rte i
    if bitAt a 40 ∧ (dst &&& bitsAt a 18 18) = bitsAt a 0 18 &&& bitsAt a 18 18 then some (bitsAt a 36 3, bitAt a 39) else none)

/-- Dimension order: the output port of R504 steps 2 and 3. -/
def dimensionPort (dims own dst : Nat) : Option Nat :=
  (List.range 3).findSome? (fun ax =>
    let o := coordOf own ax
    let t := coordOf dst ax
    if o = t then none
    else
      let size := axisSize dims ax
      let dd := (t + size - o) % size
      some (2 * ax + if dd ≤ size / 2 then 0 else 1))

/-- The output port and the dateline bit of a packet that came in on axis `inAxis` with bit `b` (none: it originates here)
(R504 to R506); none when the packet is discarded (R507). -/
def Dev.route (d : Dev) (dst : Nat) (inp : Option (Nat × Bool)) : Dev × Option (Nat × Bool) :=
  let dims := d.fab.dims.getD 0
  let own := d.ownNode
  let (choice, force) := match d.override dst with
    | some (p, f) => (if p = 0 ∨ p = 7 then none else some (p - 1), f)
    | none => (dimensionPort dims own dst, false)
  match choice with
  | none => (d.bump F.FAB_EVENTS_NO_ROUTE 1, none)
  | some p =>
    if !d.portRunning p then (d.bump F.FAB_EVENTS_NO_ROUTE 1, none)
    else
      let ax := p / 2
      let b0 := match inp with
        | some (a, b) => if a = ax then b else false
        | none => false
      let o := coordOf own ax
      let wrap := if p % 2 = 0 then o + 1 = axisSize dims ax else o = 0
      (d, some (p, b0 || decide wrap || force))

/-- Put a packet on port p with dateline bit b (R495). -/
def Dev.putOnPort (d : Dev) (p : Nat) (b : Bool) (pkt : Packet) : Dev :=
  match kindClass pkt.kind with
  | some c => (d.emit (.fabric p pkt)).transmit p (2 * c + b2n b) pkt.bytes
  | none => d

/-- Send or forward a packet that is not addressed to this module (R504, R507). -/
def Dev.sendOn (d : Dev) (pkt : Packet) (inp : Option (Nat × Bool)) : Dev :=
  match d.route pkt.dst inp with
  | (d, some (p, b)) => d.putOnPort p b pkt
  | (d, none) => d

/-- The first-hop port of a destination, without sending (R520). -/
def Dev.firstHop (d : Dev) (dst : Nat) : Option Nat :=
  match d.override dst with
  | some (p, _) => if p = 0 ∨ p = 7 then none else some (p - 1)
  | none => dimensionPort (d.fab.dims.getD 0) d.ownNode dst

/-- The node of the neighbour on port p: the module at the other end (R485, R499). -/
def Dev.neighbour (d : Dev) (p : Nat) : Nat :=
  match (d.linkOf p).peerNode with
  | some n => n
  | none =>
    let dims := d.fab.dims.getD 0
    let own := d.ownNode
    let ax := p / 2
    let s := axisSize dims ax
    let o := coordOf own ax
    withBits own (12 - 6 * ax) 6 (if p % 2 = 0 then (o + 1) % s else (o + s - 1) % s)

/-! ### Window requests of this module (R511 to R513) -/

/-- The lowest free window tag of a port (R512). -/
def Dev.freeWinTag (d : Dev) (port : Nat) : Option Nat :=
  (List.range 512).find? (fun t => !d.fab.wins.any (fun w => decide (w.port = port) && decide (w.tag = t) && decide (w.state ≠ 1)))

/-- The JOB that partition p's packets carry (R461, R509). -/
def Dev.jobOf (d : Dev) (p : Nat) : Nat := d.rf (F.PRT_PART_JOB p)

/-- Send a window request (R511). The caller has found a free tag. -/
def Dev.sendWindow (d : Dev) (port tag off len part : Nat) (kind : WinKind) (pkt : Packet) (owner : Waiter) : Dev :=
  let w : WinReq := { port := port, tag := tag, off := off, len := len, kind := kind, part := part, owner := owner, sentAt := d.time,
                      taken := decide (kind = .store ∨ kind = .atomicNoret) }
  let d := { d with fab := { d.fab with wins := d.fab.wins ++ [w] } }
  d.putOnPort port false { pkt with dst := d.neighbour port, src := d.ownNode, job := d.jobOf part, tag := tag, addr := off }

/-- A window load of one run: the data once it is here, none while it is outstanding (R511, R513, R518). -/
def Dev.winLoad (d : Dev) (part port off n : Nat) (owner : Waiter) : Dev × Option (List MByte) :=
  let mine (w : WinReq) : Bool := decide (w.port = port) && decide (w.off = off) && decide (w.len = n) && decide (w.owner = owner)
    && decide (w.kind = .load) && !w.taken
  match d.fab.wins.find? mine with
  | some w =>
    if w.state = 0 then (d, none) else (d, some w.data)
  | none =>
    if !d.portRunning port then
      (d.bump F.FAB_TIMEOUTS_TIMEOUTS 1, some ((List.range n).map (fun _ => { b := 0, p := true })))
    else
      match d.freeWinTag port with
      | none => (d, none)
      | some t => (d.sendWindow port t off n part .load { kind := 1, len := n } owner, none)

/-- A window store of one run: false when it waits for a tag (R511 to R513). -/
def Dev.winStore (d : Dev) (part port off : Nat) (bs : List Byte) (owner : Waiter) : Dev × Bool :=
  if !d.portRunning port then (d.bump F.FAB_TIMEOUTS_TIMEOUTS 1, true)
  else
    match d.freeWinTag port with
    | none => (d, false)
    | some t => (d.sendWindow port t off bs.length part .store { kind := 2, len := bs.length, payload := bs } owner, true)

/-- Requests of an owner that are not yet answered: a completion waits for them. -/
def Dev.winPending (d : Dev) (owner : Waiter) : Bool :=
  d.fab.wins.any (fun w => decide (w.owner = owner) && decide (w.state = 0))

end Sys2Proof.Machine
end

