-- ==== Sys2Proof/Machine/Memory.lean ====
section
/-!
DEFINITION. Machine/Memory.lean: the scratchpad and the Hopper by offset (R306 to R313), the map from device-physical
addresses to channels (R321 to R324), and the slices of the Granary over HBM: reads, writes, victims, write-back, poison
(R326 to R340, R352).
-/
namespace Sys2Proof.Machine

/-- What an unlisted byte of any memory of the module reads as (R310, R379, R380; log entry 5). -/
def zeroByte : Nat → Byte := fun _ => 0

/-- No poison is the rule. -/
def noPoison : Nat → Bool := fun _ => false

/-- The canonical form of a byte memory. -/
def Memory.wf (m : SMap Byte) : Bool := SMap.wf zeroByte m

/-! ### Scratchpad and Hopper -/

/-- Banks of partition p's scratchpad (R306). -/
def Dev.spadB (d : Dev) : Nat := Config.spadBanks / d.parts
/-- Bytes of a partition's scratchpad (R306). -/
def Dev.spadSize (d : Dev) : Nat := d.spadB * Config.spadBankBytes
/-- Banks of a partition's Hopper (R312). -/
def Dev.hopB (d : Dev) : Nat := Config.hopBanks / d.parts
/-- Addressable bytes of a partition's Hopper: all but the 1 MiB transit area (R312). -/
def Dev.hopSize (d : Dev) : Nat := d.hopB * Config.hopBankBytes - 0x100000

/-- Where scratchpad offset o of partition p lies (R307). -/
def Dev.spadPhys (d : Dev) (p o : Nat) : Nat :=
  let b := d.spadB
  let w := o / 64
  let bank := p * b + (w + w / b) % b
  bank * Config.spadBankBytes + (w / b) * 64 + o % 64

/-- Where Hopper offset o of partition p lies (R312). -/
def Dev.hopPhys (d : Dev) (p o : Nat) : Nat :=
  let b := d.hopB
  let u := o / 512
  (p * b + u % b) * Config.hopBankBytes + (u / b) * 512 + o % 512

/-- A byte of the scratchpad with its granule's poison (R354). -/
def Dev.spadByte (d : Dev) (p o : Nat) : MByte :=
  let a := d.spadPhys p o
  { b := SMap.get zeroByte d.mem.spad a, p := SMap.get noPoison d.mem.spadPoison (a / 8) }

/-- A byte of the Hopper with its granule's poison. -/
def Dev.hopByte (d : Dev) (p o : Nat) : MByte :=
  let a := d.hopPhys p o
  { b := SMap.get zeroByte d.mem.hop a, p := SMap.get noPoison d.mem.hopPoison (a / 8) }

/-- The poison of an 8-byte granule after a write of `bs` from offset `o`: set when a written byte is poisoned, cleared when
the whole granule is written clean, else unchanged (log entry 14). -/
def granulePoison (old : Bool) (g o : Nat) (bs : List MByte) : Bool :=
  let inG := (bs.zipIdx o).filter (fun e => decide (e.2 / 8 = g))
  if inG.any (fun e => e.1.p) then true else if inG.length = 8 then false else old

/-- The granules a write from `o` of `n` bytes touches. -/
def granulesOf (o n : Nat) : List Nat :=
  if n = 0 then [] else (List.range ((o + n - 1) / 8 - o / 8 + 1)).map (· + o / 8)

/-- Write bytes at a scratchpad offset; bytes beyond the partition's scratchpad are not written (R307). -/
def Dev.spadWrite (d : Dev) (p o : Nat) (bs0 : List MByte) : Dev :=
  let bs := bs0.take (d.spadSize - o)
  let spad := (bs.zipIdx o).foldl (fun m e => SMap.set zeroByte m (d.spadPhys p e.2) e.1.b) d.mem.spad
  let poison := (granulesOf o bs.length).foldl (fun m g =>
    let k := d.spadPhys p (8 * g) / 8
    SMap.set noPoison m k (granulePoison (SMap.get noPoison m k) g o bs)) d.mem.spadPoison
  { d with mem := { d.mem with spad := spad, spadPoison := poison } }

/-- Write bytes at a Hopper offset; bytes beyond the addressable Hopper are not written (R313). -/
def Dev.hopWrite (d : Dev) (p o : Nat) (bs0 : List MByte) : Dev :=
  let bs := bs0.take (d.hopSize - o)
  let hop := (bs.zipIdx o).foldl (fun m e => SMap.set zeroByte m (d.hopPhys p e.2) e.1.b) d.mem.hop
  let poison := (granulesOf o bs.length).foldl (fun m g =>
    let k := d.hopPhys p (8 * g) / 8
    SMap.set noPoison m k (granulePoison (SMap.get noPoison m k) g o bs)) d.mem.hopPoison
  { d with mem := { d.mem with hop := hop, hopPoison := poison } }

/-- Bytes of the scratchpad; beyond the end zeros are read (log entry 15). -/
def Dev.spadRead (d : Dev) (p o n : Nat) : List MByte :=
  (List.range n).map (fun i => if o + i < d.spadSize then d.spadByte p (o + i) else { b := 0 })

/-- Bytes of the Hopper; beyond the addressable end zeros are read. -/
def Dev.hopRead (d : Dev) (p o n : Nat) : List MByte :=
  (List.range n).map (fun i => if o + i < d.hopSize then d.hopByte p (o + i) else { b := 0 })

/-! ### The device-physical map -/

/-- A region of device memory. -/
inductive Region
  /-- partition p's region -/
  | part (p : Nat)
  | common
deriving DecidableEq, Repr

/-- G_c of R321: the first common granule of each channel. -/
def Dev.gc (d : Dev) : Nat := Config.channelGranules - d.mem.commonGranules

/-- The channel lists a region's segments are built from (R322, R378). -/
def Dev.segLists (d : Dev) : Region → List (List Nat)
  | .part p => [d.mem.chanLists.getD p []]
  | .common => d.mem.commonLists

/-- Granules per channel of a region. -/
def Dev.regionGranules (d : Dev) : Region → Nat
  | .part _ => d.gc
  | .common => d.mem.commonGranules

/-- Channels of a region. -/
def Dev.regionChannels (d : Dev) (r : Region) : Nat := ((d.segLists r).map List.length).sum

/-- Bytes of a region (R321, R323). -/
def Dev.regionSize (d : Dev) (r : Region) : Nat := d.regionChannels r * d.regionGranules r * 1024

/-- Bucket b of the segments and its rank among the buckets of its channel (R322, R323): each segment is four copies of its
channel list. -/
def bucketAt : List (List Nat) → Nat → Option (Nat × Nat)
  | [], _ => none
  | l :: ls, b =>
    if b < 4 * l.length then (l[b % l.length]?).map (fun c => (c, b / l.length)) else bucketAt ls (b - 4 * l.length)

/-- The channel and channel byte offset of a device-physical address (R323); none beyond the region. -/
def Dev.channelOf (d : Dev) (r : Region) (a : Nat) : Option (Nat × Nat) :=
  let n := 4 * d.regionChannels r
  if n = 0 ∨ d.regionSize r ≤ a then none
  else
    let g := a / 1024
    let row := g / n
    let j := g % n
    let h := (row ^^^ (row / 2 ^ 10) ^^^ (row / 2 ^ 20)) % n
    let b := (j + h) % n
    let base := match r with
      | .part _ => 0
      | .common => d.gc
    (bucketAt (d.segLists r) b).map (fun (c, k) => (c, (base + 4 * row + k) * 1024 + a % 1024))

/-- The bucket of rank k of channel c, counted from bucket `b0`. -/
def bucketOf : List (List Nat) → Nat → Nat → Nat → Option Nat
  | [], _, _, _ => none
  | l :: ls, c, k, b0 =>
    match l.idxOf? c with
    | some i => some (b0 + k * l.length + i)
    | none => bucketOf ls c k (b0 + 4 * l.length)

/-- The region and the device-physical address of a channel byte offset: the inverse of R323. -/
def Dev.addrOf (d : Dev) (ch off : Nat) : Option (Region × Nat) :=
  let g0 := off / 1024
  let r : Option Region :=
    if d.gc ≤ g0 then some .common
    else ((List.range 4).find? (fun p => (d.mem.chanLists.getD p []).contains ch)).map .part
  match r with
  | none => none
  | some r =>
    let base := match r with
      | .part _ => 0
      | .common => d.gc
    let n := 4 * d.regionChannels r
    let row := (g0 - base) / 4
    let h := (row ^^^ (row / 2 ^ 10) ^^^ (row / 2 ^ 20)) % n
    (bucketOf (d.segLists r) ch ((g0 - base) % 4) 0).map
      (fun b => (r, (row * n + (b + n - h) % n) * 1024 + off % 1024))

/-- The owner of a channel: the partition whose list holds it. -/
def Dev.ownerOf (d : Dev) (ch : Nat) : Option Nat :=
  (List.range 4).find? (fun p => (d.mem.chanLists.getD p []).contains ch)

/-! ### Lines -/

/-- The key of line l of slice s. -/
def lineKey (s l : Nat) : Nat := s * 2 ^ 24 + l
/-- The slice (and channel) of a key. -/
def keySlice (k : Nat) : Nat := k / 2 ^ 24
/-- The line index of a key. -/
def keyLine (k : Nat) : Nat := k % 2 ^ 24
/-- The set of a key: slice and set number (R324). -/
def keySet (k : Nat) : Nat × Nat := (keySlice k, keyLine k % 512)
/-- The HBM address of byte 0 of a line. -/
def keyHbm (k : Nat) : Nat := keySlice k * Config.channelBytes + keyLine k * 128
/-- The key of half h of a line in the poison lists. -/
def halfKey (k h : Nat) : Nat := keySlice k * 2 ^ 25 + keyLine k * 2 + h

def Dev.line (d : Dev) (k : Nat) : Option Line := SMap.get (fun _ => none) d.mem.lines k
def Dev.setLine (d : Dev) (k : Nat) (l : Option Line) : Dev :=
  { d with mem := { d.mem with lines := SMap.set (fun _ => none) d.mem.lines k l } }
def Dev.wbOf (d : Dev) (k : Nat) : Option WriteBack := SMap.get (fun _ => none) d.mem.wbs k
def Dev.setWb (d : Dev) (k : Nat) (w : Option WriteBack) : Dev :=
  { d with mem := { d.mem with wbs := SMap.set (fun _ => none) d.mem.wbs k w } }

/-- The half is in its channel's poison list (R369). -/
def Dev.dramPoisoned (d : Dev) (k h : Nat) : Bool := SMap.get noPoison d.mem.dramPoison (halfKey k h)

/-- A channel that serves nothing: fenced or mapped out (R325, R377), or its stack in loop-back (R384). -/
def Dev.chanDead (d : Dev) (ch : Nat) : Bool :=
  decide (2 ≤ d.rf (F.HBM_CHAN_STATE (ch / 32) (ch % 32))) || d.rb (F.GRN_SLICE_STATUS_FENCED ch)
    || decide (d.rf (F.HBM_STATUS_STATE (ch / 32)) = 4)

/-- Byte i (0 to 127) of a line as HBM holds it. -/
def Dev.hbmByte (d : Dev) (k i : Nat) : Byte := SMap.get zeroByte d.mem.hbm (keyHbm k + i)

/-- Byte i of a line and its poison in the coherent view: the Granary's written bytes, then those of a write-back in
progress, then HBM (R352). -/
def Dev.viewByte (d : Dev) (k i : Nat) : Byte :=
  let under : Byte := match d.wbOf k with
    | some w => if bitAt w.mask i then BitVec.ofNat 8 (bitsAt w.data (8 * i) 8) else d.hbmByte k i
    | none => d.hbmByte k i
  match d.line k with
  | some l => if bitAt l.mask i then BitVec.ofNat 8 (bitsAt l.data (8 * i) 8) else under
  | none => under

/-- Whether a read of bytes [lo, lo + n) of half h returns poison: its poison bit, or a byte not written here whose half is
marked in DRAM (R330, R332, R367). -/
def Dev.halfReadPoison (d : Dev) (k h lo n : Nat) : Bool :=
  let idx := (List.range n).map (· + lo)
  let inHalf := idx.filter (fun i => decide (i / 64 = h))
  let wbP (i : Nat) : Bool := match d.wbOf k with
    | some w => bitAt w.poison h || (!bitAt w.mask i && d.dramPoisoned k h)
    | none => d.dramPoisoned k h
  match d.line k with
  | some l => decide (inHalf ≠ []) && bitAt l.poison h || inHalf.any (fun i => !bitAt l.mask i && wbP i)
  | none => inHalf.any wbP

/-- The bytes [lo, lo + n) of a line in the coherent view with their poison; a dead channel gives poison (R325). -/
def Dev.viewLine (d : Dev) (k lo n : Nat) : List MByte :=
  let dead := d.chanDead (keySlice k)
  let p0 := d.halfReadPoison k 0 lo n
  let p1 := d.halfReadPoison k 1 lo n
  (List.range n).map (fun i =>
    { b := d.viewByte k (lo + i), p := dead || (if lo + i < 64 then p0 else p1) })

/-- The ways of a set that hold lines: (key, line). -/
def Dev.waysOf (d : Dev) (set : Nat × Nat) : List (Nat × Line) :=
  d.mem.lines.filterMap (fun e => if keySet e.1 = set then e.2.map (fun l => (e.1, l)) else none)

/-- A way that is pinned or holds held reductions (R328). -/
def Line.pinned (l : Line) : Bool :=
  decide (l.held ≠ []) || l.waits.any (fun r => match r.op with | .reduce _ => true | _ => false)

/-- Move the line at `k` to age rank `a` (0 most recent, 15 oldest), the others of its set shifting (R327). -/
def Dev.setAge (d : Dev) (k a : Nat) : Dev :=
  match d.line k with
  | none => d
  | some l =>
    let lines := d.mem.lines.map (fun (e : Nat × Option Line) =>
      if e.1 ≠ k ∧ keySet e.1 = keySet k then
        (e.1, e.2.map (fun x =>
          if a = 0 ∧ x.age < l.age then { x with age := x.age + 1 }
          else if a ≠ 0 ∧ x.age > l.age then { x with age := x.age - 1 } else x))
      else if e.1 = k then (e.1, e.2.map (fun x => { x with age := a }))
      else e)
    { d with mem := { d.mem with lines := lines } }

/-- Give the line the keep bit, within GRN_CTRL.KEEP_WAYS of its set (R327). -/
def Dev.giveKeep (d : Dev) (k : Nat) : Dev :=
  let kw := d.rf F.GRN_CTRL_KEEP_WAYS
  if kw = 0 then d
  else
    let keeps := (d.waysOf (keySet k)).filter (fun e => e.2.keep && decide (e.1 ≠ k))
    let d :=
      if kw ≤ keeps.length then
        match keeps.foldl (fun (o : Option (Nat × Line)) e => match o with
            | none => some e
            | some x => if x.2.age < e.2.age then some e else o) none with
        | some (kk, l) => d.setLine kk (some { l with keep := false })
        | none => d
      else d
    match d.line k with
    | some l => d.setLine k (some { l with keep := true })
    | none => d

/-- The hint of a request acts on the line it touches: `alloc` on a fill or allocation, else on a hit (R327). -/
def Dev.touch (d : Dev) (k hint : Nat) (alloc : Bool) : Dev :=
  match hint with
  | 1 => if d.rf F.GRN_CTRL_KEEP_WAYS = 0 then d.setAge k 0 else (d.setAge k 0).giveKeep k
  | 2 =>
    let d := d.setAge k 15
    match d.line k with
    | some l => d.setLine k (some { l with keep := false })
    | none => d
  | _ =>
    let d := d.setAge k 0
    if alloc then
      match d.line k with
      | some l => d.setLine k (some { l with keep := false })
      | none => d
    else d

/-- The PMU block of a channel's stack (R688). -/
def chanBlock (ch : Nat) : Nat := 26 + ch / 32

/-- The quarter-controller's port of the bandwidth windows (R698). -/
def chanPort (ch : Nat) : Nat := 4 * (ch / 32) + (ch % 32) / 8

/-- Count one prefetched line under R335: 1 useful, 2 late, 3 unused, 4 lost. -/
def Dev.countPf (d : Dev) (k : Nat) (l : Line) (what : Nat) : Dev :=
  match l.pf with
  | 0 => d
  | 1 => d.event (chanBlock (keySlice k)) (0x510 + what) none (keySlice k % 32) 1
  | _ => d.event (chanBlock (keySlice k)) (0x518 + what) none (keySlice k % 32) 1

/-- A write-back begins: the dirty bytes leave the tag for the base die's path (R331, R344). -/
def Dev.beginWb (d : Dev) (k : Nat) (l : Line) : Dev :=
  (d.setWb k (some { mask := l.mask, data := l.data, poison := l.poison })).event
    (chanBlock (keySlice k)) 0x502 none (keySlice k % 32) 1

/-- The number of entries in a channel's poison list. -/
def Dev.poisonCount (d : Dev) (ch : Nat) : Nat :=
  (d.mem.dramPoison.filter (fun e => decide (e.1 / 2 ^ 25 = ch))).length

/-- Healthy channels of a stack: states healthy and marked (R362). -/
def Dev.healthyOf (d : Dev) (stack : Nat) : Nat :=
  ((List.range 32).filter (fun c => decide (d.rf (F.HBM_CHAN_STATE stack c) < 2))).length

/-- HBM_STATUS follows the channels: HEALTHY, and offline when none is healthy (R386). -/
def Dev.showHealthy (d : Dev) (stack : Nat) : Dev :=
  let n := d.healthyOf stack
  let d := d.wf (F.HBM_STATUS_HEALTHY stack) n
  if n = 0 ∧ d.rf (F.HBM_STATUS_STATE stack) = 2 then d.wf (F.HBM_STATUS_STATE stack) 3 else d

/-- A channel fails (R375): it is fenced at once; what follows for its owner is carried out at the end of the step (R376). -/
def Dev.failChannel (d : Dev) (ch : Nat) : Dev :=
  if 2 ≤ d.rf (F.HBM_CHAN_STATE (ch / 32) (ch % 32)) then d
  else
    let d := (d.wf (F.HBM_CHAN_STATE (ch / 32) (ch % 32)) 2).wb (F.GRN_SLICE_STATUS_FENCED ch) true
    ({ d with mem := { d.mem with fenceDue := d.mem.fenceDue ++ [ch] } }).showHealthy (ch / 32)

/-- Enter or remove a half in its channel's poison list (R369); HBM_CHANn.POISON shows the count. An entry that finds the list
full makes the channel fail. -/
def Dev.setDramPoison (d : Dev) (k h : Nat) (v : Bool) : Dev :=
  if v && !d.dramPoisoned k h && decide (512 ≤ d.poisonCount (keySlice k)) then d.failChannel (keySlice k)
  else
  let d := { d with mem := { d.mem with dramPoison := SMap.set noPoison d.mem.dramPoison (halfKey k h) v } }
  d.wf (F.HBM_CHAN_POISON (keySlice k / 32) (keySlice k % 32)) (min 512 (d.poisonCount (keySlice k)))

/-- Bytes 64h to 64h + 63 of a mask. -/
def halfMask (mask h : Nat) : Nat := bitsAt mask (64 * h) 64

/-- Write one half of a write-back to DRAM: whole, merged, or not at all (R331), with its poison marker (R332, R369). -/
def Dev.wbHalf (d : Dev) (k h mask data poison : Nat) : Dev :=
  let m := halfMask mask h
  if m = 0 ∧ bitAt poison h = false then d
  else
    let ch := keySlice k
    let hbm := (List.range 64).foldl (fun mm i =>
      let j := 64 * h + i
      if bitAt mask j then SMap.set zeroByte mm (keyHbm k + j) (BitVec.ofNat 8 (bitsAt data (8 * j) 8)) else mm) d.mem.hbm
    let d := { d with mem := { d.mem with hbm := hbm } }
    let whole := decide (m = 2 ^ 64 - 1)
    let d := if whole then d else d.event (chanBlock ch) 0x503 none (ch % 32) 1
    let d := (d.event (chanBlock ch) 0x601 none (ch % 32) 1).bwCount (chanPort ch) true 64
    if bitAt poison h then d.setDramPoison k h true
    else if whole then d.setDramPoison k h false
    else d

/-- Carry out a write-back's two halves in DRAM. -/
def Dev.wbToDram (d : Dev) (k : Nat) (w : WriteBack) : Dev :=
  (d.wbHalf k 0 w.mask w.data w.poison).wbHalf k 1 w.mask w.data w.poison

/-- Pick the older of two candidate ways. -/
def olderWay (o : Option (Nat × Line)) (e : Nat × Line) : Option (Nat × Line) :=
  match o with
  | none => some e
  | some x => if x.2.age < e.2.age then some e else o

/-- The victim of a set (R328): none while a way is free; some none when no way may be chosen; else the way. -/
def Dev.victim (d : Dev) (k : Nat) : Option (Option (Nat × Line)) :=
  let ws := d.waysOf (keySet k)
  if ws.length < 16 then none
  else
    let ok := ws.filter (fun e => !(e.2.pinned) && decide (e.2.st ≠ .fill) && decide (e.2.waits = []))
    match (ok.filter (fun e => decide (e.2.st = .tomb))).foldl olderWay none with
    | some e => some (some e)
    | none =>
      match (ok.filter (fun e => !e.2.keep)).foldl olderWay none with
      | some e => some (some e)
      | none => some (ok.foldl olderWay none)

/-- Make room for line `k` in its set; none when the request must wait (R328). -/
def Dev.makeRoom (d : Dev) (k : Nat) : Option Dev :=
  match d.victim k with
  | none => some d
  | some none => none
  | some (some (v, l)) =>
    let d := if l.pf ≠ 0 then d.countPf v l 3 else d
    let d := match l.st with
      | .dirty => d.beginWb v l
      | _ => d
    some (d.setLine v none)

/-- Install a line with the hint of the request that made it. -/
def Dev.install (d : Dev) (k : Nat) (l : Line) (hint : Nat) : Dev :=
  let n := (d.waysOf (keySet k)).length
  (d.setLine k (some { l with age := min 15 n })).touch k hint true

/-- Bytes as a mask and data of a line: (offset in the line, byte). -/
def mergeBytes (mask data : Nat) : List (Nat × MByte) → Nat × Nat
  | [] => (mask, data)
  | (i, x) :: bs => mergeBytes (withBits mask i 1 1) (withBits data (8 * i) 8 x.b.toNat) bs

/-- The poison bits of a line after a write: a poisoned byte sets its half's bit, a clean write of the whole half clears it,
a clean partial write leaves it (R332). -/
def poisonAfter (old h : Nat) (bs : List (Nat × MByte)) : Bool :=
  let mine := bs.filter (fun e => decide (e.1 / 64 = h))
  if mine.any (fun e => e.2.p) then true
  else if 64 ≤ mine.length then false
  else bitAt old h

/-- The line after a write reaches it (R329, R332, R338). -/
def Line.write (l : Line) (bs : List (Nat × MByte)) : Line :=
  let (m, x) := mergeBytes l.mask l.data bs
  { l with st := if l.st = .fill then .fill else .dirty, mask := m, data := x,
           poison := b2n (poisonAfter l.poison 0 bs) + 2 * b2n (poisonAfter l.poison 1 bs) }

/-- A new Dirty way with only the written bytes (R329). -/
def Line.fresh (bs : List (Nat × MByte)) : Line := Line.write { st := .dirty } bs

end Sys2Proof.Machine
end

