-- ==== Sys2Proof/Machine/Slice.lean ====
section
/-!
DEFINITION. Machine/Slice.lean: what a Granary slice does with a request (R326 to R349): reads, masked writes, reductions,
ordered reductions, the granule prefetcher, range operations, the arrival of line data; digest folding (R594).
-/
namespace Sys2Proof.Machine

/-- A slice's answer to a request. -/
inductive Ans
  | data (bytes : List MByte)
  | old (vals : List (Nat × Bool))
  | done
  /-- the request waits: for the line's data, a write-back, a way or a refetch -/
  | waiting
deriving DecidableEq, Repr

/-! ### Digest folding (R594) -/

/-- The key k(a) of R594. -/
def digestKey (key0 key1 a : Nat) : Nat :=
  let lo := philox (a % 2 ^ 32, a / 2 ^ 32 % 2 ^ 20, 0x44490000, 0) (key0, key1)
  let hi := philox (a % 2 ^ 32, a / 2 ^ 32 % 2 ^ 20, 0x44490001, 0) (key0, key1)
  let v := (List.range 4).foldl (fun x i => x + pick4 lo i * 2 ^ (32 * i)) 0
  let w := (List.range 4).foldl (fun x i => x + pick4 hi i * 2 ^ (32 * i)) 0
  let k := v + w * 2 ^ 128
  k ||| 1

/-- The digest range that holds partition-region address x: its base (R594). -/
def Dev.digestRange (d : Dev) (x : Nat) : Option Nat :=
  (List.range 4).findSome? (fun i =>
    let base := d.rf (F.TST_DIG_RANGE_A_BASE i) * 65536
    if d.rb (F.TST_DIG_RANGE_A_ENABLE i) ∧ base ≤ x ∧ x < base + d.rf (F.TST_DIG_RANGE_B_PAGES i) * 65536 then some base else none)

/-- Fold one byte written at a region address (R594). -/
def Dev.foldByte (d : Dev) (r : Region) (x : Nat) (v : Byte) : Dev :=
  if d.rb F.TST_DIG_CTL_ENABLE ∧ r = .part (d.rf F.TST_DIG_CTL_PART) then
    match d.digestRange x with
    | some base =>
      let k := digestKey (d.rf F.TST_DIG_KEY_KEY0) (d.rf F.TST_DIG_KEY_KEY1) (x - base)
      { d with mem := { d.mem with digest := (d.mem.digest + (v.toNat + 1) * k) % 2 ^ 256 } }
    | none => d
  else d

/-- Fold the bytes a write brings to a line. -/
def Dev.foldWrite (d : Dev) (k : Nat) (bs : List (Nat × MByte)) : Dev :=
  if d.rb F.TST_DIG_CTL_ENABLE then
    match d.addrOf (keySlice k) (keyLine k * 128) with
    | some (r, a) => bs.foldl (fun d e => d.foldByte r (a + e.1) e.2.b) d
    | none => d
  else d

/-! ### Reductions (R341) -/

/-- Bytes of a reduction type. -/
def RedType.bytes : RedType → Nat
  | .i32 | .u32 | .f32 => 4
  | .i64 | .u64 => 8
  | .bf16 => 2

/-- FP MIN and MAX of R199 on bits of a format. -/
def fpMinMax (f : Fmt) (isMax : Bool) (a b : Nat) : Nat :=
  let x := f.decode a
  let y := f.decode b
  match Num.cmp x y with
  | none => f.canonNan
  | some .lt => if isMax then b else a
  | some .gt => if isMax then a else b
  | some .eq => if x.neg? = isMax then b else a

/-- The new value of a reduction, and whether a floating-point add overflowed (R341). -/
def redApply (op : RedKind) (ty : RedType) (old val cmp : Nat) : Nat × Bool :=
  let w := 8 * ty.bytes
  let signed := ty = .i32 ∨ ty = .i64
  match op with
  | .add =>
    match ty with
    | .f32 =>
      let s := Num.add false (Fmt.fp32.decode old) (Fmt.fp32.decode val)
      let c := convert s .fp32 .rne false 0
      (c.bits, c.sat)
    | .bf16 =>
      let s := Num.add false (Fmt.bf16.decode old) (Fmt.bf16.decode val)
      let c := convert s .fp32 .rne false 0
      let c' := convert (Fmt.fp32.decode c.bits) .bf16 .rne false 0
      (c'.bits, c.sat || c'.sat)
    | _ => ((old + val) % 2 ^ w, false)
  | .min =>
    if ty = .f32 then (fpMinMax .fp32 false old val, false)
    else if ty = .bf16 then (fpMinMax .bf16 false old val, false)
    else if signed then (if toSigned w old ≤ toSigned w val then old else val, false)
    else (min old val, false)
  | .max =>
    if ty = .f32 then (fpMinMax .fp32 true old val, false)
    else if ty = .bf16 then (fpMinMax .bf16 true old val, false)
    else if signed then (if toSigned w val ≤ toSigned w old then old else val, false)
    else (max old val, false)
  | .and => (old &&& val, false)
  | .or => (old ||| val, false)
  | .xor => (old ^^^ val, false)
  | .exch => (val, false)
  | .cas => (if old = cmp then val else old, false)

/-- A value as bytes of a line at `off`, with a poison mark. -/
def valBytes (off n v : Nat) (p : Bool) : List (Nat × MByte) :=
  (leBytes n v).zipIdx.map (fun e => (off + e.2, { b := e.1, p := p }))

/-- Apply one element to a present line: (old value, old poisoned) beside the module (R339's reading rules do not apply: the
line is here). An operation on a poisoned half writes poison and returns poison (R341). -/
def Dev.redOne (d : Dev) (k : Nat) (part : Option Nat) (e : RedElem) : Dev × Nat × Bool :=
  match d.line k with
  | none => (d, 0, false)
  | some l =>
    let n := e.ty.bytes
    let bs := d.viewLine k e.off n
    let old := leNat (bs.map (·.b))
    let p := bs.any (·.p) || e.poison
    let (new, sat) := redApply e.op e.ty old e.val e.cmp
    let d := if sat ∧ ¬p then d.event (chanBlock (keySlice k)) 0x507 part (keySlice k % 32) 1 else d
    (d.setLine k (some (l.write (valBytes e.off n new p))), old, p)

/-! ### Ordered reductions (R345 to R349) -/

/-- Insert by sequence number, later arrivals after equal numbers. -/
def insertHeld (a : HeldAdd) : List HeldAdd → List HeldAdd
  | [] => [a]
  | b :: bs => if a.seq < b.seq then a :: b :: bs else b :: insertHeld a bs

/-- The number of adds that share their word and number with the one before them: ties (R347). -/
def countTies : List HeldAdd → Nat
  | a :: b :: bs => (if a.seq = b.seq then 1 else 0) + countTies (b :: bs)
  | _ => 0

/-- Apply a line's held adds, word by word in ascending sequence number (R347). -/
def Dev.applyHeld (d : Dev) (k : Nat) : Dev :=
  match d.line k with
  | none => d
  | some l =>
    if l.held = [] then d
    else
      let sorted := l.held.foldl (fun acc a => insertHeld a acc) []
      let words := (sorted.map (·.off)).eraseDups
      let ties := (words.map (fun o => countTies (sorted.filter (fun a => a.off = o)))).sum
      let d := d.setLine k (some { l with held := [] })
      let d := words.foldl (fun d o =>
        (sorted.filter (fun a => a.off = o)).foldl (fun d a =>
          (d.redOne k none { off := a.off, op := .add, ty := a.ty, val := a.val, poison := a.poison }).1) d) d
      d.bump F.GRN_ORD_EVENTS_TIES ties

/-- Release a line's held adds early: the line counts as broken (R348, R349). -/
def Dev.breakHeld (d : Dev) (k : Nat) : Dev :=
  match d.line k with
  | some l =>
    if l.held = [] then d
    else ((d.applyHeld k).bump F.GRN_ORD_EVENTS_BROKEN 1).wb F.GRN_ORD_EVENTS_BROKEN_SEEN true
  | none => d

/-- Adds held in slice s. -/
def Dev.heldIn (d : Dev) (s : Nat) : Nat :=
  (d.mem.lines.map (fun e => if keySlice e.1 = s then (match e.2 with | some l => l.held.length | none => 0) else 0)).sum

/-- The arrival number of a line's first held add. -/
def Line.firstHeld (l : Line) : Option Nat := (l.held.map (·.arr)).min?

/-- The key of the oldest holding line among those the predicate names (R349). -/
def Dev.oldestHolder (d : Dev) (f : Nat → Bool) : Option Nat :=
  (d.mem.lines.foldl (fun (o : Option (Nat × Nat)) e =>
    match e.2 with
    | some l =>
      if f e.1 then
        match l.firstHeld, o with
        | some a, none => some (e.1, a)
        | some a, some (_, b) => if a < b then some (e.1, a) else o
        | none, _ => o
      else o
    | none => o) none).map (·.1)

/-- Hold an ordered add; a full buffer, or a ninth line of the set, first releases the oldest holding line (R345, R349). -/
def Dev.holdAdd (d : Dev) (k : Nat) (e : RedElem) (seq : Nat) : Dev :=
  let s := keySlice k
  let d := if 2048 ≤ d.heldIn s then (match d.oldestHolder (fun q => keySlice q = s) with
    | some q => d.breakHeld q
    | none => d) else d
  let holds := match d.line k with
    | some l => decide (l.held ≠ [])
    | none => false
  let pinnedOthers := ((d.waysOf (keySet k)).filter (fun w => w.2.pinned && decide (w.1 ≠ k))).length
  let d := if !holds ∧ 8 ≤ pinnedOthers then (match d.oldestHolder (fun q => keySet q = keySet k && decide (q ≠ k)) with
    | some q => d.breakHeld q
    | none => d) else d
  match d.line k with
  | none => d
  | some l =>
    let a : HeldAdd := { off := e.off, ty := e.ty, seq := seq, val := e.val, arr := d.mem.arrivals, poison := e.poison }
    let d := d.setLine k (some { l with held := l.held ++ [a] })
    { d with mem := { d.mem with arrivals := d.mem.arrivals + 1 } }

/-- An FP add of an ordered page (R345). -/
def RedElem.orderedAdd (e : RedElem) : Bool := e.ordered && decide (e.op = .add) && decide (e.ty = .f32 ∨ e.ty = .bf16)

/-- Perform one element at a present line: held, or applied at once; the value returned is the value without held adds
(R345, R346, R348). -/
def Dev.redElem (d : Dev) (k : Nat) (part : Option Nat) (e : RedElem) : Dev × Nat × Bool :=
  let d := d.event (chanBlock (keySlice k)) 0x504 part (keySlice k % 32) 1
  if e.orderedAdd then
    match e.seq with
    | some q =>
      let bs := d.viewLine k e.off e.ty.bytes
      (d.holdAdd k e q, leNat (bs.map (·.b)), bs.any (·.p))
    | none => (d.bump F.GRN_ORD_EVENTS_UNKEYED 1).redOne k part e
  else
    let d := if e.op = .exch ∨ e.op = .cas then d.breakHeld k else d
    d.redOne k part e

/-- The elements of one request, in order; the old values of the returning ones. -/
def Dev.redElems (d : Dev) (k : Nat) (part : Option Nat) : List RedElem → Dev × List (Nat × Bool)
  | [] => (d, [])
  | e :: es =>
    let (d, o, p) := d.redElem k part e
    let (d, rs) := d.redElems k part es
    (d, if e.ret then (o, p) :: rs else rs)

/-! ### Serving a request -/

/-- Bytes [lo, lo + n) are all under the mask. -/
def covers (mask lo n : Nat) : Bool := bitsAt mask lo n = 2 ^ n - 1

/-- The bytes of the line a request needs from HBM: none when they are all written here. -/
def Line.needs (l : Line) : SliceOp → Bool
  | .read lo n => !covers l.mask lo n
  | .write _ => false
  | .reduce es => es.any (fun e => !e.orderedAdd && !covers l.mask e.off e.ty.bytes)

/-- The enabled shared-weight region that holds a common-region offset, with its refetch source (R468, R472). -/
def Dev.swrAt (d : Dev) (a : Nat) : Option Nat :=
  (List.range 16).find? (fun k =>
    let base := d.rf (F.PRT_SWR_A_BASE k) * 65536
    d.rb (F.PRT_SWR_STAT_ACTIVE k) && decide (base ≤ a) && decide (a < base + d.rf (F.PRT_SWR_B_PAGES k) * 65536))

/-- The shared-weight region of a line. -/
def Dev.swrOfLine (d : Dev) (k : Nat) : Option Nat :=
  match d.addrOf (keySlice k) (keyLine k * 128) with
  | some (.common, a) => d.swrAt a
  | _ => none

/-- SRC in force of region k: SRC 3, and SRC 2 with PORT 0 or 7, act as 0 (R472, R484). -/
def Dev.swrSrc (d : Dev) (k : Nat) : Nat :=
  let s := d.rf (F.PRT_SWR_A_SRC k)
  if s = 3 then 0
  else if s = 2 ∧ (d.rf (F.PRT_SWR_A_PORT k) = 0 ∨ d.rf (F.PRT_SWR_A_PORT k) = 7) then 0
  else s

/-- A line of an enabled region that reads poison and has a source is held and refetched (R471); a line whose refetch has
failed, or on a dead channel, is not (R473, R476). -/
def Dev.refetchable (d : Dev) (k : Nat) : Option Nat :=
  if d.chanDead (keySlice k) || d.mem.refetchDead.contains k then none
  else match d.swrOfLine k with
    | some r => if d.swrSrc r = 0 then none else some r
    | none => none

/-- The record a poisoned line of a region without a source posts, once (R474, R475). -/
def Dev.swrPoisonRecord (d : Dev) (k : Nat) : Dev :=
  match d.swrOfLine k with
  | some r =>
    if d.mem.refetchDead.contains k then d
    else
      let d := { d with mem := { d.mem with refetchDead := d.mem.refetchDead ++ [k] } }
      (d.bump (F.PRT_SWR_STAT_POISONED r) 1).postError
        { cls := 1, source := 0x06, event := 0x06, inst := r, parts := d.rf (F.PRT_SWR_A_MAP r),
          addr := (match d.addrOf (keySlice k) (keyLine k * 128) with | some (_, a) => a | none => 0), akind := 1 }
  | none => d

/-- Hold a request on a line under refetch, making the request for it (R471). -/
def Dev.holdForRefetch (d : Dev) (k r : Nat) (q : SliceReq) : Dev :=
  let add : List SliceReq := if q.own then [] else [q]
  if d.mem.refetches.any (fun x => x.key = k) then
    { d with mem := { d.mem with refetches := d.mem.refetches.map (fun x => if x.key = k then { x with held := x.held ++ add } else x) } }
  else
    { d with mem := { d.mem with
        refetches := d.mem.refetches ++ [{ key := k, region := r, started := false, failures := 0, held := add }] } }

/-- Serve a request on a line whose data is here (Clean, or Dirty with what it needs). -/
def Dev.serveHit (d : Dev) (k : Nat) (q : SliceReq) : Dev × Ans :=
  match q.op with
  | .read lo n =>
    let bs := d.viewLine k lo n
    if bs.any (·.p) then
      match d.refetchable k with
      | some r => (d.holdForRefetch k r q, .waiting)
      | none => ((d.swrPoisonRecord k).touch k q.hint false, .data bs)
    else (d.touch k q.hint false, .data bs)
  | .write bs =>
    let d := d.breakHeld k
    match d.line k with
    | some l => (((d.setLine k (some (l.write bs))).touch k q.hint false).foldWrite k bs, .done)
    | none => (d, .done)
  | .reduce es =>
    let (d, vs) := d.redElems k q.part es
    (d.touch k q.hint false, if es.any (·.ret) then .old vs else .done)

/-- The answer a dead channel gives: poison for reads and old values; writes and reductions are discarded and counted
(R325). -/
def Dev.serveDead (d : Dev) (k : Nat) (q : SliceReq) : Dev × Ans :=
  match q.op with
  | .read lo n => (d, .data (d.viewLine k lo n))
  | .write _ => (d.bump (F.GRN_SLICE_STATUS_DISCARDED (keySlice k)) 1, .done)
  | .reduce es =>
    (d.bump (F.GRN_SLICE_STATUS_DISCARDED (keySlice k)) 1,
     if es.any (·.ret) then .old ((es.filter (·.ret)).map (fun _ => (0, true))) else .done)

/-- Let the granule prefetcher see a demand miss: when an adjacent line of the granule has missed too, the granule's absent
lines are fetched in ascending order with the second miss's hint (R334). -/
def Dev.hwPrefetch (d : Dev) (k hint : Nat) : Dev :=
  if d.rb F.GRN_CTRL_HWPF then
    let g := k / 8
    let m := SMap.get (fun _ => 0) d.mem.missMask g
    let i := k % 8
    let adj := (decide (0 < i) && bitAt m (i - 1)) || bitAt m (i + 1)
    let m' := withBits m i 1 1
    let d := { d with mem := { d.mem with missMask := SMap.set (fun _ => 0) d.mem.missMask g m' } }
    if adj then
      (List.range 8).foldl (fun d j =>
        let kk := 8 * g + j
        if (d.line kk).isNone && (d.wbOf kk).isNone then
          match d.makeRoom kk with
          | some d => (d.install kk { st := .fill, pf := 1 } hint).event (chanBlock (keySlice kk)) 0x510 none (keySlice kk % 32) 1
          | none => d
        else d) d
    else d
  else d

/-- Put a request in the line's own list of waiting requests. -/
def Dev.waitOnLine (d : Dev) (k : Nat) (l : Line) (q : SliceReq) : Dev :=
  d.setLine k (some { l with waits := l.waits ++ [q] })

/-- Put a request at the slice's input (R328, R343). -/
def Dev.waitAtSlice (d : Dev) (k : Nat) (q : SliceReq) : Dev :=
  if q.own then d
  else { d with mem := { d.mem with sliceWaits := d.mem.sliceWaits ++ [(keySlice k, keyLine k, q)] } }

/-- A prefetched line meets its first demand access: useful, or late while it is in Fill (R335). -/
def Dev.demand (d : Dev) (k : Nat) : Dev :=
  match d.line k with
  | some l =>
    if l.pf = 0 then d
    else (d.countPf k l (if l.st = .fill then 2 else 1)).setLine k (some { l with pf := 0 })
  | none => d

/-- Reductions pinned on a line (R343). -/
def Line.pins (l : Line) : Nat := (l.waits.filter (fun r => match r.op with | .reduce _ => true | _ => false)).length

/-- A reduction would make a ninth pinned or holding way of its set (R328). -/
def Dev.ninthPin (d : Dev) (k : Nat) : Bool :=
  decide (8 ≤ ((d.waysOf (keySet k)).filter (fun w => w.2.pinned && decide (w.1 ≠ k))).length)

/-- What a slice does with a request on line k (R319 to R349). -/
def Dev.serve (d : Dev) (k : Nat) (q : SliceReq) : Dev × Ans :=
  let ch := keySlice k
  let blk := chanBlock ch
  if d.chanDead ch then d.serveDead k q
  else if d.mem.refetches.any (fun x => x.key = k) then (d.holdForRefetch k 0 q, .waiting)
  else
    let isRed := match q.op with
      | .reduce _ => true
      | _ => false
    let ordered := match q.op with
      | .reduce es => es.any (·.orderedAdd)
      | _ => false
    match d.wbOf k with
    | some w =>
      if isRed && !ordered then
        ((d.setWb k (some { w with fwd := w.fwd ++ [q] })).event blk 0x505 q.part (ch % 32) 1, .waiting)
      else (d.setWb k (some { w with waits := w.waits ++ [q] }), .waiting)
    | none =>
      match d.line k with
      | none =>
        let d := d.event blk 0x501 q.part (ch % 32) 1
        if isRed && d.ninthPin k then (d.waitAtSlice k q, .waiting)
        else
          match d.makeRoom k with
          | none => (d.waitAtSlice k q, .waiting)
          | some d' =>
            match q.op with
            | .write bs => ((d'.install k (Line.fresh bs) q.hint).foldWrite k bs, .done)
            | .read _ _ => ((d'.install k { st := .fill, waits := [q] } q.hint).hwPrefetch k q.hint, .waiting)
            | .reduce _ => (d'.install k { st := .fill, waits := [q] } q.hint, .waiting)
      | some l =>
        let d := d.demand k
        match d.line k with
        | none => (d, .waiting)
        | some l' =>
          match l'.st with
          | .fill =>
            if l'.waits = [] then
              match q.op with
              | .write bs => (((d.setLine k (some (l'.write bs))).touch k q.hint false).foldWrite k bs, .done)
              | _ => (d.waitOnLine k l' q, .waiting)
            else if isRed && decide (16 ≤ l'.pins) then (d.waitAtSlice k q, .waiting)
            else (d.waitOnLine k l' q, .waiting)
          | .tomb =>
            match q.op with
            | .write bs => (((d.setLine k (some (Line.fresh bs))).touch k q.hint true).foldWrite k bs, .done)
            | .read lo n =>
              let d := (d.bump F.GRN_DEAD_REREAD_COUNT 1).event blk 0x508 q.part (ch % 32) 1
              let chk := match q.part with
                | some p => d.rbit F.GRN_DEADCHK_PART p
                | none => false
              if chk then (d, .data ((d.viewLine k lo n).map (fun x => { x with p := true })))
              else ((d.setLine k (some { st := .fill, age := l.age, waits := [q] })).touch k q.hint true, .waiting)
            | .reduce _ =>
              if d.ninthPin k then (d.waitAtSlice k q, .waiting)
              else ((d.setLine k (some { st := .fill, age := l.age, waits := [q] })).touch k q.hint true, .waiting)
          | .clean =>
            if l'.waits = [] then (d.event blk 0x500 q.part (ch % 32) 1).serveHit k q
            else (d.waitOnLine k l' q, .waiting)
          | .dirty =>
            if l'.waits ≠ [] then (d.waitOnLine k l' q, .waiting)
            else if l'.needs q.op then ((d.event blk 0x501 q.part (ch % 32) 1).waitOnLine k l' q, .waiting)
            else (d.event blk 0x500 q.part (ch % 32) 1).serveHit k q

/-- Hand a served request's answer to its requester. -/
def Dev.answer (d : Dev) (q : SliceReq) (a : Ans) : Dev :=
  if q.own then d
  else match a with
  | .data bs => d.emit (.sliceData q.id bs)
  | .old vs => d.emit (.sliceOld q.id vs)
  | .done => d.emit (.sliceDone q.id)
  | .waiting => d

/-- Serve the waiting requests of a line whose data has come, in arrival order; each answer goes to its requester. -/
def Dev.serveWaits (d : Dev) (k : Nat) : List SliceReq → Dev
  | [] => d
  | q :: qs =>
    let (d, a) := d.serveHit k q
    (d.answer q a).serveWaits k qs

/-- Requests at the slice's input are offered again. -/
def Dev.retrySlice (d : Dev) (s : Nat) : Dev :=
  let mine := d.mem.sliceWaits.filter (fun e => e.1 = s)
  let d := { d with mem := { d.mem with sliceWaits := d.mem.sliceWaits.filter (fun e => e.1 ≠ s) } }
  mine.foldl (fun d e =>
    let (d, a) := d.serve (lineKey e.1 e.2.1) e.2.2
    d.answer e.2.2 a) d

/-- The line's data is here: it is Clean, or Dirty where bytes were written before; a half in the poison lists brings its
poison bit (R326, R332). -/
def Dev.lineHere (d : Dev) (k : Nat) (l : Line) : Dev :=
  let pz (h : Nat) : Nat := b2n (bitAt l.poison h || (decide (halfMask l.mask h ≠ 2 ^ 64 - 1) && d.dramPoisoned k h))
  let st' : LineSt := if l.mask = 0 then .clean else .dirty
  ((d.event (chanBlock (keySlice k)) 0x600 none (keySlice k % 32) 2).bwCount (chanPort (keySlice k)) false 128).setLine k
    (some { l with st := st', poison := pz 0 + 2 * pz 1, waits := [] })

/-- The line's data has arrived from HBM: the way leaves Fill, or a partly written line is completed; the requests that
waited are served (R326, R330, R340). The halves in the poison lists bring their poison bit (R332). -/
def Dev.arrive (d : Dev) (k : Nat) : Dev :=
  match d.line k with
  | none => d
  | some l =>
    if l.st = .fill ∨ l.waits ≠ [] then
      let d := d.lineHere k l
      let d := d.serveWaits k l.waits
      let d := if l.deadFill then
          match d.line k with
          | some x => d.setLine k (some { st := .tomb, age := x.age })
          | none => d
        else d
      d.retrySlice (keySlice k)
    else d

/-- Whether a line waits for data from HBM. -/
def Dev.awaitsData (d : Dev) (k : Nat) : Bool :=
  match d.line k with
  | some l => decide (l.st = .fill) || decide (l.waits ≠ [])
  | none => false

/-- Perform forwarded reductions in DRAM, in arrival order, after the line's write (R344). -/
def Dev.applyForwarded (d : Dev) (k : Nat) : List SliceReq → Dev
  | [] => d
  | q :: qs =>
    match q.op with
    | .reduce es =>
      -- the half is read, the elements applied and rewritten: a line of the tag is not made
      let d0 := d.setLine k (some { st := .clean, poison := b2n (d.dramPoisoned k 0) + 2 * b2n (d.dramPoisoned k 1) })
      let (d1, vs) := es.foldl (fun (acc : Dev × List (Nat × Bool)) e =>
        let (dd, o, p) := acc.1.redOne k q.part e
        (dd.event (chanBlock (keySlice k)) 0x504 q.part (keySlice k % 32) 1,
          if e.ret then acc.2 ++ [(o, p)] else acc.2)) (d0, [])
      let d2 := match d1.line k with
        | some l => (d1.setLine k none).wbToDram k { mask := l.mask, data := l.data, poison := l.poison }
        | none => d1
      (d2.answer q (if es.any (·.ret) then .old vs else .done)).applyForwarded k qs
    | _ => d.applyForwarded k qs

/-- A write-back and every reduction forwarded to it are complete; the accesses that waited proceed as misses (R344). -/
def Dev.wbDone (d : Dev) (k : Nat) : Dev :=
  match d.wbOf k with
  | none => d
  | some w =>
    let d := (d.setWb k none).wbToDram k w
    let d := d.applyForwarded k w.fwd
    let d := if w.deadAfter then (match d.makeRoom k with
      | some d' => d'.install k { st := .tomb } 0
      | none => d) else d
    let d := w.waits.foldl (fun d q =>
      let (d, a) := d.serve k q
      d.answer q a) d
    d.retrySlice (keySlice k)

/-! ### Range operations on one line (R333) -/

/-- Write back a line's dirty bytes and keep it Clean (flush). The write-back is carried out with the flush. -/
def Dev.flushLine (d : Dev) (k : Nat) : Dev :=
  let d := d.applyHeld k
  match d.line k with
  | some l =>
    if l.st = .dirty ∧ l.waits = [] then
      let d := d.event (chanBlock (keySlice k)) 0x502 none (keySlice k % 32) 1
      let d := d.wbToDram k { mask := l.mask, data := l.data, poison := l.poison }
      d.setLine k (some { l with st := .clean, mask := 0, data := 0 })
    else d
  | none => d

/-- What a range operation does with one line (R333, R335, R340, R347). -/
def Dev.rangeLine (d : Dev) (op : RangeOp) (k hint : Nat) : Dev :=
  let ch := keySlice k
  let blk := chanBlock ch
  if d.chanDead ch then d.bump (F.GRN_SLICE_STATUS_DISCARDED ch) 1
  else
    match op with
    | .prefetch =>
      match d.line k, d.wbOf k with
      | some l, _ =>
        if l.st = .tomb then
          (((d.setLine k (some { st := .fill, age := l.age, pf := 2 })).touch k hint true).event blk 0x518 none (ch % 32) 1)
        else d.touch k hint false
      | none, some _ => d
      | none, none =>
        match d.makeRoom k with
        | some d => (d.install k { st := .fill, pf := 2 } hint).event blk 0x518 none (ch % 32) 1
        | none => d
    | .flush => d.flushLine k
    | .inval =>
      let d := d.applyHeld k
      match d.line k with
      | some l =>
        if l.waits ≠ [] ∨ l.st = .fill then d
        else
          let d := if l.pf ≠ 0 then d.countPf k l 4 else d
          let d := d.setLine k none
          if l.st = .dirty then d.beginWb k l else d
      | none => d
    | .dead =>
      match d.wbOf k with
      | some w => d.setWb k (some { w with deadAfter := true })
      | none =>
        match d.line k with
        | some l =>
          let d := if l.pf ≠ 0 then d.countPf k l 4 else d
          if l.st = .fill ∨ l.waits ≠ [] then d.setLine k (some { l with deadFill := true, mask := 0, data := 0, held := [], pf := 0 })
          else d.setLine k (some { st := .tomb, age := l.age })
        | none =>
          match d.makeRoom k with
          | some d => d.install k { st := .tomb } 0
          | none => d

/-! ### Accesses by engines: the request and what it waits for, in one step -/

/-- Bring line k to rest: its write-back completes, its data arrives, and every Fill of its set arrives, so that a way can be
chosen. -/
def Dev.settle (d : Dev) (k : Nat) : Dev :=
  let d := d.wbDone k
  let fills := (d.waysOf (keySet k)).filter (fun e => decide (e.2.st = LineSt.fill) || decide (e.2.waits ≠ []))
  fills.foldl (fun d e => d.arrive e.1) d

/-- Serve an engine's request whole: when it must wait for HBM, the line's data comes and the request is served then.
`waiting` is left for a line under refetch and for a set with no way to choose: the engine stops there and tries again. -/
def Dev.engineServe (d : Dev) (k : Nat) (q : SliceReq) : Dev × Ans :=
  if d.mem.retraining.contains (keySlice k) then (d, .waiting)
  else
    let (d, a) := (d.settle k).serve k q
    match a, d.line k with
    | .waiting, some l =>
      if l.waits = [q] then (d.lineHere k l).serveHit k q else (d, .waiting)
    | a, _ => (d, a)

/-- Bytes of a line for an engine; none when the engine must wait (R471). -/
def Dev.lineRead (d : Dev) (part : Option Nat) (k lo n hint : Nat) : Dev × Option (List MByte) :=
  let (d', a) := d.engineServe k { id := 0, part := part, op := .read lo n, hint := hint, own := true }
  match a with
  | .data bs => (d', some bs)
  | _ => (d', none)

/-- Masked bytes to a line for an engine; false when the engine must wait. -/
def Dev.lineWrite (d : Dev) (part : Option Nat) (k hint : Nat) (bs : List (Nat × MByte)) : Dev × Bool :=
  let (d', a) := d.engineServe k { id := 0, part := part, op := .write bs, hint := hint, own := true }
  (d', a ≠ .waiting)

/-- Reduction elements on a line for an engine, with the old values of the returning ones; none when it must wait. -/
def Dev.lineReduce (d : Dev) (part : Option Nat) (k : Nat) (es : List RedElem) : Dev × Option (List (Nat × Bool)) :=
  let (d', a) := d.engineServe k { id := 0, part := part, op := .reduce es, own := true }
  match a with
  | .old vs => (d', some vs)
  | .done => (d', some [])
  | _ => (d', none)

end Sys2Proof.Machine
end

