-- ==== Sys2Proof/Machine/Mmu.lean ====
section
/-!
DEFINITION. Machine/Mmu.lean: the partition address space (R387 to R396), fault records (R399 to R405) and the accesses of
engines through it: reads, writes and reductions over device memory, companion memory and the neighbour windows.
-/
namespace Sys2Proof.Machine

def Acc.code : Acc → Nat
  | .read => 0 | .write => 1 | .atomic => 2 | .dead => 3 | .fetch => 4

/-- What a fault records of the access (R392, R400). -/
structure FaultInfo where
  cause : Nat
  level : Nat
  entry : Nat
  va : Nat
  access : Nat
deriving DecidableEq, Repr

/-- Where an access goes. -/
inductive Where
  /-- byte `off` of line `key` of a slice -/
  | line (key off : Nat) (ordered : Bool)
  | companion (addr : Nat)
  /-- byte `off` of window `w` (R387) -/
  | window (w off : Nat)
  /-- the walk read poison (R393) -/
  | poison
  | fault (f : FaultInfo)
deriving DecidableEq, Repr

/-- Virtual bits mapped by one entry of a level (R388). -/
def levelShift (l : Nat) : Nat := if l = 0 then 16 else if l = 1 then 21 else if l = 2 then 30 else 39
/-- Index bits of a level. -/
def levelBits (l : Nat) : Nat := if l = 0 then 5 else if l = 3 then 13 else 9
/-- Alignment of a level's table (R388). -/
def tableAlign (l : Nat) : Nat := if l = 0 then 256 else if l = 3 then 65536 else 4096

/-- An entry is malformed at its level (R390). -/
def malformed (regionSize level e : Nat) : Bool :=
  let leaf := bitAt e 1
  let addr := bitsAt e 8 44 * 256
  decide (bitsAt e 6 2 ≠ 0) || decide (bitsAt e 60 4 ≠ 0)
    || (leaf && decide (level = 3)) || (!leaf && decide (level = 0))
    || decide (bitsAt e 4 2 = 3) || (!leaf && decide (bitsAt e 4 2 ≠ 0))
    || (if leaf then decide (addr % 2 ^ levelShift level ≠ 0) else decide (addr % tableAlign (level - 1) ≠ 0))
    || (!leaf && decide (regionSize ≤ addr))

/-- Eight bytes of a region in the coherent view; none when they read as poison or lie beyond it. -/
def Dev.peekWord (d : Dev) (r : Region) (a : Nat) : Option (Option Nat) :=
  match d.channelOf r a with
  | none => none
  | some (ch, off) =>
    let bs := d.viewLine (lineKey ch (off / 128)) (off % 128) 8
    some (if bs.any (·.p) then none else some (leNat (bs.map (·.b))))

/-- The entry a walk uses at a level: the one in memory, or an older one still cached (R395, R396). -/
def Dev.walkEntry (d : Dev) (p level va addr : Nat) : Option (Option Nat) :=
  let now := d.peekWord (.part p) addr
  let pre := va / 2 ^ levelShift level
  match d.mem.tlb.find? (fun t => decide (t.part = p) && decide (t.level = level) && decide (t.pre = pre)) with
  | some t =>
    if now = some (some t.word) then now
    else if Config.translationChoice (4 * d.fresh + level) then now else some (some t.word)
  | none => now

/-- How a walk ends: a leaf with its level and the entries that led to it, a stop with a cause, or poison. -/
inductive Walk
  | leaf (level word : Nat) (path : List TlbEntry)
  | stop (cause level word : Nat)
  | poison
deriving DecidableEq, Repr

/-- The walk from a table at a level (R388, R392, R393). An entry beyond the region counts as not valid (log entry 21). -/
def Dev.walk (d : Dev) (p va : Nat) : Nat → Nat → List TlbEntry → Walk
  | level, table, path =>
    let idx := bitsAt va (levelShift level) (levelBits level)
    match d.walkEntry p level va (table + 8 * idx) with
    | none => .stop 0 level 0
    | some none => .poison
    | some (some e) =>
      if !bitAt e 0 then .stop 0 level e
      else if malformed (d.regionSize (.part p)) level e then .stop 2 level e
      else
        let path' := path ++ [{ part := p, level := level, pre := va / 2 ^ levelShift level, word := e }]
        if bitAt e 1 then .leaf level e path'
        else match level with
          | 0 => .stop 2 0 e
          | l + 1 => d.walk p va l (bitsAt e 8 44 * 256) path'

/-- Add the entries of a successful walk to the translation caches (R395). -/
def cacheAll (tlb : List TlbEntry) (path : List TlbEntry) : List TlbEntry :=
  path.foldl (fun ts t => ts.filter (fun x => !(decide (x.part = t.part) && decide (x.level = t.level) && decide (x.pre = t.pre))) ++ [t]) tlb

/-- Translate an access of partition p (R387 to R396). -/
def Dev.translate (d : Dev) (p va0 : Nat) (acc : Acc) : Dev × Where :=
  let va := va0 % 2 ^ 52
  let wr := decide (acc = .write ∨ acc = .atomic ∨ acc = .dead)
  if 0xFFE0000000000 ≤ va then
    (d.tick, .fault { cause := 3, level := Config.freeNat 1 d.fresh % 4, entry := Config.freeNat 2 d.fresh % 2 ^ 64, va := va, access := acc.code })
  else if 0xFF80000000000 ≤ va then
    let o := va - 0xFF80000000000
    (d, .window (o / 2 ^ 40) (o % 2 ^ 40))
  else
    let w := d.walk p va 3 (d.mem.rootInForce.getD p 0) []
    let stale := d.mem.tlb.any (fun t => decide (t.part = p) && decide (t.pre = va / 2 ^ levelShift t.level))
    let d' := if stale then d.tick else d
    match w with
    | .poison => (d', .poison)
    | .stop c l e => (d', .fault { cause := c, level := l, entry := e, va := va, access := acc.code })
    | .leaf l e path =>
      let bad (c : Nat) : Dev × Where := (d', .fault { cause := c, level := l, entry := e, va := va, access := acc.code })
      let tgt := bitsAt e 4 2
      let a := bitsAt e 8 44 * 256 + va % 2 ^ levelShift l
      let ok (x : Where) : Dev × Where := ({ d' with mem := { d'.mem with tlb := cacheAll d'.mem.tlb path } }, x)
      if wr && (!bitAt e 2 || (decide (tgt = 1) && (d.swrAt a).isSome)) then bad 1
      else if tgt = 2 then (if acc = .atomic ∨ acc = .dead then bad 3 else ok (.companion a))
      else match d.channelOf (if tgt = 1 then .common else .part p) a with
        | some (ch, off) => ok (.line (lineKey ch (off / 128)) (off % 128) (bitAt e 3))
        | none => bad 3

/-- Drop the cached entries of partition p that overlap [base, base + len) (R397). -/
def Dev.dropTlb (d : Dev) (p base len : Nat) : Dev :=
  let keep (t : TlbEntry) : Bool :=
    !(decide (t.part = p) && decide (t.pre * 2 ^ levelShift t.level < base + len)
      && decide (base < (t.pre + 1) * 2 ^ levelShift t.level))
  { d with mem := { d.mem with tlb := d.mem.tlb.filter keep } }

/-! ### Fault records -/

/-- Records of a partition's fault ring (R399). -/
def Dev.fringSize (d : Dev) (p : Nat) : Nat := 2 ^ d.rf (F.MMU_FRING_CTL_LOG2SIZE p)

/-- The 64 bytes of a fault record as the device writes it (R400). -/
def FaultRec.bytes (f : FaultRec) : List Byte :=
  leBytes 8 (f.id % 2 ^ 16 + (f.cause % 4) * 2 ^ 16 + (f.engine % 16) * 2 ^ 18 + (f.unit % 256) * 2 ^ 22 + (f.access % 8) * 2 ^ 30
    + (f.level % 4) * 2 ^ 33)
  ++ leBytes 8 (f.va % 2 ^ 52)
  ++ leBytes 8 (f.tag % 2 ^ 16 + (f.ring % 64) * 2 ^ 16 + (f.turn % 2 ^ 32) * 2 ^ 32)
  ++ leBytes 8 (f.position % 2 ^ 64)
  ++ leBytes 8 (f.slot % 16 + ((Nat.log2 (f.lanes % 2 ^ 32 &&& (2 ^ 32 - f.lanes % 2 ^ 32))) % 32) * 2 ^ 4 + (f.lanes % 2 ^ 32) * 2 ^ 32)
  ++ leBytes 8 (f.time % 2 ^ 64)
  ++ leBytes 8 (f.entry % 2 ^ 64)
  ++ leBytes 8 0

/-- Write the producer word of a fault ring (R399). -/
def Dev.fringProducer (d : Dev) (p count : Nat) : Dev :=
  d.toCompanion (d.rf (F.MMU_FRING_CTL_PRODUCER p) * 32) (leBytes 8 (doorbellWord count))

/-- The companion line of posted record `id` of partition p. -/
def Dev.fringLine (d : Dev) (p id : Nat) : Nat := d.rf (F.MMU_FRING_BASE_BASE p) + id % d.fringSize p

/-- Post the oldest waiting records of a partition while slots are free (R399, R404). -/
def Dev.postFaults (d : Dev) (p : Nat) : Dev :=
  ((d.mem.faults.filter (fun f => decide (f.part = p) && !f.posted))).foldl (fun d f =>
    let posted := d.rf (F.MMU_FRING_STAT_POSTED p)
    let used := (posted + 2 ^ 32 - d.rf (F.MMU_FRING_STAT_FREED p)) % 2 ^ 32
    if d.fringSize p ≤ used then d
    else
      let f' := { f with id := posted % 2 ^ 16, turn := d.turn, time := d.time, posted := true, bounds := 0 }
      let faults := d.mem.faults.map (fun g => if g.key = f.key then f' else g)
      let ln := d.fringLine p posted
      let d := { d with mem := { d.mem with faults := faults } }
      let d := (d.toCompanion (64 * ln) f'.bytes).wf (F.MMU_FRING_STAT_POSTED p) (posted + 1)
      (d.fringProducer p (posted + 1)).follow ln) d

/-- A fault: it attaches to an open record of the same partition, cause and page, or makes a record (R400, R402, R404).
Answers the key of the record the access waits on. -/
def Dev.raiseFault (d : Dev) (f : FaultInfo) (part engine unit tag ring position slot lanes : Nat) (w : Waiter) : Dev × Nat :=
  match d.mem.faults.find? (fun r => decide (r.part = part) && decide (r.cause = f.cause) && decide (r.va / 65536 = f.va / 65536)) with
  | some r =>
    let faults := d.mem.faults.map (fun g => if g.key = r.key then { g with waiters := g.waiters ++ [w] } else g)
    (({ d with mem := { d.mem with faults := faults } }).bump F.MMU_STATUS_ATTACHED 1, r.key)
  | none =>
    let key := d.mem.nextFault
    let r : FaultRec :=
      { key := key, id := 0, part := part, cause := f.cause, engine := engine, unit := unit, access := f.access,
        level := f.level, va := f.va, tag := tag, ring := ring, turn := d.turn, position := position, slot := slot,
        lanes := lanes, time := d.time, entry := f.entry, posted := false, bounds := 0, waiters := [w] }
    let d := { d with mem := { d.mem with nextFault := key + 1, faults := d.mem.faults ++ [r] } }
    let d := d.postFaults part
    let d := if d.mem.faults.any (fun g => decide (g.key = key) && g.posted) then d else d.bump F.MMU_STATUS_FRING_FULL 1
    (d, key)

/-! ### Accesses of engines -/

/-- The outcome of an engine's access: it is done, it faults, or it waits for data and is tried again. -/
inductive VRes (α : Type) where
  | ok (a : α)
  | fault (f : FaultInfo)
  | wait
deriving DecidableEq, Repr

def VRes.map {α β : Type} (f : α → β) : VRes α → VRes β
  | .ok a => .ok (f a)
  | .fault i => .fault i
  | .wait => .wait

/-- Cut [a, a + n) at 128-byte lines: (address, length). -/
def lineParts : Nat → Nat → Nat → List (Nat × Nat)
  | 0, _, _ => []
  | _, _, 0 => []
  | f + 1, a, n =>
    let k := min n (128 - a % 128)
    (a, k) :: lineParts f (a + k) (n - k)

def linesOf (a n : Nat) : List (Nat × Nat) := lineParts (n / 128 + 2) a n

/-- `n` poisoned bytes. -/
def poisonBytes (n : Nat) : List MByte := List.replicate n { b := 0, p := true }

/-- Read within one line. -/
def Dev.vreadPart (d : Dev) (p : Nat) (who : Waiter) (acc : Acc) (hint a n : Nat) : Dev × VRes (List MByte) :=
  match d.translate p a acc with
  | (d, .line k off _) =>
    match d.lineRead (some p) k off n hint with
    | (d, some bs) => (d, .ok bs)
    | (d, none) => (d, .wait)
  | (d, .companion c) =>
    match d.companionRead c n hint who with
    | (d, some bs) => (d, .ok bs)
    | (d, none) => (d, .wait)
  | (d, .window w o) =>
    match d.winLoad p w o n who with
    | (d, some bs) => (d, .ok bs)
    | (d, none) => (d, .wait)
  | (d, .poison) => (d, .ok (poisonBytes n))
  | (d, .fault f) => (d, .fault f)

def Dev.vreadParts (d : Dev) (p : Nat) (who : Waiter) (acc : Acc) (hint : Nat) : List (Nat × Nat) → Dev × VRes (List MByte)
  | [] => (d, .ok [])
  | (a, n) :: ps =>
    match d.vreadPart p who acc hint a n with
    | (d, .fault f) => (d, .fault f)
    | (d, .wait) => ((d.vreadParts p who acc hint ps).1, .wait)
    | (d, .ok bs) =>
      let (d, r) := d.vreadParts p who acc hint ps
      (d, r.map (bs ++ ·))

/-- Read n bytes of the partition's address space; a read that must wait has sent its requests (R394). -/
def Dev.vread (d : Dev) (p : Nat) (who : Waiter) (a n : Nat) (hint : Nat := 0) (acc : Acc := .read) : Dev × VRes (List MByte) :=
  d.vreadParts p who acc hint (linesOf a n)

/-- Check every line of an access: the first that faults, if any (R394). -/
def Dev.vcheck (d : Dev) (p : Nat) (acc : Acc) : List (Nat × Nat) → Dev × Option FaultInfo
  | [] => (d, none)
  | (a, _) :: ps =>
    match d.translate p a acc with
    | (d, .fault f) => (d, some f)
    | (d, _) => d.vcheck p acc ps

/-- Write within one line: true when the walk read poison and the bytes are discarded (R393). -/
def Dev.vwritePart (d : Dev) (p : Nat) (who : Waiter) (hint a : Nat) (bs : List MByte) : Dev × VRes Bool :=
  match d.translate p a .write with
  | (d, .line k off _) =>
    let (d, ok) := d.lineWrite (some p) k hint (bs.zipIdx.map (fun e => (off + e.2, e.1)))
    (d, if ok then .ok false else .wait)
  | (d, .companion c) => (d.writeCompanion c bs [who], .ok false)
  | (d, .window w o) =>
    let (d, ok) := d.winStore p w o (bs.map (·.b)) who
    (d, if ok then .ok false else .wait)
  | (d, .poison) => (d, .ok true)
  | (d, .fault f) => (d, .fault f)

def Dev.vwriteParts (d : Dev) (p : Nat) (who : Waiter) (hint : Nat) : List (Nat × Nat) → List MByte → Dev × VRes Bool
  | [], _ => (d, .ok false)
  | (a, n) :: ps, bs =>
    match d.vwritePart p who hint a (bs.take n) with
    | (d, .ok x) =>
      let (d, r) := d.vwriteParts p who hint ps (bs.drop n)
      (d, r.map (x || ·))
    | (d, r) => (d, r)

/-- Write bytes: every line is checked first, and a write that must wait leaves nothing written (R394, R403). -/
def Dev.vwrite (d : Dev) (p : Nat) (who : Waiter) (a : Nat) (bs : List MByte) (hint : Nat := 0) : Dev × VRes Bool :=
  let ps := linesOf a bs.length
  match d.vcheck p .write ps with
  | (d, some f) => (d, .fault f)
  | (d, none) =>
    match d.vwriteParts p who hint ps bs with
    | (d', .ok x) => (d', .ok x)
    | (_, .fault f) => (d, .fault f)
    | (_, .wait) => (d, .wait)

/-- Reduction elements within one line, at offsets from `a` (R341, R345): the old values of the returning ones. -/
def Dev.vreducePart (d : Dev) (p a : Nat) (es : List RedElem) : Dev × VRes (List (Nat × Bool)) :=
  match d.translate p a .atomic with
  | (d, .line k off ord) =>
    match d.lineReduce (some p) k (es.map (fun e => { e with off := off + e.off, ordered := ord })) with
    | (d, some vs) => (d, .ok vs)
    | (d, none) => (d, .wait)
  | (d, .poison) => (d, .ok ((es.filter (·.ret)).map (fun _ => (0, true))))
  | (d, .fault f) => (d, .fault f)
  | (d, _) => (d, .ok [])

/-- The spaces an operand reference can name: 0 memory, 1 Hopper, 2 scratchpad (R120, R407). -/
def Dev.sread (d : Dev) (p : Nat) (who : Waiter) (space a n : Nat) (hint : Nat := 0) : Dev × VRes (List MByte) :=
  match space with
  | 1 => (d, .ok (d.hopRead p a n))
  | 2 => (d, .ok (d.spadRead p a n))
  | _ => d.vread p who a n hint

def Dev.swrite (d : Dev) (p : Nat) (who : Waiter) (space a : Nat) (bs : List MByte) (hint : Nat := 0) : Dev × VRes Bool :=
  match space with
  | 1 => (d.hopWrite p a bs, .ok false)
  | 2 => (d.spadWrite p a bs, .ok false)
  | _ => d.vwrite p who a bs hint

/-- The end of the bounds of R409 for an address in a space: translated range, the address's window, the Hopper, the
scratchpad. -/
def Dev.spaceEnd (d : Dev) (space a : Nat) : Nat :=
  match space with
  | 1 => d.hopSize
  | 2 => d.spadSize
  | _ =>
    if a < 0xFF80000000000 then 0xFF80000000000
    else if a < 0xFFE0000000000 then 0xFF80000000000 + ((a - 0xFF80000000000) / 2 ^ 40 + 1) * 2 ^ 40
    else 2 ^ 52

/-- An engine item meets a fault: it waits on the record at its position (R400, R403). -/
def Dev.itemFault (d : Dev) (it : Item) (f : FaultInfo) (engine unit : Nat) : Dev :=
  let (d, key) := d.raiseFault f it.part engine unit it.desc.tag it.ring it.position 0 0 (.item it.id)
  d.setItem { it with fault := some key }

end Sys2Proof.Machine
end

