-- ==== Sys2Proof/Machine/Engines.lean ====
section
/-!
DEFINITION. Machine/Engines.lean: what the engines share: Hopper streams (R314 to R317), the start of an item from its queue
(R38, R108), poison and clamp notes of an item.
-/
namespace Sys2Proof.Machine

/-! ### Hopper streams -/

/-- The stream register index of stream s of partition p (R314). -/
def streamIndex (p s : Nat) : Nat := 16 * p + s % 16

/-- Bytes of a slot: units 9 to 15 act as 8 (R355). -/
def Dev.slotBytes (d : Dev) (n : Nat) : Nat := min 8 (d.rf (F.SCP_HSTREAM_SLOT_UNITS n)) * 256

/-- Slots in use: 0 while the stream is disabled; reduced to fit the addressable Hopper (R317). -/
def Dev.slots (d : Dev) (n : Nat) : Nat :=
  let b := d.slotBytes n
  if !d.rb (F.SCP_HSTREAM_ENABLE n) ∨ b = 0 then 0
  else min (d.rf (F.SCP_HSTREAM_SLOTS n)) ((d.hopSize - d.rf (F.SCP_HSTREAM_BASE n) * 4096) / b)

def Dev.streamHead (d : Dev) (n : Nat) : Nat := d.rf (F.SCP_HSTREAM_STAT_HEAD n)
def Dev.streamTail (d : Dev) (n : Nat) : Nat := d.rf (F.SCP_HSTREAM_STAT_TAIL n)

/-- Rows produced and not consumed. -/
def Dev.streamRows (d : Dev) (n : Nat) : Nat := (d.streamTail n + 2 ^ 32 - d.streamHead n) % 2 ^ 32

/-- The producer stalls: no free slot (R315). -/
def Dev.streamFull (d : Dev) (n : Nat) : Bool := decide (d.slots n ≤ d.streamRows n)

/-- The Hopper offset of the slot of row count c. -/
def Dev.slotAt (d : Dev) (n c : Nat) : Nat := d.rf (F.SCP_HSTREAM_BASE n) * 4096 + (c % d.slots n) * d.slotBytes n

/-- Write bytes at an offset of the slot at the tail. -/
def Dev.streamWrite (d : Dev) (p n off : Nat) (bs : List MByte) : Dev :=
  d.hopWrite p (d.slotAt n (d.streamTail n) + off) (bs.take (d.slotBytes n - off))

/-- The row at the tail is complete: `used` bytes were written, zeros follow to the slot's end (R411). -/
def Dev.streamPush (d : Dev) (p n used : Nat) : Dev :=
  let d := d.streamWrite p n used (List.replicate (d.slotBytes n - used) { b := 0 })
  d.wf (F.SCP_HSTREAM_STAT_TAIL n) (d.streamTail n + 1)

/-- The row at the head, consumed (R314). -/
def Dev.streamPop (d : Dev) (p n : Nat) : Dev × List MByte :=
  let bs := d.hopRead p (d.slotAt n (d.streamHead n)) (d.slotBytes n)
  (d.wf (F.SCP_HSTREAM_STAT_HEAD n) (d.streamHead n + 1), bs)

/-! ### Items at work -/

/-- The address kind of an error record for a space (R574). -/
def spaceKind (space : Nat) : Nat := if space = 0 then 3 else if space = 2 then 5 else 6

/-- Note the first poisoned value an item reads (R573). -/
def Item.sawPoison (i : Item) (space addr : Nat) (bs : List MByte) : Item :=
  match bs.findIdx? (·.p) with
  | some k => if i.poisonAt.isNone then { i with poisonAt := some (spaceKind space, addr + k) } else i
  | none => i

/-- No earlier item of the queue is still there (R108). -/
def Dev.firstInQueue (d : Dev) (it : Item) : Bool :=
  match (d.queueOf it.part it.engine Place.inQueue).head? with
  | some x => x.id = it.id
  | none => false

/-- The item is the first of its queue that has not begun. -/
def Dev.nextToStart (d : Dev) (it : Item) : Bool :=
  match (d.queueOf it.part it.engine (· = .queued)).head? with
  | some x => x.id = it.id
  | none => false

/-- Every earlier item of the queue has ended, also those taken out of it and saved; a deferred item does not wait for what was saved
when it entered (R108, R451, log entry 42). -/
def Dev.waitOver (d : Dev) (it : Item) : Bool :=
  (d.ctl.items.takeWhile (fun x => decide (x.id ≠ it.id))).all (fun x =>
    !(decide (x.part = it.part) && decide (x.engine = it.engine) && decide (x.place ≠ .pool) && !it.apart.contains x.id))

/-- A field of the descriptor that gives an amount is zero (R7, R119, R204, R214, R228, R407, R415, R519, R541). -/
def Desc.zeroAmount (c : Desc) : Bool :=
  let z (w lo n : Nat) : Bool := decide (c.fld w lo n = 0)
  if c.opcode = 0x12 then z 1 0 32 || z 2 33 5
  else if 0x10 ≤ c.opcode ∧ c.opcode ≤ 0x13 then z 1 0 32 || z 1 32 13 || z 1 45 12
  else if c.opcode = 0x20 then z 2 28 7 || (z 0 10 1 && (z 1 0 24 || z 1 24 24 || z 1 48 16))
  else if c.opcode = 0x21 then z 2 0 16
  else if c.opcode = 0x30 then z 1 0 32 || z 1 32 5 || z 1 37 7
  else if c.opcode = 0x40 ∨ c.opcode = 0x41 then z 1 0 32 || z 1 32 24 || z 2 0 16
  else if 0x42 ≤ c.opcode ∧ c.opcode ≤ 0x45 then z 1 0 56
  else if c.opcode = 0x50 then z 1 0 32 || z 1 32 9 || z 1 41 4
  else if c.opcode = 0x51 then z 1 0 32 || z 1 32 9
  else if c.opcode = 0x52 ∨ c.opcode = 0x53 then z 1 0 32 || z 1 32 32
  else if 0x70 ≤ c.opcode ∧ c.opcode ≤ 0x72 then z 2 0 40
  else if c.opcode = 0x76 then z 1 0 40 || z 1 50 6
  else decide (0x73 ≤ c.opcode) && decide (c.opcode ≤ 0x77) && z 1 0 40

/-- The item is a no-op, which completes at once, whatever stands before it in its queue (R7, R135, R194, log entry 96). -/
def Dev.atOnce (d : Dev) (it : Item) : Bool :=
  it.desc.zeroAmount || d.prs.links.any (fun l => decide (l.mangle = it.id) && decide (l.desc.fld 1 0 32 = 0))

/-- The item may leave its queue: it is next, and its WAIT bit is clear or every earlier item has ended (R38, R108); a no-op may at any
time. -/
def Dev.mayStart (d : Dev) (it : Item) : Bool := d.atOnce it || (d.nextToStart it && (!it.desc.wait || d.waitOver it))

/-- The item of a number when its engine may work on it now, running; `unit` says which unit a starting item takes, none when
it must wait. -/
def Dev.atWork (d : Dev) (id : Nat) (ok : Item → Bool) (unit : Item → Option Nat) : Option Item :=
  match d.item id with
  | some it =>
    if !ok it || it.fault.isSome || it.early.isSome then none
    else match it.place with
      | .running => some it
      | .queued => if d.mayStart it then (unit it).map (fun u => { it with place := .running, unit := u }) else none
      | _ => none
  | none => none

/-- The clamp of one row or field: the item's flag and SLC_EVENTS.CLAMPS (R430). -/
def Dev.slcClamp (d : Dev) (n : Nat) : Dev := d.bump F.SLC_EVENTS_CLAMPS n

/-- Repeat a step while it answers that the item goes on. -/
def stepMany (f : Dev → Item → Dev × Item × Bool) : Nat → Dev → Item → Dev × Item
  | 0, d, it => (d, it)
  | n + 1, d, it =>
    match f d it with
    | (d, it, true) => stepMany f n d it
    | (d, it, false) => (d, it)

/-! ### Units out of service (R44, R116, R600 to R606) -/

/-- Partitions that own a part of a scan group, in the layout in force (R600). -/
def Dev.scanOwners (d : Dev) (g : Nat) : List Nat :=
  if g < 16 then (if d.layout = 0 then [0] else if d.layout = 1 then [g / 8] else [g / 8, g / 8 + 2])
  else if g < 32 then [16 * (g - 16) / (256 / d.parts)]
  else if g < 36 then [(g - 32) * d.parts / 4]
  else List.range d.parts

/-- The group under test in the open slot. -/
def Dev.underTest (d : Dev) (g : Nat) : Bool :=
  match d.tst.slot with
  | some s => decide (s.group = g)
  | none => false

/-- Partition p admits no Stones operation: a slot on its groups, or a group found bad since its reset (R44, R116). -/
def Dev.stnClosed (d : Dev) (p : Nat) : Bool :=
  bitAt d.tst.stnWithheld p || (List.range 16).any (fun g => d.underTest g && (d.scanOwners g).contains p)

/-- The stacks of partition p in a layout (R362). -/
def stacksOf (layout p : Nat) : List Nat := (List.range (8 / 2 ^ layout)).map (fun i => 8 / 2 ^ layout * p + i)

/-- Partition p admits service-ring work only: its share lacks the compute set (R606), or no stack of it has 16 healthy channels
(R363). -/
def Dev.serviceOnly (d : Dev) (p : Nat) : Bool :=
  bitAt d.tst.serviceOnly p || !(stacksOf d.layout p).any (fun s => decide (16 ≤ d.rf (F.HBM_STATUS_HEALTHY s)))

/-- Partition p admits operations of an engine (R44, R116, R363, R600, R602, R606). -/
def Dev.engineOpen (d : Dev) (p : Nat) (e : Engine) : Bool :=
  (decide (e = .service) || !d.serviceOnly p) && (match e with
  | .stones => !d.stnClosed p
  | .press => (List.range 4).all (fun q => !((d.scanOwners (32 + q)).contains p && (bitAt d.tst.pressDead q || d.underTest (32 + q))))
  | .sluice | .bolter => !d.tst.copyDead && !d.underTest 36
  | _ => true)

/-! ### Operand references and writes (R120, R9) -/

/-- The reference a 64-bit word spells (R120). -/
def refOf (w : Nat) : Ref := { base := bitsAt w 0 48 * 16, space := bitsAt w 48 3, stride := bitsAt w 51 11 * 256, hint := bitsAt w 62 2 }

/-- The row stride in bytes: dense rows are rounded up to 16 bytes (R120). -/
def Ref.rowStride (r : Ref) (rowBytes : Nat) : Nat := if r.stride = 0 then (rowBytes + 15) / 16 * 16 else r.stride

/-- Write bytes, clipped at the end of the space (R9): the item's flag tells. -/
def Dev.boundWrite (d : Dev) (it : Item) (space a : Nat) (bs : List MByte) (hint : Nat) : Dev × Item × VRes Bool :=
  let keep := bs.take (d.spaceEnd space a - a)
  let it := if keep.length < bs.length then { it with clamped := true } else it
  let (d, r) := d.swrite it.part (.item it.id) space a keep hint
  (d, it, r)

/-- Read within the bound of a space; bytes past it read as zero, and the item is clamped (R9, log entry 15). -/
def Dev.boundRead (d : Dev) (it : Item) (space a n hint : Nat) : Dev × Item × VRes (List MByte) :=
  let k := min n (d.spaceEnd space a - a)
  let (d, r) := d.sread it.part (.item it.id) space a k hint
  let it := if k < n then { it with clamped := true } else it
  let it := match r with
    | .ok bs => it.sawPoison space a bs
    | _ => it
  (d, it, r.map (fun bs => bs ++ List.replicate (n - k) { b := 0 }))

/-- Note an output with poison. -/
def Item.outPoison (it : Item) (x : Bool) : Item := { it with poison := it.poison || x }

/-- Carry out several writes, all or none. -/
def Dev.writeAll (d : Dev) (it : Item) : List (Ref × Nat × List MByte) → Dev × Item × VRes Bool
  | [] => (d, it, .ok false)
  | (r, a, bs) :: ws =>
    match d.boundWrite it r.space a bs r.hint with
    | (d', it', .ok x) =>
      let (d'', it'', y) := d'.writeAll it' ws
      (d'', it'', y.map (x || ·))
    | (d', it', y) => (d', it', y)

end Sys2Proof.Machine
end

