-- ==== Sys2Proof/Machine/Bolter.lean ====
section
/-!
DEFINITION. Machine/Bolter.lean: GATHER, SCATTER, SORT and DEDUP and their completion (R413 to R420). An item's position is
(ordinal, segment, 0).
-/
namespace Sys2Proof.Machine

/-! ### Fields (R414, R415) -/

def bolIW (c : Desc) : Nat := if c.fld 0 32 1 = 1 then 8 else 4
def bolKord (c : Desc) : Nat := c.fld 0 33 2
def bolDesc (c : Desc) : Bool := c.fld 0 35 1 = 1
def bolRop (c : Desc) : Nat := c.fld 0 36 4
def bolType (c : Desc) : RedType :=
  match c.fld 0 40 2 with
  | 0 => .i32 | 1 => .i64 | 2 => .f32 | _ => .bf16
def bolCount (c : Desc) : Nat := c.fld 1 0 32
def bolRowBytes (c : Desc) : Nat := min 256 (c.fld 1 32 9)
def bolConcat (c : Desc) : Nat := min 8 (c.fld 1 41 4)
def bolSegments (c : Desc) : Nat := c.fld 1 32 32
def bolTrows (c : Desc) : Nat := c.fld 5 0 32
def bolTstride (c : Desc) : Nat := if c.fld 5 32 32 = 0 then bolRowBytes c else c.fld 5 32 32

/-- The checks of R414 and R415: true fails. Field values are checked before they are clamped (R7). -/
def bolterCheckFails (c : Desc) : Bool :=
  let ok (k : Nat) : Bool := [0, 2].contains (refOf (c.word k)).space
  decide (7 ≤ bolRop c) || decide (bolKord c = 3) || (decide (bolKord c = 2) && decide (bolIW c = 8))
  || (match c.opcode with
    | 0x50 => decide (2048 < c.fld 1 41 4 * c.fld 1 32 9) || !ok 2 || !ok 3 || !([0, 2, 4].contains (refOf (c.word 4)).space)
    | 0x51 => (decide (bolRop c ≠ 0) && decide (c.fld 1 32 9 % (bolType c).bytes ≠ 0)) || !ok 2
        || decide ((refOf (c.word 3)).space ≠ 0) || !ok 4
    | _ => !ok 2 || !ok 3 || !ok 4 || !ok 5 || !ok 6)

/-- Fields clamped by R415. -/
def bolClamps (c : Desc) : Nat :=
  if c.opcode = 0x50 then b2n (decide (256 < c.fld 1 32 9)) + b2n (decide (8 < c.fld 1 41 4))
  else if c.opcode = 0x51 then b2n (decide (256 < c.fld 1 32 9)) else 0

/-- A field of amount 0: a no-op (R415). -/
def bolNoop (c : Desc) : Bool :=
  decide (bolCount c = 0)
  || (match c.opcode with
    | 0x50 => decide (c.fld 1 32 9 = 0) || decide (c.fld 1 41 4 = 0)
    | 0x51 => decide (c.fld 1 32 9 = 0)
    | _ => decide (bolSegments c = 0))

/-- Segments of a SORT or DEDUP: one of COUNT when word 6 is 0 (R414). -/
def bolSegs (c : Desc) : Nat := if c.word 6 = 0 then 1 else bolSegments c

/-- Nothing is left to do. -/
def Item.bolterDone (it : Item) : Bool :=
  bolNoop it.desc || (match it.desc.opcode with
    | 0x50 | 0x51 => decide (bolCount it.desc ≤ it.pos.1)
    | _ => decide (bolSegs it.desc ≤ it.pos.2.1))

/-! ### Accesses -/

/-- Read an array of w-byte numbers. -/
def Dev.readNums (d : Dev) (it : Item) (r : Ref) (w i n : Nat) : Dev × Item × VRes (List (Nat × Bool) × List MByte) :=
  let (d, it, x) := d.boundRead it r.space (r.base + i * w) (n * w) r.hint
  (d, it, x.map (fun bs => ((chunks w n bs).map (fun c => (leNat (c.map (·.b)), c.any (·.p))), bs)))

/-- Stop an item on a fault of the Bolter (R400). -/
def bolterFault (d : Dev) (it : Item) (f : FaultInfo) : Dev × Item × Bool :=
  let d := d.itemFault it f 7 it.part
  (d, (d.item it.id).getD it, false)

/-! ### GATHER (R416) -/

/-- The rows one output row takes, entry by entry: nulls and indices beyond the table give zeros. -/
def gatherRows (c : Desc) (tab : Ref) : List (Nat × Bool) → Dev → Item → Dev × Item × VRes (List MByte)
  | [], d, it => (d, it, .ok [])
  | (idx, pz) :: is, d, it =>
    let rb := bolRowBytes c
    let null := decide (idx = 2 ^ (8 * bolIW c) - 1)
    if pz then
      let (d, it, r) := gatherRows c tab is d it
      (d, it, r.map (poisonBytes rb ++ ·))
    else if null ∨ bolTrows c ≤ idx then
      let (d, it) := if null then (d, it) else (d.bump F.SLC_EVENTS_IDX_RANGE 1, { it with clamped := true })
      let (d, it, r) := gatherRows c tab is d it
      (d, it, r.map (List.replicate rb { b := 0 } ++ ·))
    else
      let a := tab.base + idx * bolTstride c
      match d.boundRead it tab.space a rb tab.hint with
      | (d, it, .ok bs) =>
        let (d, it, r) := gatherRows c tab is d it
        (d, it, r.map (bs ++ ·))
      | (d, it, .fault f) => (d, it, .fault f)
      | (d, it, .wait) => (d, it, .wait)

/-- One output row. -/
def gatherStep (d : Dev) (it : Item) : Dev × Item × Bool :=
  if it.bolterDone then (d, it, false)
  else
    let c := it.desc
    let cc := bolConcat c
    let i := it.pos.1
    let out := refOf (c.word 4)
    let sn := streamIndex it.part (bitsAt (c.word 4) 0 4)
    let len := cc * bolRowBytes c
    let n := min cc (bolCount c - i)
    if out.space = 4 ∧ d.streamFull sn then (d, it, false)
    else
      match d.readNums it (refOf (c.word 2)) (bolIW c) i n with
      | (d, _, .wait) => (d, it, false)
      | (d, _, .fault f) => bolterFault d it f
      | (d, it0, .ok (is, _)) =>
        match gatherRows c (refOf (c.word 3)) is d it0 with
        | (d', _, .wait) => ({ d' with regs := d.regs }, it, false)
        | (d', _, .fault f) => bolterFault { d' with regs := d.regs } it f
        | (d, it, .ok bs) =>
          let row := bs ++ List.replicate (len - bs.length) { b := 0 }
          let cut : Bool := if out.space = 4 then decide (d.slotBytes sn < len)
            else decide (d.spaceEnd out.space (out.base + (i / cc) * out.rowStride len) < out.base + (i / cc) * out.rowStride len + len)
          let (d, it, r) :=
            if out.space = 4 then
              let sb := d.slotBytes sn
              let d' := (d.streamWrite it.part sn 0 row).streamPush it.part sn (min len sb)
              if sb < len then (d'.slcClamp 1, { it with clamped := true }, VRes.ok false) else (d', it, VRes.ok false)
            else d.boundWrite it out.space (out.base + (i / cc) * out.rowStride len) row out.hint
          match r with
          | .wait => (d, it, false)
          | .fault f => bolterFault d it f
          | .ok lost =>
            let it := it.outPoison (lost || bs.any (·.p))
            ((d.sweep (.item it.id)).event 25 0x402 (some it.part) 0 is.length,
              { it with pos := (i + n, 0, 0), prog := it.prog + b2n (!cut) }, true)

/-! ### SCATTER (R417, R418) -/

/-- The reduction of an ROP (R417). -/
def ropKind (r : Nat) : RedKind :=
  match r with
  | 1 => .add | 2 => .min | 3 => .max | 4 => .and | 5 => .or | _ => .xor

/-- Reduce elements at ascending addresses, one element a request, aligned to their size (log entry 23). -/
def reduceElems (p : Nat) (kind : RedKind) (ty : RedType) (seq : Nat) : List (Nat × List MByte) → Dev → Dev × VRes Unit
  | [], d => (d, .ok ())
  | (a, bs) :: es, d =>
    let e : RedElem := { off := 0, op := kind, ty := ty, val := leNat (bs.map (·.b)), seq := some seq, poison := bs.any (·.p) }
    match d.vreducePart p (a / ty.bytes * ty.bytes) [e] with
    | (d, .ok _) => reduceElems p kind ty seq es d
    | (d, .fault f) => (d, .fault f)
    | (d, .wait) => (d, .wait)

/-- One source row. -/
def scatterStep (d : Dev) (it : Item) : Dev × Item × Bool :=
  if it.bolterDone then (d, it, false)
  else
    let c := it.desc
    let e := it.pos.1
    let who : Waiter := .item it.id
    let tab := refOf (c.word 3)
    let src := refOf (c.word 4)
    let rb := bolRowBytes c
    let next (it : Item) (applied : Nat) : Item := { it with pos := (e + 1, 0, 0), prog := it.prog + applied }
    match d.readNums it (refOf (c.word 2)) (bolIW c) e 1 with
    | (d, _, .wait) => (d, it, false)
    | (d, _, .fault f) => bolterFault d it f
    | (d, it, .ok (is, _)) =>
      let (idx, pz) := is.headD (0, false)
      if pz then (d.sweep who, next { it with poison := true } 0, true)
      else if idx = 2 ^ (8 * bolIW c) - 1 then (d.sweep who, next it 0, true)
      else if bolTrows c ≤ idx then ((d.bump F.SLC_EVENTS_IDX_RANGE 1).sweep who, next { it with clamped := true } 0, true)
      else
        let sa := src.base + e * src.rowStride rb
        let da := tab.base + idx * bolTstride c
        match d.boundRead it src.space sa rb src.hint with
        | (d, _, .wait) => (d, it, false)
        | (d, _, .fault f) => bolterFault d it f
        | (d, it, .ok bs) =>
          let fin (d : Dev) (lost : Bool) : Dev × Item × Bool :=
            ((d.sweep who).event 25 0x403 (some it.part) 0 1, next (it.outPoison (lost || bs.any (·.p))) 1, true)
          if bolRop c = 0 then
            match d.vwrite it.part who da bs tab.hint with
            | (d, .ok lost) => fin d lost
            | (d, .fault f) => bolterFault d it f
            | (d, .wait) => (d, it, false)
          else
            match d.vcheck it.part .atomic (linesOf da rb) with
            | (d, some f) => bolterFault d it f
            | (d, none) =>
              let w := (bolType c).bytes
              let es := (chunks w rb bs).zipIdx.map (fun x => (da + w * x.2, x.1))
              match reduceElems it.part (ropKind (bolRop c)) (bolType c) ((c.fld 6 0 32 + e) % 2 ^ 32) es d with
              | (d', .ok _) => fin d' false
              | (_, .fault f) => bolterFault d it f
              | (_, .wait) => (d, it, false)

/-! ### SORT and DEDUP (R419, R420) -/

/-- The order of keys: KORD 0 unsigned, 1 signed, 2 IEEE totalOrder of FP32, as a number that grows with the key. -/
def keyRank (kord w k : Nat) : Nat :=
  let half := 2 ^ (8 * w - 1)
  match kord with
  | 1 => if k < half then k + half else k - half
  | 2 => if k < half then k + half else 2 * half - 1 - k
  | _ => k

/-- Insert behind every element that may stand before it: the stable order. -/
def insertStable (before : (Nat × Nat) → (Nat × Nat) → Bool) (x : Nat × Nat) : List (Nat × Nat) → List (Nat × Nat)
  | [] => [x]
  | y :: ys => if before x y then x :: y :: ys else y :: insertStable before x ys

/-- The stable sort of pairs by key. -/
def sortPairs (kord w : Nat) (desc : Bool) (l : List (Nat × Nat)) : List (Nat × Nat) :=
  let before (x y : Nat × Nat) : Bool :=
    if desc then decide (keyRank kord w y.1 < keyRank kord w x.1) else decide (keyRank kord w x.1 < keyRank kord w y.1)
  l.foldl (fun acc x => insertStable before x acc) []

/-- A permutation the manual leaves open (R419: the input arrays after a long sort), free value 3. -/
def freePerm {α : Type} : Nat → Nat → List α → List α
  | 0, _, l => l
  | _, _, [] => []
  | n + 1, k, l =>
    let i := Config.freeNat 3 k % l.length
    match l[i]? with
    | some x => x :: freePerm n (k + 1) (l.eraseIdx i)
    | none => l

/-- Runs of adjacent equal keys (R420): the unique keys and, for each position, its run's ordinal. -/
def keyRuns : Option Nat → Nat → List Nat → List Nat × List Nat
  | _, _, [] => ([], [])
  | prev, n, k :: ks =>
    if prev = some k then
      let (u, inv) := keyRuns prev n ks
      (u, (n - 1) :: inv)
    else
      let (u, inv) := keyRuns (some k) (n + 1) ks
      (k :: u, n :: inv)

/-- Numbers as bytes, poisoned or clean together. -/
def numBytes (w : Nat) (p : Bool) (ns : List Nat) : List MByte :=
  (ns.flatMap (fun n => leBytes w n)).map (fun b => { b := b, p := p })

/-- The bounds of segment s after R419's correction of the offsets: the bound before it is kept in `aux`. -/
def segBounds (c : Desc) (prev a b : Nat) : Nat × Nat × Bool :=
  let n := bolCount c
  let lo := if a < prev ∨ n < a then prev else a
  let hi := if b < lo ∨ n < b then lo else b
  (lo, hi, decide (lo ≠ a ∨ hi ≠ b))

/-- One segment of a SORT or DEDUP. -/
def segmentStep (d : Dev) (it : Item) : Dev × Item × Bool :=
  if it.bolterDone then (d, it, false)
  else
    let c := it.desc
    let w := bolIW c
    let s := it.pos.2.1
    let who : Waiter := .item it.id
    let (d, it1, offs) := if c.word 6 = 0 then (d, it, VRes.ok ([(0, false), (bolCount c, false)], [])) else d.readNums it (refOf (c.word 6)) w s 2
    match offs with
    | .wait => (d, it, false)
    | .fault f => bolterFault d it f
    | .ok (os, raw) =>
      let (a, b) := match os with
        | [x, y] => (x.1, y.1)
        | _ => (0, 0)
      let (lo, hi, bad) := segBounds c (it.aux.headD 0) a b
      let n := hi - lo
      let keysIn := refOf (c.word 2)
      match d.readNums it1 keysIn w lo n with
      | (d, _, .wait) => (d, it, false)
      | (d, _, .fault f) => bolterFault d it f
      | (d, it2, .ok (ks, kraw)) =>
        let valsIn := refOf (c.word 3)
        let hasVals := decide (c.opcode = 0x52) && decide (c.word 3 ≠ 0)
        let (d, it3, vr) := if hasVals then d.readNums it2 valsIn w lo n else (d, it2, VRes.ok (ks.map (fun _ => (0, false)), []))
        match vr with
        | .wait => (d, it, false)
        | .fault f => bolterFault d it f
        | .ok (vs, vraw) =>
          let pz := raw.any (·.p) || kraw.any (·.p) || vraw.any (·.p)
          let outK := refOf (c.word 4)
          let pairs := (ks.map (·.1)).zip (vs.map (·.1))
          let writes : List (Ref × Nat × List MByte) :=
            if c.opcode = 0x52 then
              let sorted := sortPairs (bolKord c) w (bolDesc c) pairs
              let work := freePerm n d.fresh pairs
              let outV := refOf (c.word 5)
              (if 4096 < n then
                (keysIn, keysIn.base + lo * w, numBytes w pz (work.map (·.1)))
                  :: (if hasVals then [(valsIn, valsIn.base + lo * w, numBytes w pz (work.map (·.2)))] else [])
                else [])
              ++ [(outK, outK.base + lo * w, numBytes w pz (sorted.map (·.1)))]
              ++ (if hasVals then [(outV, outV.base + lo * w, numBytes w pz (sorted.map (·.2)))] else [])
            else
              let (u, inv) := keyRuns none 0 (ks.map (·.1))
              let outI := refOf (c.word 5)
              [(outK, outK.base + lo * w, numBytes w pz u), (refOf (c.word 3), (refOf (c.word 3)).base + 4 * s, numBytes 4 pz [u.length])]
              ++ (if c.word 5 ≠ 0 then [(outI, outI.base + lo * w, numBytes w pz inv)] else [])
          match d.writeAll it3 writes with
          | (_, _, .wait) => (d, it, false)
          | (_, _, .fault f) => bolterFault d it f
          | (d, it, .ok lost) =>
            let d := if 4096 < n then { d with fresh := d.fresh + n } else d
            let d := if bad then d.slcClamp 1 else d
            let d := if c.opcode = 0x52 then d.event 25 0x404 (some it.part) 0 n else d
            (d.sweep who, { it with pos := (hi, s + 1, 0), aux := [hi], prog := it.prog + n, clamped := it.clamped || bad,
                                    poison := it.poison || lost || pz }, true)

/-- The operation is the first of its partition's queue (R413), or a no-op. -/
def Dev.bolterTurn (d : Dev) (it : Item) : Bool := d.atOnce it || d.firstInQueue it

/-- The Bolter works on the first operation of a partition's queue for at most n steps (R413). -/
def Dev.bolterRun (d : Dev) (op id n : Nat) (f : Dev → Item → Dev × Item × Bool) : Dev :=
  match d.atWork id (fun it => decide (it.desc.opcode = op) && d.bolterTurn it) (fun it => some it.part) with
  | some it =>
    let isNew : Bool := match d.item id with
      | some x => decide (x.place = .queued)
      | none => false
    let k := if isNew then bolClamps it.desc else 0
    let it := { it with clamped := it.clamped || decide (0 < k) }
    let d := (d.slcClamp k).setItem it
    let (d, it) := stepMany f n d it
    d.setItem it
  | none => d

/-- GATHER (R416): up to n output rows. -/
def cmdGather (item n : Nat) (d : Dev) : Dev := d.bolterRun 0x50 item n gatherStep
/-- SCATTER (R417): up to n source rows. -/
def cmdScatter (item n : Nat) (d : Dev) : Dev := d.bolterRun 0x51 item n scatterStep
/-- SORT (R419): up to n segments. -/
def cmdSort (item n : Nat) (d : Dev) : Dev := d.bolterRun 0x52 item n segmentStep
/-- DEDUP (R420): up to n segments. -/
def cmdDedup (item n : Nat) (d : Dev) : Dev := d.bolterRun 0x53 item n segmentStep

/-- A Bolter operation finishes (R413, R452). -/
def cmdBolterCompletion (item : Nat) (d : Dev) : Dev :=
  match d.item item with
  | some it =>
    if it.engine = .bolter ∧ it.place = .running ∧ it.fault = none ∧ it.bolterDone ∧ !d.winPending (.item item) then d.finishItem it else d
  | none => d

end Sys2Proof.Machine
end

