-- ==== Sys2Proof/Machine/Links.lean ====
section
/-!
DEFINITION. Machine/Links.lean: the receiving side of the link layer, link training, lane retraining, delay exchanges and
Turn symbols (R28 to R31, R489 to R500, R530 to R532, R638).
-/
namespace Sys2Proof.Machine

/-! ### Flits (R492 to R496) -/

/-- Sequence number a lies in the window of 2,047 behind b, b included. -/
def seqBehind (a b : Nat) : Bool := decide ((b + 4096 - a) % 4096 < 2047)

/-- Unacknowledged flits after an acknowledgement of `ack`. -/
def LinkSt.acked (l : LinkSt) (ack : Nat) : LinkSt :=
  { l with replay := l.replay.filter (fun e => !seqBehind e.1 ack) }

/-- A flit resent: RPL is set and the acknowledgement fields are current. -/
def LinkSt.again (l : LinkSt) (seq : Nat) (f : Flit) : Flit :=
  let h := flitHeader f
  let vc := bitsAt h 27 3
  let len := bitsAt h 30 8
  flitBytes (l.header seq vc len false true 0 0) ((f.drop 8).take len)

/-- Resend every unacknowledged flit in order (R494). -/
def Dev.replayAll (d : Dev) (port : Nat) : Dev :=
  let l := d.linkOf port
  let n := l.replay.length
  let d := l.replay.foldl (fun d e => d.emit (.flit port (l.again e.1 e.2))) d
  if port = 6 then d
  else (d.bump (F.FAB_PORT_ERR_REPLAYS port) n).event (34 + port) 0x702 none 0 n

/-- Ask for replay: an idle flit with NAK (R494). -/
def Dev.sendNak (d : Dev) (port : Nat) : Dev :=
  let d := d.setLink port { d.linkOf port with naking := true }
  d.sendIdle port true 0 0

/-- Whole packets of a VC's byte stream. -/
def parseAll : Nat → List Byte → List Packet × List Byte
  | 0, bs => ([], bs)
  | f + 1, bs =>
    match Packet.parse bs with
    | some (p, rest) =>
      let (ps, r) := parseAll f rest
      (p :: ps, r)
    | none => ([], bs)

def parseAllCpl : Nat → List Byte → List CplPacket × List Byte
  | 0, bs => ([], bs)
  | f + 1, bs =>
    match CplPacket.parse bs with
    | some (p, rest) =>
      let (ps, r) := parseAllCpl f rest
      (p :: ps, r)
    | none => ([], bs)

/-- Give back the credits of a VC whose packets have all been handled (R495). -/
def Dev.returnCredits (d : Dev) (port vc : Nat) : Dev :=
  let l := d.linkOf port
  let n := l.rxUsed.getD vc 0
  let held := (l.rxBytes.getD vc []).length ≠ 0 || l.rxPackets.any (fun e => decide (e.1 = vc)) || (decide (port = 6) && l.rxCpl.any (fun e => decide (e.1 = vc)))
  if held || decide (n = 0) then d
  else (d.setLink port { l with rxUsed := l.rxUsed.set vc 0 }).sendIdle port false vc n

/-- A fabric packet reaches the module on port p: a packet of a reserved kind, of a class that is not its VC's, or of a class
that the port's state does not carry is discarded (R499, R500, R510). -/
def Dev.packetOk (d : Dev) (port vc : Nat) (p : Packet) : Bool :=
  match kindClass p.kind with
  | none => false
  | some c => decide (vc / 2 = c) && (decide (c = 3) || d.portRunning port)

/-- A packet from the companion is whole: a CMD that finds 16 commands waiting is answered BUSY (R656). -/
def Dev.cplArrives (d : Dev) (vc : Nat) (p : CplPacket) : Dev :=
  let l := d.linkOf 6
  if p.op = 0x42 ∧ vc = 4 ∧ 16 ≤ (l.rxCpl.filter (fun e => decide (e.2.op = 0x42))).length then
    d.sendCpl { op := 0x49, tag := p.tag, code := 2, arg := p.arg % 256 }
  else d.setLink 6 { l with rxCpl := l.rxCpl ++ [(vc, p)] }

/-- Reassemble the payload of an accepted flit (R496). -/
def Dev.reassemble (d : Dev) (port vc : Nat) (pay : List Byte) : Dev :=
  let l := d.linkOf port
  let bs := l.rxBytes.getD vc [] ++ pay
  if port = 6 then
    let (ps, rest) := parseAllCpl bs.length bs
    let d := d.setLink port { l with rxBytes := l.rxBytes.set vc rest }
    (ps.foldl (fun d p => d.cplArrives vc p) d).returnCredits port vc
  else
    let (ps, rest) := parseAll bs.length bs
    let (good, bad) := ps.partition (d.packetOk port vc)
    let d := d.setLink port { l with rxBytes := l.rxBytes.set vc rest, rxPackets := l.rxPackets ++ good.map (fun p => (vc, p)) }
    (d.bump F.FAB_EVENTS_KIND_DROP bad.length).returnCredits port vc

/-- FLIT_RECEIVED (R492 to R496); on the Companion Link a flit of VC 5, 6 or 7 is bad (R639). -/
def cmdFlitReceived (port : Nat) (flit : Flit) (d : Dev) : Dev :=
  if 7 ≤ port ∨ !d.linkUp port then d
  else if flitBad flit || (decide (port = 6) && decide (5 ≤ bitsAt (flitHeader flit) 27 3)) then
    let d := if port = 6 then d else d.bump (F.FAB_PORT_ERR_BAD_FLITS port) 1
    if (d.linkOf port).naking then d else d.sendNak port
  else
    let h := flitHeader flit
    let l := d.linkOf port
    let l := if bitAt h 24 then l.acked (bitsAt h 12 12) else l
    let l := { l with credits := l.credits.modify (bitsAt h 38 3) (· + bitsAt h 41 12) }
    let d := d.setLink port l
    let d := if bitAt h 25 then d.replayAll port else d
    let d := d.pump port
    let len := bitsAt h 30 8
    let vc := bitsAt h 27 3
    if len = 0 then d
    else
      let l := d.linkOf port
      if bitsAt h 0 12 ≠ l.rxNext ∨ (l.naking ∧ !bitAt h 26) then (if l.naking then d else d.sendNak port)
      else if 2048 ≤ l.rxUsed.getD vc 0 then (if port = 6 then d else d.bump (F.FAB_PORT_ERR_NO_CREDIT port) 1)
      else
        let d := d.setLink port { l with rxNext := (l.rxNext + 1) % 4096, rxAny := true, naking := false,
                                         rxUsed := l.rxUsed.modify vc (· + 1) }
        let d := d.bwCount (32 + port) false len
        let d := if port = 6 then d.event 40 0x801 none 0 1 else d.event (34 + port) 0x701 none 0 1
        d.reassemble port vc ((flit.drop 8).take len)

/-- NAK_RESEND (R494): no replay has begun within 2 µs. -/
def cmdNakResend (port : Nat) (d : Dev) : Dev :=
  if port < 7 ∧ d.linkUp port ∧ (d.linkOf port).naking then d.sendNak port else d

/-- A packet of port p is handled: it leaves the received packets, and credits go back (R495). -/
def Dev.takePacket (d : Dev) (port : Nat) (p : Packet) : Dev :=
  let l := d.linkOf port
  match l.rxPackets.find? (fun e => decide (e.2 = p)) with
  | some e => (d.setLink port { l with rxPackets := l.rxPackets.erase e }).returnCredits port e.1
  | none => d

/-- A Companion Link packet is handled. -/
def Dev.takeCpl (d : Dev) (p : CplPacket) : Dev :=
  let l := d.linkOf 6
  match l.rxCpl.find? (fun e => decide (e.2 = p)) with
  | some e => (d.setLink 6 { l with rxCpl := l.rxCpl.erase e }).returnCredits 6 e.1
  | none => d

/-! ### Width, lanes and training (R489 to R500) -/

/-- Groups in use: healthy at both ends and in service (R489). -/
def LinkSt.groups (l : LinkSt) : Nat := maskGroups (l.groupsOwn &&& l.groupsPeer) l.groupsOut
where maskGroups (a out : Nat) : Nat := a &&& (15 ^^^ (out % 16))

/-- Show the groups in use in FAB_PORT_STATn. -/
def Dev.showWidth (d : Dev) (port : Nat) : Dev :=
  let g := (d.linkOf port).groups
  let w := 8 * popcount 4 g
  ((d.wf (F.FAB_PORT_STAT_GROUPS port) g).wf (F.FAB_PORT_STAT_WIDTH port) w).wb (F.FAB_PORT_STAT_DEGRADED port)
    (decide (w < 32) && d.portRunning port)

/-- A LINK packet of this module to the peer of a port (R510). -/
def Dev.sendLink (d : Dev) (port sub : Nat) (p : Packet) : Dev :=
  d.putOnPort port false { p with kind := 0xE, sub := sub, src := d.ownNode, dst := (d.linkOf port).peerNode.getD 0 }

/-- An outstanding window request completes as a timeout (R518): a load and a returning atomic with poison, the others as if
acknowledged. -/
def WinReq.timeOut (w : WinReq) (again : Nat) : WinReq :=
  { w with state := 2, data := if w.kind = .load ∨ w.kind = .atomicRet then List.replicate w.len { b := 0, p := true } else [], sentAt := again }

/-- The requests outstanding on a port time out; at most one record is posted per Turn (R491, R518). -/
def Dev.timeOutWins (d : Dev) (port : Nat) (f : WinReq → Bool) : Dev :=
  let hit := d.fab.wins.filter (fun w => decide (w.port = port) && decide (w.state = 0) && f w)
  match hit.head? with
  | none => d
  | some w =>
    let wins := d.fab.wins.map (fun w => if w.port = port ∧ w.state = 0 ∧ f w then w.timeOut d.time else w)
    let d := { d with fab := { d.fab with wins := wins } }
    let d := d.bump F.FAB_TIMEOUTS_TIMEOUTS hit.length
    let l := d.linkOf port
    if l.timeoutPosted then d
    else (d.setLink port { l with timeoutPosted := true }).postError
      { cls := 1, source := 0x08, event := 0x03, inst := port, parts := 2 ^ w.part }

/-- A port goes down (R491): its replay buffer is dropped, its window requests time out, a record is posted, and training
begins again. -/
def Dev.portDown (d : Dev) (port : Nat) : Dev :=
  let l := d.linkOf port
  let d := d.setLink port { timeoutPosted := l.timeoutPosted, groupsOwn := l.groupsOwn }
  let d := (d.timeOutWins port (fun _ => true)).postError { cls := 1, source := 0x08, event := 0x02, inst := port }
  let d := d.wf (F.FAB_PORT_STAT_STATE port) 0
  ((d.wf (F.FAB_PORT_STAT_GROUPS port) 0).wf (F.FAB_PORT_STAT_WIDTH port) 0).wb (F.FAB_PORT_STAT_DEGRADED port) false

/-- The module's identity block for a port (R498). -/
def Dev.identityBlock (d : Dev) (port : Nat) : List Byte :=
  leBytes 8 Config.serial ++ leBytes 8 (port + (d.linkOf port).groupsOwn * 2 ^ 8)
    ++ (List.range 8).flatMap (fun k => leBytes 8 (d.rf (F.SEC_FW_MEAS_WORD k)))
    ++ leBytes 8 (d.rf (F.FAB_PORT_STAT_LINKUPS port)) ++ leBytes 8 0

/-- Announce the coordinate on an identified port (R499): the node is in ADDR (log entry 45). -/
def Dev.announce (d : Dev) (port : Nat) : Dev :=
  if d.coordValid && decide (2 ≤ d.rf (F.FAB_PORT_STAT_STATE port)) then d.sendLink port 3 { kind := 0xE, addr := d.ownNode } else d

/-- The coordinate a port expects of its peer (R499); none on an axis of size 1. -/
def Dev.expectedPeer (d : Dev) (port : Nat) : Option Nat :=
  let ax := port / 2
  let s := axisSize (d.fab.dims.getD 0) ax
  let o := coordOf d.ownNode ax
  if s ≤ 1 then none
  else some (withBits d.ownNode (12 - 6 * ax) 6 (if port % 2 = 0 then (o + 1) % s else (o + s - 1) % s))

/-- Judge the announced coordinate: running or miswired (R499, R500). -/
def Dev.judgePeer (d : Dev) (port : Nat) : Dev :=
  match (d.linkOf port).peerNode with
  | some n =>
    if 2 ≤ d.rf (F.FAB_PORT_STAT_STATE port) ∧ d.coordValid then
      (d.wf (F.FAB_PORT_STAT_STATE port) (if d.expectedPeer port = some n then 3 else 4)).showWidth port
    else d
  | none => d

/-- The hop delay in whole ns: TRN_HOP_DELAY shows it for the UPSTREAM link (R25). -/
def Dev.showDelay (d : Dev) (port : Nat) : Dev :=
  if d.rf F.TRN_CTRL_UPSTREAM = port + 1 then d.wf F.TRN_PHASE_ERR_HOP_DELAY_NS (((d.linkOf port).hopDelay / 16).toNat) else d

/-- Show the Companion Link's groups in service (R638, R685). -/
def Dev.cplShowWidth (d : Dev) : Dev :=
  let g := (d.linkOf 6).groups
  (d.wf F.CPL_STATUS_GROUPS g).wf F.CPL_STATUS_WIDTH (4 * popcount 4 g)

/-- No lane group is in service: the Companion Link goes down and trains again from the start (R638). -/
def Dev.cplDown (d : Dev) : Dev :=
  let d := (d.setLink 6 { groupsOwn := (d.linkOf 6).groupsOwn }).postError { cls := 1, source := 0x10, event := 0x02 }
  let d := { d with cpl := { d.cpl with widthAsked := none } }
  ((d.wf F.CPL_STATUS_STATE 0).wf F.CPL_STATUS_GROUPS 0).wf F.CPL_STATUS_WIDTH 0

/-- A LINK_CTL packet to the companion (R640, R654). -/
def Dev.sendLinkCtl (d : Dev) (sub groups seq : Nat) : Dev :=
  d.sendCpl { op := 0x4C, arg := sub + groups * 2 ^ 8, addr := seq % 4096 }

/-- A training step of the Companion Link ends (R640): after electrical training and lock this end sends its healthy groups; the
peer's come in a LINK_CTL packet. -/
def Dev.cplTrained (d : Dev) (groups : Nat) (ok : Bool) : Dev :=
  let l := d.linkOf 6
  if d.boot.dead || decide (2 ≤ d.rf F.CPL_STATUS_STATE) then d
  else if !ok || decide (groups % 16 = 0) then (d.setLink 6 { l with step := 0 }).wf F.CPL_STATUS_STATE 1
  else ((d.setLink 6 { l with step := 1, groupsOwn := groups % 16, groupsOut := 0 }).wf F.CPL_STATUS_STATE 1).sendLinkCtl 0 (groups % 16) 0

/-- Ask for a width change on the Companion Link (R640). -/
def Dev.cplAskWidth (d : Dev) : Dev :=
  let l := d.linkOf 6
  { d with cpl := { d.cpl with widthAsked := some l.groups } }.sendLinkCtl 1 l.groups l.txNext

/-- A lane of the Companion Link leaves service for retraining (R490, R638). -/
def Dev.cplLaneRetrain (d : Dev) (lane : Nat) : Dev :=
  let l := d.linkOf 6
  if 16 ≤ lane ∨ d.rf F.CPL_STATUS_STATE < 2 ∨ l.retraining.contains lane then d
  else
    let g := lane / 4
    let out := bitAt l.groupsOut g
    let l := { l with groupsOut := l.groupsOut ||| 2 ^ g, retraining := l.retraining ++ [lane], groupsBack := l.groupsBack &&& (15 ^^^ 2 ^ g) }
    let d := d.setLink 6 l
    let d := if out then d else d.postError { cls := 0, source := 0x10, event := 0x01, inst := g }
    if l.groups = 0 then d.cplDown else d.cplAskWidth

/-- A lane retraining of the Companion Link ends (R490, R638). -/
def Dev.cplLaneDone (d : Dev) (lane : Nat) (ok : Bool) : Dev :=
  let l := d.linkOf 6
  let zero : Nat → Nat := fun _ => 0
  if !l.retraining.contains lane then d
  else if ok then
    let l := { l with retraining := l.retraining.erase lane, laneFails := SMap.set zero l.laneFails lane 0 }
    let g := lane / 4
    let back := !l.retraining.any (fun x => decide (x / 4 = g)) && (List.range 4).all (fun i => decide (SMap.get zero l.laneFails (4 * g + i) < 3))
    d.setLink 6 (if back then { l with groupsBack := l.groupsBack ||| 2 ^ g } else l)
  else
    let n := SMap.get zero l.laneFails lane + 1
    d.setLink 6 { l with laneFails := SMap.set zero l.laneFails lane n, retraining := if 3 ≤ n then l.retraining.erase lane else l.retraining }

/-- Lane groups of the Companion Link return to service at a boundary (R640). -/
def Dev.cplGroupsReturn (d : Dev) : Dev :=
  let l := d.linkOf 6
  if l.groupsBack = 0 ∨ d.rf F.CPL_STATUS_STATE < 2 then d
  else (d.setLink 6 { l with groupsOut := l.groupsOut &&& (15 ^^^ (l.groupsBack % 16)), groupsBack := 0 }).cplAskWidth

/-- LINK_TRAINING_DONE (R497, R640): a training step of a port ends. Steps 1 to 3 end here: electrical training, lock and group
exchange (`groups` are the peer's healthy groups), and the delay exchanges; the identity and coordinate packets carry steps 4 and 5. A port that
fails a step returns to step 1. -/
def cmdLinkTrainingDone (port groups : Nat) (ok : Bool) (d : Dev) : Dev :=
  if port = 6 then d.cplTrained groups ok
  else if 6 ≤ port ∨ !d.rb (F.FAB_PORT_CTL_ENABLE port) ∨ bitAt d.tst.colDead port then d
  else
    let l := d.linkOf port
    if !ok then
      if 3 ≤ d.rf (F.FAB_PORT_STAT_STATE port) then d
      else (d.setLink port { l with step := 0, delays := [] }).wf (F.FAB_PORT_STAT_STATE port) 1
    else if l.step = 0 then (d.setLink port { l with step := 1 }).wf (F.FAB_PORT_STAT_STATE port) 1
    else if l.step = 1 then
      (d.setLink port { l with step := 2, groupsPeer := groups % 16, groupsOut := 0, delays := [] }).showWidth port
    else if l.step = 2 then
      if l.delays.length < 16 then d
      else
        let total := (l.delays.take 16).foldl (· + ·) (0 : Int)
        let d := (d.setLink port { l with step := 3, hopDelay := total / 32 }).showDelay port
        d.sendLink port 1 { kind := 0xE, len := 96, payload := d.identityBlock port }
    else d

/-- LANE_RETRAIN (R490): a lane's uncorrectable codewords reach UCW_LIMIT or it loses marker lock; its group leaves service
and the port narrows with a width-change packet that names the next flit (log entry 45). -/
def cmdLaneRetrain (port lane : Nat) (d : Dev) : Dev :=
  if port = 6 then d.cplLaneRetrain lane
  else if 6 ≤ port ∨ 32 ≤ lane ∨ !d.rb (F.FAB_PORT_CTL_RETRAIN_EN port) ∨ d.rf (F.FAB_PORT_STAT_STATE port) < 2 then d
  else
    let l := d.linkOf port
    if l.retraining.contains lane then d
    else
      let g := lane / 8
      let out := l.groupsOut ||| 2 ^ g
      let l := { l with groupsOut := out, retraining := l.retraining ++ [lane], groupsBack := l.groupsBack &&& (15 ^^^ 2 ^ g) }
      let d := (d.setLink port l).bump (F.FAB_PORT_STAT_RETRAINS port) 1
      let w := popcount 4 l.groups
      if w < d.rf (F.FAB_PORT_CTL_MIN_WIDTH port) + 1 then d.portDown port
      else
        let d := d.sendLink port 4 { kind := 0xE, aux := l.txNext, addr := l.groups }
        d.setLink port { d.linkOf port with widthAtTx := some (l.txNext, l.groups) } |>.showWidth port

/-- LANE_RETRAIN_DONE (R490): after success the group returns at the next boundary; after three failures in a row it stays out
until the port trains in full. -/
def cmdLaneRetrainDone (port lane : Nat) (ok : Bool) (d : Dev) : Dev :=
  let l := d.linkOf port
  if port = 6 then d.cplLaneDone lane ok
  else if 6 ≤ port ∨ !l.retraining.contains lane then d
  else
    let zero : Nat → Nat := fun _ => 0
    if ok then
      let l := { l with retraining := l.retraining.erase lane, laneFails := SMap.set zero l.laneFails lane 0 }
      let g := lane / 8
      let back := !l.retraining.any (fun x => decide (x / 8 = g)) && (List.range 8).all (fun i => decide (SMap.get zero l.laneFails (8 * g + i) < 3))
      d.setLink port (if back then { l with groupsBack := l.groupsBack ||| 2 ^ g } else l)
    else
      let n := SMap.get zero l.laneFails lane + 1
      d.setLink port { l with laneFails := SMap.set zero l.laneFails lane n,
                              retraining := if 3 ≤ n then l.retraining.erase lane else l.retraining }

/-- Groups that retrained return at a boundary by the same handshake (R490). -/
def Dev.groupsReturn (d : Dev) (port : Nat) : Dev :=
  let l := d.linkOf port
  if l.groupsBack = 0 then d
  else
    let l := { l with groupsOut := l.groupsOut &&& (15 ^^^ (l.groupsBack % 16)), groupsBack := 0 }
    let d := (d.setLink port l).sendLink port 4 { kind := 0xE, aux := l.txNext, addr := l.groups }
    d.setLink port { d.linkOf port with widthAtTx := some (l.txNext, l.groups) } |>.showWidth port

/-- DELAY_REQUEST (R532): a LINK packet of SUB 0 arrives at t2 and is answered at t3, in 1/16 ns. -/
def cmdDelayRequest (port t2 t3 : Nat) (p : Packet) (d : Dev) : Dev :=
  if 6 ≤ port ∨ p.kind ≠ 0xE ∨ p.sub ≠ 0 ∨ !d.linkUp port then d
  else (d.takePacket port p).sendLink port 2 { kind := 0xE, len := 16, tag := p.tag, payload := leBytes 8 t2 ++ leBytes 8 t3 }

/-- DELAY_RESPONSE (R532): the reply to the request of t1 arrives at t4; the hop delay is the mean of sixteen exchanges. -/
def cmdDelayResponse (port t1 t4 : Nat) (p : Packet) (d : Dev) : Dev :=
  if 6 ≤ port ∨ p.kind ≠ 0xE ∨ p.sub ≠ 2 ∨ !d.linkUp port then d
  else
    let d := d.takePacket port p
    let t2 := leNat (p.payload.take 8)
    let t3 := leNat ((p.payload.drop 8).take 8)
    let x : Int := ((t4 : Int) - (t1 : Int)) - ((t3 : Int) - (t2 : Int))
    let l := d.linkOf port
    let ds := (l.delays ++ [x]).take 16
    if l.step < 3 then d.setLink port { l with delays := ds }
    else if ds.length = 16 then (d.setLink port { l with delays := [], hopDelay := ds.foldl (· + ·) (0 : Int) / 32 }).showDelay port
    else d.setLink port { l with delays := ds }

/-- IDENTITY (R497, R498): the peer's block is stored, a corrected-class record is posted, the port is identified. -/
def cmdIdentity (port : Nat) (p : Packet) (d : Dev) : Dev :=
  if 6 ≤ port ∨ p.kind ≠ 0xE ∨ p.sub ≠ 1 ∨ (d.linkOf port).step < 3 then d
  else
    let d := d.takePacket port p
    let d := (List.range 12).foldl (fun d k =>
      d.setReg (Reg.FAB_PEER port k) (BitVec.ofNat 64 (leNat ((p.payload.drop (8 * k)).take 8)))) d
    let d := d.setLink port { d.linkOf port with step := 4 }
    let d := if d.rf (F.FAB_PORT_STAT_STATE port) < 2 then (d.wf (F.FAB_PORT_STAT_STATE port) 2).bump (F.FAB_PORT_STAT_LINKUPS port) 1 else d
    let d := d.postError { cls := 0, source := 0x08, event := 0x01, inst := port }
    d.announce port

/-- COORDINATE (R499, R500): the peer's announcement makes the port running or miswired. -/
def cmdCoordinate (port : Nat) (p : Packet) (d : Dev) : Dev :=
  if 6 ≤ port ∨ p.kind ≠ 0xE ∨ p.sub ≠ 3 ∨ d.rf (F.FAB_PORT_STAT_STATE port) < 2 then d
  else
    let d := d.takePacket port p
    (d.setLink port { d.linkOf port with peerNode := some (p.addr % 2 ^ 18) }).judgePeer port

/-- WIDTH_CHANGE (R490): the peer names the first flit at the new width. -/
def cmdWidthChange (port : Nat) (p : Packet) (d : Dev) : Dev :=
  if 6 ≤ port ∨ p.kind ≠ 0xE ∨ p.sub ≠ 4 ∨ d.rf (F.FAB_PORT_STAT_STATE port) < 2 then d
  else
    let d := d.takePacket port p
    let l := d.linkOf port
    let g := p.addr % 16
    let d := d.setLink port { l with groupsPeer := g ||| l.groupsOut, groupsOut := l.groupsOut, widthAtRx := some (p.aux % 4096, g) }
    if popcount 4 (d.linkOf port).groups < d.rf (F.FAB_PORT_CTL_MIN_WIDTH port) + 1 then d.portDown port else d.showWidth port

/-! ### Turn symbols (R22 to R31, R530, R531) -/

/-- Send the Turn symbol on every port whose link is up, the UPSTREAM port of a disciplined module left out (R22, R530). -/
def Dev.sendTurn (d : Dev) (number period : Nat) : Dev :=
  (List.range 6).foldl (fun d n =>
    let skip := !d.rb F.TRN_CTRL_MASTER && decide (d.rf F.TRN_CTRL_UPSTREAM = n + 1)
    if skip || decide ((d.linkOf n).step < 2) || !d.linkUp n then d
    else d.putOnPort n false { kind := 0xD, src := d.ownNode, aux := number, addr := period % 2 ^ 30 + (Config.freeNat 46 (d.fresh + n) % 2 ^ 16) * 2 ^ 32 }) d.tick

/-- The port from which a disciplined module takes the Turn (R21). -/
def Dev.upstream (d : Dev) : Option Nat :=
  let u := d.rf F.TRN_CTRL_UPSTREAM
  if d.rb F.TRN_CTRL_MASTER ∨ u = 0 ∨ u = 7 then none else some (u - 1)

/-- TURN_SYMBOL (R22 to R31, R530, R531): `arrival` is the arrival of the flit's first bit in 1/16 ns of the module timestamp;
`rpl` says that the flit was a replay. -/
def cmdTurnSymbol (port arrival : Nat) (rpl : Bool) (p : Packet) (d : Dev) : Dev :=
  if 6 ≤ port ∨ p.kind ≠ 0xD ∨ !d.linkUp port then d
  else
    let d := d.takePacket port p
    if d.upstream ≠ some port then d.bump F.TRN_STATUS_FOREIGN_SYMBOLS 1
    else if rpl then d
    else
      let up : Int := (arrival : Int) - (bitsAt p.addr 32 16 : Nat) - (d.linkOf port).hopDelay
      let past : Int := ((d.rf F.TRN_LAST_BOUNDARY_TIMESTAMP_NS * 16 : Nat) : Int)
      let next : Int := ((d.ctl.boundaryAt * 16 : Nat) : Int)
      let isPast := decide ((past - up).natAbs ≤ (next - up).natAbs)
      let err : Int := ((if isPast then past else next) - up) / 16
      let d := d.wf F.TRN_PHASE_ERR_ERR_NS (ofSigned 32 err)
      let d := if 250 < err.natAbs then d.wb F.TRN_STATUS_SKEW_ALARM true else d
      let d := d.wb F.TRN_STATUS_HOLDOVER false
      let due := if isPast then (p.aux + 1) % 2 ^ 32 else p.aux % 2 ^ 32
      { d with ctl := { d.ctl with due := some due, phaseLeft := err, sinceSymbol := 0,
                                   announced := (d.ctl.announced.filter (fun e => decide (e.1 ≠ (p.aux + 1) % 2 ^ 32))).take 7
                                     ++ [((p.aux + 1) % 2 ^ 32, p.addr % 2 ^ 30)] } }

/-- HOLDOVER (R30, R31): no symbol for two expected boundaries, or UPSTREAM is none: from the last boundary it kept on, the module
runs on its own period, and corrects no phase. -/
def cmdHoldover (d : Dev) : Dev :=
  let none' := d.rf F.TRN_CTRL_UPSTREAM = 0 ∨ d.rf F.TRN_CTRL_UPSTREAM = 7
  if d.rb F.TRN_CTRL_MASTER ∨ d.rb F.TRN_STATUS_HOLDOVER then d
  else if none' ∨ 2 ≤ d.ctl.sinceSymbol then
    let own := d.rf F.TRN_PERIOD_PERIOD_NS
    let next := d.rf F.TRN_LAST_BOUNDARY_TIMESTAMP_NS + own
    let d := { d with ctl := { d.ctl with boundaryAt := next, phaseLeft := 0 } }
    ((d.wf F.TRN_PERIOD_ACTIVE_NS own).wb F.TRN_STATUS_HOLDOVER true).postError { cls := 0, source := 0x01, event := 0x01 }
  else d

end Sys2Proof.Machine
end

