-- ==== Sys2Proof/Machine/Sluice.lean ====
section
/-!
DEFINITION. Machine/Sluice.lean: the Sluices: COPY, FILL, PREFETCH, FLUSH, INVAL, DEAD and their completion (R406 to R412).
An item's position is (plane, row, byte offset) for COPY and FILL, (0, 0, byte offset) for the range operations.
-/
namespace Sys2Proof.Machine

/-- The checks of R407 on a Sluice descriptor: true fails. -/
def sluiceCheckFails (d : Desc) : Bool :=
  let src := d.fld 2 20 3
  let dst := d.fld 2 23 3
  if d.opcode = 0x40 then decide (3 ≤ src) || !([0, 1, 2, 4].contains dst)
  else if d.opcode = 0x41 then !([0, 1, 2, 4].contains dst)
  else decide (dst ≠ 0)

/-- Sluices of a partition: SLC_ALLOC (R406). -/
def Dev.sluiceCount (d : Dev) : Nat := d.rf F.SLC_ALLOC_SLUICES

/-- The lowest-numbered free Sluice of the item's partition (R406); a no-op needs none. -/
def Dev.freeSluice (d : Dev) (it : Item) : Option Nat :=
  let n := d.sluiceCount
  let busy (u : Nat) : Bool := d.ctl.items.any (fun x =>
    decide (x.engine = .sluice) && decide (x.unit = u) && decide (x.place = .running ∨ x.place = .draining))
  let free := ((List.range n).map (· + it.part * n)).find? (fun u => !busy u)
  if d.atOnce it then some (free.getD (it.part * n)) else free

/-- Row stride and plane stride of the source or the destination in bytes (R407). -/
def rowStride (rowBytes rs : Nat) : Nat := if rs = 0 then rowBytes else rs
def planeStride (rows rowStr ps : Nat) : Nat := if ps = 0 then rows * rowStr else ps * 4096

/-- What a COPY or FILL row is: source and destination start and the bytes that move within both bounds (R408, R409, R411). -/
structure SluiceRow where
  src : Nat
  dst : Nat
  len : Nat
  clamped : Bool
deriving DecidableEq, Repr

/-- Row r of plane p of a descriptor. -/
def Dev.sluiceRow (d : Dev) (it : Item) (p r : Nat) : SluiceRow :=
  let c := it.desc
  let rb := c.fld 1 0 32
  let rows := c.fld 1 32 24
  let srs := rowStride rb (c.fld 5 0 32)
  let drs := rowStride rb (c.fld 5 32 32)
  let src := (c.fld 3 0 52 + p * planeStride rows srs (c.fld 6 0 32) + r * srs) % 2 ^ 52
  let dst := (c.fld 4 0 52 + p * planeStride rows drs (c.fld 6 32 32) + r * drs) % 2 ^ 52
  let ss := c.fld 2 20 3
  let ds := c.fld 2 23 3
  let n := if c.opcode = 0x41 then rb else min rb (d.spaceEnd ss src - src)
  let m := if ds = 4 then min n (d.slotBytes (streamIndex it.part (c.fld 4 0 4))) else min n (d.spaceEnd ds dst - dst)
  { src := src, dst := dst, len := m, clamped := decide (m < rb) }

/-- The item has nothing left to move. -/
def Item.sluiceDone (it : Item) : Bool :=
  let c := it.desc
  if c.opcode = 0x40 ∨ c.opcode = 0x41 then
    decide (c.fld 1 0 32 = 0) || decide (c.fld 1 32 24 = 0) || decide (c.fld 2 0 16 ≤ it.pos.1)
  else decide (min (c.fld 1 0 56) (2 ^ 52) ≤ it.pos.2.2)

/-- The position after a row. -/
def nextRow (c : Desc) (p r : Nat) : Nat × Nat × Nat := if r + 1 < c.fld 1 32 24 then (p, r + 1, 0) else (p + 1, 0, 0)

/-- Bytes of a FILL row from byte o (R408). -/
def fillBytes (pattern o n : Nat) : List MByte :=
  (List.range n).map (fun i => { b := BitVec.ofNat 8 (pattern / 2 ^ (8 * ((o + i) % 8)) % 256) })

/-- The bytes of the next access of a row from byte o: up to the end of the destination's line, so that a half the row covers is written
whole (R332, log entry 95), and of the source's page. -/
def sluicePiece (c : Desc) (row : SluiceRow) (o : Nat) : Nat :=
  min (row.len - o) (min (128 - (if c.fld 2 23 3 = 4 then o else row.dst + o) % 128)
    (if c.opcode = 0x41 then 128 else 65536 - (row.src + o) % 65536))

/-- The source and the destination of a COPY can share bytes: same space, and the extents from the first byte of each to the
last meet. -/
def Dev.sluiceOverlaps (d : Dev) (it : Item) : Bool :=
  let c := it.desc
  let (pl, rw) := (c.fld 2 0 16 - 1, c.fld 1 32 24 - 1)
  let a := d.sluiceRow it 0 0
  let z := d.sluiceRow it pl rw
  let n := c.fld 1 0 32
  decide (c.opcode = 0x40) && decide (c.fld 2 20 3 = c.fld 2 23 3) && decide (min a.src z.src < max a.dst z.dst + n)
    && decide (min a.dst z.dst < max a.src z.src + n)

/-- R410: a byte that the copy itself has overwritten may still read as it was before the copy. `aux` holds the addresses
the copy has written, `vals` what they held before. -/
def overlapBytes (fresh a : Nat) (it : Item) (bs : List MByte) : List MByte :=
  bs.zipIdx.map (fun e =>
    match (it.aux.zip it.vals).find? (fun x => x.1 = a + e.2) with
    | some (_, v) => if Config.overlapChoice (fresh + e.2) then { b := BitVec.ofNat 8 v, p := decide (256 ≤ v) } else e.1
    | none => e.1)

/-- Remember what the copy is about to overwrite, each address once. -/
def Item.remember (it : Item) (a : Nat) (old : List MByte) : Item :=
  let new := (old.zipIdx.filter (fun e => !it.aux.contains (a + e.2)))
  { it with aux := it.aux ++ new.map (fun e => a + e.2), vals := it.vals ++ new.map (fun e => e.1.b.toNat + 256 * b2n e.1.p) }

/-- The source of item x, an unfinished COPY of the same queue admitted before `it`, may hold some of the n bytes at address a of space ds
(R111); its extent runs from the first byte of the source to the last. -/
def Dev.copyReads (d : Dev) (it x : Item) (ds a n : Nat) : Bool :=
  let s := d.sluiceRow x 0 0
  let z := d.sluiceRow x (x.desc.fld 2 0 16 - 1) (x.desc.fld 1 32 24 - 1)
  decide (x.part = it.part) && decide (x.engine = .sluice) && decide (x.place ≠ .pool) && decide (x.desc.opcode = 0x40) && !x.sluiceDone
    && decide (x.desc.fld 2 20 3 = ds) && decide (min s.src z.src < a + n) && decide (a < max s.src z.src + x.desc.fld 1 0 32)

/-- Keep bytes as they are for the reads the item has still to make; what it keeps already is older and stays. -/
def Item.keep (it : Item) (a : Nat) (old : List MByte) : Item :=
  { it with kept := it.kept ++ old.zipIdx.map (fun e => (a + e.2, e.1.b.toNat + 256 * b2n e.1.p)) }

/-- What the item reads at address a where the space now holds bs: the bytes kept for it stand before what a later operation wrote. -/
def Item.before (it : Item) (a : Nat) (bs : List MByte) : List MByte :=
  bs.zipIdx.map (fun e => match it.kept.find? (fun x => x.1 = a + e.2) with
    | some (_, v) => { b := BitVec.ofNat 8 v, p := decide (256 ≤ v) }
    | none => e.1)

/-- R111: before `it` writes n bytes at address a of space ds, the earlier COPYs that may still read them keep them. The answer is false
where a line must come first. -/
def Dev.keepFor (d : Dev) (it : Item) (ds a n : Nat) : Dev × Bool :=
  let reads (e : Item × Nat) : Bool := decide (e.2 < (d.ctl.items.takeWhile (fun x => decide (x.id ≠ it.id))).length) && d.copyReads it e.1 ds a n
  if d.ctl.items.zipIdx.any reads then
    match d.sread it.part (.item it.id) ds a n 0 with
    | (d1, .wait) => (d1, false)
    | (_, .fault _) => (d, true)
    | (_, .ok ob) =>
      ({ d with ctl := { d.ctl with items := d.ctl.items.zipIdx.map (fun e => if reads e then e.1.keep a ob else e.1) } }, true)
  else (d, true)

/-- One line of a COPY or FILL, or the end of a row (R394, R406, R408 to R411). -/
def sluiceMove (d : Dev) (it : Item) : Dev × Item × Bool :=
  if it.sluiceDone then (d, it, false)
  else
    let c := it.desc
    let (p, r, o) := it.pos
    let row := d.sluiceRow it p r
    let ss := c.fld 2 20 3
    let ds := c.fld 2 23 3
    let sn := streamIndex it.part (c.fld 4 0 4)
    let who : Waiter := .item it.id
    if ds = 4 ∧ d.streamFull sn then (d, it, false)
    else if row.len ≤ o then
      -- the row ends
      let d := if ds = 4 then d.streamPush it.part sn row.len else d
      let d := if row.clamped then d.slcClamp 1 else d
      (d, { it with pos := nextRow c p r, clamped := it.clamped || row.clamped }, true)
    else
      let n := sluicePiece c row o
      let got := if c.opcode = 0x41 then (d, VRes.ok (fillBytes (c.word 3) o n))
        else d.sread it.part who ss (row.src + o) n (c.fld 2 16 2)
      match got with
      | (d, .wait) => (d, it, false)
      | (d, .fault f) =>
        let d := d.itemFault it f 6 it.unit
        (d, (d.item it.id).getD it, false)
      | (d, .ok bs0) =>
        let beyond := d.sluiceOverlaps it
        let bs1 := it.before (row.src + o) bs0
        let bs := if beyond then overlapBytes d.fresh (row.src + o) it bs1 else bs1
        let d := if beyond then { d with fresh := d.fresh + n } else d
        let it := it.sawPoison ss (row.src + o) bs
        let old := if beyond then (d.sread it.part who ds (row.dst + o) n 0).2 else .wait
        let it := match old with
          | .ok ob => it.remember (row.dst + o) ob
          | _ => it
        let (d, ready) := if ds = 4 then (d, true) else d.keepFor it ds (row.dst + o) n
        let put := if ds = 4 then (d.streamWrite it.part sn o bs, VRes.ok false)
          else if ready then d.swrite it.part who ds (row.dst + o) bs (c.fld 2 18 2) else (d, .wait)
        match put with
        | (d, .wait) => (d, it, false)
        | (d, .fault f) =>
          let d := d.itemFault it f 6 it.unit
          (d, (d.item it.id).getD it, false)
        | (d, .ok lost) =>
          let it := { it with pos := (p, r, o + n), prog := it.prog + n, poison := it.poison || lost || bs.any (·.p) }
          let d := ((d.sweep who).event 24 0x400 (some it.part) it.unit n).event 24 0x401 (some it.part) it.unit 1
          (d, it, true)

/-- Apply a range operation of a Spool to the line of va (R302, R333): none is no fault. -/
def Dev.rangeAt (d : Dev) (p : Nat) (op : RangeOp) (va hint : Nat) : Dev × Option FaultInfo :=
  match d.translate p va (if op = .dead then .dead else .read) with
  | (d, .line k _ _) => (d.rangeLine op k hint, none)
  | (d, .fault f) => (d, some f)
  | (d, _) => (d, none)

/-- One line of a range operation (R412). DEAD leaves partial lines unchanged (R302). -/
def sluiceRange (op : RangeOp) (d : Dev) (it : Item) : Dev × Item × Bool :=
  if it.sluiceDone then (d, it, false)
  else
    let c := it.desc
    let base := c.fld 4 0 52
    let len := min (c.fld 1 0 56) (2 ^ 52)
    let o := it.pos.2.2
    let va := base + o
    let stop := min len (d.spaceEnd 0 base - base)
    if stop ≤ o then
      -- past the bound: the rest is clamped
      (d.slcClamp 1, { it with pos := (0, 0, len), clamped := true }, true)
    else
      let n := min (128 - va % 128) (stop - o)
      let skip := decide (op = .dead) && decide (n < 128)
      match d.translate it.part va (if op = .dead then .dead else .read) with
      | (d, .fault f) =>
        let d := d.itemFault it f 6 it.unit
        (d, (d.item it.id).getD it, false)
      | (d, w) =>
        let d := match w with
          | .line k _ _ => if skip then d else d.rangeLine op k (c.fld 2 18 2)
          | _ => d
        -- a poisoned entry of the page table does not fault (R393)
        (d.event 24 0x401 (some it.part) it.unit 1,
          { it with pos := (0, 0, o + n), prog := it.prog + (if skip then 0 else n), poison := it.poison || w == .poison }, true)

/-- A Sluice works on an item for at most n lines. -/
def Dev.sluiceRun (d : Dev) (op id n : Nat) (f : Dev → Item → Dev × Item × Bool) : Dev :=
  match d.atWork id (fun it => it.desc.opcode = op) (fun it => d.freeSluice it) with
  | some it =>
    let d := d.setItem it
    let (d, it) := stepMany f n d it
    d.setItem it
  | none => d

/-- COPY (R408): the Sluice moves up to n lines. -/
def cmdCopy (item n : Nat) (d : Dev) : Dev := d.sluiceRun 0x40 item n sluiceMove

/-- FILL (R408). -/
def cmdFill (item n : Nat) (d : Dev) : Dev := d.sluiceRun 0x41 item n sluiceMove

/-- PREFETCH (R412, R333). -/
def cmdPrefetch (item n : Nat) (d : Dev) : Dev := d.sluiceRun 0x42 item n (sluiceRange .prefetch)

/-- FLUSH (R412, R333). -/
def cmdSluiceFlush (item n : Nat) (d : Dev) : Dev := d.sluiceRun 0x43 item n (sluiceRange .flush)

/-- INVAL (R412, R333). -/
def cmdSluiceInval (item n : Nat) (d : Dev) : Dev := d.sluiceRun 0x44 item n (sluiceRange .inval)

/-- DEAD (R412, R340). -/
def cmdSluiceDead (item n : Nat) (d : Dev) : Dev := d.sluiceRun 0x45 item n (sluiceRange .dead)

/-- A Sluice descriptor finishes and reports the bytes moved (R409, R452): all is moved and no window request of it is
outstanding. -/
def cmdSluiceCompletion (item : Nat) (d : Dev) : Dev :=
  match d.item item with
  | some it =>
    if it.engine = .sluice ∧ it.place = .running ∧ it.fault = none ∧ it.sluiceDone ∧ !d.winPending (.item item) then d.finishItem it else d
  | none => d

end Sys2Proof.Machine
end

