-- ==== Sys2Proof/Machine/Func.lean ====
section
/-!
DEFINITION. Machine/Func.lean: the function units (R200, R284). The manual gives each function an error limit, not its bits:
the result is the free value `Config.functionUnit` wherever it lies within the limit of the exact value, and the nearest
value otherwise (log entry 30). The exact value is evaluated in fixed point with 256 fraction bits.
-/
namespace Sys2Proof.Machine

/-- Fraction bits of the fixed-point evaluation. -/
def fxP : Nat := 256
/-- 1.0 in fixed point. -/
def fxOne : Int := (2 ^ fxP : Nat)
def fxMul (a b : Int) : Int := a * b / fxOne
def fxDiv (a b : Int) : Int := a * fxOne / b

/-- ln 2 × 2^256. -/
def fxLn2 : Int := 0xb17217f7d1cf79abc9e3b39803f2f6af40f343267298b62d8a0d175b8baafa2b
/-- 2 ÷ √π × 2^256. -/
def fxErfScale : Int := 0x120dd750429b6d11ae3a914fed7fd8688281341d7587cea2e7342b06199cc4161
/-- 2π × 2^400. -/
def fxTwoPi400 : Int := 0x6487ed5110b4611a62633145c06e0e68948127044533e63a0105df531d89cd9128a5043cc71a026ef7ca8cd9e69d218d98158

/-- A value as a multiple of 2^-256, rounded down; specials as 0. -/
def Num.fx : Num → Int
  | .fin s m e =>
    let k := e + fxP
    let v : Int := if 0 ≤ k then (m <<< k.toNat : Nat) else (m >>> (-k).toNat : Nat)
    if s then -v else v
  | _ => 0

/-- The value of a fixed-point number. -/
def ofFx (x : Int) : Num := Num.ofScaled x (-(fxP : Int))

/-- e^x for |x| ≤ 1, by Horner's scheme over k terms. -/
def fxExpSeries (x : Int) : Nat → Int → Int
  | 0, acc => acc
  | k + 1, acc => fxExpSeries x k (fxOne + fxMul x acc / ((k : Int) + 1))

/-- e^x as a value. -/
def fxExp (x : Int) : Num :=
  let n := x / fxLn2
  Num.ofScaled (fxExpSeries (x - n * fxLn2) 70 fxOne) (n - fxP)

/-- Σ s^(2k+1) ÷ (2k+1), doubled: ln((1+s)÷(1−s)). -/
def fxAtanhSeries (s2 : Int) : Nat → Int → Int
  | 0, acc => acc
  | k + 1, acc => fxAtanhSeries s2 k (fxOne / (2 * (k : Int) + 1) + fxMul s2 acc)

/-- ln of m × 2^e for m > 0, in fixed point. -/
def fxLn (m : Nat) (e : Int) : Int :=
  let l := Nat.log2 m
  let x : Int := ((m <<< fxP) >>> l : Nat)
  let s := fxDiv (x - fxOne) (x + fxOne)
  2 * fxMul s (fxAtanhSeries (fxMul s s) 90 0) + ((l : Int) + e) * fxLn2

/-- Σ (−1)^k x^(2k+1) ÷ (k! (2k+1)), from term t of index k on. -/
def fxErfSeries (x2 : Int) : Nat → Nat → Int → Int → Int
  | 0, _, _, acc => acc
  | n + 1, k, t, acc => fxErfSeries x2 n (k + 1) (-(fxMul t x2) / ((k : Int) + 1)) (acc + t / (2 * (k : Int) + 1))

/-- Σ (−1)^k x^(2k+j) ÷ (2k+j)!, from term t of power i on. -/
def fxTrigSeries (x2 : Int) : Nat → Int → Int → Int → Int
  | 0, _, _, acc => acc
  | n + 1, i, t, acc => fxTrigSeries x2 n (i + 2) (-(fxMul t x2) / ((i + 1) * (i + 2))) (acc + t)

/-- An angle reduced to [0, 2π), in fixed point. -/
def fxAngle (s : Bool) (m : Nat) (e : Int) : Int :=
  let k := e + 400
  let v : Int := if 0 ≤ k then (m <<< k.toNat : Nat) else (m >>> (-k).toNat : Nat)
  ((if s then -v else v) % fxTwoPi400) / (2 ^ 144 : Nat)

/-- The functions, by the Press opcodes of R198. -/
def fnRcp : Nat := 0x10
def fnSqrt : Nat := 0x11
def fnRsqrt : Nat := 0x12
def fnExp2 : Nat := 0x13
def fnLog2 : Nat := 0x14
def fnExp : Nat := 0x15
def fnLn : Nat := 0x16
def fnTanh : Nat := 0x17
def fnSigm : Nat := 0x18
def fnErf : Nat := 0x19
def fnSin : Nat := 0x1A
def fnCos : Nat := 0x1B

/-- 1 ÷ (m × 2^e) with a sticky last bit, enough for one correct rounding. -/
def recipNum (s : Bool) (m : Nat) (e : Int) : Num :=
  let k := 2 * Nat.log2 m + 140
  let q := 2 ^ k / m
  .fin s (2 * q + b2n (q * m != 2 ^ k)) (-(k : Int) - e - 1)

/-- 1 ÷ √(m × 2^e) with a sticky last bit. -/
def rsqrtNum (m : Nat) (e : Int) : Num :=
  let (m, e) := if e % 2 = 0 then (m, e) else (2 * m, e - 1)
  let k := Nat.log2 m + 140
  let x := 2 ^ (2 * k) / m
  let q := isqrtBits x (k + 2) 0
  .fin false (2 * q + b2n (q * q * m != 2 ^ (2 * k))) (-(k : Int) - e / 2 - 1)

/-- The special values of R200: none where the table gives an error limit. Arguments so large that the exact value
overflows or is nearer to its limit than 2^-256 are taken with them. -/
def fnSpecial (f : Nat) (a : Num) : Option Num :=
  match a with
  | .nan => some .nan
  | .inf s =>
    if f = fnRcp then some (.zero s)
    else if f = fnSqrt then some (if s then .nan else .inf false)
    else if f = fnRsqrt then some (if s then .nan else .zero false)
    else if f = fnExp2 ∨ f = fnExp then some (if s then .zero false else .inf false)
    else if f = fnLog2 ∨ f = fnLn then some (if s then .nan else .inf false)
    else if f = fnTanh ∨ f = fnErf then some (.fin s 1 0)
    else if f = fnSigm then some (if s then .zero false else .fin false 1 0)
    else some .nan
  | .zero s =>
    if f = fnRcp ∨ f = fnRsqrt then some (.inf s)
    else if f = fnSqrt then some (.zero s)
    else if f = fnLog2 ∨ f = fnLn then some (.inf true)
    else none
  | .fin s _ _ => if s ∧ (f = fnSqrt ∨ f = fnRsqrt ∨ f = fnLog2 ∨ f = fnLn) then some .nan else none

/-- The exact value of a function where R200 gives an error limit. -/
def fnExact (f : Nat) (a : Num) : Num :=
  let one : Num := .fin false 1 0
  match a with
  | .fin s m e =>
    let x := a.fx
    if f = fnRcp then recipNum s m e
    else if f = fnRsqrt then rsqrtNum m e
    else if f = fnExp2 ∨ f = fnExp then
      let y := if 9 ≤ ilog2 m e then (if s then -1000 else 1000) * fxOne else if f = fnExp2 then fxMul x fxLn2 else x
      fxExp y
    else if f = fnLn then ofFx (fxLn m e)
    else if f = fnLog2 then ofFx (fxDiv (fxLn m e) fxLn2)
    else if f = fnTanh then
      if 7 ≤ ilog2 m e then .fin s (2 ^ 200 - 1) (-200)
      else
        let y := (fxExp (2 * x)).fx
        ofFx (fxDiv (y - fxOne) (y + fxOne))
    else if f = fnSigm then
      if 7 ≤ ilog2 m e then (if s then .fin false 1 (-200) else .fin false (2 ^ 200 - 1) (-200))
      else ofFx (fxDiv fxOne (fxOne + (fxExp (-x)).fx))
    else if f = fnErf then
      if 3 ≤ ilog2 m e then .fin s (2 ^ 90 - 1) (-90)
      else ofFx (fxMul fxErfScale (fxErfSeries (fxMul x x) 340 0 x 0))
    else
      let r := fxAngle s m e
      let r2 := fxMul r r
      if f = fnSin then ofFx (fxTrigSeries r2 90 1 r 0) else ofFx (fxTrigSeries r2 90 0 fxOne 0)
  | _ => if f = fnExp2 ∨ f = fnExp ∨ f = fnCos then one else if f = fnSigm then .fin false 1 (-1) else .zero a.neg?

/-- The error limit of R200 in units of the last place; none where the limit is absolute, 2^−22. -/
def fnLimit (f : Nat) (a : Num) : Option Nat :=
  let nearOne : Bool := (Num.cmp a (.fin false 1 (-1)) != some .lt) && (Num.cmp a (.fin false 2 0) != some .gt)
  if f = fnSin ∨ f = fnCos then none
  else if (f = fnLog2 ∨ f = fnLn) ∧ nearOne = true then none
  else if f = fnExp ∨ f = fnLn ∨ f = fnTanh ∨ f = fnSigm then some 2
  else if f = fnErf then some 3
  else some 1

/-- The unit in the last place of FP32 for a value (R200). -/
def fp32Ulp : Num → Int
  | .fin _ m e => max (ilog2 m e - 23) (-149)
  | _ => -149

/-- `y` lies within the limit of the exact value `x`. -/
def fnWithin (f : Nat) (a x y : Num) : Bool :=
  let diff := (Num.add false y x.negate).abs
  let bound : Num := match fnLimit f a with
    | some k => .fin false (k * 2 ^ 30 + 1) (fp32Ulp x - 30)
    | none => .fin false (2 ^ 30 + 1) (-52)
  match Num.cmp diff bound with
  | some .gt => false
  | some _ => true
  | none => false

/-- A function of an FP32 operand (R200): SQRT is correctly rounded. -/
def fnBits (f a : Nat) : Nat :=
  let x := Fmt.fp32.decode a
  match fnSpecial f x with
  | some v => ieeeRound v .fp32 .rne
  | none =>
    if f = fnSqrt then ieeeRound x.sqrt .fp32 .rne
    else
      let v := fnExact f x
      let near := ieeeRound v .fp32 .rne
      let y := Config.functionUnit f a 0 % 2 ^ 32
      if near ≠ Fmt.fp32.infBits false ∧ near ≠ Fmt.fp32.infBits true ∧ fnWithin f x v (Fmt.fp32.decode y) then y else near

/-- MIN or MAX of R199: NaN when either is NaN, −0 below +0. -/
def fMinMax (f : Fmt) (isMax : Bool) (a b : Nat) : Nat :=
  match Num.cmp (f.decode a) (f.decode b) with
  | none => f.canonNan
  | some .lt => if isMax then b else a
  | some .gt => if isMax then a else b
  | some .eq =>
    let an := (f.decode a).neg?
    if isMax then (if an then b else a) else (if an then a else b)

/-- The largest integer not above a value (R198). -/
def Num.floor : Num → Num
  | .fin s m e => Num.mk' s (roundUnits .rdn 0 s m e 0) 0
  | x => x

/-- 1.0 of a format. -/
def Fmt.one (f : Fmt) : Nat := ieeeRound (.fin false 1 0) f .rne

/-- The arithmetic opcodes of R198 under R199, on bits of FP32 or FP64. -/
def fnAlu (f : Fmt) (op a b c : Nat) : Nat :=
  let x := f.decode a
  let y := f.decode b
  let z := f.decode c
  let r (v : Num) : Nat := ieeeRound v f .rne
  let flag (v : Bool) : Nat := if v then f.one else 0
  if op = 0x01 then r (Num.add false x y)
  else if op = 0x02 then r (Num.add false x y.negate)
  else if op = 0x03 then r (Num.mul x y)
  else if op = 0x04 then r (Num.add false (Num.mul x y) z)
  else if op = 0x05 then fMinMax f false a b
  else if op = 0x06 then fMinMax f true a b
  else if op = 0x07 then r x.abs
  else if op = 0x08 then r x.negate
  else if op = 0x09 then (match z with | .nan => b | .zero _ => b | _ => a)
  else if op = 0x0A then flag (Num.cmp x y == some .lt)
  else if op = 0x0B then flag (Num.cmp x y == some .lt || Num.cmp x y == some .eq)
  else if op = 0x0C then flag (Num.cmp x y == some .eq)
  else if op = 0x0D then r x.floor
  else a

/-- RNDU for the element of linear index i under a seed (R202). -/
def rnduBits (seed i : Nat) : Nat :=
  let q := i / 4
  let w := philox (q % 2 ^ 32, q / 2 ^ 32 % 2 ^ 32, 1, 0) (seed % 2 ^ 32, seed / 2 ^ 32 % 2 ^ 32)
  ieeeRound (Num.mk' false (pick4 w (i % 4) / 2 ^ 8) (-24)) .fp32 .rne

end Sys2Proof.Machine
end

