-- ==== Sys2Proof/Machine/SplAlu.lean ====
section
/-!
DEFINITION. Machine/SplAlu.lean: the arithmetic of the Spool instructions on one lane (R282 to R284): integer, floating-point,
paired 16-bit, conversion and function operations, scalar and predicate operations.
-/
namespace Sys2Proof.Machine

/-- Integer operations of opcodes 0x01 to 0x0F on w-bit operands (R283). -/
def intOp (op : Nat) (signed : Bool) (w x y z : Nat) : Nat :=
  let m := 2 ^ w
  let sx := toSigned w x
  let sy := toSigned w y
  let lt : Bool := if signed then decide (sx < sy) else decide (x < y)
  if op = 0x01 then (x + y) % m
  else if op = 0x02 then (x + m - y % m) % m
  else if op = 0x03 then x * y % m
  else if op = 0x04 then (if signed then ofSigned w (sx * sy / (m : Int)) else x * y / m)
  else if op = 0x05 then (x * y + z) % m
  else if op = 0x06 then (if lt then x else y)
  else if op = 0x07 then (if lt then y else x)
  else if op = 0x08 then x &&& y
  else if op = 0x09 then x ||| y
  else if op = 0x0A then x ^^^ y
  else if op = 0x0B then m - 1 - x
  else if op = 0x0C then x <<< (y % w) % m
  else if op = 0x0D then (if signed then ofSigned w (sx / (2 ^ (y % w) : Nat)) else x >>> (y % w))
  else if op = 0x0E then popcount w x
  else w - bitLen x

/-- The comparisons of isetp and ssetp: 0 eq, 1 ne, 2 lt, 3 le, 4 gt, 5 ge (R283). -/
def cmpInt (sub : Nat) (signed : Bool) (w x y : Nat) : Bool :=
  let lt : Bool := if signed then decide (toSigned w x < toSigned w y) else decide (x < y)
  let eq := decide (x = y)
  if sub = 0 then eq else if sub = 1 then !eq else if sub = 2 then lt else if sub = 3 then lt || eq
  else if sub = 4 then !(lt || eq) else !lt

/-- The comparisons of fsetp: with a NaN operand only ne and unordered hold (R283). -/
def cmpFp (sub : Nat) (o : Option Ordering) : Bool :=
  match o with
  | none => decide (sub = 1 ∨ sub = 6)
  | some r =>
    if sub = 0 then r == .eq else if sub = 1 then r != .eq else if sub = 2 then r == .lt else if sub = 3 then r != .gt
    else if sub = 4 then r == .gt else if sub = 5 then r != .lt else decide (sub = 7)

/-- The rounding mode of SKS.RMODE (R234). -/
def spoolMode (sks : Nat) : RMode := RMode.ofBits (bitsAt sks 0 2)

/-- Floating-point operations of opcodes 0x20 to 0x27 and 0x2A, in FP32 or FP64 (R84, R283). -/
def fpOp (op : Nat) (f : Fmt) (mode : RMode) (x y z : Nat) : Nat :=
  let rdn := decide (mode = RMode.rdn)
  let a := f.decode x
  let b := f.decode y
  let c := f.decode z
  if op = 0x20 then ieeeRound (Num.add rdn a b) f mode
  else if op = 0x21 then ieeeRound (Num.add rdn a b.negate) f mode
  else if op = 0x22 then ieeeRound (Num.mul a b) f mode
  else if op = 0x23 then ieeeRound (Num.add rdn (Num.mul a b) c) f mode
  else if op = 0x24 then fMinMax f false x y
  else if op = 0x25 then fMinMax f true x y
  else if op = 0x26 then x % 2 ^ (f.bits - 1)
  else if op = 0x27 then x ^^^ 2 ^ (f.bits - 1)
  else
    match a with
    | .fin s m e => ieeeRound (Num.mk' s (roundUnits mode 0 s m e 0) 0) f mode
    | v => ieeeRound v f mode

/-- Paired 16-bit operations: hfma 0x2B, hadd 0x2C, hmul 0x2D (R283). -/
def pairOp (op : Nat) (f : Fmt) (mode : RMode) (x y z : Nat) : Nat :=
  let rdn := decide (mode = RMode.rdn)
  let one (k : Nat) : Nat :=
    let a := f.decode (bitsAt x (16 * k) 16)
    let b := f.decode (bitsAt y (16 * k) 16)
    let c := f.decode (bitsAt z (16 * k) 16)
    ieeeRound (if op = 0x2B then Num.add rdn (Num.mul a b) c else if op = 0x2C then Num.add rdn a b else Num.mul a b) f mode
  one 0 + one 1 * 2 ^ 16

/-- The value of cvt's source (R282). -/
def cvtSource (code x : Nat) : Num :=
  if code = 0 then Num.ofInt (toSigned 32 x) else if code = 1 then Num.ofInt ((x % 2 ^ 32 : Nat) : Int)
  else if code = 2 then Num.ofInt (toSigned 64 x) else if code = 3 then Num.ofInt ((x % 2 ^ 64 : Nat) : Int)
  else if code = 4 then Fmt.fp32.decode x else if code = 5 then Fmt.fp64.decode x
  else if code = 6 then Fmt.bf16.decode (x % 2 ^ 16) else if code = 7 then Fmt.fp16.decode (x % 2 ^ 16)
  else if code = 8 then Fmt.fp8e4m3.decode (x % 2 ^ 8) else if code = 9 then Fmt.fp8e5m2.decode (x % 2 ^ 8)
  else Fmt.int8.decode (x % 2 ^ 8)

/-- A value as a u32, i64 or u64; none outside the range, where the manual states no result. -/
def cvtWideInt (code : Nat) (mode : RMode) (v : Num) : Option Nat :=
  let pack (x : Int) : Option Nat :=
    if code = 1 then (if 0 ≤ x ∧ x < (2 ^ 32 : Nat) then some x.toNat else none)
    else if code = 2 then (if -(2 ^ 63 : Nat) ≤ x ∧ x < (2 ^ 63 : Nat) then some (ofSigned 64 x) else none)
    else (if 0 ≤ x ∧ x < (2 ^ 64 : Nat) then some x.toNat else none)
  match v with
  | .fin s m e => if 70 < ilog2 m e then none else pack (signedOf s (roundUnits mode 0 s m e 0))
  | .zero _ => some 0
  | _ => none

/-- cvt (R282, R84): the result and the SAT and NAN it records. `free` is the value that stands for an unstated result. -/
def cvtOp (src dst : Nat) (mode : RMode) (x free : Nat) : Nat × Bool × Bool :=
  let v := cvtSource src x
  let r83 (f : Fmt) : Nat × Bool × Bool :=
    let c := convert v f mode false 0
    (c.bits, c.sat, c.nan)
  if dst = 0 then r83 .int32
  else if dst = 4 then (ieeeRound v .fp32 mode, false, false)
  else if dst = 5 then (ieeeRound v .fp64 mode, false, false)
  else if dst = 6 then (ieeeRound v .bf16 mode, false, false)
  else if dst = 7 then (ieeeRound v .fp16 mode, false, false)
  else if dst = 8 then r83 .fp8e4m3
  else if dst = 9 then r83 .fp8e5m2
  else if dst = 10 then r83 .int8
  else ((cvtWideInt dst mode v).getD (free % 2 ^ (if dst = 1 then 32 else 64)), false, false)

/-- The function of an X opcode, as the Press opcode of the same function (R284). -/
def xFunc (op : Nat) : Nat :=
  if op = 0x40 then fnRcp else if op = 0x41 then fnSqrt else if op = 0x42 then fnRsqrt else if op = 0x43 then fnExp2
  else if op = 0x44 then fnLog2 else if op = 0x45 then fnSin else fnCos

/-- X operations: FP32 as the Press, FP64 reciprocal and square root correctly rounded (R284). -/
def xOp (op : Nat) (wide : Bool) (mode : RMode) (x : Nat) : Nat :=
  if wide then
    let a := Fmt.fp64.decode x
    if op = 0x41 then ieeeRound a.sqrt .fp64 mode
    else ieeeRound (match a with
      | .nan => .nan
      | .zero s => .inf s
      | .inf s => .zero s
      | .fin s m e => recipNum s m e) .fp64 mode
  else fnBits (xFunc op) x

/-- Scalar operations 0x60 to 0x67 (R283). -/
def scalarOp (op : Nat) (signed : Bool) (x y : Nat) : Nat :=
  let m := 2 ^ 64
  if op = 0x60 then (x + y) % m
  else if op = 0x61 then (x + m - y % m) % m
  else if op = 0x62 then x * y % m
  else if op = 0x63 then x &&& y
  else if op = 0x64 then x ||| y
  else if op = 0x65 then x ^^^ y
  else if op = 0x66 then x <<< (y % 64) % m
  else (if signed then ofSigned 64 (toSigned 64 x / (2 ^ (y % 64) : Nat)) else x >>> (y % 64))

/-- Predicate operations 0x6C to 0x6F on one lane. -/
def predOp (op : Nat) (x y : Bool) : Bool :=
  if op = 0x6C then x && y else if op = 0x6D then x || y else if op = 0x6E then xor x y else !x

end Sys2Proof.Machine
end

