-- ==== Sys2Proof/Machine/StonesMath.lean ====
section
/-!
DEFINITION. Machine/StonesMath.lean: elements as bytes (R56 to R60), one pass of a column in the native, integer and Igoux
orders (R143 to R149, R162 to R164), the combination with a partial (R153 to R156, R165) and the wide partial form (R75).
-/
namespace Sys2Proof.Machine

/-! ### Elements in memory -/

/-- Bytes of n elements of w bits. -/
def rowBytes (w n : Nat) : Nat := (n * w + 7) / 8

/-- The first n elements of a row as codes, each with its poison mark (R56 to R58). -/
def unpackRow (f : Fmt) (n : Nat) (bs : List MByte) : List (Nat × Bool) :=
  let w := f.bits
  if w = 4 then
    (bs.flatMap (fun b => [(b.b.toNat % 16, b.p), (b.b.toNat / 16, b.p)])).take n
  else if w = 6 then
    ((chunks 3 n bs).flatMap (fun c =>
      let x := leNat (c.map (·.b))
      (List.range 4).map (fun k => (bitsAt x (6 * k) 6,
        ((c.drop (6 * k / 8)).take ((6 * k + 5) / 8 - 6 * k / 8 + 1)).any (·.p))))).take n
  else (chunks (w / 8) n bs).map (fun c => (leNat (c.map (·.b)), c.any (·.p)))

/-- Elements as the bytes of a row; positions of the last byte beyond them are +0 (R57, R58, R65). -/
def packRow (f : Fmt) (es : List (Nat × Bool)) : List MByte :=
  let w := f.bits
  if w = 4 then
    (chunks 2 es.length es).map (fun c => { b := BitVec.ofNat 8 (c.zipIdx.foldl (fun x e => x + (e.1.1 % 16) * 16 ^ e.2) 0), p := c.any (·.2) })
  else if w = 6 then
    ((chunks 4 es.length es).flatMap (fun c =>
      let x := c.zipIdx.foldl (fun x e => x + (e.1.1 % 64) * 64 ^ e.2) 0
      (List.range (rowBytes 6 c.length)).map (fun j =>
        { b := BitVec.ofNat 8 (x / 256 ^ j),
          p := c.zipIdx.any (fun e => e.1.2 && decide (6 * e.2 / 8 ≤ j) && decide (j ≤ (6 * e.2 + 5) / 8)) })))
  else es.flatMap (fun e => (leBytes (w / 8) e.1).map (fun b => { b := b, p := e.2 }))

/-- The value of an element under its scale byte, if its format has one (R61, R62). -/
def elemValue (f : Fmt) (code : Nat) (scale : Option Nat) : Num :=
  match scale with
  | some s => scaled (f.decode code) s
  | none => f.decode code

/-! ### One pass -/

/-- The exponent of a finite non-zero value (R143). -/
def exponent? : Num → Option Int
  | .fin _ m e => some (ilog2 m e)
  | _ => none

/-- The largest exponent among finite non-zero values (R144). -/
def maxExponent (xs : List Num) : Option Int :=
  xs.foldl (fun o x => match o, exponent? x with
    | none, r => r
    | some a, some b => some (max a b)
    | some a, none => some a) none

/-- floor(x ÷ 2^w) of a finite value (R147). -/
def cutTo (x : Num) (w : Int) : Int :=
  match x with
  | .fin s m e =>
    let v := signedOf s m
    if w ≤ e then v * (2 ^ (e - w).toNat : Nat) else v / (2 ^ (w - e).toNat : Nat)
  | _ => 0

/-- The flags that products set (R76). -/
def flagsOf (ps : List Num) : Bool × Bool × Bool :=
  (ps.any Num.isNan, ps.any (fun p => p = .inf false), ps.any (fun p => p = .inf true))

/-- A floating-point pass (R144 to R147): the anchor comes from every element of the vector and of the column. -/
def passNative (er eb : Option Int) (ps : List Num) : ColSum :=
  let (n, pi, ni) := flagsOf ps
  match er, eb with
  | some a, some b =>
    let w := a + b + 1 - 82
    { acc := ps.foldl (fun s p => s + cutTo p w) 0, anchor := w, nan := n, pinf := pi, ninf := ni }
  | _, _ => { nan := n, pinf := pi, ninf := ni }

/-- An integer pass: exact, W = 0 (R146). -/
def passInteger (ps : List Num) : ColSum := { acc := ps.foldl (fun s p => s + cutTo p 0) 0 }

/-- FP32 addition of the Igoux order: nearest even, an overflow gives the largest finite value and sets SAT (R163). -/
def igouxAdd (a b : Num × Bool) : Num × Bool :=
  let c := convert (Num.add false a.1 b.1) .fp32 .rne false 0
  (Fmt.fp32.decode c.bits, a.2 || b.2 || c.sat)

/-- One level of the balanced tree: adjacent pairs (R163). -/
def pairUp : List (Num × Bool) → List (Num × Bool)
  | a :: b :: xs => igouxAdd a b :: pairUp xs
  | xs => xs

/-- The tree sum of a group of 4, 8 or 16 (R163). -/
def treeSum : Nat → List (Num × Bool) → Num × Bool
  | 0, xs => xs.headD (.zero false, false)
  | n + 1, xs => treeSum n (pairUp xs)

/-- A pass in the Igoux order with groups of 2^lg (R162 to R164). -/
def passIgoux (lg : Nat) (ps : List Num) : ColSum :=
  let rounded := ps.map (fun p =>
    let c := convert p .fp32 .rne false 0
    (Fmt.fp32.decode c.bits, c.sat))
  let g := 2 ^ lg
  let pad := rounded ++ List.replicate ((g - rounded.length % g) % g) (.zero false, false)
  let ts := (chunks g pad.length pad).map (treeSum lg)
  let s := match ts with
    | [] => (Num.zero false, false)
    | t :: rest => rest.foldl igouxAdd t
  { s32 := some (convert s.1 .fp32 .rne false 0).bits, sat := s.2 }

/-- The sum of a column for a vector: order 0 native, 1 to 3 Igoux (R119, R166). A runner element that is masked is none
(R94, R316). -/
def columnSum (integer : Bool) (order : Nat) (xs : List (Option Elem)) (col : List (Option Elem)) : ColSum :=
  let pairs := (xs.zip col).filterMap (fun e => match e with
    | (some a, some b) => some (a, b)
    | _ => none)
  let ps := pairs.map (fun e => Num.mul e.1.v e.2.v)
  let s :=
    if integer then passInteger ps
    else if order = 0 then passNative (maxExponent (xs.filterMap (·.map (·.v)))) (maxExponent (col.filterMap (·.map (·.v)))) ps
    else passIgoux (order + 1) ps
  { s with p := xs.any (fun x => match x with | some e => e.p | none => false)
      || col.any (fun x => match x with | some e => e.p | none => false) }

/-! ### Partials -/

/-- The value of a column sum outside its SAT case (R77, R164). -/
def ColSum.num (c : ColSum) : Num :=
  match c.s32 with
  | some b => Fmt.fp32.decode b
  | none =>
    if c.nan || (c.pinf && c.ninf) then .nan
    else if c.pinf then .inf false
    else if c.ninf then .inf true
    else Num.ofScaled c.acc c.anchor

/-- The conversion of R77: SAT of a wide partial gives the largest finite value. -/
def ColSum.convert (c : ColSum) (f : Fmt) (mode : RMode) (ftz : Bool) (r : Nat) : Conv :=
  if c.s32.isNone && c.sat && !c.nan && !c.pinf && !c.ninf then { bits := f.maxBits (decide (c.acc < 0)), sat := true }
  else
    let x := Machine.convert c.num f mode ftz r
    if c.s32.isSome then { x with sat := x.sat || c.sat } else x

/-- The W128 bits of a column sum (R75, R171). -/
def ColSum.wide (c : ColSum) : Nat :=
  let c := match c.s32 with
    | some b =>
      match Fmt.fp32.decode b with
      | .fin s m e => { c with acc := signedOf s m, anchor := e }
      | .nan => { c with nan := true, acc := 0, anchor := 0 }
      | .inf s => { c with pinf := !s, ninf := s, acc := 0, anchor := 0 }
      | .zero _ => { c with acc := 0, anchor := 0 }
    | none => c
  ofSigned 96 c.acc + ofSigned 16 c.anchor * 2 ^ 96 + b2n c.sat * 2 ^ 112 + b2n c.nan * 2 ^ 113 + b2n c.pinf * 2 ^ 114
    + b2n c.ninf * 2 ^ 115

/-- The column sum of W128 bits (R75). -/
def ColSum.ofWide (x : Nat) (p : Bool) : ColSum :=
  { acc := toSigned 96 x, anchor := toSigned 16 (x >>> 96), sat := bitAt x 112, nan := bitAt x 113, pinf := bitAt x 114,
    ninf := bitAt x 115, p := p }

/-- 2^95. -/
def accLimit : Int := (2 ^ 95 : Nat)

/-- The W128 combination in integer mode (R155): the sum of the two values (R154) at anchor 0. -/
def combineInteger (a b : ColSum) : ColSum :=
  let g := min 0 (min a.anchor b.anchor)
  let s := (a.acc * (2 ^ (a.anchor - g).toNat : Nat) + b.acc * (2 ^ (b.anchor - g).toNat : Nat)) / (2 ^ (-g).toNat : Nat)
  let f : ColSum := { nan := a.nan || b.nan, pinf := a.pinf || b.pinf, ninf := a.ninf || b.ninf, sat := a.sat || b.sat, p := a.p || b.p }
  if accLimit ≤ s then { f with acc := accLimit - 1, sat := true }
  else if s < -accLimit then { f with acc := -accLimit, sat := true }
  else { f with acc := s }

/-- The W128 combination in floating point (R154, R156). -/
def combineWide (a b : ColSum) : ColSum :=
  let g := min a.anchor b.anchor
  let s := a.acc * (2 ^ (a.anchor - g).toNat : Nat) + b.acc * (2 ^ (b.anchor - g).toNat : Nat)
  let f : ColSum := { nan := a.nan || b.nan, pinf := a.pinf || b.pinf, ninf := a.ninf || b.ninf, sat := a.sat || b.sat, p := a.p || b.p }
  let k := bitLen (if 0 ≤ s then s.toNat else (-s - 1).toNat) - 95
  let w := g + k
  if 32767 < w then { f with acc := if 0 ≤ s then accLimit - 1 else -accLimit, anchor := 32767, sat := true }
  else { f with acc := s / (2 ^ k : Nat), anchor := w }

end Sys2Proof.Machine
end

