-- ==== Sys2Proof/Machine/StonesOp.lean ====
section
/-!
DEFINITION. Machine/StonesOp.lean: what a Stones descriptor says: its fields after clamping, its blocks, and the checks that
end in HEADER_CHECK (R89, R92, R93, R114, R117 to R126, R166, R180 to R183).
-/
namespace Sys2Proof.Machine

def stnM (c : Desc) : Nat := c.fld 1 0 32
def stnBedFmt (c : Desc) : Nat := c.fld 2 0 5
def stnRunFmt (c : Desc) : Nat := c.fld 2 5 5
def stnOutFmt (c : Desc) : Nat := c.fld 2 10 5
def stnEwFmt (c : Desc) : Nat := c.fld 2 15 5
def stnCvtc (c : Desc) : Nat := c.fld 2 20 8
def stnOrder (c : Desc) : Nat := c.fld 2 28 2
def stnBias (c : Desc) : Bool := c.fld 2 30 1 = 1
def stnEwOp (c : Desc) : Nat := c.fld 2 31 2
def stnBlocks (c : Desc) : Nat := min 16 (c.fld 2 33 5)
def stnAccum (c : Desc) : Bool := c.fld 2 42 1 = 1
def stnExt (c : Desc) : Nat := c.fld 6 0 52

/-- SLICES after R119: the count and whether it acts as another value. -/
def stnSlices (c : Desc) : Nat × Bool :=
  let s := c.fld 2 38 4
  if s = 0 then (7, false) else if s < 4 then (4, true) else if 8 < s then (8, true) else (s, false)

/-- The format of a code; a reserved code is never used after the checks. -/
def fmtOf (c : Nat) : Fmt := (Fmt.ofCode c).getD .fp32

/-- FP4 or MXFP4. -/
def isFp4 (c : Nat) : Bool := decide (c = 1 ∨ c = 7)
/-- A format of the one-product-per-cell class: FP4, FP6, FP8, their MX forms and MXINT8 (R89). -/
def isNarrow (c : Nat) : Bool := decide ((1 ≤ c ∧ c ≤ 5) ∨ (7 ≤ c ∧ c ≤ 12))
/-- BF16 or FP16. -/
def isHalf (c : Nat) : Bool := decide (c = 13 ∨ c = 14)
def isMxCode (c : Nat) : Bool := decide (7 ≤ c ∧ c ≤ 12)

/-- The pairing of bed and runner is one of R89. -/
def pairOk (bed run : Nat) : Bool :=
  (isNarrow bed && isNarrow run) || (decide (bed = 6) && decide (run = 6)) || (isHalf bed && isHalf run)
    || (decide (bed = 16) && decide (run = 16))

/-- Integer mode (R72). -/
def stnInteger (c : Desc) : Bool := decide (stnBedFmt c = 6)

/-- Cell rows H of partition p's sub-array (R112). -/
def Dev.stnRows (d : Dev) : Nat := if d.layout = 2 then 1024 else 2048

/-- The effective width of partition p's sub-array (R112, R113, R142). -/
def Dev.stnWidth (d : Dev) (p : Nat) : Nat :=
  match d.layout with
  | 0 => d.rf F.STN_WIDTH_FUSED
  | _ => if p % 2 = 0 then d.rf F.STN_WIDTH_HALF0 else d.rf F.STN_WIDTH_HALF1

/-- K indices per cell row, as the pass height in cell rows (R91, R92). -/
def Dev.passHeight (d : Dev) (bed run : Nat) : Nat :=
  if isFp4 bed && isFp4 run then 2 * d.stnRows else if isHalf bed then d.stnRows / 2 else d.stnRows

/-- The limit on N (R93, R114). -/
def Dev.widthLimit (d : Dev) (p bed : Nat) : Nat := if isHalf bed then d.stnWidth p / 2 else d.stnWidth p

/-- K and N after R8, R114 and R119, and whether either was clamped. -/
def Dev.stnKN (d : Dev) (p : Nat) (c : Desc) : Nat × Nat × Bool :=
  let h := d.passHeight (stnBedFmt c) (stnRunFmt c)
  let w := d.widthLimit p (stnBedFmt c)
  let k := c.fld 1 32 13
  let n := c.fld 1 45 12
  (if k = 8191 then h else min k h, if n = 4095 then w else min n w,
   (decide (k ≠ 8191) && decide (h < k)) || (decide (n ≠ 4095) && decide (w < n)))

/-- Word i of the extension block (R122): absent words are zero. -/
def extWord (ext : List Nat) (i : Nat) : Nat := ext.getD i 0
def extAddr (ext : List Nat) (i : Nat) : Nat := extWord ext i % 2 ^ 52

/-- The entries of the PACKED table among the words read with a descriptor (R124). -/
def packEntry (ext : List Nat) (b : Nat) : List Nat := (ext.drop (8 + 8 * b)).take 8

/-- The block a PACKED entry describes; MB above M is set to M (R124). -/
def packBlk (m : Nat) (e : List Nat) : StnBlk :=
  let w0 := e.getD 0 0
  { row0 := bitsAt w0 0 12, k := bitsAt w0 12 13, col0 := bitsAt w0 25 12, n := bitsAt w0 37 12,
    m := min m (bitsAt (e.getD 1 0) 0 32), bed := refOf (e.getD 2 0), run := refOf (e.getD 3 0), dest := refOf (e.getD 4 0),
    bedScale := e.getD 5 0 % 2 ^ 52, runScale := e.getD 6 0 % 2 ^ 52, outScale := e.getD 7 0 % 2 ^ 52 }

/-- The blocks of an operation: one for a MATMUL, the table's for a PACKED operation (R127). -/
def Dev.stnBlks (d : Dev) (p : Nat) (c : Desc) (ext : List Nat) : List StnBlk :=
  if c.opcode = 0x12 then (List.range (stnBlocks c)).map (fun b => packBlk (stnM c) (packEntry ext b))
  else
    let (k, n, _) := d.stnKN p c
    [{ row0 := 0, k := k, col0 := 0, n := n, m := stnM c, bed := refOf (c.word 3), run := refOf (c.word 4), dest := refOf (c.word 5),
       bedScale := extAddr ext 0, runScale := extAddr ext 1, outScale := extAddr ext 2 }]

/-- A field of the operation was clamped (R119, R114, R124). -/
def Dev.stnClamped (d : Dev) (p : Nat) (c : Desc) (ext : List Nat) : Bool :=
  if c.opcode = 0x12 then
    decide (16 < c.fld 2 33 5)
      || (List.range (stnBlocks c)).any (fun b => decide (stnM c < bitsAt ((packEntry ext b).getD 1 0) 0 32))
  else (d.stnKN p c).2.2

/-! ### SLICE64 workspace (R180 to R183) -/

def align16 (x : Nat) : Nat := (x + 15) / 16 * 16

/-- Offsets of the five regions from the workspace's base, and its end (R182). -/
def sliceRegions (s m k n : Nat) : Nat × Nat × Nat × Nat × Nat × Nat :=
  let r1 := align16 (s * k * n)
  let r2 := align16 (r1 + s * m * k)
  let r3 := align16 (r2 + 2 * n)
  let r4 := align16 (r3 + 2 * m)
  (0, r1, r2, r3, r4, r4 + 12 * m * n)

/-- The largest number of rows up to `m` for which the workspace fits in `room` bytes (R183). -/
def sliceRows (s k n room : Nat) : Nat → Nat
  | 0 => 0
  | m + 1 => if (sliceRegions s (m + 1) k n).2.2.2.2.2 ≤ room then m + 1 else sliceRows s k n room m

/-- M of a SLICE64 after R183. A row takes at least 12N + SK + 2 bytes, which bounds the search. -/
def Dev.sliceM (d : Dev) (p : Nat) (c : Desc) (ext : List Nat) : Nat :=
  let (k, n, _) := d.stnKN p c
  let s := (stnSlices c).1
  let room := d.spadSize - (refOf (extWord ext 4)).base
  sliceRows s k n room (min (stnM c) (room / (12 * n + s * k + 2) + 1))

/-! ### Checks (R123, R125, R166, R181) -/

/-- What a check of a descriptor finds. -/
inductive Check
  | pass
  /-- HEADER_CHECK -/
  | fail
  /-- a table or block the descriptor names reads as poison or cannot be read, at this virtual address -/
  | poison (a : Nat)
  /-- it is still being read -/
  | wait
deriving DecidableEq, Repr

/-- The cases of R123, R166 and R181 that the eight words alone decide. -/
def stnWordsFail (c : Desc) : Bool :=
  let op := c.opcode
  let b := stnBedFmt c
  let r := stnRunFmt c
  let o := stnOutFmt c
  let ewUsed := decide (stnEwOp c ≠ 0)
  (Fmt.ofCode b).isNone || (Fmt.ofCode r).isNone || (Fmt.ofCode o).isNone || (ewUsed && (Fmt.ofCode (stnEwFmt c)).isNone)
  || !pairOk b r
  || (if op = 0x13 then decide (b ≠ 16) || decide (r ≠ 16) else decide (b = 16) || decide (r = 16) || decide (o = 16) || (ewUsed && decide (stnEwFmt c = 16)))
  || (decide (o = 18) && (stnBias c || ewUsed))
  || (decide (op = 0x11) && decide (o ≠ 15) && decide (o ≠ 18))
  || (ewUsed && decide (stnEwFmt c = 18)) || decide (stnEwOp c = 3)
  || (!stnInteger c && decide (stnOrder c ≠ 0) && (decide (op = 0x13) || decide (o = 18)))
  || (decide (op = 0x12) && (stnBias c || ewUsed))
  || (decide (op = 0x13) && (decide (o ≠ 16) || stnBias c || ewUsed))
  || decide (stnExt c % 64 ≠ 0)
  || (decide (stnExt c = 0) && (decide (op = 0x12) || decide (op = 0x13) || stnBias c || ewUsed))

/-- The spaces of one block (R123): bed, runner, destination. -/
def spacesFail (acc : Bool) (bed run dest : Ref) : Bool :=
  decide (5 ≤ bed.space) || decide (5 ≤ run.space) || decide (5 ≤ dest.space) || decide (bed.space = 4) || decide (run.space = 3)
  || decide (dest.space = 1 ∨ dest.space = 3 ∨ dest.space = 4) || (acc && decide (dest.space ≠ 2))

/-- The scale addresses of one block (R123, R106). -/
def scalesFail (c : Desc) (b : StnBlk) : Bool :=
  (isMxCode (stnBedFmt c) && decide (b.bed.space ≠ 3) && decide (b.bedScale = 0))
  || (isMxCode (stnRunFmt c) && decide (b.runScale = 0)) || (isMxCode (stnOutFmt c) && decide (b.outScale = 0))

/-- Two ranges [a, a + n) overlap. -/
def overlap (a n b m : Nat) : Bool := decide (0 < n) && decide (0 < m) && decide (a < b + m) && decide (b < a + n)

/-- Some two of the list stand in the relation. -/
def anyPair {α : Type} (f : α → α → Bool) : List α → Bool
  | [] => false
  | x :: xs => xs.any (f x) || anyPair f xs

/-- The PACKED table breaks R125, or an entry a case of R123. -/
def Dev.packFail (d : Dev) (p : Nat) (c : Desc) (ext : List Nat) : Bool :=
  let h := d.passHeight (stnBedFmt c) (stnRunFmt c)
  let w := d.widthLimit p (stnBedFmt c)
  let kpr := if isFp4 (stnBedFmt c) && isFp4 (stnRunFmt c) then 2 else 1
  let bs := d.stnBlks p c ext
  bs.any (fun b => decide (h < b.row0 + b.k) || decide (w < b.col0 + b.n) || decide (b.row0 % kpr ≠ 0)
      || ((isMxCode (stnBedFmt c) || isMxCode (stnRunFmt c)) && decide (b.row0 % 32 ≠ 0))
      || (isMxCode (stnOutFmt c) && decide (b.col0 % 32 ≠ 0))
      || spacesFail false b.bed b.run b.dest || scalesFail c b)
  || anyPair (fun a b => overlap a.row0 a.k b.row0 b.k || overlap a.col0 a.n b.col0 b.n) bs
  || (bs.any (fun b => b.bed.space = 3) && bs.any (fun b => decide (b.bed.space ≠ 3)))

/-- The cases that need the extension block (R123, R181, R183). -/
def Dev.stnExtFail (d : Dev) (p : Nat) (c : Desc) (ext : List Nat) : Bool :=
  let e4 := extWord ext 4
  let e3 := extWord ext 3
  (if c.opcode = 0x12 then decide (extAddr ext 7 = 0) || decide (extAddr ext 7 % 64 ≠ 0)
   else (d.stnBlks p c ext).any (fun b => spacesFail (decide (c.opcode = 0x11)) b.bed b.run b.dest
      || (decide (c.opcode ≠ 0x13) && scalesFail c b)))
  || (decide (stnEwOp c ≠ 0) && (decide (e4 = 0) || decide ((refOf e4).space ≠ 2) || (isMxCode (stnEwFmt c) && decide (extAddr ext 5 = 0))))
  || (stnBias c && (decide (e3 = 0) || !([0, 2].contains (refOf e3).space)))
  || (decide (c.opcode = 0x13) && (decide (e4 = 0) || decide ((refOf e4).space ≠ 2)
      || (decide (0 < stnM c) && decide (0 < (d.stnKN p c).1) && decide (0 < (d.stnKN p c).2.1) && decide (d.sliceM p c ext = 0))))

/-- Words of memory read by a check: the bytes at a virtual address. -/
def Dev.checkRead (d : Dev) (p : Nat) (who : Waiter) (a n : Nat) : Dev × Check × List Nat :=
  match d.vread p who a n with
  | (d, .ok bs) =>
    match bs.findIdx? (·.p) with
    | some i => (d, .poison (a + i), [])
    | none => (d, .pass, (chunks 8 n bs).map (fun c => leNat (c.map (·.b))))
  | (d, .fault f) => (d, .poison f.va, [])
  | (d, .wait) => (d, .wait, [])

/-- Check a Stones descriptor when it is fetched or posted (R123, R249); the words of its extension block and PACKED table
come with it. -/
def Dev.stnCheck (d : Dev) (p : Nat) (who : Waiter) (c : Desc) : Dev × Check × List Nat :=
  if stnWordsFail c then (d, .fail, [])
  else
    let (d, r, ext) := if stnExt c = 0 then (d, Check.pass, []) else d.checkRead p who (stnExt c) 64
    match r with
    | .pass =>
      if d.stnExtFail p c ext then (d, .fail, [])
      else if c.opcode = 0x12 ∧ 0 < stnBlocks c then
        let (d, r, tab) := d.checkRead p who (extAddr ext 7) (64 * stnBlocks c)
        match r with
        | .pass => if d.packFail p c (ext ++ tab) then (d, .fail, []) else (d, .pass, ext ++ tab)
        | r => (d, r, [])
      else (d, .pass, ext)
    | r => (d, r, [])

end Sys2Proof.Machine
end

