-- ==== Sys2Proof/Machine/Spool.lean ====
section
/-!
DEFINITION. Machine/Spool.lean: what the Spool instructions share: registers of a skein, the effective mask, issue (R238,
R259), requests and their slots (R266, R267), the Spool cache (R261 to R263), precise faults and halting (R257, R260), barriers
(R253, R254).
A skein's key is 16 × Spool + slot.
-/
namespace Sys2Proof.Machine

def noSkein : Nat → Option Skein := fun _ => none
def Dev.skein (d : Dev) (k : Nat) : Option Skein := SMap.get noSkein d.spl.skeins k
def Dev.setSkein (d : Dev) (k : Nat) (o : Option Skein) : Dev :=
  { d with spl := { d.spl with skeins := SMap.set noSkein d.spl.skeins k o } }

/-- All 32 threads. -/
def allLanes : Nat := 2 ^ 32 - 1
/-- The lanes of a mask, ascending. -/
def lanesOf (m : Nat) : List Nat := (List.range 32).filter (fun l => bitAt m l)
/-- `a` without the bits of `b`. -/
def maskMinus (a b : Nat) : Nat := a &&& (a ^^^ b)

/-! ### Registers -/

def zeroNat : Nat → Nat := fun _ => 0

/-- Scalar register r: value and poison mark. -/
def Skein.sget (s : Skein) (r : Nat) : Nat × Bool :=
  let x := SMap.get zeroNat s.sreg r
  (x % 2 ^ 64, decide (2 ^ 64 ≤ x))
def Skein.sset (s : Skein) (r v : Nat) (p : Bool) : Skein := { s with sreg := SMap.set zeroNat s.sreg r (v % 2 ^ 64 + b2n p * 2 ^ 64) }

/-- Vector register r in a lane; a register numbered VREGS or above reads as zero (R233). -/
def Skein.vget (s : Skein) (r lane : Nat) : Nat × Bool :=
  if s.vregs ≤ r then (0, false)
  else
    let x := SMap.get zeroNat s.vreg (32 * r + lane)
    (x % 2 ^ 32, decide (2 ^ 32 ≤ x))
def Skein.vset (s : Skein) (r lane v : Nat) (p : Bool) : Skein :=
  if s.vregs ≤ r then s else { s with vreg := SMap.set zeroNat s.vreg (32 * r + lane) (v % 2 ^ 32 + b2n p * 2 ^ 32) }

/-- The value of `count` registers from r on, the low register first (R275). -/
def Skein.vval (s : Skein) (r lane : Nat) : Nat → Nat × Bool
  | 0 => (0, false)
  | n + 1 =>
    let (lo, p) := s.vget r lane
    let (hi, q) := s.vval (r + 1) lane n
    (lo + hi * 2 ^ 32, p || q)

/-- Write `count` registers from r on. -/
def Skein.setVal (s : Skein) (r lane : Nat) : Nat → Nat → Bool → Skein
  | 0, _, _ => s
  | n + 1, v, p => (s.vset r lane v p).setVal (r + 1) lane n (v / 2 ^ 32) p

/-- Predicate p: the lanes in which it holds, and its poisoned lanes; p0 is all ones (R231). -/
def Skein.pget (s : Skein) (p : Nat) : Nat × Nat :=
  if p = 0 then (allLanes, 0)
  else
    let x := SMap.get zeroNat s.preg p
    (x % 2 ^ 32, x / 2 ^ 32)

/-- Write a predicate in the lanes of a mask; writes to p0 are ignored. -/
def Skein.pset (s : Skein) (p mask v pz : Nat) : Skein :=
  if p = 0 then s
  else
    let (o, oz) := s.pget p
    let mix (old new : Nat) : Nat := maskMinus old mask + (new &&& mask)
    { s with preg := SMap.set zeroNat s.preg p (mix o v + mix oz pz * 2 ^ 32) }

/-- The lanes in which the guard or condition holds (R278). -/
def Skein.cond (s : Skein) (i : SIns) : Nat :=
  let m := (s.pget i.pg).1
  if i.pn then allLanes - m else m

/-- The effective mask (R278). -/
def Skein.eff (s : Skein) (i : SIns) : Nat := s.active &&& s.cond i

/-- The guard is poisoned in a lane: the result carries the mark (R258, log entry 33). -/
def Skein.guardPoison (s : Skein) (i : SIns) (lane : Nat) : Bool := bitAt (s.pget i.pg).2 lane

/-- Set a sticky bit of SKS. -/
def Skein.stick (s : Skein) (bit : Nat) (v : Bool) : Skein := if v then { s with sks := s.sks ||| 2 ^ bit } else s

/-! ### Registers an instruction names -/

/-- (vector registers, scalar registers) that an instruction reads or writes. -/
def SIns.regs (i : SIns) : List Nat × List Nat :=
  match opSpec i.op with
  | none => ([], [])
  | some s =>
    let span (n c : Nat) : List Nat := (List.range c).map (n + ·)
    let isV (k : RK) : Bool := decide (k = .v ∨ k = .w)
    let vs := (if isV s.d then span i.d (i.dRegs s) else []) ++ (if isV (i.aKind s) then span i.a (i.aRegs s) else [])
      ++ (if isV s.b then span i.b (i.bRegs s) else []) ++ (if isV s.c then span i.c (i.bRegs s) else [])
    let ss := (if s.d = .s then span i.d (i.dRegs s) else []) ++ (if s.a = .s then span (i.a % 32) (if i.op = 0x7B ∨ i.op = 0x7C then 8 else 1) else [])
      ++ (if s.b = .s then [i.b] else []) ++ (if s.fmt = .fm ∨ s.fmt = .fa then [i.sb] else [])
    (vs, ss)

/-- Registers a request will still write. -/
def SReq.dest (q : SReq) : List Nat × List Nat :=
  let span (n c : Nat) : List Nat := (List.range c).map (n + ·)
  match q.kind with
  | .ld | .atom => (span q.ins.d q.ins.dCount, [])
  | .lds => ([], span q.ins.d q.ins.dCount)
  | .pfs | .range _ => ([], [q.ins.d])
  | _ => ([], [])

/-- A register of the instruction has a result pending (R238). -/
def Skein.pending (s : Skein) (i : SIns) : Bool :=
  let (vs, ss) := i.regs
  s.reqs.any (fun q => q.dest.1.any (vs.contains ·) || q.dest.2.any (ss.contains ·))

/-! ### Events and samples -/

/-- Is the sampling buffer of a partition inside its region (R700)? -/
def Dev.inRegion (d : Dev) (p a n : Nat) : Bool := decide (a + n ≤ d.regionSize (.part p))

/-- One occurrence of a sampled event (R701). -/
def Dev.sampleTick (d : Dev) (k : Nat) (s : Skein) (ev daddr lane : Nat) (sp noReg : Bool) : Dev :=
  let p := s.part
  let per := d.rf (F.PMU_SAMP_CTL_PERIOD p)
  if !d.rb (F.PMU_SAMP_CTL_ENABLE p) ∨ d.rf (F.PMU_SAMP_CTL_EVENT p) ≠ ev ∨ ev / 256 ≠ 3 ∨ per = 0 then d
  else
    let c := SMap.get zeroNat d.pmu.countdown (k / 16)
    let left := (if c = 0 then per else c) - 1
    let it := d.item s.launch
    let x : Sample := { part := p, spool := k / 16, slot := k % 16, pc := s.pc, event := ev, daddr := daddr, sp := sp, lane := lane, noReg := noReg,
                        tag := (it.map (·.desc.tag)).getD 0, ring := (it.map (·.ring)).getD 0 }
    { d with pmu := { d.pmu with countdown := SMap.set zeroNat d.pmu.countdown (k / 16) left,
                                 samples := if left = 0 then d.pmu.samples ++ [x] else d.pmu.samples } }

/-- Occurrences of a class-3 event on a Spool (R688, R689, R701). -/
def Dev.splEvent (d : Dev) (k : Nat) (s : Skein) (ev n : Nat) (daddr : Nat := 0) (lane : Nat := 0) (sp : Bool := false)
    (noReg : Bool := decide (ev = 0x307 ∨ ev = 0x308)) : Dev :=
  (List.range n).foldl (fun d _ => d.sampleTick k s ev daddr lane sp noReg) (d.event (8 + k / 256) ev (some s.part) (k / 16 % 16) n)

/-! ### Halting (R257, R260) -/

/-- A launch halts with a status; the first halt decides. DETAIL names the skein, or the fault of a PAGE_FAULT (R452). -/
def Dev.haltLaunch (d : Dev) (id status detail : Nat) : Dev :=
  match d.item id with
  | some it => if it.early.isSome then d else d.setItem { it with early := some status, detail := detail }
  | none => d

/-- DETAIL for a halting skein. -/
def haltDetail (k : Nat) : Nat := k / 16 + (k % 16) * 256

/-- A precise fault: it is taken once every earlier request of the skein has completed (R257). -/
def Dev.precise (d : Dev) (k : Nat) (s : Skein) (status : Nat) : Option Dev :=
  if s.reqs.isEmpty then some ((d.haltLaunch s.launch status (haltDetail k)).splEvent k s 0x30A 1) else none

/-! ### Issue -/

/-- The skein may issue: its launch runs, it does not wait at a barrier or for a fetch (R253, R259, R269). -/
def Dev.mayIssue (d : Dev) (s : Skein) : Bool :=
  match d.item s.launch with
  | some it => decide (it.place = .running) && it.early.isNone && !s.atBar && s.fetchFault.isNone
  | none => false

def skeinWaiter (k req : Nat) : Waiter := .skein (k / 16) (k % 16) req
/-- The request number that stands for an instruction fetch. -/
def fetchReq : Nat := 2 ^ 32

/-- What the fetch of a skein's next instruction finds. -/
inductive Fetch
  | word (w : Nat)
  | poison
  | wait
deriving DecidableEq, Repr

/-- Fetch the word at the program counter; a translation fault stops the skein before the instruction (R403). -/
def Dev.fetchIns (d : Dev) (k : Nat) (s : Skein) : Dev × Fetch :=
  match d.vread s.part (skeinWaiter k fetchReq) s.pc 8 0 .fetch with
  | (d, .ok bs) => (d.sweep (skeinWaiter k fetchReq), if bs.any (·.p) then .poison else .word (leNat (bs.map (·.b))))
  | (d, .wait) => (d, .wait)
  | (d, .fault f) =>
    let it := d.item s.launch
    let (d, key) := d.raiseFault f s.part 5 (k / 16) ((it.map (·.desc.tag)).getD 0) ((it.map (·.ring)).getD 0) s.pc (k % 16) 0 (skeinWaiter k fetchReq)
    (d.setSkein k (some { s with fetchFault := some key }), .wait)

/-- The skein goes on at the next instruction. -/
def Skein.next (s : Skein) : Skein := { s with pc := (s.pc + 8) % 2 ^ 52 }

/-- A signed field. -/
def offInt (w x : Nat) : Int := toSigned w x

/-- s[SB] + v + OFF modulo 2^64; with SP = 0 only bits [51:0] count (R279). -/
def SIns.address (i : SIns) (base v : Nat) : Nat :=
  let w := if (opSpec i.op).map (fun (s : OpSpec) => s.fmt) = some .fa then 9 else 21
  let a := (((base + v : Nat) : Int) + offInt w i.off) % (2 ^ 64 : Nat)
  if i.sp then a.toNat else a.toNat % 2 ^ 52

/-- The address of a lane and whether what forms it is poisoned (R257, R279). -/
def Skein.laneAddr (s : Skein) (i : SIns) (lane : Nat) : Nat × Bool :=
  let (b, bp) := s.sget i.sb
  let (v, vp) := if i.amode = 0 then (0, false) else s.vval i.a lane (if i.amode = 2 then 2 else 1)
  (i.address b (if i.amode = 3 then v * 2 ^ i.size else v), bp || vp)

/-- The instruction has no address and writes no register: its latency is 0 (R703). -/
def SIns.noDest (i : SIns) : Bool :=
  match opSpec i.op with
  | some x => decide (x.d = .none) && decide (x.fmt ≠ .fm) && decide (x.fmt ≠ .fa)
  | none => true

/-- The address, lane and space that a sample of an instruction shows: those of its lowest effective lane, or the base of its range
(R703). -/
def Skein.sampleAt (s : Skein) (i : SIns) : Nat × Nat × Bool :=
  let fmt := (opSpec i.op).map (fun (x : OpSpec) => x.fmt)
  let lane := ((List.range 32).find? (fun l => bitAt (s.eff i) l)).getD 0
  if fmt = some .fm ∨ fmt = some .fa then
    if 0x57 ≤ i.op ∧ i.op ≤ 0x5C then (i.address (s.sget i.sb).1 0, lane, i.sp) else ((s.laneAddr i lane).1, lane, i.sp)
  else (0, lane, false)

/-- Count an instruction that has issued. -/
def Dev.counted (d : Dev) (k : Nat) (s : Skein) (i : Option SIns) : Dev :=
  let d := match i with
    | some i =>
      let (a, l, sp) := s.sampleAt i
      d.splEvent k s 0x300 1 a l sp (i.noDest)
    | none => d.splEvent k s 0x300 1 0 0 false true
  let d := { d with spl := { d.spl with clock := d.spl.clock + 1 } }
  match d.skein k with
  | some t => d.setSkein k (some { t with lastIssue := d.spl.clock })
  | none => d

/-- Issue the instruction at the skein's program counter if its opcode is `op`; `run` carries it out, none while it stalls
(R238). A poisoned instruction word is a precise fault POISON (log entry 34). -/
def Dev.issue (d : Dev) (k op : Nat) (run : Dev → Skein → SIns → Option Dev) : Dev :=
  match d.skein k with
  | none => d
  | some s =>
    if !d.mayIssue s then d
    else
      match d.fetchIns k s with
      | (d', .wait) => d'
      | (d', .poison) => (d'.precise k s 0x11).getD d
      | (d', .word w) =>
        match decodeSpool w with
        | some i =>
          if i.op ≠ op ∨ s.pending i then d
          else
            match run d' s i with
            | some d'' => d''.counted k s (some i)
            | none => d
        | none => d

/-- Registers numbered VREGS or above that an instruction names (R233). -/
def Skein.beyond (s : Skein) (i : SIns) : Nat := (i.regs.1.filter (fun r => decide (s.vregs ≤ r))).length

/-- Put back a skein that has executed an instruction, at the next instruction, with the notes of R233. -/
def Dev.retire (d : Dev) (k : Nat) (s : Skein) (i : SIns) : Dev :=
  let n := s.beyond i
  ((d.bump F.SPL_EVENTS_VREG_RANGE n).setSkein k (some (s.stick 11 (decide (0 < n))).next))

/-- An instruction of class I, F, X, M or S with an empty effective mask has no effect (R244, R278). -/
def Dev.skip (d : Dev) (k : Nat) (s : Skein) : Dev := d.setSkein k (some s.next)

/-- Set SKS.ILLEGAL and count it (R235, R243). -/
def Dev.illegal (d : Dev) (k : Nat) (s : Skein) : Dev :=
  (d.bump F.SPL_EVENTS_ILLEGAL 1).setSkein k (some (s.stick 10 true).next)

/-- Write D in every effective lane with what `f` computes for the lane. -/
def Skein.mapLanes (s : Skein) (i : SIns) (count : Nat) (f : Nat → Nat × Bool) : Skein :=
  (lanesOf (s.eff i)).foldl (fun t l =>
    let (v, p) := f l
    t.setVal i.d l count v (p || s.guardPoison i l)) s

/-- Run a lane-wise instruction. -/
def runLanes (k : Nat) (count : SIns → Nat) (f : Skein → SIns → Nat → Nat × Bool) (d : Dev) (s : Skein) (i : SIns) : Option Dev :=
  if s.eff i = 0 then some (d.skip k s) else some (d.retire k (s.mapLanes i (count i) (f s i)) i)

/-- Run an instruction that sets predicate D in its effective lanes. -/
def runPred (k : Nat) (f : Skein → SIns → Nat → Bool × Bool) (d : Dev) (s : Skein) (i : SIns) : Option Dev :=
  let m := s.eff i
  if m = 0 then some (d.skip k s)
  else
    let rs := (lanesOf m).map (fun l => (l, f s i l))
    let v := (rs.filter (·.2.1)).foldl (fun x r => x + 2 ^ r.1) 0
    let z := (rs.filter (fun r => r.2.2 || s.guardPoison i r.1)).foldl (fun x r => x + 2 ^ r.1) 0
    some (d.retire k (s.pset i.d m v z) i)

/-! ### The Spool cache (R261 to R263) -/

def noSc : Nat → Option ScLine := fun _ => none
def scKey (spool line : Nat) : Nat := spool * 2 ^ 45 + line
def Dev.scLine (d : Dev) (spool line : Nat) : Option ScLine := SMap.get noSc d.spl.cache (scKey spool line)
def Dev.setSc (d : Dev) (spool line : Nat) (l : Option ScLine) : Dev :=
  { d with spl := { d.spl with cache := SMap.set noSc d.spl.cache (scKey spool line) l } }

/-- The ways of a line's set on a Spool: 128 sets. -/
def Dev.scWays (d : Dev) (spool line : Nat) : List (Nat × ScLine) :=
  d.spl.cache.filterMap (fun e =>
    if e.1 / 2 ^ 45 = spool ∧ e.1 % 128 = line % 128 then e.2.map (fun l => (e.1 % 2 ^ 45, l)) else none)

/-- Fill a line: a full set of 8 ways gives up the least recently used; evict-first fills as the least recently used
(R261, R300). -/
def Dev.scFill (d : Dev) (spool line hint : Nat) (bytes : List MByte) : Dev :=
  let ways := (d.scWays spool line).filter (fun w => w.1 ≠ line)
  let d := if ways.length < 8 then d
    else match ways.foldl (fun (o : Option (Nat × ScLine)) w => match o with
        | none => some w
        | some x => if w.2.age < x.2.age then some w else o) none with
      | some (l, _) => d.setSc spool l none
      | none => d
  let d := d.setSc spool line (some { bytes := bytes, age := if hint = 2 then 0 else d.spl.clock })
  { d with spl := { d.spl with clock := d.spl.clock + 1 } }

/-- A load hits: the line becomes the most recently used. -/
def Dev.scTouch (d : Dev) (spool line hint : Nat) (l : ScLine) : Dev :=
  let d := d.setSc spool line (some { l with age := if hint = 2 then 0 else d.spl.clock })
  { d with spl := { d.spl with clock := d.spl.clock + 1 } }

/-- A store updates the copy it hits (R261). -/
def Dev.scStore (d : Dev) (spool : Nat) (bs : List (Nat × MByte)) : Dev :=
  bs.foldl (fun d (e : Nat × MByte) =>
    match d.scLine spool (e.1 / 128) with
    | some l => d.setSc spool (e.1 / 128) (some { l with bytes := l.bytes.set (e.1 % 128) e.2 })
    | none => d) d

/-- Drop one line. -/
def Dev.scDrop (d : Dev) (spool line : Nat) : Dev := d.setSc spool line none

/-- Drop every line of a Spool (R263). -/
def Dev.scClear (d : Dev) (spool : Nat) : Dev :=
  { d with spl := { d.spl with cache := SMap.clearIf (fun k => k / 2 ^ 45 = spool) d.spl.cache } }

/-- The acquire of an instruction at a scope: at partition scope and above the Spool cache is invalidated (R263, R296). -/
def Dev.acquire (d : Dev) (spool scope : Nat) : Dev := if 2 ≤ scope then d.scClear spool else d

/-! ### Requests and slots (R266, R267) -/

/-- Slots a request holds. -/
def SReq.slots (q : SReq) : Nat :=
  match q.kind with
  | .range _ => 1
  | _ => q.parts.length

def Skein.slotsHeld (s : Skein) : Nat := (s.reqs.map SReq.slots).sum

/-- The resident skeins of a Spool with their slots. -/
def Dev.resident (d : Dev) (spool : Nat) : List (Nat × Skein) :=
  (List.range 16).filterMap (fun t => (d.skein (16 * spool + t)).map (fun s => (t, s)))

/-- Slots in use on a Spool. -/
def Dev.slotsUsed (d : Dev) (spool : Nat) : Nat := ((d.resident spool).map (fun e => e.2.slotsHeld)).sum

/-- A memory instruction may take n slots: 64 in all, at most 48 a skein; an instruction that needs more than 48 takes them
when its skein holds none (R267, log entry 35). -/
def Dev.slotsFree (d : Dev) (k : Nat) (s : Skein) (n : Nat) : Bool :=
  decide (d.slotsUsed (k / 16) + n ≤ 64) && (decide (s.slotsHeld + n ≤ 48) || decide (s.slotsHeld = 0))

/-- An acquire is outstanding: no later class M instruction issues (R293, R299). -/
def Skein.acquiring (s : Skein) : Bool := s.reqs.any (fun q => decide (q.ins.ord % 2 = 1))

/-- A request that stores: its accesses must be performed before a release. -/
def SReq.isStore (q : SReq) : Bool :=
  match q.kind with
  | .st | .sts | .red | .atom => true
  | _ => false

/-- The lines of a request lie in a neighbour window (R387). -/
def SReq.windowOnly (q : SReq) : Bool := !q.ins.sp && q.parts.all (fun x => decide (0xFF80000000000 / 128 ≤ x.line))

/-- The release part at a scope may pass (R294 to R296): earlier loads have returned; at partition and device scope earlier
stores are performed, at fabric scope window stores are acknowledged too. -/
def Skein.released (s : Skein) (scope : Nat) : Bool :=
  s.reqs.all (fun q =>
    match q.kind with
    | .ld | .lds | .atom | .pfs | .range _ => false
    | .st | .sts | .red => decide (scope < 2) || (decide (scope < 4) && q.windowOnly))

/-- A class M instruction may issue: no acquire is outstanding, and its own release part may pass. -/
def Skein.memReady (s : Skein) (i : SIns) : Bool := !s.acquiring && (decide (i.ord < 2) || s.released i.scope)

/-- Bytes of an access. -/
def SIns.bytes (i : SIns) : Nat := 2 ^ i.size

/-- The byte addresses of an access: they wrap at 2^52 in the virtual space. -/
def SIns.span (i : SIns) (a : Nat) : List Nat :=
  (List.range i.bytes).map (fun j => if i.sp then a + j else (a + j) % 2 ^ 52)

/-- Line or bank word of a byte. -/
def SIns.lineOf (i : SIns) (a : Nat) : Nat := if i.sp then a / 64 else a / 128

/-- A lane's scratchpad offset lies at or beyond the end (R279). -/
def Dev.spadOut (d : Dev) (i : SIns) (a : Nat) : Bool := i.sp && decide (d.spadSize ≤ a)

/-- Distinct lines of a list of bytes, in order. -/
def linesTouched (i : SIns) (as : List Nat) : List Nat := (as.map i.lineOf).eraseDups

/-- Two requests of a skein touch the same byte from the same thread: they are performed in program order (R264). A scalar
access belongs to every thread. -/
def SReq.conflicts (a b : SReq) : Bool :=
  let scalar (q : SReq) : Bool := match q.kind with
    | .lds | .sts => true
    | _ => false
  decide (a.ins.sp = b.ins.sp) && a.lanes.any (fun x => b.lanes.any (fun y =>
    (decide (x.1 = y.1) || scalar a || scalar b) && (a.ins.span x.2).any (fun z => (b.ins.span y.2).contains z)))

/-- Everything earlier that must be performed before request q is. -/
def Skein.earlierDone (s : Skein) (q : SReq) : Bool :=
  (s.reqs.takeWhile (fun r => decide (r.id ≠ q.id))).all (fun r =>
    match r.kind, q.kind with
    | .range _, .range _ => true
    | .range _, _ => true
    | _, .range op => decide (op = 0) || !r.isStore || r.ins.sp
        || r.lanes.all (fun x => decide (x.2 + r.ins.bytes ≤ q.next / 128 * 128) || decide (q.stop ≤ x.2 / 128 * 128))
    | _, .pfs => true
    | .pfs, _ => true
    | _, _ => !r.conflicts q)

/-- Add a request. -/
def Skein.addReq (s : Skein) (q : SReq) : Skein := { s with reqs := s.reqs ++ [{ q with id := s.nextReq }], nextReq := s.nextReq + 1 }
def Skein.setReq (s : Skein) (q : SReq) : Skein := { s with reqs := s.reqs.map (fun r => if r.id = q.id then q else r) }
def Skein.dropReq (s : Skein) (id : Nat) : Skein := { s with reqs := s.reqs.filter (fun r => decide (r.id ≠ id)) }

/-! ### Barriers (R253 to R255) -/

/-- The resident skeins with their keys. -/
def Dev.skeinList (d : Dev) : List (Nat × Skein) := d.spl.skeins.filterMap (fun e => (d.skein e.1).map (fun s => (e.1, s)))

/-- The resident skeins of a bundle with their keys. -/
def Dev.skeinsOf (d : Dev) (launch bundle : Nat) : List (Nat × Skein) :=
  d.skeinList.filter (fun e => decide (e.2.launch = launch) && decide (e.2.bundle = bundle))

def Dev.setBundle (d : Dev) (b : Bundle) : Dev :=
  { d with spl := { d.spl with bundles := d.spl.bundles.map (fun x => if x.launch = b.launch ∧ x.ordinal = b.ordinal then b else x) } }
def Dev.bundle (d : Dev) (launch ordinal : Nat) : Option Bundle :=
  d.spl.bundles.find? (fun x => decide (x.launch = launch) && decide (x.ordinal = ordinal))

/-- When every thread of the bundle has arrived or ended, every waiting skein resumes (R254). -/
def Dev.tryBarrier (d : Dev) (k : Nat) (launch bundle : Nat) : Dev :=
  match d.bundle launch bundle with
  | some b =>
    let ss := d.skeinsOf launch bundle
    if b.barTurns.isSome && ss.all (fun e => (e.2.arrived ||| e.2.ended) = allLanes) then
      let d := ss.foldl (fun d e => d.setSkein e.1 (some { e.2 with atBar := false, arrived := 0 })) d
      let d := match ss.head? with
        | some e => d.splEvent k e.2 0x308 1
        | none => d
      d.setBundle { b with barTurns := none }
    else d
  | none => d

/-! ### The end of a skein (R232, R245) -/

/-- A skein whose 32 threads have ended leaves; its SAT and NAN go to the launch; a bundle without skeins has ended. -/
def Dev.endSkein (d : Dev) (k : Nat) (s : Skein) : Dev :=
  let d := d.setSkein k none
  let bundleEnds : Bool := (d.skeinsOf s.launch s.bundle).isEmpty
  let d := match d.item s.launch with
    | some it => d.setItem { it with sat := it.sat || bitAt s.sks 8, nan := it.nan || bitAt s.sks 9,
                                     prog := it.prog + b2n bundleEnds }
    | none => d
  if bundleEnds then
    { d with spl := { d.spl with bundles := d.spl.bundles.filter (fun b => !(decide (b.launch = s.launch) && decide (b.ordinal = s.bundle))) } }
  else d.tryBarrier k s.launch s.bundle

end Sys2Proof.Machine
end

