-- ==== Sys2Proof/Machine/SpoolAlu.lean ====
section
/-!
DEFINITION. Machine/SpoolAlu.lean: the Spool instructions of classes I, F, X and S (R283 to R285): each issues on the skein with
key `k` = 16 × Spool + slot.
-/
namespace Sys2Proof.Machine

/-! ### Integer and move -/

/-- The operands of a lane: a, b and c, as wide as TYPE, with the OR of the poison marks of those the opcode has. -/
def Skein.abc (s : Skein) (i : SIns) (l : Nat) : Nat × Nat × Nat × Bool :=
  let sp := opSpec i.op
  let has (f : OpSpec → RK) : Bool := decide (sp.map f = some .v ∨ sp.map f = some .w)
  let (a, ap) := s.vval i.a l i.aCount
  let (b, bp) := s.vval i.b l i.bCount
  let (c, cp) := s.vval i.c l i.bCount
  (a, b, c, (has (·.a) && ap) || (has (·.b) && bp) || (has (·.c) && cp))

/-- Signed integer types (R276). -/
def SIns.signed (i : SIns) : Bool := decide (i.typ = 0 ∨ i.typ = 2)
/-- The operand width in bits. -/
def SIns.width (i : SIns) : Nat := if typeWide i.typ then 64 else 32

/-- Integer arithmetic and logic. -/
def laneInt (s : Skein) (i : SIns) (l : Nat) : Nat × Bool :=
  let (a, b, c, p) := s.abc i l
  (intOp i.op i.signed i.width a b c, p)
def runInt (k : Nat) : Dev → Skein → SIns → Option Dev := runLanes k SIns.dCount laneInt

/-- nop (0x00): no effect. -/
def cmdNopInstr (k : Nat) (d : Dev) : Dev := d.issue k 0x00 (fun d s _ => some (d.skip k s))
/-- iadd (0x01): vd ← va + vb. -/
def cmdIadd (k : Nat) (d : Dev) : Dev := d.issue k 0x01 (runInt k)
/-- isub (0x02): vd ← va − vb. -/
def cmdIsub (k : Nat) (d : Dev) : Dev := d.issue k 0x02 (runInt k)
/-- imul (0x03): low half of the product. -/
def cmdImul (k : Nat) (d : Dev) : Dev := d.issue k 0x03 (runInt k)
/-- imulhi (0x04): high half of the product. -/
def cmdImulhi (k : Nat) (d : Dev) : Dev := d.issue k 0x04 (runInt k)
/-- imad (0x05): low half of va × vb + vc. -/
def cmdImad (k : Nat) (d : Dev) : Dev := d.issue k 0x05 (runInt k)
/-- imin (0x06): the smaller. -/
def cmdImin (k : Nat) (d : Dev) : Dev := d.issue k 0x06 (runInt k)
/-- imax (0x07): the larger. -/
def cmdImax (k : Nat) (d : Dev) : Dev := d.issue k 0x07 (runInt k)
/-- and (0x08): bitwise and. -/
def cmdAnd (k : Nat) (d : Dev) : Dev := d.issue k 0x08 (runInt k)
/-- or (0x09): bitwise or. -/
def cmdOr (k : Nat) (d : Dev) : Dev := d.issue k 0x09 (runInt k)
/-- xor (0x0A): bitwise exclusive or. -/
def cmdXor (k : Nat) (d : Dev) : Dev := d.issue k 0x0A (runInt k)
/-- not (0x0B): bitwise not. -/
def cmdNot (k : Nat) (d : Dev) : Dev := d.issue k 0x0B (runInt k)
/-- shl (0x0C): shift left by vb mod width. -/
def cmdShl (k : Nat) (d : Dev) : Dev := d.issue k 0x0C (runInt k)
/-- shr (0x0D): shift right, logical or arithmetic by TYPE. -/
def cmdShr (k : Nat) (d : Dev) : Dev := d.issue k 0x0D (runInt k)
/-- popc (0x0E): set bits of va. -/
def cmdPopc (k : Nat) (d : Dev) : Dev := d.issue k 0x0E (runInt k)
/-- clz (0x0F): leading zeros of va. -/
def cmdClz (k : Nat) (d : Dev) : Dev := d.issue k 0x0F (runInt k)

/-- mov (0x10): the bits of va. -/
def cmdMov (k : Nat) (d : Dev) : Dev :=
  d.issue k 0x10 (runLanes k SIns.dCount (fun s i l => s.vval i.a l i.aCount))

/-- movi (0x11): the immediate. -/
def cmdMovi (k : Nat) (d : Dev) : Dev := d.issue k 0x11 (runLanes k SIns.dCount (fun _ i _ => (i.imm, false)))

/-- iaddi (0x12): va plus the sign-extended immediate. -/
def cmdIaddi (k : Nat) (d : Dev) : Dev :=
  d.issue k 0x12 (runLanes k SIns.dCount (fun s i l =>
    let (a, p) := s.vval i.a l i.aCount
    (ofSigned i.width ((a : Int) + toSigned 32 i.imm), p)))

/-- sel (0x13): va where pC holds, else vb. -/
def cmdSel (k : Nat) (d : Dev) : Dev :=
  d.issue k 0x13 (runLanes k SIns.dCount (fun s i l =>
    let (m, z) := s.pget i.c
    let (v, p) := if bitAt m l then s.vval i.a l i.aCount else s.vval i.b l i.bCount
    (v, p || bitAt z l)))

/-- isetp (0x14): the comparison named by SUB. -/
def cmdIsetp (k : Nat) (d : Dev) : Dev :=
  d.issue k 0x14 (runPred k (fun s i l =>
    let (a, b, _, p) := s.abc i l
    (cmpInt i.sub i.signed i.width a b, p)))

/-- The source lane of shfl; outside 0 to 31 it is the lane itself (R283). -/
def shflLane (sub l b : Nat) : Nat :=
  let v := toSigned 32 b
  let x : Int := if sub = 0 then v else if sub = 1 then (l : Int) - v else if sub = 2 then (l : Int) + v else toSigned 32 (l ^^^ b)
  if 0 ≤ x ∧ x < 32 then x.toNat else l

/-- shfl (0x15): va of another lane. -/
def cmdShfl (k : Nat) (d : Dev) : Dev :=
  d.issue k 0x15 (runLanes k SIns.dCount (fun s i l =>
    let (b, bp) := s.vget i.b l
    let (v, p) := s.vget i.a (shflLane i.sub l b)
    (v, p || bp)))

/-- vote (0x16): the mask of effective lanes in which pA holds. -/
def cmdVote (k : Nat) (d : Dev) : Dev :=
  d.issue k 0x16 (fun d s i =>
    let m := s.eff i
    if m = 0 then some (d.skip k s)
    else
      let (v, z) := s.pget i.a
      some (d.retire k (s.sset i.d (v &&& m) (decide (z &&& m ≠ 0) || decide ((s.pget i.pg).2 &&& s.active ≠ 0))) i))

/-- v2s (0x17): va of the lowest effective lane. -/
def cmdV2s (k : Nat) (d : Dev) : Dev :=
  d.issue k 0x17 (fun d s i =>
    match (lanesOf (s.eff i)).head? with
    | none => some (d.skip k s)
    | some l =>
      let (v, p) := s.vval i.a l i.aCount
      some (d.retire k (s.sset i.d v (p || s.guardPoison i l)) i))

/-- s2v (0x18): sA in every effective lane. -/
def cmdS2v (k : Nat) (d : Dev) : Dev := d.issue k 0x18 (runLanes k SIns.dCount (fun s i _ => s.sget i.a))

/-! ### Floating point -/

/-- The format of TYPE f32 or f64. -/
def SIns.fp (i : SIns) : Fmt := if i.typ = 5 then .fp64 else .fp32

/-- FP32 and FP64 arithmetic under SKS.RMODE. -/
def laneFp (s : Skein) (i : SIns) (l : Nat) : Nat × Bool :=
  let (a, b, c, p) := s.abc i l
  (fpOp i.op i.fp (spoolMode s.sks) a b c, p)
def runFp (k : Nat) : Dev → Skein → SIns → Option Dev := runLanes k SIns.dCount laneFp

/-- Paired 16-bit arithmetic under SKS.RMODE. -/
def lanePair (s : Skein) (i : SIns) (l : Nat) : Nat × Bool :=
  let (a, b, c, p) := s.abc i l
  (pairOp i.op (if i.typ = 6 then .bf16 else .fp16) (spoolMode s.sks) a b c, p)
def runPair (k : Nat) : Dev → Skein → SIns → Option Dev := runLanes k SIns.dCount lanePair

/-- fadd (0x20): sum. -/
def cmdFadd (k : Nat) (d : Dev) : Dev := d.issue k 0x20 (runFp k)
/-- fsub (0x21): difference. -/
def cmdFsub (k : Nat) (d : Dev) : Dev := d.issue k 0x21 (runFp k)
/-- fmul (0x22): product. -/
def cmdFmul (k : Nat) (d : Dev) : Dev := d.issue k 0x22 (runFp k)
/-- fma (0x23): va × vb + vc with one rounding. -/
def cmdFma (k : Nat) (d : Dev) : Dev := d.issue k 0x23 (runFp k)
/-- fmin (0x24): MIN of R199. -/
def cmdFmin (k : Nat) (d : Dev) : Dev := d.issue k 0x24 (runFp k)
/-- fmax (0x25): MAX of R199. -/
def cmdFmax (k : Nat) (d : Dev) : Dev := d.issue k 0x25 (runFp k)
/-- fabs (0x26): the sign bit cleared (R53). -/
def cmdFabs (k : Nat) (d : Dev) : Dev := d.issue k 0x26 (runFp k)
/-- fneg (0x27): the sign bit inverted (R53). -/
def cmdFneg (k : Nat) (d : Dev) : Dev := d.issue k 0x27 (runFp k)

/-- fsetp (0x28): the comparison named by SUB. -/
def cmdFsetp (k : Nat) (d : Dev) : Dev :=
  d.issue k 0x28 (runPred k (fun s i l =>
    let (a, b, _, p) := s.abc i l
    (cmpFp i.sub (Num.cmp (i.fp.decode a) (i.fp.decode b)), p)))

/-- cvt (0x29): conversion, with SAT and NAN recorded in SKS (R282). A result the manual does not state is free value 5. -/
def cmdCvt (k : Nat) (d : Dev) : Dev :=
  d.issue k 0x29 (fun d s i =>
    let m := s.eff i
    if m = 0 then some (d.skip k s)
    else
      let one (l : Nat) : Nat × Bool × Bool :=
        cvtOp i.fmt i.sub (spoolMode s.sks) (s.vval i.a l i.aCount).1 (Config.freeNat 5 (d.fresh + l))
      let t := s.mapLanes i i.dCount (fun l => ((one l).1, (s.vval i.a l i.aCount).2))
      let t := (t.stick 8 ((lanesOf m).any (fun l => (one l).2.1))).stick 9 ((lanesOf m).any (fun l => (one l).2.2))
      some ({ d with fresh := d.fresh + 32 }.retire k t i))

/-- frnd (0x2A): the integral value. -/
def cmdFrnd (k : Nat) (d : Dev) : Dev := d.issue k 0x2A (runFp k)
/-- hfma (0x2B): va × vb + vc in each half. -/
def cmdHfma (k : Nat) (d : Dev) : Dev := d.issue k 0x2B (runPair k)
/-- hadd (0x2C). -/
def cmdHadd (k : Nat) (d : Dev) : Dev := d.issue k 0x2C (runPair k)
/-- hmul (0x2D). -/
def cmdHmul (k : Nat) (d : Dev) : Dev := d.issue k 0x2D (runPair k)

/-- The function unit (R284). -/
def laneX (s : Skein) (i : SIns) (l : Nat) : Nat × Bool :=
  let (a, p) := s.vval i.a l i.aCount
  (xOp i.op (decide (i.typ = 5)) (spoolMode s.sks) a, p)
def runX (k : Nat) : Dev → Skein → SIns → Option Dev := runLanes k SIns.dCount laneX

/-- frcp (0x40): 1 ÷ va. -/
def cmdFrcp (k : Nat) (d : Dev) : Dev := d.issue k 0x40 (runX k)
/-- fsqrt (0x41): √va. -/
def cmdFsqrt (k : Nat) (d : Dev) : Dev := d.issue k 0x41 (runX k)
/-- frsqrt (0x42): 1 ÷ √va. -/
def cmdFrsqrt (k : Nat) (d : Dev) : Dev := d.issue k 0x42 (runX k)
/-- fexp2 (0x43): 2^va. -/
def cmdFexp2 (k : Nat) (d : Dev) : Dev := d.issue k 0x43 (runX k)
/-- flog2 (0x44): log2 va. -/
def cmdFlog2 (k : Nat) (d : Dev) : Dev := d.issue k 0x44 (runX k)
/-- fsin (0x45): sin va. -/
def cmdFsin (k : Nat) (d : Dev) : Dev := d.issue k 0x45 (runX k)
/-- fcos (0x46): cos va. -/
def cmdFcos (k : Nat) (d : Dev) : Dev := d.issue k 0x46 (runX k)

/-! ### Scalars and predicates -/

/-- A scalar instruction; with an empty active mask it has no effect (R244). -/
def runScalar (k : Nat) (f : Skein → SIns → Nat × Bool) (d : Dev) (s : Skein) (i : SIns) : Option Dev :=
  if s.active = 0 then some (d.skip k s)
  else
    let (v, p) := f s i
    some (d.retire k (s.sset i.d v p) i)

/-- sA op sB. -/
def scalarAb (s : Skein) (i : SIns) : Nat × Bool :=
  let (a, ap) := s.sget i.a
  let (b, bp) := s.sget i.b
  (scalarOp i.op (decide (i.typ = 2)) a b, ap || bp)

/-- sadd (0x60): sA + sB. -/
def cmdSadd (k : Nat) (d : Dev) : Dev := d.issue k 0x60 (runScalar k scalarAb)
/-- ssub (0x61): sA − sB. -/
def cmdSsub (k : Nat) (d : Dev) : Dev := d.issue k 0x61 (runScalar k scalarAb)
/-- smul (0x62): sA × sB, low half. -/
def cmdSmul (k : Nat) (d : Dev) : Dev := d.issue k 0x62 (runScalar k scalarAb)
/-- sand (0x63): bitwise and. -/
def cmdSand (k : Nat) (d : Dev) : Dev := d.issue k 0x63 (runScalar k scalarAb)
/-- sor (0x64): bitwise or. -/
def cmdSor (k : Nat) (d : Dev) : Dev := d.issue k 0x64 (runScalar k scalarAb)
/-- sxor (0x65): bitwise exclusive or. -/
def cmdSxor (k : Nat) (d : Dev) : Dev := d.issue k 0x65 (runScalar k scalarAb)
/-- sshl (0x66): shift left by sB mod 64. -/
def cmdSshl (k : Nat) (d : Dev) : Dev := d.issue k 0x66 (runScalar k scalarAb)
/-- sshr (0x67): shift right by sB mod 64. -/
def cmdSshr (k : Nat) (d : Dev) : Dev := d.issue k 0x67 (runScalar k scalarAb)

/-- smovi (0x68): the sign-extended immediate. -/
def cmdSmovi (k : Nat) (d : Dev) : Dev := d.issue k 0x68 (runScalar k (fun _ i => (ofSigned 64 (toSigned 32 i.imm), false)))
/-- smovhi (0x69): the immediate in the upper half, the lower half kept. -/
def cmdSmovhi (k : Nat) (d : Dev) : Dev :=
  d.issue k 0x69 (runScalar k (fun s i => ((s.sget i.d).1 % 2 ^ 32 + i.imm * 2 ^ 32, (s.sget i.d).2)))
/-- saddi (0x6A): sA plus the sign-extended immediate. -/
def cmdSaddi (k : Nat) (d : Dev) : Dev :=
  d.issue k 0x6A (runScalar k (fun s i => (ofSigned 64 (((s.sget i.a).1 : Int) + toSigned 32 i.imm), (s.sget i.a).2)))

/-- ssetp (0x6B): the comparison of two scalars, in every active lane. -/
def cmdSsetp (k : Nat) (d : Dev) : Dev :=
  d.issue k 0x6B (fun d s i =>
    if s.active = 0 then some (d.skip k s)
    else
      let (a, ap) := s.sget i.a
      let (b, bp) := s.sget i.b
      some (d.retire k (s.pset i.d s.active (if cmpInt i.sub (decide (i.typ = 2)) 64 a b then allLanes else 0) (if ap || bp then allLanes else 0)) i))

/-- Predicate logic in the active lanes. -/
def runPredOp (k : Nat) (d : Dev) (s : Skein) (i : SIns) : Option Dev :=
  if s.active = 0 then some (d.skip k s)
  else
    let (a, az) := s.pget i.a
    let (b, bz) := if i.op = 0x6F then (0, 0) else s.pget i.b
    let v := (lanesOf s.active).foldl (fun x l => x + (if predOp i.op (bitAt a l) (bitAt b l) then 2 ^ l else 0)) 0
    some (d.retire k (s.pset i.d s.active v (az ||| bz)) i)

/-- pand (0x6C). -/
def cmdPand (k : Nat) (d : Dev) : Dev := d.issue k 0x6C (runPredOp k)
/-- por (0x6D). -/
def cmdPor (k : Nat) (d : Dev) : Dev := d.issue k 0x6D (runPredOp k)
/-- pxor (0x6E). -/
def cmdPxor (k : Nat) (d : Dev) : Dev := d.issue k 0x6E (runPredOp k)
/-- pnot (0x6F). -/
def cmdPnot (k : Nat) (d : Dev) : Dev := d.issue k 0x6F (runPredOp k)

/-- A word with a reserved encoding executes as a no-op, sets SKS.ILLEGAL and is counted (R235). -/
def cmdReservedEncoding (k : Nat) (d : Dev) : Dev :=
  match d.skein k with
  | none => d
  | some s =>
    if !d.mayIssue s then d
    else
      match d.fetchIns k s with
      | (d', .wait) => d'
      | (d', .poison) => (d'.precise k s 0x11).getD d
      | (d', .word w) =>
        match decodeSpool w with
        | some _ => d
        | none => (d'.illegal k s).counted k s none

end Sys2Proof.Machine
end

