-- ==== Sys2Proof/Machine/SpoolMem.lean ====
section
/-!
DEFINITION. Machine/SpoolMem.lean: the Spool instructions of class M (R278 to R281, R292 to R305): an instruction issues and
takes its slots; the accesses to its lines are performed when LOAD_RETURN or STORE_ACK names them, in any order that R264
leaves (log entry 36).
-/
namespace Sys2Proof.Machine

/-! ### Issue -/

/-- Bytes received for an address; a byte that was not accessed is zero. -/
def SReq.byte (q : SReq) (a : Nat) : MByte := ((q.got.find? (fun e => e.1 = a)).map (·.2)).getD { b := 0 }

/-- Write a load's result in its lanes or scalars (R283): sign extension of 1 or 2 bytes, 32 bits a register. -/
def Skein.finishLoad (s : Skein) (q : SReq) : Skein :=
  let i := q.ins
  let val (a : Nat) : Nat × Bool :=
    let bs := (i.span a).map q.byte
    let v := leNat (bs.map (·.b))
    (if i.sign ∧ i.size < 2 then ofSigned 32 (toSigned (8 * i.bytes) v) else v, bs.any (·.p))
  match q.kind with
  | .lds =>
    match q.lanes.head? with
    | none => s
    | some (_, a) =>
      if i.size = 4 then
        let part (o : Nat) : Nat × Bool :=
          let bs := ((i.span a).drop o).take 8 |>.map q.byte
          (leNat (bs.map (·.b)), bs.any (·.p))
        (s.sset i.d (part 0).1 (part 0).2).sset (i.d + 1) (part 8).1 (part 8).2
      else s.sset i.d (val a).1 (val a).2
  | _ =>
    q.lanes.foldl (fun t (e : Nat × Nat) =>
      if i.dCount = 1 then t.vset i.d e.1 (val e.2).1 ((val e.2).2 || s.guardPoison i e.1)
      else (List.range i.dCount).foldl (fun t r =>
        let bs := (((i.span e.2).drop (4 * r)).take 4).map q.byte
        t.vset (i.d + r) e.1 (leNat (bs.map (·.b))) (bs.any (·.p) || s.guardPoison i e.1)) t) s

/-- A load issues (R266, R279, R293): the lines that hit the Spool cache are read at once, the others take slots. -/
def Dev.issueLoad (d : Dev) (k : Nat) (s : Skein) (i : SIns) (kind : SKind) (lanes : List (Nat × Nat)) : Option Dev :=
  let spool := k / 16
  let inside := lanes.filter (fun e => !d.spadOut i e.2)
  let lines := linesTouched i (inside.flatMap (fun e => i.span e.2))
  let blocked (l : Nat) : Bool := s.reqs.any (fun q => q.isStore && decide (q.ins.sp = i.sp) && q.parts.any (fun x => x.line = l))
  let hit (l : Nat) : Option ScLine := if i.sp || decide (i.ord ≠ 0) || blocked l then none else d.scLine spool l
  let hits := lines.filterMap (fun l => (hit l).map (fun c => (l, c)))
  let miss := lines.filter (fun l => (hit l).isNone)
  if !s.memReady i || !d.slotsFree k s miss.length then none
  else
    let a0 := (lanes.head?.map (·.2)).getD 0
    let l0 := (lanes.head?.map (·.1)).getD 0
    let d := d.splEvent k s 0x302 1 a0 l0 i.sp
    let d := (d.splEvent k s 0x305 hits.length a0 l0 i.sp).splEvent k s 0x306 (if i.sp then 0 else miss.length) a0 l0 i.sp
    let d := hits.foldl (fun d h => d.scTouch spool h.1 i.hint h.2) d
    let got := hits.flatMap (fun h => h.2.bytes.zipIdx.map (fun e => (h.1 * 128 + e.2, e.1)))
    let q : SReq := { id := 0, kind := kind, ins := i, pc := s.pc, lanes := lanes, got := got, parts := miss.map (fun l => { line := l }),
                      issuedAt := d.time }
    let s := s.stick 10 (lanes.any (fun e => d.spadOut i e.2))
    if miss.isEmpty then some (d.retire k (s.finishLoad q) i) else some (d.retire k (s.addReq q) i)

/-- The lanes of an instruction with their addresses; true when one that counts is poisoned (R257). -/
def Skein.addresses (s : Skein) (i : SIns) : List (Nat × Nat) × Bool :=
  let ls := lanesOf (s.eff i)
  (ls.map (fun l => (l, (s.laneAddr i l).1)), ls.any (fun l => (s.laneAddr i l).2 || s.guardPoison i l))

/-- ld (0x50). -/
def cmdLd (k : Nat) (d : Dev) : Dev :=
  d.issue k 0x50 (fun d s i =>
    if s.eff i = 0 then some (d.skip k s)
    else
      let (as, bad) := s.addresses i
      if bad then d.precise k s 0x11 else d.issueLoad k s i .ld as)

/-- lds (0x52): once per skein. -/
def cmdLds (k : Nat) (d : Dev) : Dev :=
  d.issue k 0x52 (fun d s i =>
    if s.active = 0 then some (d.skip k s)
    else
      let (a, bad) := s.laneAddr i 0
      if bad then d.precise k s 0x11 else d.issueLoad k s i .lds [(0, a)])

/-- A store issues (R261, R281, R294): it updates the copies it hits in the Spool cache and takes a slot for each line. -/
def Dev.issueStore (d : Dev) (k : Nat) (s : Skein) (i : SIns) (kind : SKind) (lanes : List (Nat × Nat)) (val : Nat → List MByte) : Option Dev :=
  let inside := lanes.filter (fun e => !d.spadOut i e.2)
  let bytes := inside.flatMap (fun e => ((i.span e.2).zip (val e.1)).map (fun x => (e.1, x.1, x.2)))
  let lines := linesTouched i (bytes.map (·.2.1))
  if !s.memReady i || !d.slotsFree k s lines.length then none
  else
    let d := d.splEvent k s 0x303 1 ((lanes.head?.map (·.2)).getD 0) ((lanes.head?.map (·.1)).getD 0) i.sp
    let d := if i.sp then d else d.scStore (k / 16) (bytes.map (fun x => (x.2.1, x.2.2)))
    let s := s.stick 10 (lanes.any (fun e => d.spadOut i e.2))
    let q : SReq := { id := 0, kind := kind, ins := i, pc := s.pc, lanes := inside, bytes := bytes, parts := lines.map (fun l => { line := l }),
                      issuedAt := d.time }
    some (d.retire k (if lines.isEmpty then s else s.addReq q) i)

/-- st (0x51). -/
def cmdSt (k : Nat) (d : Dev) : Dev :=
  d.issue k 0x51 (fun d s i =>
    if s.eff i = 0 then some (d.skip k s)
    else
      let (as, bad) := s.addresses i
      if bad then d.precise k s 0x11
      else d.issueStore k s i .st as (fun l => (List.range i.bytes).map (fun j =>
        let (v, p) := s.vget (i.d + j / 4) l
        { b := BitVec.ofNat 8 (v / 256 ^ (j % 4)), p := p })))

/-- sts (0x53): once per skein. -/
def cmdSts (k : Nat) (d : Dev) : Dev :=
  d.issue k 0x53 (fun d s i =>
    if s.active = 0 then some (d.skip k s)
    else
      let (a, bad) := s.laneAddr i 0
      if bad then d.precise k s 0x11
      else d.issueStore k s i .sts [(0, a)] (fun _ => (List.range i.bytes).map (fun j =>
        let (v, p) := s.sget (i.d + j / 8)
        { b := BitVec.ofNat 8 (v / 256 ^ (j % 8)), p := p })))

/-- The operation that SUB names (R297). -/
def atomKind (sub : Nat) : Option RedKind :=
  match sub with
  | 0 => some .add | 1 => some .min | 2 => some .max | 3 => some .and | 4 => some .or | 5 => some .xor | 6 => some .exch | _ => none

/-- The type that TYPE names for the reduction unit (R276, R297). -/
def atomType (t : Nat) : Option RedType :=
  match t with
  | 0 => some .i32 | 1 => some .u32 | 2 => some .i64 | 3 => some .u64 | 4 => some .f32 | 6 => some .bf16 | _ => none

/-- The combinations of R297. -/
def atomPermitted (sub t size : Nat) : Bool :=
  let sizeOk := match t with
    | 0 | 1 | 4 => decide (size = 2)
    | 2 | 3 => decide (size = 3)
    | 6 => decide (size = 1)
    | _ => false
  sizeOk && (if sub = 0 then true else if sub ≤ 2 then decide (t ≤ 4) else if sub ≤ 6 then decide (t = 0 ∨ t = 2) else false)

/-- An atomic issues (R280, R298, R299): unaligned lanes are not performed and set SKS.ILLEGAL; the Spool's own copies of its
lines are dropped. -/
def Dev.issueAtomic (d : Dev) (k : Nat) (s : Skein) (i : SIns) (op : RedKind) (ty : RedType) (ret : Bool) : Option Dev :=
  if s.eff i = 0 then some (d.skip k s)
  else
    let (as, bad) := s.addresses i
    if bad then d.precise k s 0x11
    else
      let n := i.bytes
      let ok := as.filter (fun e => e.2 % n = 0)
      let elem (e : Nat × Nat) : Nat × RedElem :=
        let (v, vp) := s.vval i.b e.1 (if i.size = 3 then 2 else 1)
        let (c, cp) := if op = .cas then s.vval i.c e.1 (if i.size = 3 then 2 else 1) else (0, false)
        let sq := if i.b % 2 = 0 ∧ i.size < 3 then some (s.vget (i.b + 1) e.1).1 else none
        (e.1, { off := e.2, op := op, ty := ty, val := v % 2 ^ (8 * n), cmp := c % 2 ^ (8 * n), ret := ret, seq := sq, poison := vp || cp })
      let lines := linesTouched i (ok.map (·.2))
      if !s.memReady i || !d.slotsFree k s lines.length then none
      else
        let d := d.splEvent k s 0x304 1 ((as.head?.map (·.2)).getD 0) ((as.head?.map (·.1)).getD 0)
        let d := lines.foldl (fun d l => d.scDrop (k / 16) l) d
        let s := s.stick 10 (as.any (fun e => decide (e.2 % n ≠ 0)))
        let q : SReq := { id := 0, kind := if ret then .atom else .red, ins := i, pc := s.pc, lanes := as, elems := ok.map elem,
                          parts := lines.map (fun l => { line := l }), issuedAt := d.time }
        let zero (t : Skein) : Skein := if ret then as.foldl (fun t (e : Nat × Nat) => t.setVal i.d e.1 i.dCount 0 false) t else t
        some (d.retire k (if lines.isEmpty then zero s else s.addReq q) i)

/-- atom (0x54): operation and type as SUB and TYPE name them (their places in the word are not given, log entry 37). -/
def cmdAtom (k sub typ : Nat) (d : Dev) : Dev :=
  d.issue k 0x54 (fun d s i =>
    match atomKind sub, atomType typ with
    | some op, some ty => if atomPermitted sub typ i.size then d.issueAtomic k s i op ty true else some (d.illegal k s)
    | _, _ => some (d.illegal k s))

/-- cas (0x55). -/
def cmdCas (k : Nat) (d : Dev) : Dev :=
  d.issue k 0x55 (fun d s i => d.issueAtomic k s i .cas (if i.size = 3 then .i64 else .i32) true)

/-- red (0x56). -/
def cmdRed (k sub typ : Nat) (d : Dev) : Dev :=
  d.issue k 0x56 (fun d s i =>
    match atomKind sub, atomType typ with
    | some op, some ty => if atomPermitted sub typ i.size then d.issueAtomic k s i op ty false else some (d.illegal k s)
    | _, _ => some (d.illegal k s))

/-- The range of a range instruction: base, clamped length, whether its operands are poisoned (R301). -/
def Skein.range (s : Skein) (i : SIns) : Nat × Nat × Bool :=
  let (b, bp) := s.sget i.sb
  let (n, np) := s.sget i.a
  let a := i.address b 0
  let top := if i.op = 0x57 then 4096 else 2 ^ 30
  (a, min (min n top) (2 ^ 52 - a), bp || np)

/-- A range instruction that goes to the Granary issues (R303, R305). -/
def runRange (k : Nat) (op : Nat) (d : Dev) (s : Skein) (i : SIns) : Option Dev :=
  if s.active = 0 then some (d.skip k s)
  else
    let (a, n, bad) := s.range i
    if bad then d.precise k s 0x11
    else if n = 0 then some (d.retire k (s.sset i.d 0 false) i)
    else if !s.memReady i || !d.slotsFree k s 1 then none
    else
      let q : SReq := { id := 0, kind := .range op, ins := i, pc := s.pc, lanes := [(0, a)], parts := [{ line := a / 128 }], next := a,
                        stop := a + n, acted := n, issuedAt := d.time }
      some (d.retire k (s.addReq q) i)

/-- pf.s (0x57): one slot for each line that misses the Spool cache. -/
def cmdPfS (k : Nat) (d : Dev) : Dev :=
  d.issue k 0x57 (fun d s i =>
    if s.active = 0 then some (d.skip k s)
    else
      let (a, n, bad) := s.range i
      if bad then d.precise k s 0x11
      else if n = 0 then some (d.retire k (s.sset i.d 0 false) i)
      else
        let lines := (linesOf a n).map (fun e => e.1 / 128)
        let miss := lines.filter (fun l => (d.scLine (k / 16) l).isNone)
        if !s.memReady i || !d.slotsFree k s miss.length then none
        else
          let d := (d.splEvent k s 0x305 (lines.length - miss.length) a).splEvent k s 0x306 miss.length a
          let q : SReq := { id := 0, kind := .pfs, ins := i, pc := s.pc, lanes := [(0, a)], parts := miss.map (fun l => { line := l }),
                            acted := n, issuedAt := d.time }
          some (d.retire k (if miss.isEmpty then s.sset i.d n false else s.addReq q) i))

/-- pf.g (0x58). -/
def cmdPfG (k : Nat) (d : Dev) : Dev := d.issue k 0x58 (runRange k 0)
/-- flush (0x59). -/
def cmdFlush (k : Nat) (d : Dev) : Dev := d.issue k 0x59 (runRange k 1)
/-- inval.s (0x5A): drops the Spool's cached copies, without a slot (R303). -/
def cmdInvalS (k : Nat) (d : Dev) : Dev :=
  d.issue k 0x5A (fun d s i =>
    if s.active = 0 then some (d.skip k s)
    else
      let (a, n, bad) := s.range i
      if bad then d.precise k s 0x11
      else if !s.memReady i then none
      else
        let lo := scKey (k / 16) (a / 128)
        let hi := scKey (k / 16) ((a + n + 127) / 128)
        let d := if n = 0 then d else { d with spl := { d.spl with cache := SMap.clearIf (fun x => decide (lo ≤ x) && decide (x < hi)) d.spl.cache } }
        some (d.retire k (s.sset i.d n false) i))
/-- inval.g (0x5B). -/
def cmdInvalG (k : Nat) (d : Dev) : Dev := d.issue k 0x5B (runRange k 2)
/-- dead (0x5C). -/
def cmdDead (k : Nat) (d : Dev) : Dev := d.issue k 0x5C (runRange k 3)

/-! ### Performing accesses -/

/-- A fault of a part: it waits on its record (R259, R400). -/
def Dev.partFault (d : Dev) (k : Nat) (s : Skein) (q : SReq) (x : SPart) (f : FaultInfo) : Dev :=
  let it := d.item s.launch
  let lanes := (q.lanes.filter (fun e => (q.ins.span e.2).any (fun a => q.ins.lineOf a = x.line))).foldl (fun m e => m + 2 ^ e.1) 0
  let (d, key) := d.raiseFault f s.part 4 (k / 16) ((it.map (·.desc.tag)).getD 0) ((it.map (·.ring)).getD 0)
    (match q.kind with | .range _ => q.next | _ => x.line * 128) (k % 16) lanes (skeinWaiter k q.id)
  d.setSkein k (some (s.setReq { q with parts := q.parts.map (fun y => if y.line = x.line then { y with fault := some key } else y) }))

/-- The bytes of the virtual line that a request needs, as runs (address, length), in ascending order. -/
def runsOf (as : List Nat) : List (Nat × Nat) :=
  let marked := (List.range 128).map (fun j => as.any (fun a => a % 128 = j))
  let base := (as.headD 0) / 128 * 128
  (List.range 128).filterMap (fun j =>
    if marked.getD j false && (decide (j = 0) || !marked.getD (j - 1) false) then
      some (base + j, ((marked.drop j).takeWhile id).length)
    else none)

/-- Read runs through the partition's address space. -/
def Dev.readRuns (d : Dev) (p : Nat) (who : Waiter) (hint : Nat) : List (Nat × Nat) → Dev × VRes (List (Nat × MByte))
  | [] => (d, .ok [])
  | (a, n) :: rs =>
    match d.vread p who a n hint with
    | (d, .ok bs) =>
      let (d, r) := d.readRuns p who hint rs
      (d, r.map ((bs.zipIdx.map (fun e => (a + e.2, e.1))) ++ ·))
    | (d, .wait) => ((d.readRuns p who hint rs).1, .wait)
    | (d, .fault f) => (d, .fault f)

/-- Perform the read of one line of a load: a Granary line is read whole and fills the Spool cache, unless it is an acquire
(R261, R293). -/
def Dev.loadPart (d : Dev) (k : Nat) (s : Skein) (q : SReq) (x : SPart) : Dev × VRes (List (Nat × MByte)) :=
  let i := q.ins
  if i.sp then (d, .ok ((d.spadRead s.part (x.line * 64) 64).zipIdx.map (fun e => (x.line * 64 + e.2, e.1))))
  else
    match d.translate s.part (x.line * 128) .read with
    | (d, .line key _ _) =>
      match d.lineRead (some s.part) key 0 128 i.hint with
      | (d, some bs) =>
        let d := if i.ord = 0 then d.scFill (k / 16) x.line i.hint bs else d
        (d, .ok (bs.zipIdx.map (fun e => (x.line * 128 + e.2, e.1))))
      | (d, none) => (d, .wait)
    | (d, .fault f) => (d, .fault f)
    | (d, _) =>
      match q.kind with
      | .pfs => (d, .ok [])
      | _ =>
        let need := (q.lanes.filter (fun e => !d.spadOut i e.2)).flatMap (fun e => (i.span e.2).filter (fun a => a / 128 = x.line))
        d.readRuns s.part (skeinWaiter k q.id) i.hint (runsOf need)

/-- A load has all its lines: the destination is written, the slots are free, an acquire takes effect (R266, R293). -/
def Dev.loadDone (d : Dev) (k : Nat) (s : Skein) (q : SReq) : Dev :=
  let s := s.dropReq q.id
  let s := match q.kind with
    | .ld | .lds => s.finishLoad q
    | .atom =>
      q.lanes.foldl (fun t (e : Nat × Nat) =>
        let o := (q.olds.find? (fun x => x.1 = e.1)).map (·.2)
        t.setVal q.ins.d e.1 q.ins.dCount ((o.map (·.1)).getD 0) ((o.map (·.2)).getD false)) s
    | _ => s.sset q.ins.d q.acted false
  let d := (d.setSkein k (some s)).sweep (skeinWaiter k q.id)
  if q.ins.ord % 2 = 1 then d.acquire (k / 16) q.ins.scope else d

/-- Keep what a part has brought. -/
def Dev.partDone (d : Dev) (k : Nat) (s : Skein) (q : SReq) (line : Nat) : Dev :=
  let q := { q with parts := q.parts.filter (fun y => y.line ≠ line) }
  if q.parts.isEmpty then
    match q.kind with
    | .st | .sts | .red =>
      let d := (d.setSkein k (some (s.dropReq q.id))).sweep (skeinWaiter k q.id)
      if q.ins.ord % 2 = 1 then d.acquire (k / 16) q.ins.scope else d
    | _ => d.loadDone k s q
  else d.setSkein k (some (s.setReq q))

/-- The code of an operation and of a type in a WATOM packet (R510, R276). -/
def RedKind.code : RedKind → Nat
  | .add => 0 | .min => 1 | .max => 2 | .and => 3 | .or => 4 | .xor => 5 | .exch => 6 | .cas => 7
def RedType.code : RedType → Nat
  | .i32 => 0 | .u32 => 1 | .i64 => 2 | .u64 => 3 | .f32 => 4 | .bf16 => 6

/-- One lane of an atomic through a neighbour window (R510 to R513): `sent` says that its request has been sent. The old value
when it is known; none while it is outstanding. -/
def Dev.winAtomic (d : Dev) (part port off : Nat) (e : RedElem) (owner : Waiter) (sent : Bool) : Dev × Bool × Option (Nat × Bool) :=
  let mine (w : WinReq) : Bool := decide (w.owner = owner) && decide (w.port = port) && decide (w.off = off)
    && decide (w.kind = if e.ret then .atomicRet else .atomicNoret)
  if sent then
    match d.fab.wins.find? (fun w => mine w && !(e.ret && w.taken)) with
    | some w =>
      if w.state = 0 then (d, true, none)
      else
        let wins := d.fab.wins.filterMap (fun x => if x = w then (if w.state = 1 then none else some { w with taken := true }) else some x)
        ({ d with fab := { d.fab with wins := wins } }, true, some (leNat (w.data.map (·.b)), w.data.any (·.p)))
    | none => (d, true, some (0, false))
  else if !d.portRunning port then (d.bump F.FAB_TIMEOUTS_TIMEOUTS 1, true, some (0, true))
  else
    match d.freeWinTag port with
    | none => (d, false, none)
    | some t =>
      let n := e.ty.bytes
      let pay := leBytes n e.val ++ (if e.op = .cas then leBytes n e.cmp else [])
      (d.sendWindow port t off n part (if e.ret then .atomicRet else .atomicNoret)
        { kind := 3, len := pay.length, sub := e.op.code, typ := e.ty.code, noret := !e.ret, payload := pay } owner, true, none)

/-- Perform the atomics of one line, in ascending lane order (R298). -/
def Dev.atomPart (d : Dev) (k : Nat) (s : Skein) (q : SReq) (x : SPart) : Dev :=
  let es := q.elems.filter (fun e => e.2.off / 128 = x.line)
  match d.translate s.part (x.line * 128) .atomic with
  | (d, .fault f) => d.partFault k s q x f
  | (d, .line key _ ord) =>
    match d.lineReduce (some s.part) key (es.map (fun e => { e.2 with off := e.2.off % 128, ordered := ord })) with
    | (d, some vs) =>
      let rets := (es.filter (·.2.ret)).map (·.1)
      let d := d.scDrop (k / 16) x.line
      d.partDone k s { q with olds := q.olds ++ rets.zip vs } x.line
    | (d, none) => d
  | (d, .window w o) =>
    match es[x.lanesDone / 2]? with
    | none => d.partDone k s q x.line
    | some (lane, e) =>
      let (d, sent, r) := d.winAtomic s.part w (o + e.off % 128) e (skeinWaiter k q.id) (x.lanesDone % 2 = 1)
      match r with
      | none =>
        d.setSkein k (some (s.setReq { q with parts := q.parts.map (fun y =>
          if y.line = x.line then { y with lanesDone := x.lanesDone / 2 * 2 + b2n sent } else y) }))
      | some v =>
        let q := { q with olds := if e.ret then q.olds ++ [(lane, v)] else q.olds }
        if x.lanesDone / 2 + 1 = es.length then d.partDone k s q x.line
        else d.setSkein k (some (s.setReq { q with parts := q.parts.map (fun y =>
          if y.line = x.line then { y with lanesDone := x.lanesDone / 2 * 2 + 2 } else y) }))
  | (d, _) => d.partDone k s { q with olds := q.olds ++ (es.filter (·.2.ret)).map (fun e => (e.1, 0, true)) } x.line

/-- Up to n lines of a range request (R302, R304, R305, R333). -/
def Dev.rangePart (k id : Nat) : Nat → Dev → Dev
  | 0, d => d
  | n + 1, d =>
    match (d.skein k).bind (fun s => (s.reqs.find? (fun q => q.id = id)).map (fun q => (s, q))) with
    | none => d
    | some (s, q) =>
      if q.stop ≤ q.next then d.loadDone k s q
      else
        let op : RangeOp := match q.kind with
          | .range 1 => .flush | .range 2 => .inval | .range 3 => .dead | _ => .prefetch
        let line := q.next / 128
        let whole : Bool := decide (q.next % 128 = 0) && decide (line * 128 + 128 ≤ q.stop)
        let go (d : Dev) : Dev :=
          let d := if op = .dead && whole then d.scDrop (k / 16) line else d
          let q := { q with next := (line + 1) * 128 }
          if q.stop ≤ q.next then d.loadDone k s q else Dev.rangePart k id n (d.setSkein k (some (s.setReq q)))
        if op = .dead && !whole then go d
        else
          match d.rangeAt s.part op q.next q.ins.hint with
          | (d, none) => go d
          | (d, some f) => d.partFault k s q { line := (q.parts.head?.map (·.line)).getD 0 } f

/-- LOAD_RETURN (R266): the line `arg` of a load or an atomic, or up to `arg` lines of a range request, is performed and its
data returns; with the last of them the destination is written and the slots are free. -/
def cmdLoadReturn (k req arg : Nat) (d : Dev) : Dev :=
  match d.skein k with
  | none => d
  | some s =>
    match s.reqs.find? (fun q => q.id = req) with
    | none => d
    | some q =>
      if !s.earlierDone q then d
      else
        match q.kind with
        | .range _ => if q.parts.any (fun x => x.fault.isSome) then d else Dev.rangePart k req arg d
        | .st | .sts | .red => d
        | .atom =>
          match q.parts.find? (fun x => decide (x.line = arg) && x.fault.isNone) with
          | some x => d.atomPart k s q x
          | none => d
        | _ =>
          match q.parts.find? (fun x => decide (x.line = arg) && x.fault.isNone) with
          | none => d
          | some x =>
            match d.loadPart k s q x with
            | (d, .ok bs) => d.partDone k s { q with got := q.got ++ bs } arg
            | (d, .wait) => d
            | (d, .fault f) => d.partFault k s q x f

/-- The bytes a store writes to a line: of two bytes at one address the later lane's (R281). -/
def SReq.lineBytes (q : SReq) (line : Nat) : List (Nat × MByte) :=
  (q.bytes.filter (fun e => q.ins.lineOf e.2.1 = line)).foldl (fun m e => m.filter (fun y => y.1 ≠ e.2.1) ++ [(e.2.1, e.2.2)]) []

/-- The bytes of a run. -/
def runBytes (bs : List (Nat × MByte)) (a n : Nat) : List MByte :=
  (List.range n).map (fun j => ((bs.find? (fun e => e.1 = a + j)).map (·.2)).getD { b := 0 })

/-- Send the runs of a window store; false when one finds no tag. -/
def Dev.winRuns (d : Dev) (p port base : Nat) (who : Waiter) (bs : List (Nat × MByte)) : List (Nat × Nat) → Dev × Bool
  | [] => (d, true)
  | (a, n) :: rs =>
    match d.winStore p port (base + a % 128) ((runBytes bs a n).map (·.b)) who with
    | (d, true) => d.winRuns p port base who bs rs
    | (d, false) => (d, false)

/-- STORE_ACK (R266, R281): the bytes of one line of a store are performed and acknowledged; a store through a window is sent
first and acknowledged when its answers are here; a reduction is applied. -/
def cmdStoreAck (k req line : Nat) (d : Dev) : Dev :=
  match d.skein k with
  | none => d
  | some s =>
    match s.reqs.find? (fun q => q.id = req) with
    | none => d
    | some q =>
      match q.parts.find? (fun x => decide (x.line = line) && x.fault.isNone) with
      | none => d
      | some x =>
        if !s.earlierDone q then d
        else
          let bs := q.lineBytes line
          match q.kind with
          | .red => d.atomPart k s q x
          | .st | .sts =>
            if q.ins.sp then
              let d := bs.foldl (fun d (e : Nat × MByte) => if e.1 < d.spadSize then d.spadWrite s.part e.1 [e.2] else d) d
              d.partDone k s q line
            else
              match d.translate s.part (line * 128) .write with
              | (d, .fault f) => d.partFault k s q x f
              | (d, .line key _ _) =>
                match d.lineWrite (some s.part) key q.ins.hint (bs.map (fun e => (e.1 % 128, e.2))) with
                | (d, true) => (d.scStore (k / 16) bs).partDone k s q line
                | (d, false) => d
              | (d, .companion a) =>
                let d := (runsOf (bs.map (·.1))).foldl (fun d r => d.writeCompanion (a + r.1 % 128) (runBytes bs r.1 r.2)) d
                (d.scStore (k / 16) bs).partDone k s q line
              | (d, .window w o) =>
                let who := skeinWaiter k q.id
                if x.lanesDone = 0 then
                  match d.winRuns s.part w o who bs (runsOf (bs.map (·.1))) with
                  | (d, true) => d.setSkein k (some (s.setReq { q with parts := q.parts.map (fun y => if y.line = line then { y with lanesDone := 1 } else y) }))
                  | (_, false) => d
                else if d.fab.wins.any (fun y => decide (y.owner = who) && decide (y.state = 0) && decide (y.off / 128 = o / 128)) then d
                else d.partDone k s q line
              | (d, .poison) =>
                let d := match d.item s.launch with
                  | some it => d.setItem { it with poison := true }
                  | none => d
                d.partDone k s q line
          | _ => d

end Sys2Proof.Machine
end

