-- ==== Sys2Proof/Machine/FabRx.lean ====
section
/-!
DEFINITION. Machine/FabRx.lean: packets that arrive on the fabric: forwarding, the ingress checks, window requests and their
responses (R504 to R518, R521 to R524), and the message operations PUT, GET and SEND (R519 to R526). A packet command names
the packet; if the packet waits among the received ones it is taken from there.
-/
namespace Sys2Proof.Machine

/-! ### Arrival -/

/-- A packet command acts: the packet is of the kind, reaches the module on a port that carries its class (R499, R510). -/
def Dev.arrives (d : Dev) (port kind : Nat) (p : Packet) : Bool :=
  decide (port < 6) && decide (p.kind = kind) && (d.portRunning port || decide (kindClass kind = some 3))

/-- The packet is addressed to this module. -/
def Dev.forMe (d : Dev) (p : Packet) : Bool := d.coordValid && decide (p.dst = d.ownNode)

/-- FORWARD_PACKET (R504 to R507): a packet that is not addressed here is routed on or discarded. -/
def cmdForwardPacket (port : Nat) (b : Bool) (p : Packet) (d : Dev) : Dev :=
  if 6 ≤ port ∨ !d.coordValid ∨ d.forMe p then d
  else
    let d := d.takePacket port p
    match kindClass p.kind with
    | some 3 => d
    | some _ => if d.portRunning port then d.sendOn p (some (port / 2, b)) else d.bump F.FAB_EVENTS_KIND_DROP 1
    | none => d.bump F.FAB_EVENTS_KIND_DROP 1

/-! ### Ingress checks (R514 to R516) -/

/-- The lowest-numbered ingress entry in force, not stopped, whose JOB is the request's. -/
def Dev.ingressEntry (d : Dev) (job : Nat) : Option Nat :=
  ((List.range 64).find? (fun i =>
    let a := SMap.get (fun _ => 0) d.fab.ing i
    bitAt a 28 && !d.rbit F.FAB_ING_STOP_STOPPED i && decide (bitsAt a 0 16 = job))).map (fun i => SMap.get (fun _ => 0) d.fab.ing i)

/-- Steps 1 to 3 of R515: the partition a request may reach; `bit` is its permission bit, `port` the arrival port of a window
request. -/
def Dev.ingress (d : Dev) (port : Option Nat) (bit : Nat) (p : Packet) : Dev × Option Nat :=
  let deny (f : Fld) : Dev × Option Nat :=
    let d := d.bump f 1
    (match port with
      | some n => d.event (34 + n) 0x705 none 0 1
      | none => d, none)
  match d.ingressEntry p.job with
  | none => deny F.FAB_DENY_JOB
  | some a =>
    let portOk := match port with
      | some n => decide (bit = 27) || bitAt a (18 + n)
      | none => true
    if !portOk || !bitAt a bit then deny F.FAB_DENY_PERM
    else
      let q := bitsAt a 16 2
      if d.jobOf q ≠ p.job ∨ !d.ready q then deny F.FAB_DENY_PART else (d, some q)

/-- Step 4 of R515: every line of the access translates, to memory and not to a window. -/
def Dev.ingressXlat (d : Dev) (port : Option Nat) (q : Nat) (acc : Acc) (a n : Nat) : Dev × Bool :=
  let (d, f) := d.vcheck q acc (linesOf a n)
  if f.isNone && decide (a + n ≤ 0xFF80000000000) then (d, true)
  else
    let d := d.bump F.FAB_DENY_XLAT 1
    (match port with
      | some i => d.event (34 + i) 0x705 none 0 1
      | none => d, false)

/-- The unit that performs a request of the fabric. -/
def fabUnit (port tag : Nat) : Waiter := .unit (2 ^ 20 + port * 2 ^ 10 + tag)

/-- Answer a window request on the port it arrived on (log entry 47). -/
def Dev.respond (d : Dev) (port kind status : Nat) (p : Packet) (payload : List Byte) : Dev :=
  d.putOnPort port false { kind := kind, dst := p.src, src := d.ownNode, job := p.job, len := payload.length, tag := p.tag,
                           status := status, payload := payload }

/-- The data and the poison of bytes read for a response. -/
def plain (bs : List MByte) : List Byte × Bool := (bs.map (·.b), bs.any (·.p))

/-- WLOAD (R511, R515 to R517). -/
def cmdWload (port : Nat) (p : Packet) (d : Dev) : Dev :=
  if !d.arrives port 0x1 p || !d.forMe p then d
  else
    let d0 := d.takePacket port p
    let deny (d : Dev) : Dev := (d.event (34 + port) 0x704 none 0 1).respond port 0x8 0 p (List.replicate p.len 0)
    match d0.ingress (some port) 24 p with
    | (d1, none) => deny d1
    | (d1, some q) =>
      match d1.ingressXlat (some port) q .read p.addr p.len with
      | (d1, false) => deny d1
      | (d1, true) =>
        match d1.vread q (fabUnit port p.tag) p.addr p.len with
        | (d2, .ok bs) =>
          let (x, pz) := plain bs
          ((d2.sweep (fabUnit port p.tag)).event (34 + port) 0x704 none 0 1).respond port 0x8 (b2n pz) p x
        | (d2, .fault _) => deny d2
        | _ => (d.vread q (fabUnit port p.tag) p.addr p.len).1

/-- WSTORE (R511, R515 to R517): acknowledged after it is performed. -/
def cmdWstore (port : Nat) (p : Packet) (d : Dev) : Dev :=
  if !d.arrives port 0x2 p || !d.forMe p then d
  else
    let d0 := d.takePacket port p
    let ack (d : Dev) : Dev := (d.event (34 + port) 0x704 none 0 1).respond port 0x9 0 p []
    match d0.ingress (some port) 25 p with
    | (d1, none) => ack d1
    | (d1, some q) =>
      match d1.ingressXlat (some port) q .write p.addr p.payload.length with
      | (d1, false) => ack d1
      | (d1, true) =>
        match d1.vwrite q (fabUnit port p.tag) p.addr (p.payload.map (fun b => { b := b })) with
        | (_, .wait) => d
        | (d2, _) => ack (d2.sweep (fabUnit port p.tag))

/-- The element a WATOM carries (R297, R510). -/
def watomElem (p : Packet) : Option RedElem :=
  let ty : Option RedType := match p.typ with
    | 0 => some .i32 | 1 => some .u32 | 2 => some .i64 | 3 => some .u64 | 4 => some .f32 | 5 => some .bf16 | _ => none
  match (if p.sub = 7 then some RedKind.cas else atomKind p.sub), ty with
  | some op, some ty =>
    let n := ty.bytes
    if p.addr % n ≠ 0 then none
    else some { off := 0, op := op, ty := ty, val := leNat (p.payload.take n), cmp := leNat ((p.payload.drop n).take n), ret := !p.noret }
  | _, _ => none

/-- WATOM (R510, R515 to R517). -/
def cmdWatom (port : Nat) (p : Packet) (d : Dev) : Dev :=
  if !d.arrives port 0x3 p || !d.forMe p then d
  else
    let d0 := d.takePacket port p
    let n := ((watomElem p).map (fun e => e.ty.bytes)).getD 8
    let answer (d : Dev) (status v : Nat) : Dev :=
      (d.event (34 + port) 0x704 none 0 1).respond port (if p.noret then 0x9 else 0x8) status p (if p.noret then [] else leBytes n v)
    match d0.ingress (some port) 26 p with
    | (d1, none) => answer d1 0 0
    | (d1, some q) =>
      match d1.ingressXlat (some port) q .atomic p.addr n, watomElem p with
      | (d1, true), some e =>
        match d1.vreducePart q p.addr [e] with
        | (d2, .ok vs) =>
          match vs.head? with
          | some (v, pz) => answer d2 (b2n pz) v
          | none => answer d2 0 0
        | (d2, .fault _) => answer d2 0 0
        | (_, .wait) => d
      | (d1, _), _ => answer d1 0 0

/-! ### Responses to the module's own window requests -/

/-- A response with a tag that timed out is discarded and counted (R518). -/
def Dev.lateTag (d : Dev) (port tag : Nat) : Dev :=
  if d.fab.wins.any (fun w => decide (w.port = port) && decide (w.tag = tag) && decide (w.state = 2)) then d.bump F.FAB_TIMEOUTS_LATE 1 else d

/-- The outstanding request of a port and tag. -/
def WinReq.is (w : WinReq) (port tag : Nat) : Bool := decide (w.port = port) && decide (w.tag = tag) && decide (w.state = 0)

/-- WDATA (R511, R512, R517, R518): data of a window load or a returning atomic; its tag is free. -/
def cmdWdata (port : Nat) (p : Packet) (d : Dev) : Dev :=
  if !d.arrives port 0x8 p || !d.forMe p then d
  else
    let d := d.takePacket port p
    let mine (w : WinReq) : Bool := w.is port p.tag && decide (w.kind = .load ∨ w.kind = .atomicRet)
    if d.fab.wins.any mine then
      let data (w : WinReq) : List MByte := (List.range w.len).map (fun i => { b := p.payload.getD i 0, p := decide (p.status = 1) })
      { d with fab := { d.fab with wins := d.fab.wins.map (fun w => if mine w then { w with state := 1, data := data w } else w) } }
    else d.lateTag port p.tag

/-- WACK (R511, R512, R518): a store or an atomic without a return is acknowledged. -/
def cmdWack (port : Nat) (p : Packet) (d : Dev) : Dev :=
  if !d.arrives port 0x9 p || !d.forMe p then d
  else
    let d := d.takePacket port p
    let mine (w : WinReq) : Bool := w.is port p.tag && decide (w.kind = .store ∨ w.kind = .atomicNoret)
    if d.fab.wins.any mine then
      { d with fab := { d.fab with wins := d.fab.wins.filterMap (fun w =>
          if mine w then (if w.taken then none else some { w with state := 1 }) else some w) } }
    else d.lateTag port p.tag

/-- One Turn period has passed since t (R518). -/
def Dev.periodPast (d : Dev) (t : Nat) : Bool := decide (t + d.rf F.TRN_PERIOD_ACTIVE_NS ≤ d.time)

/-- WINDOW_TIMEOUT (R518). -/
def cmdWindowTimeout (port tag : Nat) (d : Dev) : Dev :=
  d.timeOutWins port (fun w => decide (w.tag = tag) && d.periodPast w.sentAt)

/-- WINDOW_TAG_REUSE (R518): one further Turn period after the timeout the tag is free again. -/
def cmdWindowTagReuse (port tag : Nat) (d : Dev) : Dev :=
  { d with fab := { d.fab with wins := d.fab.wins.filterMap (fun w =>
      if w.port = port ∧ w.tag = tag ∧ w.state = 2 ∧ d.periodPast w.sentAt then (if w.taken then none else some { w with state := 1 }) else some w) } }

/-! ### Messages at the target (R520 to R524) -/

/-- Perform a PUT packet at this module: false when it must wait. -/
def Dev.putArrives (d : Dev) (port : Option Nat) (p : Packet) : Option Dev :=
  match d.ingress port 27 p with
  | (d1, none) => some d1
  | (d1, some q) =>
    match d1.ingressXlat port q .write p.addr p.payload.length with
    | (d1, false) => some d1
    | (d1, true) =>
      match d1.vwrite q (fabUnit 7 p.tag) p.addr (p.payload.map (fun b => { b := b })) with
      | (_, .wait) => none
      | (d2, _) => some (d2.sweep (fabUnit 7 p.tag))

/-- PUT_PACKET (R520): performed, and acknowledged after every 64 packets and after the last; `last` says that it is the
transfer's last packet (log entry 48). -/
def cmdPutPacket (port : Nat) (last : Bool) (p : Packet) (d : Dev) : Dev :=
  if !d.arrives port 0x4 p || !d.forMe p then d
  else
    match (d.takePacket port p).putArrives (some port) p with
    | none => d
    | some d =>
      let mine (r : PutRx) : Bool := decide (r.src = p.src) && decide (r.tag = p.tag)
      let n := ((d.fab.putRx.find? mine).map (·.count)).getD 0 + 1
      let rest := d.fab.putRx.filter (fun r => !mine r)
      let d := { d with fab := { d.fab with putRx := if last then rest else rest ++ [{ src := p.src, tag := p.tag, count := n }] } }
      if last ∨ n % 64 = 0 then
        d.sendOn { kind := 0xA, dst := p.src, src := d.ownNode, job := p.job, tag := p.tag, aux := n } none
      else d

/-- Read the bytes a GET asks for: none when it must wait. -/
def Dev.getArrives (d : Dev) (port : Option Nat) (p : Packet) : Dev × Option (List Byte × Bool) :=
  let zeros : List Byte × Bool := (List.replicate p.len 0, false)
  match d.ingress port 27 p with
  | (d1, none) => (d1, some zeros)
  | (d1, some q) =>
    match d1.ingressXlat port q .read p.addr p.len with
    | (d1, false) => (d1, some zeros)
    | (d1, true) =>
      match d1.vread q (fabUnit 7 p.tag) p.addr p.len with
      | (d2, .ok bs) => (d2.sweep (fabUnit 7 p.tag), some (plain bs))
      | (d2, .fault _) => (d2, some zeros)
      | (_, .wait) => ((d.vread q (fabUnit 7 p.tag) p.addr p.len).1, none)

/-- GET_PACKET (R520): answered with GDATA of the same index. -/
def cmdGetPacket (port : Nat) (p : Packet) (d : Dev) : Dev :=
  if !d.arrives port 0x5 p || !d.forMe p then d
  else
    match (d.takePacket port p).getArrives (some port) p with
    | (_, none) => (d.getArrives (some port) p).1
    | (d, some (bs, pz)) =>
      d.sendOn { kind := 0xB, dst := p.src, src := d.ownNode, job := p.job, len := bs.length, tag := p.tag, status := b2n pz,
                 aux := p.aux, addr := 256 * p.aux, payload := bs } none

/-- Mailbox slots of a partition; 0: no mailbox (R521). -/
def Dev.mboxSlots (d : Dev) (q : Nat) : Nat :=
  let l := d.rf (F.FAB_MBOX_A_LOG2SLOTS q)
  if l = 0 then 0 else 2 ^ l

/-- The consumer count of a mailbox after one read of its word (R522); none when the read must wait. -/
def Dev.mboxRead (d : Dev) (q : Nat) : Dev × Option Nat :=
  let prod := d.fab.mboxProd.getD q 0
  let cons := d.fab.mboxCons.getD q 0
  let bad (d : Dev) : Dev × Option Nat := (d.bump F.FAB_TIMEOUTS_MBOX_BAD 1, some cons)
  match d.vread q (fabUnit 7 (1024 + q)) (d.rf (F.FAB_MBOX_B_PROD q) * 8 + 8) 8 with
  | (d, .ok bs) =>
    let (x, pz) := plain bs
    let w := leNat x
    let d := d.sweep (fabUnit 7 (1024 + q))
    if pz || !doorbellOk w then bad d
    else
      let c := w % 2 ^ 32
      if (c + 2 ^ 32 - cons) % 2 ^ 32 ≤ (prod + 2 ^ 32 - cons) % 2 ^ 32 then
        ({ d with fab := { d.fab with mboxCons := setAt 0 d.fab.mboxCons q c } }, some c)
      else bad d
  | (d, .fault _) => bad d
  | (d, .wait) => (d, none)

/-- A SEND reaches partition q's mailbox (R521, R522): 0 accepted or discarded, 2 refused; none when it must wait. -/
def Dev.sendArrives (d : Dev) (port : Option Nat) (p : Packet) : Dev × Option Nat :=
  match d.ingress port 27 p with
  | (d1, none) => (d1, some 0)
  | (d1, some q) =>
    let n := d1.mboxSlots q
    let base := d1.rf (F.FAB_MBOX_A_BASE q) * 64
    let pw := d1.rf (F.FAB_MBOX_B_PROD q) * 8
    let prod := d1.fab.mboxProd.getD q 0
    let slot := base + 320 * (prod % n)
    let (d1, f1) := d1.vcheck q .write (linesOf slot 320)
    let (d1, f2) := d1.vcheck q .write (linesOf pw 8)
    if n = 0 ∨ f1.isSome ∨ f2.isSome then (d1.bump F.FAB_EVENTS_MBOX_DROP 1, some 0)
    else
      match d1.mboxRead q with
      | (d2, none) => (d2, none)
      | (d2, some c) =>
        if n ≤ (prod + 2 ^ 32 - c) % 2 ^ 32 then (d2, some 2)
        else
          let len := min 256 p.payload.length
          let hdr := [p.src % 2 ^ 18 + len * 2 ^ 32, p.aux % 2 ^ 32 + (p.addr % 2 ^ 32) * 2 ^ 32, d2.turn, d2.time, 0, 0, 0, 0]
          let bytes := (hdr.flatMap (leBytes 8) ++ p.payload.take 256).map (fun b => ({ b := b } : MByte))
          match d2.vwrite q (fabUnit 7 (1024 + q)) slot bytes with
          | (_, .wait) => (d, none)
          | (d3, _) =>
            let prod' := (prod + 1) % 2 ^ 32
            match d3.vwrite q (fabUnit 7 (1024 + q)) pw ((leBytes 8 (doorbellWord prod')).map (fun b => { b := b })) with
            | (_, .wait) => (d, none)
            | (d4, _) => ({ d4 with fab := { d4.fab with mboxProd := setAt 0 d4.fab.mboxProd q prod' } }, some 0)

/-- SEND_PACKET (R521 to R524): written to the mailbox, or refused FULL. -/
def cmdSendPacket (port : Nat) (p : Packet) (d : Dev) : Dev :=
  if !d.arrives port 0x6 p || !d.forMe p then d
  else
    match (d.takePacket port p).sendArrives (some port) p with
    | (_, none) => (d.sendArrives (some port) p).1
    | (d, some st) => d.sendOn { kind := 0xA, dst := p.src, src := d.ownNode, job := p.job, tag := p.tag, status := st } none

/-! ### The collective queue (R535, R536) and local operands -/

/-- Items of partition p's collective queue that run. -/
def Dev.colRunning (d : Dev) (p : Nat) : Nat := (d.queueOf p .collective (· = .running)).length

/-- Earlier items of the collective queue are gone, where WAIT asks for it (R541). -/
def Dev.colWaitOk (d : Dev) (it : Item) : Bool := !it.desc.wait || d.firstInQueue it

/-- Read local bytes: an access that does not translate reads as poison (log entry 49); none when it must wait. -/
def Dev.localRead (d : Dev) (it : Item) (r : Ref) (a n : Nat) : Dev × Option (List MByte) :=
  match d.sread it.part (.item it.id) r.space a n r.hint with
  | (d, .ok bs) => (d, some bs)
  | (d, .fault _) => (d, some (poisonBytes n))
  | (d, .wait) => (d, none)

/-- Write local bytes: true when they were lost; none when it must wait. -/
def Dev.localWrite (d : Dev) (it : Item) (r : Ref) (a : Nat) (bs : List MByte) : Dev × Option Bool :=
  match d.swrite it.part (.item it.id) r.space a (bs.take (d.spaceEnd r.space a - a)) r.hint with
  | (d, .ok x) => (d, some x)
  | (d, .fault _) => (d, some true)
  | (d, .wait) => (d, none)

/-! ### Message operations (R519 to R526) -/

def msgNode (c : Desc) : Nat := c.fld 1 0 18
def msgLocal (c : Desc) : Ref := refOf (c.word 3)
def msgRemote (c : Desc) : Nat := c.fld 4 0 52

/-- The checks of R519. -/
def Dev.msgCheckFails (d : Dev) (c : Desc) : Bool :=
  !([0, 2].contains (msgLocal c).space) || !d.coordValid || !nodeInDims (d.fab.dims.getD 0) (msgNode c)

/-- Bytes of the transfer after clamping, and whether it was clamped (R519, R520). -/
def Dev.msgLen (d : Dev) (c : Desc) : Nat × Bool :=
  let n := c.fld 2 0 40
  let n' := if c.opcode = 0x72 then min 256 n else n
  let r := msgLocal c
  let n'' := min n' (d.spaceEnd r.space r.base - r.base)
  (n'', decide (n'' < n))

def Dev.msgOf (d : Dev) (id : Nat) : Option MsgOp := d.fab.msgs.find? (fun m => decide (m.item = id))
def Dev.setMsg (d : Dev) (m : MsgOp) : Dev := { d with fab := { d.fab with msgs := d.fab.msgs.map (fun x => if x.item = m.item then m else x) } }
def Dev.dropMsg (d : Dev) (id : Nat) : Dev := { d with fab := { d.fab with msgs := d.fab.msgs.filter (fun m => decide (m.item ≠ id)) } }

/-- Packets of the transfer. -/
def MsgOp.packets (m : MsgOp) : Nat := if m.kind = 2 then 1 else ceilDiv m.len 256

/-- The lowest free message tag of a port: 512 to 1,023 (R520). -/
def Dev.freeMsgTag (d : Dev) (port : Nat) : Option Nat :=
  ((List.range 512).map (· + 512)).find? (fun t => !d.fab.msgs.any (fun m => decide (m.port = port) && decide (m.tag = t)))

/-- The port of a transfer's first hop: 7 stands for the module itself (R526). -/
def Dev.msgPort (d : Dev) (c : Desc) : Nat :=
  if msgNode c = d.ownNode then 7 else (d.firstHop (msgNode c)).getD 6

/-- The message item with its operation, started if it may start (R520, R536). -/
def Dev.msgWork (d : Dev) (op id : Nat) : Option (Dev × Item × MsgOp) :=
  match d.item id with
  | none => none
  | some it =>
    if it.desc.opcode ≠ op ∨ it.early.isSome then none
    else match it.place, d.msgOf id with
      | .running, some m => some (d, it, m)
      | .queued, _ =>
        if it.desc.zeroAmount ∨ 8 ≤ d.colRunning it.part ∨ !d.colWaitOk it then none
        else
          let port := d.msgPort it.desc
          match d.freeMsgTag port with
          | none => none
          | some t =>
            let (n, cl) := d.msgLen it.desc
            let m : MsgOp := { item := id, kind := op - 0x70, port := port, tag := t, len := n }
            let it := { it with place := .running, clamped := it.clamped || cl }
            some ({ d with fab := { d.fab with msgs := d.fab.msgs ++ [m] } }.setItem it, it, m)
      | _, _ => none

/-- GDATA is written at its offset (R520, R526). -/
def Dev.gdataWrite (d : Dev) (it : Item) (m : MsgOp) (idx : Nat) (bs : List Byte) (pz : Bool) : Option Dev :=
  if m.got.contains idx then some d
  else
    let r := msgLocal it.desc
    let bytes := (bs.take (m.len - 256 * idx)).map (fun b => ({ b := b, p := pz } : MByte))
    match d.localWrite it r (r.base + 256 * idx) bytes with
    | (_, none) => none
    | (d, some lost) =>
      let d := d.setMsg { m with got := m.got ++ [idx], times := m.times.filter (fun t => decide (t.1 ≠ idx)) }
      some (d.setItem { it with prog := it.prog + bytes.length, poison := it.poison || pz || lost })

/-- Send one more packet of a transfer: false when it cannot. -/
def msgStep (d : Dev) (it : Item) : Dev × Item × Bool :=
  match d.msgOf it.id with
  | none => (d, it, false)
  | some m =>
    let out := if m.kind = 1 then m.sent - m.got.length else m.sent - m.acked
    if m.packets ≤ m.sent ∨ m.len = 0 ∨ 8192 ≤ out then (d, it, false)
    else
      let c := it.desc
      let i := m.sent
      let n := min 256 (m.len - 256 * i)
      let r := msgLocal c
      let hdr : Packet := { kind := 4 + m.kind, dst := msgNode c, src := d.ownNode, job := d.jobOf it.part, tag := m.tag }
      let got := if m.kind = 1 then (d, some []) else d.localRead it r (r.base + 256 * i) n
      match got with
      | (d', none) => (d', it, false)
      | (d', some bs) =>
        let pkt : Packet :=
          if m.kind = 0 then { hdr with len := n, aux := i, addr := (msgRemote c + 256 * i) % 2 ^ 52, payload := bs.map (·.b) }
          else if m.kind = 1 then { hdr with len := n, aux := i, addr := (msgRemote c + 256 * i) % 2 ^ 52 }
          else { hdr with len := n, aux := c.word 5 % 2 ^ 32, addr := c.word 5 / 2 ^ 32 % 2 ^ 32, payload := bs.map (·.b) }
        let it' := { it.sawPoison r.space (r.base + 256 * i) bs with poison := it.poison || bs.any (·.p) }
        let m' := { m with sent := i + 1, times := m.times ++ [(i, d.time)] }
        let d' := (d'.setMsg m').setItem it'
        if m.port = 7 then
          -- to the module itself (R526)
          match m.kind with
          | 0 =>
            match d'.putArrives none pkt with
            | none => (d, it, false)
            | some d2 => ((d2.setMsg { m' with acked := i + 1, times := [] }).sweep (.item it.id), it', true)
          | 1 =>
            match d'.getArrives none pkt with
            | (d2, some (x, pz)) =>
              match d2.gdataWrite it' m' i x pz with
              | some d3 => (d3.sweep (.item it.id), (d3.item it.id).getD it', true)
              | none => (d, it, false)
            | (_, none) => (d, it, false)
          | _ =>
            match d'.sendArrives none pkt with
            | (d2, some st) =>
              ((d2.setMsg (if st = 2 then { m' with refused := true, times := [] } else { m' with acked := 1, times := [] })).sweep (.item it.id), it', true)
            | (_, none) => (d, it, false)
        else ((d'.sendOn pkt none).sweep (.item it.id), it', true)

/-- A message operation sends up to n packets. -/
def Dev.msgRun (d : Dev) (op id n : Nat) : Dev :=
  match d.msgWork op id with
  | some (d, it, _) =>
    let (d, it) := stepMany msgStep n d it
    d.setItem it
  | none => d

/-- PUT (R519, R520): up to n packets. -/
def cmdPut (item n : Nat) (d : Dev) : Dev := d.msgRun 0x70 item n
/-- GET (R519, R520): up to n requests. -/
def cmdGet (item n : Nat) (d : Dev) : Dev := d.msgRun 0x71 item n
/-- SEND (R519 to R523). -/
def cmdSend (item n : Nat) (d : Dev) : Dev := d.msgRun 0x72 item n

/-- The message operation that a response's tag names. -/
def Dev.msgTagged (d : Dev) (p : Packet) : Option (MsgOp × Item) :=
  d.fab.msgs.findSome? (fun m =>
    match d.item m.item with
    | some it => if m.tag = p.tag ∧ msgNode it.desc = p.src ∧ m.port ≠ 7 then some (m, it) else none
    | none => none)

/-- PACK (R520, R523): packets of a PUT performed, a SEND accepted or refused FULL. -/
def cmdPack (port : Nat) (p : Packet) (d : Dev) : Dev :=
  if !d.arrives port 0xA p || !d.forMe p then d
  else
    let d := d.takePacket port p
    match d.msgTagged p with
    | some (m, it) =>
      if m.kind = 0 then
        let k := max m.acked (min p.aux m.sent)
        (d.setMsg { m with acked := k, times := m.times.filter (fun t => decide (k ≤ t.1)) }).setItem { it with prog := min m.len (256 * k) }
      else if m.kind = 2 then
        if p.status = 2 then d.setMsg { m with refused := true, times := [] }
        else (d.setMsg { m with acked := 1, times := [] }).setItem { it with prog := m.len }
      else d
    | none => d

/-- GDATA (R520): written at its offset; with STATUS POISON, poisoned. -/
def cmdGdata (port : Nat) (p : Packet) (d : Dev) : Dev :=
  if !d.arrives port 0xB p || !d.forMe p then d
  else
    match d.msgTagged p with
    | some (m, it) =>
      if m.kind = 1 then (match (d.takePacket port p).gdataWrite it m p.aux p.payload (decide (p.status = 1)) with
        | some d => d
        | none => d)
      else d.takePacket port p
    | none => d.takePacket port p

/-- Every packet of the transfer is acknowledged or answered. -/
def MsgOp.complete (m : MsgOp) : Bool :=
  decide (m.len = 0) || decide (m.packets ≤ m.sent) && decide (m.packets ≤ (if m.kind = 1 then m.got.length else m.acked))

/-- A waiting item of the collective queue with an amount of zero completes without a start (R7). -/
def Item.colNoop (it : Item) : Bool :=
  decide (it.engine = .collective) && decide (it.place = .queued) && it.early.isNone && it.desc.zeroAmount

/-- MESSAGE_COMPLETION (R520, R526). -/
def cmdMessageCompletion (item : Nat) (d : Dev) : Dev :=
  match d.item item, d.msgOf item with
  | some it, some m =>
    if it.place = .running ∧ m.complete then
      (d.dropMsg item).finishItem { it with prog := if m.kind = 1 then it.prog else m.len }
    else d
  | some it, none => if it.colNoop && decide (it.desc.opcode ≤ 0x72) then d.finishItem it else d
  | _, _ => d

/-- MESSAGE_TIMEOUT (R525): a packet has been outstanding for one Turn period; GET writes the missing bytes with poison. -/
def cmdMessageTimeout (item : Nat) (d : Dev) : Dev :=
  match d.item item, d.msgOf item with
  | some it, some m =>
    if it.place = .running ∧ m.times.any (fun t => d.periodPast t.2) then
      let d := d.bump F.FAB_TIMEOUTS_TIMEOUTS 1
      let r := msgLocal it.desc
      let missing := (List.range m.packets).filter (fun i => !m.got.contains i)
      let d := if m.kind = 1 then
          missing.foldl (fun d i => (d.localWrite it r (r.base + 256 * i) (poisonBytes (min 256 (m.len - 256 * i)))).1) d
        else d
      (d.dropMsg item).finishItem { it with poison := true, prog := if m.kind = 1 then m.len else it.prog }
    else d
  | _, _ => d

/-- At a boundary a SEND refused FULL is sent again (R523). -/
def Dev.resendRefused (d : Dev) : Dev :=
  d.fab.msgs.foldl (fun d m =>
    if m.refused then
      match d.item m.item with
      | some it =>
        let d := d.setMsg { m with refused := false, sent := 0 }
        let (d, it) := stepMany msgStep 1 d it
        d.setItem it
      | none => d
    else d) d

end Sys2Proof.Machine
end

