-- ==== Sys2Proof/Machine/Press.lean ====
section
/-!
DEFINITION. Machine/Press.lean: the Press (chapter 05): the checks of its descriptors, element programs, mangle operations with
their row reductions and the hand-off from the Stones, lane programs, completion.
An item's `pos` is (d1, d2, chunk) for MANGLE, (instruction, 0, 0) for LANE; `vals` is [s, its poison] of R211; `ext` holds the
16 extension words and then the program.
-/
namespace Sys2Proof.Machine

/-! ### Fields (R204, R205, R214) -/

def mngInFmt (c : Desc) (k : Nat) : Nat := c.fld 2 (5 * k) 5
def mngOutFmt (c : Desc) : Nat := c.fld 2 15 5
def mngCvtc (c : Desc) : Nat := c.fld 2 20 8
/-- PLEN after R204. -/
def mngPlen (c : Desc) : Nat := min 64 (c.fld 2 28 7)
def mngReduce (c : Desc) : Nat := c.fld 2 35 3
/-- The broadcast code of an input: in0 is a full tensor. -/
def mngBc (c : Desc) (k : Nat) : Nat := if k = 1 then c.fld 2 38 2 else if k = 2 then c.fld 2 40 2 else 0
def mngDbl (c : Desc) : Bool := c.fld 2 42 1 = 1
def mngExt (c : Desc) : Nat := c.fld 6 0 52
def mngLink (c : Desc) : Bool := c.fld 0 10 1 = 1

/-- The program words among the words read with a descriptor. -/
def mngProg (ext : List Nat) : List Nat := ext.drop 16

/-- An arithmetic or a function opcode of R198. -/
def opArith (op : Nat) : Bool := decide (0x01 ≤ op) && decide (op ≤ 0x0E)
def opFunc (op : Nat) : Bool := decide (0x10 ≤ op) && decide (op ≤ 0x1D)

/-- Which of the operands a, b, c an opcode uses (R198). -/
def opUses (op : Nat) : List Nat :=
  if op = 0x04 ∨ op = 0x09 then [0, 1, 2]
  else if [0x01, 0x02, 0x03, 0x05, 0x06, 0x0A, 0x0B, 0x0C].contains op then [0, 1]
  else if op = 0x1C then [] else [0]

/-- The operand selects an instruction uses. -/
def mngSels (w : Nat) : List Nat := (opUses (bitsAt w 0 8)).map (fun k => bitsAt w (11 + 5 * k) 5)

/-- Input k is named by an instruction of the program (R206). -/
def mngNamed (prog : List Nat) (k : Nat) : Bool := prog.any (fun w => (mngSels w).contains (8 + k))

/-! ### Checks (R208, R214, R218) -/

/-- The cases of R208 for the program. -/
def mngProgFail (dbl : Bool) (prog : List Nat) : Bool :=
  prog.any (fun w =>
    let op := bitsAt w 0 8
    let f := bitsAt w 26 5
    !(opArith op || opFunc op) || (mngSels w).any (fun s => decide (20 < s))
      || (decide (op = 0x1D) && ((Fmt.ofCode f).isNone || decide (f = 18) || isMxCode f)) || (dbl && opFunc op))

/-- The cases of R208 that need the program and the block; `in0` is the producer's output in a linked operation:
(format code, reference, scale address). -/
def mngFail (c : Desc) (ext : List Nat) (in0 : Option (Nat × Ref × Nat)) : Bool :=
  let prog := mngProg ext
  let dbl := mngDbl c
  let out := mngOutFmt c
  let input (k : Nat) : Nat × Ref × Nat :=
    match k, in0 with
    | 0, some x => x
    | 0, none => (mngInFmt c 0, refOf (c.word 3), extAddr ext 3)
    | 1, _ => (mngInFmt c 1, refOf (c.word 4), extAddr ext 4)
    | _, _ => (mngInFmt c 2, refOf (extWord ext 0), extAddr ext 5)
  let o := refOf (c.word 5)
  let r := extWord ext 1
  mngProgFail dbl prog
  || (List.range 3).any (fun k => mngNamed prog k &&
      (let (f, ref, sc) := input k
       (Fmt.ofCode f).isNone || (decide (f = 18) && (decide (k ≠ 0) || dbl)) || (dbl && isMxCode f) || decide (3 ≤ ref.space)
         || (isMxCode f && decide (sc = 0))))
  || (Fmt.ofCode out).isNone || decide (out = 18) || (dbl && isMxCode out) || (isMxCode out && decide (extAddr ext 6 = 0))
  || (dbl && decide (mngReduce c ≠ 0)) || decide (5 ≤ mngReduce c)
  || !([0, 2].contains o.space)
  || (decide (mngReduce c ≠ 0) && (decide (r = 0) || !([0, 2].contains (refOf r).space)))

/-- Check a MANGLE; `prev` is the descriptor before it in the ring while it has not been admitted (R218). -/
def Dev.mangleCheck (d : Dev) (p : Nat) (who : Waiter) (c : Desc) (prev : Option Fetched) : Dev × Check × List Nat :=
  let linkFails : Bool := mngLink c && (match prev with
    | none => true
    | some f => !([0x10, 0x11].contains f.desc.opcode) || f.bad == some 0x03 || decide ((refOf (f.desc.word 5)).space ≠ 2)
        || (f.desc.turnBound != c.turnBound))
  if linkFails ∨ mngExt c = 0 ∨ mngExt c % 64 ≠ 0 then (d, .fail, [])
  else
    let (d, r, ext) := d.checkRead p who (mngExt c) 128
    match r with
    | .pass =>
      let a := extAddr ext 8
      if a = 0 ∨ a % 64 ≠ 0 then (d, .fail, [])
      else
        let (d, r, prog) := if mngPlen c = 0 then (d, Check.pass, []) else d.checkRead p who a (8 * mngPlen c)
        match r with
        | .pass =>
          let in0 := if mngLink c then prev.map (fun f => (stnOutFmt f.desc, refOf (f.desc.word 5), extAddr f.ext 2)) else none
          if mngFail c (ext ++ prog) in0 then (d, .fail, []) else (d, .pass, ext ++ prog)
        | r => (d, r, [])
    | r => (d, r, [])

/-- The checks of a LANE descriptor (R189, R214). -/
def Dev.laneCheckFails (d : Dev) (c : Desc) : Bool :=
  decide (d.layout ≠ 0) || mngLink c || decide (c.fld 1 0 52 = 0) || decide (c.fld 1 0 52 % 64 ≠ 0)

/-! ### Element programs (R196 to R203) -/

/-- A value in the Press: FP32 or FP64 bits and the poison mark. -/
abbrev PVal := Nat × Bool

/-- What an element of a program knows beside its temporaries. -/
structure PCtx where
  dbl : Bool
  cvtc : Nat
  seed : Nat
deriving DecidableEq, Repr

def PCtx.fmt (x : PCtx) : Fmt := if x.dbl then .fp64 else .fp32

/-- The random value of a stochastic rounding of element i (R81, R203). -/
def PCtx.rnd (x : PCtx) (i : Nat) : Nat :=
  if RMode.ofBits (bitsAt x.cvtc 0 3) = RMode.sr then srRandom x.seed i else 0

/-- A conversion under the operation's CVTC (R83). -/
def PCtx.conv (x : PCtx) (v : Num) (f : Fmt) (i : Nat) : Conv :=
  convert v f (RMode.ofBits (bitsAt x.cvtc 0 3)) (bitAt x.cvtc 4) (x.rnd i)

/-- QDQ (R198): the value with the SAT and NAN of its conversion. -/
def PCtx.qdq (x : PCtx) (f : Fmt) (a i : Nat) : Nat × Bool × Bool :=
  let c := x.conv (Fmt.fp32.decode a) f i
  (ieeeRound (f.decode c.bits) .fp32 .rne, c.sat, c.nan)

/-- One opcode of R198 on the element of linear index i: result, SAT, NAN. -/
def PCtx.apply (x : PCtx) (op f : Nat) (i : Nat) (a b c : PVal) : PVal × Bool × Bool :=
  let pz := (opUses op).any (fun k => if k = 0 then a.2 else if k = 1 then b.2 else c.2)
  if op = 0x1C then ((rnduBits x.seed i, false), false, false)
  else if op = 0x1D then
    let (v, sat, nan) := x.qdq (fmtOf f) a.1 i
    ((v, pz), sat, nan)
  else if opFunc op then ((fnBits op a.1, pz), false, false)
  else ((fnAlu x.fmt op a.1 b.1 c.1, pz), false, false)

/-- An input element brought into the program's format (R203): SAT and NAN of the conversions that round. -/
def PCtx.load (x : PCtx) (f : Fmt) (e : Elem) (code : Nat) : PVal × Bool × Bool :=
  if f = .w128 then
    let c := (ColSum.ofWide code e.p).convert .fp32 .rne false 0
    ((if x.dbl then ieeeRound (Fmt.fp32.decode c.bits) .fp64 .rne else c.bits, e.p), c.sat, c.nan)
  else if x.dbl then ((ieeeRound e.v .fp64 .rne, e.p), false, false)
  else
    let c := convert e.v .fp32 .rne false 0
    ((c.bits, e.p), c.sat, c.nan && decide (f = .fp64))

/-- The value an operand select names (R196). -/
def PCtx.select (x : PCtx) (ts ins ks : List PVal) (d0 s : Nat) : PVal :=
  if s < 8 then ts.getD s (0, false)
  else if s < 11 then ins.getD (s - 8) (0, false)
  else if s < 18 then ks.getD (s - 11) (0, false)
  else if s = 18 then (ieeeRound (Num.ofInt d0) x.fmt .rne, false)
  else if s = 20 then (x.fmt.one, false)
  else (0, false)

/-- One element passes the program: t0 after the last instruction, SAT, NAN (R197). It is poisoned when an input it reads is, whichever
temporary that input goes into (R224, log entry 27). -/
def PCtx.run (x : PCtx) (ins ks : List PVal) (d0 i : Nat) (prog : List Nat) : PVal × Bool × Bool :=
  let (ts, sat, nan) := prog.foldl (fun (st : List PVal × Bool × Bool) w =>
    let sel (k : Nat) : PVal := x.select st.1 ins ks d0 (bitsAt w (11 + 5 * k) 5)
    let (v, sat, nan) := x.apply (bitsAt w 0 8) (bitsAt w 26 5) i (sel 0) (sel 1) (sel 2)
    (st.1.set (bitsAt w 8 3) v, st.2.1 || sat, st.2.2 || nan)) (List.replicate 8 (0, false), false, false)
  (((ts.headD (0, false)).1, ins.any (·.2)), sat, nan)

/-! ### Row reductions (R211) -/

/-- The identity of a reduction: SUM and SUMSQ +0, MAX −∞, MIN +∞. -/
def redIdentity (r : Nat) : Nat := if r = 2 then Fmt.fp32.infBits true else if r = 3 then Fmt.fp32.infBits false else 0

/-- One combination of a reduction. -/
def redCombine (r : Nat) (a b : PVal) : PVal :=
  (fnAlu .fp32 (if r = 2 then 0x06 else if r = 3 then 0x05 else 0x01) a.1 b.1 0, a.2 || b.2)

def redPairs (r : Nat) : List PVal → List PVal
  | a :: b :: xs => redCombine r a b :: redPairs r xs
  | xs => xs

/-- A balanced tree of 2^k leaves. -/
def redTree (r : Nat) : Nat → List PVal → List PVal
  | 0, xs => xs
  | k + 1, xs => redTree r k (redPairs r xs)

/-- The value of a chunk of up to 2,048 leaves. -/
def redChunk (r : Nat) (xs : List PVal) : PVal :=
  (redTree r 11 (xs ++ List.replicate (2048 - xs.length) (redIdentity r, false))).headD (redIdentity r, false)

/-- The leaf of an output element: its square under SUMSQ. -/
def redLeaf (r : Nat) (t : PVal) : PVal := if r = 4 then (fnAlu .fp32 0x03 t.1 t.1 0, t.2) else t

/-! ### Inputs and outputs of a mangle operation -/

/-- The link of an item to its producer. -/
def Dev.linkOfItem (d : Dev) (it : Item) : Option PressLink :=
  if it.desc.opcode = 0x20 ∧ mngLink it.desc then d.prs.links.find? (fun l => l.mangle = it.id) else none

/-- (D0, D1, D2) of an operation (R204, R219). -/
def Dev.mngDims (d : Dev) (it : Item) : Nat × Nat × Nat :=
  match d.linkOfItem it with
  | some l => ((d.stnKN l.part l.desc).2.1, stnM l.desc, 1)
  | none => (it.desc.fld 1 0 24, it.desc.fld 1 24 24, it.desc.fld 1 48 16)

/-- Input k: format, reference, scale address (R204, R205, R219). -/
def Dev.mngInput (d : Dev) (it : Item) (k : Nat) : Fmt × Ref × Nat :=
  let c := it.desc
  match k, d.linkOfItem it with
  | 0, some l => (fmtOf (stnOutFmt l.desc), refOf (l.desc.word 5), extAddr l.ext 2)
  | 0, none => (fmtOf (mngInFmt c 0), refOf (c.word 3), extAddr it.ext 3)
  | 1, _ => (fmtOf (mngInFmt c 1), refOf (c.word 4), extAddr it.ext 4)
  | _, _ => (fmtOf (mngInFmt c 2), refOf (extWord it.ext 0), extAddr it.ext 5)

/-- The plane stride of operand j in bytes: 0 IN0, 1 IN1, 2 IN2, 3 OUT (R205); that of a linked input is not used. -/
def mngPlane (it : Item) (j d1 rowStr : Nat) : Nat :=
  let s := bitsAt (extWord it.ext 2) (16 * j) 16
  if s = 0 then d1 * rowStr else s * 4096

/-- Read n elements from element e of an array at a, with the scales from `sc` on (R121, R744): values and codes. -/
def Dev.pressElems (d : Dev) (it : Item) (f : Fmt) (r : Ref) (a e n sc : Nat) : Dev × Item × VRes (List (Elem × Nat)) :=
  let skip := if f.bits < 8 then e % 4 else 0
  let e0 := e - skip
  match d.boundRead it r.space (a + e0 * f.bits / 8) (rowBytes f.bits (n + skip)) r.hint with
  | (d, it, .wait) => (d, it, .wait)
  | (d, it, .fault x) => (d, it, .fault x)
  | (d, it, .ok bs) =>
    let codes := (unpackRow f (n + skip) bs).drop skip
    let done (ss : List MByte) : List (Elem × Nat) :=
      (withScaleBytes f e codes ss).zip (codes.map (·.1))
    if f.isMx then
      match d.boundRead it r.space (sc + e / 32) ((e + n + 31) / 32 - e / 32) r.hint with
      | (d, it, .ok ss) => (d, it, .ok (done ss))
      | (d, it, .wait) => (d, it, .wait)
      | (d, it, .fault x) => (d, it, .fault x)
    else (d, it, .ok (done []))
where
  /-- elements from index e on, under the scale bytes from that of block e ÷ 32 on -/
  withScaleBytes (f : Fmt) (e : Nat) (codes : List (Nat × Bool)) (ss : List MByte) : List Elem :=
    codes.zipIdx.map (fun (c : (Nat × Bool) × Nat) =>
      match (if f.isMx then ss[(e + c.2) / 32 - e / 32]? else none) with
      | some s => { v := elemValue f c.1.1 (some s.b.toNat), p := c.1.2 || s.p }
      | none => { v := elemValue f c.1.1 none, p := c.1.2 })

/-- The elements of input k that the chunk [c0, c0 + n) of row (d1, d2) reads (R206, R207). -/
def Dev.mngRead (d : Dev) (it : Item) (x : PCtx) (k d1 d2 c0 n : Nat) : Dev × Item × VRes (List (PVal × Bool × Bool)) :=
  let (f, r, sc) := d.mngInput it k
  let (D0, D1, _) := d.mngDims it
  let bc := mngBc it.desc k
  let str := r.rowStride (rowBytes f.bits D0)
  let scStr := if r.stride = 0 then (D0 + 31) / 32 else r.stride * 8 / f.bits / 32
  let row := d1 + D1 * d2
  let (d, it, got) :=
    if bc = 0 then d.pressElems it f r (r.base + d2 * mngPlane it k D1 str + d1 * str) c0 n (sc + row * scStr)
    else if bc = 1 then d.pressElems it f r r.base c0 n sc
    else if bc = 2 then d.pressElems it f r r.base row 1 sc
    else d.pressElems it f r r.base 0 1 sc
  (d, it, got.map (fun es =>
    let vs := es.map (fun (e : Elem × Nat) => x.load f e.1 e.2)
    if bc ≤ 1 then vs else List.replicate n (vs.headD ((0, false), false, false))))

/-- The named inputs of a chunk, in order; an input that is not named reads as nothing. -/
def Dev.mngInputs (d : Dev) (it : Item) (x : PCtx) (d1 d2 c0 n : Nat) : List Nat → Dev × Item × VRes (List (List (PVal × Bool × Bool)))
  | [] => (d, it, .ok [])
  | k :: ks =>
    if mngNamed (mngProg it.ext) k then
      match d.mngRead it x k d1 d2 c0 n with
      | (d, it, .ok v) =>
        let (d, it, r) := d.mngInputs it x d1 d2 c0 n ks
        (d, it, r.map (v :: ·))
      | (d, it, .wait) => (d, it, .wait)
      | (d, it, .fault y) => (d, it, .fault y)
    else
      let (d, it, r) := d.mngInputs it x d1 d2 c0 n ks
      (d, it, r.map ([] :: ·))

/-- The output elements of a chunk as codes, and the scale bytes of an MX output, with SAT and NAN (R66 to R71, R83, R744). -/
def PCtx.store (x : PCtx) (out : Fmt) (i0 : Nat) (ts : List PVal) : List (Nat × Bool) × List (Nat × Bool) × Bool × Bool :=
  if out.isMx then
    let vals := ts.zipIdx.map (fun (t : PVal × Nat) => (Fmt.fp32.decode t.1.1, x.rnd (i0 + t.2), t.1.2))
    let done := (chunks 32 vals.length vals).map (fun b =>
      let (bits, sc, sat, nan) := mxBlock out (bitAt x.cvtc 3) (RMode.ofBits (bitsAt x.cvtc 0 3)) (bitAt x.cvtc 4)
        (b.map (fun (v : Num × Nat × Bool) => (v.1, v.2.1)))
      ((bits.zip b).map (fun (e : Nat × Num × Nat × Bool) => (e.1, e.2.2.2)), (sc, b.any (·.2.2)), sat, nan))
    (done.flatMap (·.1), done.map (·.2.1), done.any (·.2.2.1), done.any (·.2.2.2))
  else
    let cs := ts.zipIdx.map (fun (t : PVal × Nat) => (x.conv (x.fmt.decode t.1.1) out (i0 + t.2), t.1.2))
    (cs.map (fun e => (e.1.bits, e.2)), [], cs.any (·.1.sat), cs.any (·.1.nan))

/-- A program or dimension of length zero: the operation is a no-op (R194). A linked operation whose producer has rows but
no columns takes the producer's status instead (R220). -/
def Dev.mngNoop (d : Dev) (it : Item) : Bool :=
  let (a, b, c) := d.mngDims it
  decide (mngPlen it.desc = 0) || (decide (a = 0) && !mngLink it.desc) || decide (b = 0) || decide (c = 0)

/-- Rows of a linked input that its producer has written, and its status once it has completed (R220). -/
def Dev.producerRows (d : Dev) (l : PressLink) : Nat × Option Nat :=
  match l.done with
  | some (st, n) => (n, some st)
  | none => (((d.item l.producer).map (·.prog)).getD 0, none)

/-- The producer has ended with fewer rows than its M, and every row it wrote has been processed: the status to take. -/
def Dev.producerEnd (d : Dev) (it : Item) : Option Nat :=
  match d.linkOfItem it with
  | some l =>
    match d.producerRows l with
    | (n, some st) => if n < stnM l.desc ∧ n ≤ it.pos.1 then some st else none
    | _ => none
  | none => none

/-- A MANGLE has nothing left to write. -/
def Dev.mngDone (d : Dev) (it : Item) : Bool :=
  d.mngNoop it || decide ((d.mngDims it).2.2 ≤ it.pos.2.1) || (d.producerEnd it).isSome

/-- A LANE program has run to its end. -/
def laneDone (it : Item) : Bool := decide (it.desc.fld 2 0 16 ≤ it.pos.1)

/-- A Press operation has nothing left to do. -/
def Dev.pressDone (d : Dev) (it : Item) : Bool :=
  it.early.isSome || (if it.desc.opcode = 0x20 then d.mngDone it else laneDone it)

/-- Earlier operations of the queue have read their last elements (R193), or the operation is a no-op. -/
def Dev.pressTurn (d : Dev) (it : Item) : Bool :=
  d.atOnce it || ((d.queueOf it.part .press Place.inQueue).takeWhile (fun x => decide (x.id ≠ it.id))).all (fun x => d.pressDone x)

/-- The element at which an output write faults (R403). -/
def outElement (i0 bits a : Nat) (f : FaultInfo) (len : Nat) : Nat :=
  if a ≤ f.va ∧ f.va < a + len then i0 + (f.va - a) * 8 / bits else i0

/-- One chunk of a MANGLE: read, compute, write, reduce (R204 to R211, R223). -/
def mangleStep (d : Dev) (it : Item) : Dev × Item × Bool :=
  if d.mngDone it then (d, it, false)
  else
    let c := it.desc
    let (D0, D1, _) := d.mngDims it
    let (d1, d2, ch) := it.pos
    let waits : Bool := match d.linkOfItem it with
      | some l => decide ((d.producerRows l).1 ≤ d1)
      | none => false
    if waits then (d, it, false)
    else
      let x : PCtx := { dbl := mngDbl c, cvtc := mngCvtc c, seed := extWord it.ext 7 }
      let c0 := 2048 * ch
      let n := min 2048 (D0 - c0)
      let row := d1 + D1 * d2
      let i0 := D0 * row + c0
      match d.mngInputs it x d1 d2 c0 n [0, 1, 2] with
      | (d, _, .wait) => (d, it, false)
      | (d, _, .fault f) =>
        let d := d.itemFault it f 3 it.part
        (d, (d.item it.id).getD it, false)
      | (d, it', .ok ins) =>
        let ks := (List.range 7).map (fun k => ((if x.dbl then extWord it.ext (9 + k) else extWord it.ext (9 + k) % 2 ^ 32, false) : PVal))
        let es := (List.range n).map (fun e =>
          x.run (ins.map (fun l => (l.getD e ((0, false), false, false)).1)) ks (c0 + e) (i0 + e) (mngProg it.ext))
        let ts := es.map (·.1)
        let out := fmtOf (mngOutFmt c)
        let (codes, scs, sat, nan) := x.store out i0 ts
        let red := mngReduce c
        let s0 : PVal := (it.vals.getD 0 0, it.vals.getD 1 0 = 1)
        let cv := redChunk red (ts.map (redLeaf red))
        let s := if ch = 0 then cv else redCombine red s0 cv
        let last := decide (D0 ≤ c0 + 2048)
        let o := refOf (c.word 5)
        let str := o.rowStride (rowBytes out.bits D0)
        let scStr := if o.stride = 0 then (D0 + 31) / 32 else o.stride * 8 / out.bits / 32
        let a := o.base + d2 * mngPlane it 3 D1 str + d1 * str + c0 * out.bits / 8
        let bytes := packRow out codes
        let rr := refOf (extWord it.ext 1)
        let ws := [(o, a, bytes)]
          ++ (if out.isMx then
              [(o, extAddr it.ext 6 + row * scStr + c0 / 32, scs.map (fun (z : Nat × Bool) => ({ b := BitVec.ofNat 8 z.1, p := z.2 } : MByte)))]
             else [])
          ++ (if red ≠ 0 ∧ last then [(rr, rr.base + 4 * row, packRow .fp32 [s])] else [])
        let inSat := ins.any (fun l => l.any (·.2.1))
        let inNan := ins.any (fun l => l.any (·.2.2))
        let it' := { it' with sat := it'.sat || sat || inSat || es.any (·.2.1), nan := it'.nan || nan || inNan || es.any (·.2.2),
                              poison := it'.poison || codes.any (·.2) || scs.any (·.2) || (decide (red ≠ 0) && last && s.2) }
        match d.writeAll it' ws with
        | (_, _, .wait) => (d, it, false)
        | (_, _, .fault f) =>
          let d := d.itemFault { it with pos := (outElement i0 out.bits a f bytes.length, 0, 0) } f 3 it.part
          (d, { (d.item it.id).getD it with pos := it.pos }, false)
        | (d, it', .ok lost) =>
          let it' := { it' with poison := it'.poison || lost, prog := it'.prog + min n ((d.spaceEnd o.space a - a) * 8 / out.bits), vals := if last then [] else [s.1, b2n s.2],
                                pos := if !last then (d1, d2, ch + 1) else if d1 + 1 < D1 then (d1 + 1, d2, 0) else (0, d2 + 1, 0) }
          let d := (d.sweep (.item it.id)).event (4 + it.part) 0x200 (some it.part) 0 n
          (if red ≠ 0 ∧ last then d.event (4 + it.part) 0x202 (some it.part) 0 1 else d, it', true)

/-- The item of a Press command, running: in its turn, behind its WAIT. -/
def Dev.pressWork (d : Dev) (op id : Nat) : Option Item :=
  d.atWork id (fun it => decide (it.desc.opcode = op) && d.pressTurn it) (fun it => some it.part)

/-- MANGLE (R204): up to n chunks. -/
def cmdMangle (item n : Nat) (d : Dev) : Dev :=
  match d.pressWork 0x20 item with
  | none => d
  | some it =>
    let begins : Bool := decide (((d.item item).map (·.place)) = some .queued) && decide (64 < it.desc.fld 2 28 7) && it.pos == (0, 0, 0)
    let it := if begins then { it with clamped := true } else it
    let d := (if begins then d.bump F.PRS_CLAMPS_COUNT 1 else d).setItem it
    let (d, it) := stepMany mangleStep n d it
    d.setItem it

/-! ### Lane mode (R213 to R217) -/

def noLane : Nat → Nat := fun _ => 0

/-- Element e of register r. -/
def Dev.lane (d : Dev) (dbl : Bool) (r e : Nat) : PVal :=
  let w (k : Nat) : Nat := SMap.get noLane d.prs.lanes (2048 * r + k)
  if dbl then (w (2 * e) % 2 ^ 32 + (w (2 * e + 1) % 2 ^ 32) * 2 ^ 32, decide (2 ^ 32 ≤ w (2 * e)) || decide (2 ^ 32 ≤ w (2 * e + 1)))
  else (w e % 2 ^ 32, decide (2 ^ 32 ≤ w e))

/-- Write elements 0, 1, … of register r. -/
def Dev.setLanes (d : Dev) (dbl : Bool) (r : Nat) (vs : List PVal) : Dev :=
  let ws := if dbl then vs.flatMap (fun v => [v.1 % 2 ^ 32 + b2n v.2 * 2 ^ 32, v.1 / 2 ^ 32 % 2 ^ 32 + b2n v.2 * 2 ^ 32])
    else vs.map (fun v => v.1 % 2 ^ 32 + b2n v.2 * 2 ^ 32)
  { d with prs := { d.prs with lanes := SMap.setRange noLane d.prs.lanes (2048 * r) ws } }

/-- The cases of R217: reserved opcode, BASE or format; a function in the FP64 view, and a base outside SPACE 0 to 2, are taken
as them (log entry 31). -/
def laneFails (c : Desc) (w : Nat) : Bool :=
  let op := bitsAt w 0 8
  let f := bitsAt w 40 5
  let dbl := bitAt w 45
  let base := bitsAt w 46 2
  let mem := decide (op = 0x30 ∨ op = 0x31)
  !(opArith op || opFunc op || (decide (0x30 ≤ op) && decide (op ≤ 0x36))) || decide (base = 3)
  || ((mem || decide (op = 0x1D)) && ((Fmt.ofCode f).isNone || isMxCode f || (decide (f = 16) && !dbl)))
  || (decide (f = 18) && decide (op = 0x31 ∨ op = 0x1D)) || (dbl && opFunc op)
  || (mem && decide (3 ≤ (refOf (c.word (3 + base))).space))

/-- COUNT after R215 and whether it was clamped. -/
def laneCount (w : Nat) : Nat × Bool :=
  let n := bitsAt w 28 12
  let full := if bitAt w 45 then 1024 else 2048
  if n = 4095 then (full, false) else if full < n then (full, true) else (n, false)

/-- The address of row ROW of a base: a dense row is a whole register long (log entry 31). -/
def laneRow (c : Desc) (w : Nat) (f : Fmt) : Ref × Nat :=
  let r := refOf (c.word (3 + bitsAt w 46 2))
  (r, r.base + bitsAt w 48 16 * r.rowStride (rowBytes f.bits (if bitAt w 45 then 1024 else 2048)))

/-- Elements of w bits that fit between a and the end of the space, at most n. -/
def Dev.laneFit (d : Dev) (space a bits n : Nat) : Nat := min n ((d.spaceEnd space a - a) * 8 / bits)

/-- One lane instruction. The instruction word is read where PROG says (R214). -/
def laneStep (d : Dev) (it : Item) : Dev × Item × Bool :=
  if laneDone it ∨ it.early.isSome then (d, it, false)
  else
    let c := it.desc
    let pa := c.fld 1 0 52 + 8 * it.pos.1
    match d.boundRead it 0 pa 8 0 with
    | (d, _, .wait) => (d, it, false)
    | (d, _, .fault f) =>
      let d := d.itemFault it f 3 it.part
      (d, (d.item it.id).getD it, false)
    | (d, it', .ok bs) =>
      let w := leNat (bs.map (·.b))
      if bs.any (·.p) then (d, { it' with early := some 0x11, poison := true }, false)
      else if laneFails c w then (d, { it with early := some 0x03 }, false)
      else
        let op := bitsAt w 0 8
        let dst := bitsAt w 8 5
        let dbl := bitAt w 45 && !(decide (0x34 ≤ op) && decide (op ≤ 0x36))
        let (n, cl) := laneCount w
        let f := fmtOf (bitsAt w 40 5)
        let x : PCtx := { dbl := dbl, cvtc := c.fld 2 16 8, seed := c.word 6 }
        let i0 := bitsAt w 48 16 * 2048
        let it := if cl then { it with clamped := true } else it
        let reg (k e : Nat) : PVal := d.lane dbl (bitsAt w (13 + 5 * k) 5) e
        let finish (d : Dev) (it : Item) : Dev × Item × Bool :=
          let d := if cl then d.bump F.PRS_CLAMPS_COUNT 1 else d
          ((d.sweep (.item it.id)).event (4 + it.part) 0x201 (some it.part) 0 1, { it with pos := (it.pos.1 + 1, 0, 0) }, true)
        if op = 0x30 then
          let (r, a) := laneRow c w f
          let k := d.laneFit r.space a f.bits n
          match d.pressElems it f r a 0 k 0 with
          | (d, _, .wait) => (d, it, false)
          | (d, _, .fault y) =>
            let d := d.itemFault it y 3 it.part
            (d, (d.item it.id).getD it, false)
          | (d, it', .ok es) =>
            let vs := es.map (fun (e : Elem × Nat) => x.load f e.1 e.2)
            finish (d.setLanes dbl dst (vs.map (·.1)))
              { it' with sat := it'.sat || vs.any (·.2.1), nan := it'.nan || vs.any (·.2.2), clamped := it'.clamped || decide (k < n) }
        else if op = 0x31 then
          let (r, a) := laneRow c w f
          let k := d.laneFit r.space a f.bits n
          let (codes, _, sat, nan) := x.store f i0 ((List.range k).map (reg 0))
          let bytes := packRow f codes
          match d.writeAll it [(r, a, bytes)] with
          | (_, _, .wait) => (d, it, false)
          | (_, _, .fault y) =>
            let d := d.itemFault { it with pos := (outElement 0 f.bits a y bytes.length, 0, 0) } y 3 it.part
            (d, { (d.item it.id).getD it with pos := it.pos }, false)
          | (d, it', .ok lost) =>
            finish (d.event (4 + it.part) 0x200 (some it.part) 0 k)
              { it' with sat := it'.sat || sat, nan := it'.nan || nan, poison := it'.poison || lost || codes.any (·.2), prog := it'.prog + k,
                         clamped := it'.clamped || decide (k < n) }
        else if op = 0x32 then finish (d.setLanes dbl dst (List.replicate n (reg 0 0))) it
        else if op = 0x33 then
          finish (d.setLanes dbl dst ((List.range n).map (fun (e : Nat) => (ieeeRound (Num.ofInt (e : Nat)) x.fmt .rne, false)))) it
        else if 0x34 ≤ op then
          let v := redChunk (op - 0x33) ((List.range n).map (reg 0))
          finish (d.setLanes dbl dst (List.replicate n v)) it
        else
          let vs := (List.range n).map (fun e => x.apply op (bitsAt w 40 5) (i0 + e) (reg 0 e) (reg 1 e) (reg 2 e))
          finish (d.setLanes dbl dst (vs.map (·.1)))
            { it with sat := it.sat || vs.any (·.2.1), nan := it.nan || vs.any (·.2.2) }

/-- LANE (R214): up to n instructions. -/
def cmdLane (item n : Nat) (d : Dev) : Dev :=
  match d.pressWork 0x21 item with
  | none => d
  | some it =>
    let d := d.setItem it
    let (d, it) := stepMany laneStep n d it
    d.setItem it

/-- A Press operation completes when everything it writes is written (R194); one whose producer ended early takes its status
(R220). -/
def cmdPressCompletion (item : Nat) (d : Dev) : Dev :=
  match d.item item with
  | some it =>
    if it.engine = .press ∧ it.place = .running ∧ it.fault = none ∧ d.pressTurn it ∧ d.pressDone it ∧ !d.winPending (.item item) then
      let it := if it.early.isNone && it.desc.opcode == 0x20 && decide (mngPlen it.desc ≠ 0) then { it with early := d.producerEnd it } else it
      (d.finishItem it).event (4 + it.part) 0x203 (some it.part) 0 1
    else d
  | none => d

end Sys2Proof.Machine
end

