-- ==== Sys2Proof/Machine/Collective.lean ====
section
/-!
DEFINITION. Machine/Collective.lean: collectives (R534 to R567): groups, REDUCE_SCATTER, ALL_GATHER, ALL_REDUCE, KV_PASS,
NORM2, their packets, gates and lenient groups. A data packet carries 64 elements, 32 of FP64 (log entry 50).
-/
namespace Sys2Proof.Machine

/-! ### Groups (R537 to R540) -/

def Dev.grpA (d : Dev) (g : Nat) : Nat := SMap.get (fun _ => 0) d.col.grpA g
def Dev.grpB (d : Dev) (g : Nat) : Nat := SMap.get (fun _ => 0) d.col.grpB g
def Dev.grpNext (d : Dev) (g : Nat) : Nat := bitsAt (d.grpA g) 0 18
def Dev.grpPrev (d : Dev) (g : Nat) : Nat := bitsAt (d.grpA g) 18 18
def Dev.grpRank (d : Dev) (g : Nat) : Nat := bitsAt (d.grpA g) 36 16
def Dev.grpPart (d : Dev) (g : Nat) : Nat := bitsAt (d.grpA g) 52 2
def Dev.grpLenient (d : Dev) (g : Nat) : Bool := bitAt (d.grpA g) 54
def Dev.grpCarry (d : Dev) (g : Nat) : Bool := bitAt (d.grpA g) 55
def Dev.grpSize (d : Dev) (g : Nat) : Nat := bitsAt (d.grpB g) 0 16 + 1
def Dev.grpJob (d : Dev) (g : Nat) : Nat := bitsAt (d.grpB g) 16 16
def Dev.grpGen (d : Dev) (g : Nat) : Nat := bitsAt (d.grpB g) 32 32

/-- A group entry is valid (R538). -/
def Dev.grpValid (d : Dev) (g : Nat) : Bool :=
  bitAt (d.grpA g) 56 && decide (d.grpRank g < d.grpSize g) && d.coordValid
    && nodeInDims (d.fab.dims.getD 0) (d.grpNext g) && nodeInDims (d.fab.dims.getD 0) (d.grpPrev g)

/-- OPSEQ of a group (R539). -/
def Dev.opseq (d : Dev) (g : Nat) : Nat := d.rf (F.COL_GRP_STAT_OPSEQ g)

/-! ### Descriptors (R541 to R545) -/

def colGroup (c : Desc) : Nat := c.fld 0 32 8
def colCount (c : Desc) : Nat := if c.opcode = 0x77 then min 32 (c.fld 1 0 40) else c.fld 1 0 40
def colIn (c : Desc) : Ref := refOf (c.word 3)
def colOut (c : Desc) : Ref := refOf (c.word 4)
def colInFmt (c : Desc) : Nat := c.fld 1 40 5
def colOutFmt (c : Desc) : Nat := c.fld 1 45 5
def colDue (c : Desc) : Nat := c.fld 2 32 32
def colExt (c : Desc) : Nat := c.fld 6 0 52

/-- The groups an item names, with the generation expected of each (R541, R542). -/
def colGroups (c : Desc) (ext : List Nat) : List (Nat × Nat) :=
  let g1 := (colGroup c, c.fld 2 0 32)
  if c.opcode = 0x77 then
    let k := min 3 (c.fld 0 56 2 + 1)
    ([g1, (c.fld 0 40 8, extWord ext 6 % 2 ^ 32), (c.fld 0 48 8, extWord ext 7 % 2 ^ 32)]).take k
  else [g1]

/-- Address of the gate word (R542); 0: none. -/
def colGate (ext : List Nat) : Nat := extWord ext 1 % 2 ^ 52

/-- The checks of R545 beside those of the extension block. -/
def Dev.colCheckFails (d : Dev) (p : Nat) (c : Desc) (ext : List Nat) : Bool :=
  let op := c.opcode
  let i := colInFmt c
  let o := colOutFmt c
  let fp32 := Fmt.fp32.code
  let bf16 := Fmt.bf16.code
  let e4m3 := Fmt.fp8e4m3.code
  let e5m2 := Fmt.fp8e5m2.code
  let fmtBad := if op = 0x73 ∨ op = 0x75 then !([fp32, bf16, e4m3, e5m2].contains i) || !(decide (o = fp32) || (decide (o = bf16) && decide (i = bf16)))
    else if op = 0x74 then !([Fmt.fp64.code, fp32, Fmt.int32.code, bf16, Fmt.fp16.code, e4m3, e5m2, Fmt.int8.code].contains i)
    else if op = 0x77 then decide (i ≠ fp32) || decide (o ≠ fp32)
    else false
  let mx := Fmt.fp32.decode (c.fld 5 0 32)
  c.turnBound || decide (0x78 ≤ op) || fmtBad
    || (colGroups c ext).any (fun g => !d.grpValid g.1 || decide (d.grpPart g.1 ≠ p))
    || !([0, 2].contains (colIn c).space) || !([0, 2].contains (colOut c).space)
    || (decide (op = 0x76) && (decide (colExt c = 0) || decide (extWord ext 3 % 2 ^ 52 = 0) || decide (extWord ext 4 % 2 ^ 52 = 0)))
    || (decide (op = 0x77) && (mx.isNan || bitAt (c.fld 5 0 32) 31))

/-- Check a collective or message descriptor when it is fetched; the words of its extension block come with it. -/
def Dev.colCheck (d : Dev) (p : Nat) (who : Waiter) (c : Desc) : Dev × Check × List Nat :=
  if c.opcode ≤ 0x72 then (d, if d.msgCheckFails c then .fail else .pass, [])
  else
    let (d, r, ext) := if colExt c = 0 then (d, Check.pass, []) else d.checkRead p who (colExt c / 64 * 64) 64
    match r with
    | .pass => (d, if d.colCheckFails p c ext then .fail else .pass, ext)
    | r => (d, r, [])

/-! ### Elements -/

def colSize (f : Nat) : Nat := (fmtOf f).bits / 8

/-- Elements of one packet (log entry 50). -/
def colPer (c : Desc) : Nat := if c.opcode = 0x74 ∧ colSize (colInFmt c) = 8 then 32 else 64

/-- The chunk size S of R546. -/
def colChunk (c : Desc) (g : Nat) : Nat := ceilDiv (ceilDiv (colCount c) g) 64 * 64

/-- Bounds of chunk k. -/
def chunkLo (c : Desc) (g k : Nat) : Nat := min (k * colChunk c g) (colCount c)
def chunkHi (c : Desc) (g k : Nat) : Nat := min ((k + 1) * colChunk c g) (colCount c)

/-- Packets of a stream of all elements. -/
def colPackets (c : Desc) : Nat := ceilDiv (colCount c) (colPer c)

/-- First element and number of elements of packet i. -/
def packetElems (c : Desc) (i : Nat) : Nat × Nat := (i * colPer c, min (colPer c) (colCount c - i * colPer c))

/-- An FP32 addition of R158 with its flags. -/
def addF32 (a b : Nat) : Nat × Bool × Bool :=
  let v := convert (Num.add false (Fmt.fp32.decode a) (Fmt.fp32.decode b)) .fp32 .rne false 0
  (v.bits, v.sat, v.nan)

/-- The square of an FP32 value, rounded (R567). -/
def sqF32 (a : Nat) : Nat :=
  let x := Fmt.fp32.decode a
  (convert (x.mul x) .fp32 .rne false 0).bits

/-- Bytes of elements as numbers. -/
def numsOf (w : Nat) (bs : List MByte) : List (Nat × Bool) := (chunks w bs.length bs).map (fun c => (leNat (c.map (·.b)), c.any (·.p)))

/-- The rank's contribution to packet i, as FP32, with a carried contribution added (R547, R561); none when it must wait. -/
def Dev.contribution (d : Dev) (it : Item) (r : ColRun) (i : Nat) : Dev × Option (List (Nat × Bool) × Bool) :=
  let c := it.desc
  let (e0, n) := packetElems c i
  if r.late then (d, some (List.replicate n (0, false), false))
  else
    let f := fmtOf (colInFmt c)
    let w := colSize (colInFmt c)
    let widen (x : Nat × Bool) : Nat × Bool := ((convert (f.decode x.1) .fp32 .rne false 0).bits, x.2)
    match d.localRead it (colIn c) ((colIn c).base + e0 * w) (n * w) with
    | (d, none) => (d, none)
    | (d, some bs) =>
      let xs := (numsOf w bs).map widen
      match r.carry with
      | none => (d, some (xs, false))
      | some src =>
        match d.localRead it (refOf src) ((refOf src).base + e0 * w) (n * w) with
        | (d, none) => (d, none)
        | (d, some bs') =>
          let ys := (numsOf w bs').map widen
          (d, some ((xs.zip ys).map (fun (x, y) => ((addF32 x.1 y.1).1, x.2 || y.2)), false))

/-! ### Runs -/

def Dev.colRun (d : Dev) (item : Nat) : Option ColRun := d.col.runs.find? (fun r => decide (r.item = item))
def Dev.setRun (d : Dev) (r : ColRun) : Dev :=
  { d with col := { d.col with runs := d.col.runs.map (fun x => if x.item = r.item then r else x) } }
def Dev.dropRun (d : Dev) (item : Nat) : Dev :=
  { d with col := { d.col with runs := d.col.runs.filter (fun r => decide (r.item ≠ item)), gatesMet := d.col.gatesMet.erase item } }

/-- The group a run works on. -/
def ColRun.group (r : ColRun) : Nat := r.groups.getD r.stage 0

/-- Ports whose engines an item needs (R550, R551): toward NEXT, and toward PREV where it receives deliveries. -/
def Dev.colPorts (d : Dev) (op : Nat) (groups : List Nat) : List Nat :=
  groups.flatMap (fun g =>
    if d.grpSize g = 1 then []
    else (d.firstHop (d.grpNext g)).toList ++ (if op = 0x74 ∨ op = 0x76 then [] else (d.firstHop (d.grpPrev g)).toList))

/-- Every engine the item needs has a free receive window of its eight (R550). -/
def Dev.windowsFree (d : Dev) (op : Nat) (groups : List Nat) : Bool :=
  let used (port : Nat) : Nat :=
    ((d.col.runs.flatMap (fun r => match d.item r.item with
      | some it => d.colPorts it.desc.opcode r.groups
      | none => [])).filter (fun x => decide (x = port))).length
  let mine := d.colPorts op groups
  mine.all (fun p => decide (used p + (mine.filter (fun x => decide (x = p))).length ≤ 8))

/-- A collective packet (R552). -/
def Dev.colPacket (d : Dev) (g sub index : Nat) (typ : Nat) (payload : List Byte) : Packet :=
  { kind := 0xC, src := d.ownNode, job := d.jobOf (d.grpPart g), len := payload.length, sub := sub, typ := typ, aux := d.grpGen g,
    addr := g + (d.opseq g % 256) * 2 ^ 8 + (index % 2 ^ 36) * 2 ^ 16, payload := payload }

def Dev.toNext (d : Dev) (g sub index typ : Nat) (payload : List Byte) : Dev :=
  d.sendOn { d.colPacket g sub index typ payload with dst := d.grpNext g } none
def Dev.toPrev (d : Dev) (g sub index typ : Nat) (payload : List Byte) : Dev :=
  d.sendOn { d.colPacket g sub index typ payload with dst := d.grpPrev g } none

/-- Grant PREV of the run's group at place `s` up to `n` packets (R550, R563). -/
def Dev.grantTo (d : Dev) (r : ColRun) (s n : Nat) : Dev × ColRun :=
  let g := r.groups.getD s 0
  if n ≤ r.gave.getD s 0 ∨ d.grpSize g = 1 then (d, r)
  else
    let r := { r with gave := r.gave.set s n }
    (d.toPrev g 2 (n - 1) 0 [], r)

/-- Packets this rank receives from PREV in all: the partials of the reduce phase, the other ranks' chunks, the KV blocks. -/
def Dev.colInStream (d : Dev) (it : Item) (g : Nat) : Nat :=
  let c := it.desc
  match c.opcode with
  | 0x74 => colPackets c
  | 0x76 => min (c.fld 1 50 6) (d.grpSize g - 1) * ceilDiv (colCount c) 256
  | 0x77 => if d.grpRank g = 0 then 0 else 1
  | _ => if d.grpRank g = 0 then 0 else colPackets c

/-- Packets granted to PREV: the window of 4,096 ahead of what was consumed, within the stream; KV_PASS within the steps that
RELEASE allows (R550, R563). -/
def Dev.grantLimit (d : Dev) (it : Item) (r : ColRun) (s : Nat) : Nat :=
  let g := r.groups.getD s 0
  let all := min (d.colInStream it g) ((if s = r.stage then r.got else 0) + 4096)
  if it.desc.opcode = 0x76 then min all ((r.release + 1) * ceilDiv (colCount it.desc) 256) else all

/-- Grant what may be granted now. -/
def Dev.grantAll (d : Dev) (it : Item) (r : ColRun) : Dev × ColRun :=
  (List.range r.groups.length).foldl (fun (acc : Dev × ColRun) s => acc.1.grantTo acc.2 s (acc.1.grantLimit it acc.2 s)) (d, r)

/-- An item ends early: its engines discard what they hold (R540). -/
def Dev.endCol (d : Dev) (it : Item) (status : Nat) : Dev :=
  let d := if it.place = .queued ∧ colGate it.ext ≠ 0 ∧ 0x73 ≤ it.desc.opcode then d.unfollow (colGate it.ext / 64) else d
  (d.dropRun it.id).finishItem { it with early := some status }

/-- An earlier item that names one of the groups is waiting or running (R536). -/
def Dev.colBlocked (d : Dev) (it : Item) : Bool :=
  let mine := (colGroups it.desc it.ext).map (·.1)
  ((d.queueOf it.part .collective Place.inQueue).takeWhile (fun x => decide (x.id ≠ it.id))).any (fun x =>
    decide (0x73 ≤ x.desc.opcode) && ((colGroups x.desc x.ext).map (·.1)).any (fun g => mine.contains g))

/-- Every condition of R536 but the gate. -/
def Dev.colMayStart (d : Dev) (it : Item) : Bool :=
  decide (d.colRunning it.part < 8) && d.colWaitOk it && !d.colBlocked it
    && (d.colPorts it.desc.opcode ((colGroups it.desc it.ext).map (·.1))).all (fun n => !d.underTest (37 + n))
    && d.windowsFree it.desc.opcode ((colGroups it.desc it.ext).map (·.1))

def Dev.gateMet (d : Dev) (it : Item) : Bool := decide (colGate it.ext = 0) || d.col.gatesMet.contains it.id

/-- The fields of a descriptor that act as others: STEPS beyond the group, COUNT above 32 of a NORM2, NGROUPS 3 (R541, R543). -/
def Dev.colFields (d : Dev) (it : Item) : Dev × Item :=
  let c := it.desc
  let kvClamp := decide (c.opcode = 0x76) && decide (d.grpSize (colGroup c) - 1 < c.fld 1 50 6)
  let nClamp := decide (c.opcode = 0x77) && decide (32 < c.fld 1 0 40)
  (if c.opcode = 0x77 ∧ c.fld 0 56 2 = 3 then d.clamped 1 else d, { it with clamped := it.clamped || kvClamp || nClamp })

/-- Start an item (R536, R540, R544, R550, R560, R561). -/
def Dev.colStart (d : Dev) (it : Item) (late : Bool) : Dev :=
  let c := it.desc
  let gs := colGroups c it.ext
  if gs.any (fun g => decide (g.2 ≠ d.grpGen g.1)) then d.endCol it 0x31
  else
    let g := colGroup c
    let reduces := decide (c.opcode = 0x73 ∨ c.opcode = 0x75)
    let held := d.col.carries.find? (fun x => decide (x.group = g))
    let fits := match held with
      | some x => decide (x.count = colCount c) && decide (x.fmt = colInFmt c)
      | none => false
    let d := if reduces then { d with col := { d.col with carries := d.col.carries.filter (fun x => decide (x.group ≠ g)) } } else d
    let d := if late && reduces && d.grpCarry g then
        { d with col := { d.col with carries := d.col.carries ++ [{ group := g, src := c.word 3, count := colCount c, fmt := colInFmt c }] } }
      else d
    let d := if late then d.bump F.COL_EVENTS_LATE 1 else d
    let carry := if reduces && !late && fits then held.map (·.src) else none
    let r : ColRun := { item := it.id, groups := gs.map (·.1), late := late, carry := carry,
                        discarded := reduces && held.isSome && !(fits && !late) }
    let (d, it) := d.colFields it
    let it := { it with place := .running }
    let d := { d with col := { d.col with runs := d.col.runs ++ [r], gatesMet := d.col.gatesMet.erase it.id } }
    let d := if colGate it.ext ≠ 0 then d.unfollow (colGate it.ext / 64) else d
    let d := match d.firstHop (d.grpNext g) with
      | some n => d.event (34 + n) 0x707 (some it.part) 0 1
      | none => d
    let d := d.setItem it
    let (d, r) := d.grantAll it r
    d.setRun r

/-- The running item of a collective command; a waiting one starts if it may. -/
def Dev.colWork (d : Dev) (op id : Nat) : Option (Dev × Item × ColRun) :=
  match d.item id with
  | some it =>
    if it.desc.opcode ≠ op ∨ it.early.isSome then none
    else
      let d := match it.place with
        | .queued => if d.colMayStart it && d.gateMet it && !it.desc.zeroAmount then d.colStart it false else d
        | _ => d
      match d.item id, d.colRun id with
      | some it', some r => some (d, it', r)
      | _, _ => some (d, it, { item := 2 ^ 64, groups := [] })
  | none => none

/-! ### Writing results -/

/-- Write converted results of packet i where this rank keeps them, and note the squares of the rank's own chunk; none when
it must wait. -/
def Dev.resultWrite (d : Dev) (it : Item) (r : ColRun) (i : Nat) (vals : List Nat) : Dev × Option (Item × ColRun) :=
  let c := it.desc
  let g := r.group
  let G := d.grpSize g
  let k := d.grpRank g
  let f := fmtOf (colOutFmt c)
  let w := colSize (colOutFmt c)
  let (e0, n) := packetElems c i
  let lo := chunkLo c G k
  let hi := chunkHi c G k
  let own := decide (lo ≤ e0) && decide (e0 < hi)
  let writes := decide (c.opcode = 0x75) || own
  let r := if own then
      { r with ownSq := (vals.zipIdx.foldl (fun m e =>
          SMap.set (fun _ => 0) m (e0 + e.2 - lo) (sqF32 ((convert (f.decode e.1) .fp32 .rne false 0).bits))) r.ownSq) }
    else r
  if !writes then (d, some (it, r))
  else
    let at' := (colOut c).base + (if c.opcode = 0x75 then e0 else e0 - lo) * w
    match d.localWrite it (colOut c) at' ((vals.take n).flatMap (fun v => (leBytes w v).map (fun b => { b := b }))) with
    | (d, none) => (d, none)
    | (d, some lost) => (d, some ({ it with poison := it.poison || lost }, { r with written := r.written + n }))

/-- Rank G − 1 holds the results of packet i: they are converted, kept where they belong and delivered along PREV (R548). -/
def Dev.resultReady (d : Dev) (it : Item) (r : ColRun) (i : Nat) (sums : List Nat) : Dev × Option (Item × ColRun) :=
  let c := it.desc
  let g := r.group
  let G := d.grpSize g
  let w := colSize (colOutFmt c)
  let cs := sums.map (fun s => convert (Fmt.fp32.decode s) (fmtOf (colOutFmt c)) .rne false 0)
  let it := { it with sat := it.sat || cs.any (·.sat), nan := it.nan || cs.any (·.nan) }
  let vals := cs.map (·.bits)
  match d.resultWrite it r i vals with
  | (d, none) => (d, none)
  | (d, some (it, r)) =>
    let owner := (packetElems c i).1 / max 1 (colChunk c G)
    let onward := decide (1 < G) && (decide (c.opcode = 0x75) || decide (owner < G - 1))
    (if onward then d.toPrev g 1 i 0 (vals.flatMap (leBytes w)) else d, some (it, r))

/-- This rank adds its contribution to a partial of packet i and passes it on, or holds the result (R547). `prev` is empty at
rank 0. None: it must wait for data or for a grant. -/
def Dev.reduceOne (d : Dev) (it : Item) (r : ColRun) (i : Nat) (prev : Option (List Nat)) : Dev × Option (Item × ColRun) :=
  let g := r.group
  let last := decide (d.grpRank g + 1 = d.grpSize g)
  if !last && decide (r.granted.getD r.stage 0 ≤ i) then (d, none)
  else
    match d.contribution it r i with
    | (d, none) => (d, none)
    | (d, some (xs, _)) =>
      let e0 := (packetElems it.desc i).1
      let r := if r.late then r else
        { r with localSq := xs.zipIdx.foldl (fun m e => SMap.set (fun _ => 0) m (e0 + e.2) (sqF32 e.1.1)) r.localSq }
      let sums : List (Nat × Bool × Bool) := match prev with
        | none => xs.map (fun x => (x.1, false, false))
        | some ps => if r.late then ps.map (fun p => (p, false, false)) else (xs.zip ps).map (fun (x, p) => addF32 p x.1)
      let it := { it with sat := it.sat || sums.any (·.2.1), nan := it.nan || sums.any (·.2.2), poison := it.poison || xs.any (·.2) }
      let d := match prev, d.firstHop (d.grpNext g) with
        | some _, some n => d.event (34 + n) 0x706 (some it.part) 0 1
        | _, _ => d
      if last then d.resultReady it r i (sums.map (·.1))
      else (d.toNext g 0 i 4 (sums.flatMap (fun s => leBytes 4 s.1)), some (it, r))

/-- Rank 0 sends one more packet of the reduce phase. -/
def reduceStep (d : Dev) (it : Item) : Dev × Item × Bool :=
  match d.colRun it.id with
  | none => (d, it, false)
  | some r =>
    if d.grpRank r.group ≠ 0 ∨ colPackets it.desc ≤ r.sent then (d, it, false)
    else
      match d.reduceOne it r r.sent none with
      | (_, none) => (d, it, false)
      | (d, some (it, r)) => (((d.setRun { r with sent := r.sent + 1 }).setItem it).sweep (.item it.id), it, true)

/-- Run a collective command for at most n packets. -/
def Dev.colRunN (d : Dev) (op id n : Nat) (f : Dev → Item → Dev × Item × Bool) : Dev :=
  match d.colWork op id with
  | some (d, it, r) =>
    if r.item = id then
      let (d, it) := stepMany f n d it
      d.setItem it
    else d
  | none => d

/-- REDUCE_SCATTER (R546 to R548): the item starts; rank 0 sends up to n packets of its chain. -/
def cmdReduceScatter (item n : Nat) (d : Dev) : Dev := d.colRunN 0x73 item n reduceStep
/-- ALL_REDUCE. -/
def cmdAllReduce (item n : Nat) (d : Dev) : Dev := d.colRunN 0x75 item n reduceStep

/-- Send one more packet of the rank's own chunk along NEXT, and keep it at OUT (R548). -/
def gatherColStep (d : Dev) (it : Item) : Dev × Item × Bool :=
  match d.colRun it.id with
  | none => (d, it, false)
  | some r =>
    let c := it.desc
    let g := r.group
    let G := d.grpSize g
    let lo := chunkLo c G (d.grpRank g)
    let hi := chunkHi c G (d.grpRank g)
    let i := lo / colPer c + r.sent
    let (e0, n) := packetElems c i
    if hi ≤ e0 ∨ lo = hi ∨ (1 < G ∧ r.granted.getD 0 0 ≤ i) then (d, it, false)
    else
      let w := colSize (colInFmt c)
      match d.localRead it (colIn c) ((colIn c).base + (e0 - lo) * w) (n * w) with
      | (d', none) => (d', it, false)
      | (d', some bs) =>
        match d'.localWrite it (colOut c) ((colOut c).base + e0 * w) bs with
        | (_, none) => (d, it, false)
        | (d', some lost) =>
          let it := { it with poison := it.poison || lost || bs.any (·.p) }
          let d' := d'.setRun { r with sent := r.sent + 1, written := r.written + n }
          let d' := if 1 < G then d'.toNext g 1 i 0 (bs.map (·.b)) else d'
          ((d'.setItem it).sweep (.item it.id), it, true)

/-- ALL_GATHER (R548): the item starts and streams up to n packets of its chunk. -/
def cmdAllGather (item n : Nat) (d : Dev) : Dev := d.colRunN 0x74 item n gatherColStep

/-! ### KV_PASS (R562, R563) -/

def Dev.kvSteps (d : Dev) (it : Item) : Nat := min (it.desc.fld 1 50 6) (d.grpSize (colGroup it.desc) - 1)
def kvPer (c : Desc) : Nat := ceilDiv (colCount c) 256
/-- Buffer b of a KV_PASS. -/
def kvBuf (c : Desc) (b : Nat) : Ref := if b % 2 = 0 then colIn c else colOut c

/-- Send one more packet: step s = sent ÷ packets + 1 sends buffer (s − 1) mod 2, once the block before has arrived. -/
def kvStep (d : Dev) (it : Item) : Dev × Item × Bool :=
  match d.colRun it.id with
  | none => (d, it, false)
  | some r =>
    let c := it.desc
    let per := kvPer c
    if per = 0 ∨ d.kvSteps it * per ≤ r.sent then (d, it, false)
    else
      let s := r.sent / per + 1
      let i := r.sent % per
      if (2 ≤ s ∧ r.written < s - 1) ∨ r.granted.getD 0 0 ≤ r.sent then (d, it, false)
      else
        let b := kvBuf c (s - 1)
        match d.localRead it b (b.base + 256 * i) (min 256 (colCount c - 256 * i)) with
        | (d', none) => (d', it, false)
        | (d', some bs) =>
          let it := { it with poison := it.poison || bs.any (·.p) }
          let d' := (d'.setRun { r with sent := r.sent + 1 }).toNext r.group 3 r.sent 0 (bs.map (·.b))
          ((d'.setItem it).sweep (.item it.id), it, true)

/-- KV_PASS (R562, R563): the item starts and sends up to n packets. -/
def cmdKvPass (item n : Nat) (d : Dev) : Dev := d.colRunN 0x76 item n kvStep

/-- KV_RELEASE_POLL (R563): the RELEASE word is read again, and the grants it allows are made. -/
def cmdKvReleasePoll (item : Nat) (d : Dev) : Dev :=
  match d.item item, d.colRun item with
  | some it, some r =>
    if it.desc.opcode ≠ 0x76 then d
    else
      match d.vread it.part (.item item) (extWord it.ext 4 % 2 ^ 52) 8 with
      | (d, .ok bs) =>
        let (x, pz) := plain bs
        let d := d.sweep (.item item)
        let r := if pz || !doorbellOk (leNat x) then r else { r with release := leNat x % 2 ^ 32 }
        let (d, r) := d.grantAll it r
        d.setRun r
      | (d, _) => d
  | _, _ => d

/-! ### NORM2 (R564, R565) -/

/-- The quotient of two finite positive values to more than enough bits, with a sticky last bit. -/
def divNum (m1 : Nat) (e1 : Int) (m2 : Nat) (e2 : Int) : Num :=
  let a := m1 * 2 ^ (128 + bitLen m2)
  .fin false (2 * (a / m2) + b2n (decide (a % m2 ≠ 0))) (e1 - e2 - 129 - (bitLen m2 : Int))

/-- The clip factor (R565) and whether it sets NAN. -/
def clipFactor (maxnorm v0 : Nat) : Nat × Bool :=
  let one := Fmt.one .fp32
  let f32 (x : Num) : Nat := (convert x .fp32 .rne false 0).bits
  match Fmt.fp32.decode v0 with
  | .nan => (Fmt.fp32.canonNan, true)
  | .zero _ => (one, false)
  | .inf false => (0, false)
  | .inf true => (Fmt.fp32.canonNan, true)
  | .fin true _ _ => (Fmt.fp32.canonNan, true)
  | .fin false m e =>
    let root := f32 ((Num.fin false m e).sqrt)
    match Fmt.fp32.decode maxnorm, Fmt.fp32.decode root with
    | .inf _, _ => (one, false)
    | .fin _ m1 e1, .fin _ m2 e2 =>
      let q := f32 (divNum m1 e1 m2 e2)
      (fMinMax .fp32 false one q, false)
    | _, _ => (one, false)

/-- The FP32 values a NORM2 begins with. -/
def Dev.normIn (d : Dev) (it : Item) : Dev × Option (List (Nat × Bool)) :=
  match d.localRead it (colIn it.desc) (colIn it.desc).base (4 * colCount it.desc) with
  | (d, some bs) => (d, some (numsOf 4 bs))
  | (d, none) => (d, none)

/-- Write the sums and the clip factor (R564, R565). -/
def Dev.normWrite (d : Dev) (it : Item) (r : ColRun) (vals : List Nat) : Dev × Option (Item × ColRun) :=
  let c := it.desc
  let o := colOut c
  match d.localWrite it o o.base (vals.flatMap (fun v => (leBytes 4 v).map (fun b => { b := b }))) with
  | (d, none) => (d, none)
  | (d, some lost) =>
    let it := { it with poison := it.poison || lost }
    let r := { r with written := vals.length, stage := r.groups.length }
    if c.fld 5 0 31 = 0 then (d, some (it, r))
    else
      let (f, nan) := clipFactor (c.fld 5 0 32) (vals.getD 0 0)
      match d.localWrite it o (o.base + 128) ((leBytes 4 f).map (fun b => { b := b })) with
      | (d, none) => (d, none)
      | (d, some lost') => (d, some ({ it with nan := it.nan || nan, poison := it.poison || lost' }, r))

/-- A group's result is here: the next group starts from it, or it is written (R564). -/
def Dev.normResult (d : Dev) (it : Item) (r : ColRun) (vals : List Nat) : Dev × Option (Item × ColRun) :=
  if r.stage + 1 < r.groups.length then (d, some (it, { r with stage := r.stage + 1, vec := vals, sent := 0, got := 0 }))
  else d.normWrite it r vals

/-- This rank's part of the reduce phase of the current group: `prev` is the partial received, none at rank 0. -/
def Dev.normAdd (d : Dev) (it : Item) (r : ColRun) (prev : Option (List Nat)) : Dev × Option (Item × ColRun) :=
  let g := r.group
  let last := decide (d.grpRank g + 1 = d.grpSize g)
  if !last && decide (r.granted.getD r.stage 0 = 0) then (d, none)
  else
    match (if r.stage = 0 then d.normIn it else (d, some (r.vec.map (fun v => (v, false))))) with
    | (d, none) => (d, none)
    | (d, some xs0) =>
      let late := r.late && decide (r.stage = 0)
      let xs := if late then xs0.map (fun _ => (0, false)) else xs0
      let sums : List (Nat × Bool × Bool) := match prev with
        | none => xs.map (fun x => (x.1, false, false))
        | some ps => if late then ps.map (fun p => (p, false, false)) else (xs.zip ps).map (fun (x, p) => addF32 p x.1)
      let it := { it with sat := it.sat || sums.any (·.2.1), nan := it.nan || sums.any (·.2.2), poison := it.poison || xs.any (·.2) }
      let bytes := sums.flatMap (fun s => leBytes 4 s.1)
      let r := { r with sent := 1 }
      if last then
        let d := if 1 < d.grpSize g then d.toPrev g 5 0 0 bytes else d
        d.normResult it r (sums.map (·.1))
      else (d.toNext g 4 0 4 bytes, some (it, r))

/-- NORM2 where this module is rank 0 of the current group: its vector starts the chain. -/
def normStep (d : Dev) (it : Item) : Dev × Item × Bool :=
  match d.colRun it.id with
  | none => (d, it, false)
  | some r =>
    if r.groups.length ≤ r.stage ∨ colCount it.desc = 0 ∨ d.grpRank r.group ≠ 0 ∨ r.sent ≠ 0 then (d, it, false)
    else
      match d.normAdd it r none with
      | (_, none) => (d, it, false)
      | (d, some (it, r)) => (((d.setRun r).setItem it).sweep (.item it.id), it, true)

/-- NORM2 (R564): the item starts; a rank 0 sends its vector. -/
def cmdNorm2 (item n : Nat) (d : Dev) : Dev := d.colRunN 0x77 item n normStep

/-! ### Collective packets (R553) -/

/-- What the checks of R553 say of a packet. -/
inductive ColAns
  | drop
  | stale
  | run (it : Item) (r : ColRun)
deriving DecidableEq, Repr

def colIndex (p : Packet) : Nat := p.addr / 2 ^ 16 % 2 ^ 36
def colGrp (p : Packet) : Nat := p.addr % 256

/-- A group's partition is stopped for its job (R528, R553): its collective rings are. -/
def Dev.colStopped (d : Dev) (p : Nat) : Bool :=
  (List.range 64).any (fun r =>
    let n := ringIndex p r
    decide (d.ringClass n = 2) && d.rb (F.QUE_RSTAT_STOPPED n) && decide (d.rf (F.QUE_RSTAT_STOP_STATUS n) = 0x30))

/-- The checks of R553 before the last. -/
def Dev.colHead (d : Dev) (p : Packet) : Option Bool :=
  let g := colGrp p
  if !d.grpValid g || d.colStopped (d.grpPart g) || decide (p.job ≠ d.grpJob g) then some false
  else if p.aux ≠ d.grpGen g then some true
  else none

/-- Judge a packet of SUB 0 to 5 for a running item (R553). `dir`: 0 it must come from PREV, 1 from NEXT. -/
def Dev.colJudge (d : Dev) (p : Packet) (fromNext : Bool) (ok : Item → ColRun → Bool) : ColAns :=
  let g := colGrp p
  match d.colHead p with
  | some false => .drop
  | some true => .stale
  | none =>
    if p.src ≠ (if fromNext then d.grpNext g else d.grpPrev g) ∨ p.addr / 2 ^ 8 % 256 ≠ d.opseq g % 256 then .drop
    else
      match d.col.runs.find? (fun r => r.groups.contains g) with
      | some r =>
        match d.item r.item with
        | some it => if ok it r then .run it { r with heard := true } else .drop
        | none => .drop
      | none => .drop

/-- A collective packet command: it is judged, counted or handled. -/
def Dev.colArrive (d : Dev) (port sub : Nat) (p : Packet) (fromNext : Bool) (ok : Item → ColRun → Bool)
    (f : Dev → Item → ColRun → Option Dev) : Dev :=
  if !d.arrives port 0xC p || decide (p.sub ≠ sub) || !d.forMe p then d
  else
    let d1 := d.takePacket port p
    match d.colJudge p fromNext ok with
    | .drop => d1.bump F.COL_EVENTS_DROP 1
    | .stale => d1.bump F.COL_EVENTS_STALE 1
    | .run it r =>
      match f (d1.setRun r) it r with
      | some d => d
      | none => d

/-- REDUCE_PARTIAL (R547, R550): the rank adds its contribution and passes the partial on. -/
def cmdReducePartial (port : Nat) (p : Packet) (d : Dev) : Dev :=
  d.colArrive port 0 p false
    (fun it r => decide (it.desc.opcode = 0x73 ∨ it.desc.opcode = 0x75) && decide (colIndex p = r.got) && decide (colIndex p < r.gave.getD 0 0))
    (fun d it r =>
      match d.reduceOne it r (colIndex p) (some ((chunks 4 p.payload.length p.payload).map leNat)) with
      | (_, none) => none
      | (d, some (it, r)) =>
        let d := d.setItem it
        let (d, r) := d.grantAll it { r with got := r.got + 1 }
        some ((d.setRun r).sweep (.item it.id)))

/-- Write a gathered packet at its offset and forward it until it has passed every rank (R548). -/
def Dev.gatherArrive (d : Dev) (it : Item) (r : ColRun) (i : Nat) (bs : List Byte) : Option Dev :=
  let c := it.desc
  let g := r.group
  let G := d.grpSize g
  let w := colSize (colInFmt c)
  let (e0, n) := packetElems c i
  let owner := e0 / max 1 (colChunk c G)
  let onward := decide ((d.grpRank g + 1) % G ≠ owner)
  if onward && decide (r.granted.getD 0 0 ≤ i) then none
  else
    match d.localWrite it (colOut c) ((colOut c).base + e0 * w) (bs.map (fun b => { b := b })) with
    | (_, none) => none
    | (d, some lost) =>
      let it := { it with poison := it.poison || lost }
      let d := if onward then d.toNext g 1 i 0 bs else d
      let d := d.setItem it
      let (d, r) := d.grantAll it { r with delivered := r.delivered ++ [i], got := r.got + 1, written := r.written + n }
      some ((d.setRun r).sweep (.item it.id))

/-- The group's running item gathers. -/
def Dev.gathering (d : Dev) (g : Nat) : Bool :=
  match d.col.runs.find? (fun r => r.groups.contains g) with
  | some r => ((d.item r.item).map (fun it => decide (it.desc.opcode = 0x74))).getD false
  | none => false

/-- DELIVERED_RESULT (R548): a delivered result or a gathered packet is written and forwarded. -/
def cmdDeliveredResult (port : Nat) (p : Packet) (d : Dev) : Dev :=
  if d.gathering (colGrp p) then
    d.colArrive port 1 p false
      (fun it r => decide (it.desc.opcode = 0x74) && !r.delivered.contains (colIndex p) && decide (colIndex p < r.gave.getD 0 0))
      (fun d it r => d.gatherArrive it r (colIndex p) p.payload)
  else
    d.colArrive port 1 p true
      (fun it r => decide (it.desc.opcode = 0x73 ∨ it.desc.opcode = 0x75) && !r.delivered.contains (colIndex p)
        && decide (colIndex p < colPackets it.desc))
      (fun d it r =>
        let c := it.desc
        let g := r.group
        let G := d.grpSize g
        let i := colIndex p
        let vals := (chunks (colSize (colOutFmt c)) p.payload.length p.payload).map leNat
        let owner := (packetElems c i).1 / max 1 (colChunk c G)
        let onward := decide (0 < d.grpRank g) && (decide (c.opcode = 0x75) || decide (owner < d.grpRank g))
        match d.resultWrite it { r with delivered := r.delivered ++ [i] } i vals with
        | (_, none) => none
        | (d, some (it, r)) =>
          let d := (d.setRun r).setItem it
          some ((if onward then d.toPrev g 1 i 0 p.payload else d).sweep (.item it.id)))

/-- GRANT (R550): NEXT lets this rank send up to a packet index. -/
def cmdGrant (port : Nat) (p : Packet) (d : Dev) : Dev :=
  d.colArrive port 2 p true (fun _ _ => true)
    (fun d _ r =>
      let s := (r.groups.findIdx? (fun g => decide (g = colGrp p))).getD 0
      some (d.setRun { r with granted := r.granted.set s (max (r.granted.getD s 0) (colIndex p + 1)) }))

/-- KV_BLOCK (R562, R563): a packet of the block of step s; when the block is whole, ARRIVE is written with s. -/
def cmdKvBlock (port : Nat) (p : Packet) (d : Dev) : Dev :=
  d.colArrive port 3 p false
    (fun it r => decide (it.desc.opcode = 0x76) && decide (colIndex p = r.got) && decide (colIndex p < r.gave.getD 0 0))
    (fun d it r =>
      let c := it.desc
      let per := kvPer c
      let s := colIndex p / per + 1
      let i := colIndex p % per
      let b := kvBuf c s
      match d.localWrite it b (b.base + 256 * i) (p.payload.map (fun x => { b := x })) with
      | (_, none) => none
      | (d, some lost) =>
        let whole := decide (i + 1 = per)
        let r := { r with got := r.got + 1, written := if whole then s else r.written }
        let it := { it with poison := it.poison || lost }
        let arrive : Ref := { base := 0, space := 0, stride := 0, hint := 0 }
        let w := if whole then d.localWrite it arrive (extWord it.ext 3 % 2 ^ 52) ((leBytes 8 (doorbellWord s)).map (fun x => { b := x })) else (d, some false)
        match w with
        | (_, none) => none
        | (d, some lost') =>
          let it := { it with poison := it.poison || lost' }
          let d := d.setItem it
          let (d, r) := d.grantAll it r
          some ((d.setRun r).sweep (.item it.id)))

/-- NORM2_PARTIAL (R564): added and passed on; a partial of a later group waits for this module to reach it. -/
def cmdNorm2Partial (port : Nat) (p : Packet) (d : Dev) : Dev :=
  d.colArrive port 4 p false (fun it _ => decide (it.desc.opcode = 0x77) && decide (colIndex p = 0))
    (fun d it r =>
      if r.group ≠ colGrp p ∨ r.got ≠ 0 then none
      else
        match d.normAdd it { r with got := 1 } (some ((chunks 4 p.payload.length p.payload).map leNat)) with
        | (_, none) => none
        | (d, some (it, r)) => some (((d.setRun r).setItem it).sweep (.item it.id)))

/-- NORM2_RESULT (R564, R565): forwarded, and the next group's vector or the final sums with the clip factor. -/
def cmdNorm2Result (port : Nat) (p : Packet) (d : Dev) : Dev :=
  d.colArrive port 5 p true (fun it r => decide (it.desc.opcode = 0x77) && decide (r.group = colGrp p) && decide (r.sent = 1))
    (fun d it r =>
      let g := r.group
      match d.normResult it r ((chunks 4 p.payload.length p.payload).map leNat) with
      | (_, none) => none
      | (d', some (it, r)) =>
        let d' := (d'.setRun r).setItem it
        some ((if 0 < d.grpRank g then d'.toPrev g 5 0 0 p.payload else d').sweep (.item it.id)))

/-! ### Completion (R539, R556, R566, R567) and stalls (R554) -/

/-- Delivered packets this rank has still to see in all. -/
def Dev.colExpected (d : Dev) (it : Item) (g : Nat) : Nat :=
  let c := it.desc
  let G := d.grpSize g
  let k := d.grpRank g
  if c.opcode = 0x74 then colPackets c - ceilDiv (chunkHi c G k - chunkLo c G k) (colPer c)
  else if k + 1 = G then 0
  else if c.opcode = 0x75 then colPackets c
  else ceilDiv (chunkHi c G k) 64

/-- The item has nothing left to do on this module. -/
def Dev.colDone (d : Dev) (it : Item) (r : ColRun) : Bool :=
  let c := it.desc
  let g := colGroup c
  if colCount c = 0 then true
  else match c.opcode with
    | 0x74 => decide (ceilDiv (chunkHi c (d.grpSize g) (d.grpRank g) - chunkLo c (d.grpSize g) (d.grpRank g)) (colPer c) ≤ r.sent)
        && decide (d.colExpected it g ≤ r.delivered.length)
    | 0x76 => decide (d.kvSteps it ≤ r.written) && decide (d.kvSteps it * kvPer c ≤ r.sent)
    | 0x77 => decide (r.groups.length ≤ r.stage)
    | _ => decide (colPackets c ≤ (if d.grpRank g = 0 then r.sent else r.got)) && decide (d.colExpected it g ≤ r.delivered.length)

/-- A sum of squares: blocks of 256 in a balanced tree, the blocks added in order (R567). -/
def sumSquares (xs : List Nat) : Nat :=
  ((chunks 256 xs.length xs).map (fun b => (redChunk 1 (b.map (fun x => (x, false)))).1)).foldl (fun s x => (addF32 s x).1) 0

/-- The statistics block (R566). -/
def Dev.statsBytes (d : Dev) (it : Item) (r : ColRun) : List MByte :=
  let c := it.desc
  let g := colGroup c
  let own := (List.range (chunkHi c (d.grpSize g) (d.grpRank g) - chunkLo c (d.grpSize g) (d.grpRank g))).map (SMap.get (fun _ => 0) r.ownSq)
  let loc := if r.late then 0 else sumSquares ((List.range (colCount c)).map (SMap.get (fun _ => 0) r.localSq))
  let one (b : Bool) : Nat := if b then Fmt.one .fp32 else 0
  (([sumSquares own, loc, one r.late, one r.carry.isSome, one r.discarded].flatMap (leBytes 4)) ++ List.replicate 44 0).map (fun b => { b := b })

/-- COLLECTIVE_COMPLETION (R539, R556, R566). -/
def cmdCollectiveCompletion (item : Nat) (d : Dev) : Dev :=
  match d.item item, d.colRun item with
  | some it, some r =>
    if it.place ≠ .running ∨ !d.colDone it r ∨ d.winPending (.item item) then d
    else
      let c := it.desc
      let stats := refOf (extWord it.ext 0)
      let wants := decide (c.opcode = 0x73 ∨ c.opcode = 0x75) && decide (extWord it.ext 0 ≠ 0)
      match (if wants then d.localWrite it stats stats.base (d.statsBytes it r) else (d, some false)) with
      | (d, none) => d
      | (d, some lost) =>
        let it := { it with poison := it.poison || lost,
                            prog := r.written % 2 ^ 40 + b2n r.carry.isSome * 2 ^ 62 + b2n r.late * 2 ^ 63 }
        let d := r.groups.foldl (fun d g => d.bump (F.COL_GRP_STAT_OPSEQ g) 1) d
        (d.dropRun item).finishItem it
  | some it, none =>
    if it.colNoop && decide (0x73 ≤ it.desc.opcode) then
      let (d, it) := d.colFields it
      let d := if colGate it.ext ≠ 0 then d.unfollow (colGate it.ext / 64) else d
      ((colGroups it.desc it.ext).foldl (fun d g => d.bump (F.COL_GRP_STAT_OPSEQ g.1) 1) d).finishItem it
    else d
  | _, _ => d

/-- COLLECTIVE_STALL (R554): no packet for STALL_TURNS whole Turns. -/
def cmdCollectiveStall (item : Nat) (d : Dev) : Dev :=
  match d.item item, d.colRun item with
  | some it, some r =>
    if it.place = .running ∧ max 1 (d.rf F.COL_CTRL_STALL_TURNS) ≤ r.quiet then
      ((d.postError { cls := 1, source := 0x09, event := 0x01, inst := r.group, parts := 2 ^ it.part, tag := it.desc.tag, ring := it.ring }).bump
        F.COL_EVENTS_TIMEOUTS 1).endCol it 0x31
    else d
  | _, _ => d

/-- GATE_WORD (R557): an observed gate word is met or not; one that reads poison ends the item with POISON. -/
def cmdGateWord (item word : Nat) (bad : Bool) (d : Dev) : Dev :=
  match d.item item with
  | some it =>
    if it.engine ≠ .collective ∨ it.place ≠ .queued ∨ it.desc.opcode < 0x73 ∨ colGate it.ext = 0 then d
    else if bad then
      ((d.unfollow (colGate it.ext / 64)).dropRun item).finishItem { it with poison := true }
    else if doorbellOk word ∧ (word % 2 ^ 32 + 2 ^ 32 - extWord it.ext 2 % 2 ^ 32) % 2 ^ 32 < 2 ^ 31 then
      { d with col := { d.col with gatesMet := if d.col.gatesMet.contains item then d.col.gatesMet else d.col.gatesMet ++ [item] } }
    else { d with col := { d.col with gatesMet := d.col.gatesMet.erase item } }
  | none => d

/-! ### At a boundary -/

/-- Turn a is b or later (R19). -/
def turnReached (a b : Nat) : Bool := decide ((a + 2 ^ 32 - b % 2 ^ 32) % 2 ^ 32 < 2 ^ 31)

/-- At the boundary that begins Turn DUE, an item of a lenient group that waits only on its gate starts late (R559, R560). -/
def Dev.startLate (d : Dev) : Dev :=
  d.ctl.items.foldl (fun d x =>
    match d.item x.id with
    | some it =>
      if it.place = .queued ∧ [0x73, 0x75, 0x77].contains it.desc.opcode ∧ d.grpLenient (colGroup it.desc) ∧ it.early.isNone
          ∧ turnReached d.turn (colDue it.desc) ∧ !turnReached ((d.turn + 2 ^ 32 - 1) % 2 ^ 32) (colDue it.desc)
          ∧ !d.gateMet it ∧ !it.desc.zeroAmount ∧ d.colMayStart it then d.colStart it true else d
    | none => d) d

/-- A Turn ends without a packet for some runs (R554). -/
def Dev.countQuiet (d : Dev) : Dev :=
  { d with col := { d.col with runs := d.col.runs.map (fun r => { r with quiet := if r.heard then 0 else r.quiet + 1, heard := false }) } }

/-- A new generation of group g takes effect: OPSEQ returns to 0 and items of another generation end (R539, R540). -/
def Dev.newGen (d : Dev) (g : Nat) : Dev :=
  let d := d.wf (F.COL_GRP_STAT_OPSEQ g) 0
  d.ctl.items.foldl (fun d x =>
    match d.item x.id with
    | some it =>
      if it.engine = .collective ∧ 0x73 ≤ it.desc.opcode ∧ it.place.inQueue
          ∧ (colGroups it.desc it.ext).any (fun e => decide (e.1 = g) && decide (e.2 ≠ d.grpGen g)) then d.endCol it 0x31 else d
    | none => d) d

end Sys2Proof.Machine
end

