-- ==== Sys2Proof/Machine/Stones.lean ====
section
/-!
DEFINITION. Machine/Stones.lean: the Stones at work: filling and dressing (R99 to R107), issue (R95, R126), the epilogue (R128
to R131, R138, R153 to R156, R165) and SLICE64 (R172 to R187).
An item's `pos` is (next vector, 0, 0); `aux` is [dressed], for SLICE64 [dressed, stage, phase]; `vals` holds the exponents of
a SLICE64 under preparation.
-/
namespace Sys2Proof.Machine

def Dev.sub (d : Dev) (p : Nat) : SubArr := d.stn.subs.getD p {}
def Dev.setSub (d : Dev) (p : Nat) (s : SubArr) : Dev := { d with stn := { d.stn with subs := setAt {} d.stn.subs p s } }

def Item.dressedBit (it : Item) : Bool := it.aux.getD 0 0 = 1
def Item.sliceStage (it : Item) : Nat := it.aux.getD 1 0
def Item.slicePhase (it : Item) : Nat := it.aux.getD 2 0

/-- A field of amount 0: the operation completes at once (R135). -/
def Dev.stnNoop (d : Dev) (it : Item) : Bool :=
  let c := it.desc
  decide (stnM c = 0) || (if c.opcode = 0x12 then decide (c.fld 2 33 5 = 0)
    else decide ((d.stnKN it.part c).1 = 0) || decide ((d.stnKN it.part c).2.1 = 0))

/-- Rows or vectors of the operation (R119, R183). -/
def Dev.stnVectors (d : Dev) (it : Item) : Nat :=
  if it.desc.opcode = 0x13 then d.sliceM it.part it.desc it.ext else stnM it.desc

/-- Every vector has been issued (for SLICE64: of phase 1). -/
def Dev.stnIssued (d : Dev) (it : Item) : Bool :=
  d.stnNoop it || (if it.desc.opcode = 0x13 then decide (it.sliceStage = 4) else decide (stnM it.desc ≤ it.pos.1))

/-- The bed source is the active bed (R106). -/
def Dev.stnActiveBed (d : Dev) (it : Item) : Bool :=
  decide (it.desc.opcode ≠ 0x13) && (d.stnBlks it.part it.desc it.ext).any (fun b => b.bed.space = 3)

/-- What fills the bed of an item: the saved dressing record after a pre-emption, else its own blocks; for SLICE64 plane j of
the workspace as one INT8 block (R140, R141, R175). -/
def Dev.fillSource (d : Dev) (it : Item) : DressRec :=
  match d.stn.parkedRec.find? (fun e => e.1 = it.id) with
  | some (_, r) => r
  | none =>
    if it.desc.opcode = 0x13 then
      let (k, n, _) := d.stnKN it.part it.desc
      let s := (stnSlices it.desc).1
      let j := it.slicePhase
      let ws := (refOf (extWord it.ext 4)).base
      let bed : Ref := { base := ws + (j - 1) * k * n, space := 2, stride := 0, hint := 0 }
      { fmt := 6, blocks := [{ row0 := 0, k := k, col0 := 0, n := n, m := s, bed := bed, run := bed, dest := bed,
                               bedScale := 0, runScale := 0, outScale := 0 }] }
    else { fmt := stnBedFmt it.desc, blocks := d.stnBlks it.part it.desc it.ext }

/-- The row stride of a bed of a plane or an operand: planes are packed without rounding (R182). -/
def bedStride (it : Item) (b : StnBlk) (w : Nat) : Nat :=
  if it.desc.opcode = 0x13 then b.n else b.bed.rowStride (rowBytes w b.n)

/-- The pitch of a bed's scale rows in bytes: its element row stride counted in elements (R121). -/
def scalePitch (stride w : Nat) : Nat := stride * 8 / w

/-- The row stride in bytes of the scales of an operand whose blocks run along the row (R121). -/
def scaleStride (r : Ref) (w len : Nat) : Nat :=
  if r.stride = 0 then (len + 31) / 32 else r.stride * 8 / w / 32

/-- Scales lie in the space of their elements; those of a stream's rows lie in the Hopper (log entry 24). -/
def scaleSpace (r : Ref) : Nat := if r.space = 4 then 1 else r.space

/-- Elements of a row with their scales: a poisoned scale poisons its block (R744). -/
def withScales (f : Fmt) (codes : List (Nat × Bool)) (scale : Nat → Option (Nat × Bool)) : List Elem :=
  codes.zipIdx.map (fun e =>
    match scale e.2 with
    | some (s, sp) => { v := elemValue f e.1.1 (some s), p := e.1.2 || sp }
    | none => { v := elemValue f e.1.1 none, p := e.1.2 })

/-- Columns of a list of rows. -/
def transpose (n : Nat) (rows : List (List Elem)) : List (List Elem) :=
  rows.foldr (fun row cols => List.zipWith (fun x xs => x :: xs) row cols) (List.replicate n [])

/-! ### Fill and dressing -/

/-- The blocks of a bed in ascending cell rows (R101). -/
def sortBlks (bs : List StnBlk) : List StnBlk :=
  bs.foldl (fun acc b => (acc.takeWhile (fun x => decide (x.row0 ≤ b.row0))) ++ b :: acc.dropWhile (fun x => decide (x.row0 ≤ b.row0))) []

/-- Read row r of a bed block. -/
def Dev.bedRow (d : Dev) (it : Item) (fmt : Nat) (b : StnBlk) (r : Nat) : Dev × Item × VRes (List Elem) :=
  let f := fmtOf fmt
  let w := f.bits
  let stride := bedStride it b w
  let a := b.bed.base + r * stride
  match d.boundRead it b.bed.space a (rowBytes w b.n) b.bed.hint with
  | (d, it, .ok bs) =>
    let codes := unpackRow f b.n bs
    if f.isMx then
      let sa := b.bedScale + (r / 32) * scalePitch stride w
      match d.boundRead it (scaleSpace b.bed) sa b.n b.bed.hint with
      | (d, it, .ok ss) => (d, it, .ok (withScales f codes (fun i => (ss[i]?).map (fun x => (x.b.toNat, x.p)))))
      | (d, it, .fault x) => (d, it, .fault x)
      | (d, it, .wait) => (d, it, .wait)
    else (d, it, .ok (withScales f codes (fun _ => none)))
  | (d, it, .fault x) => (d, it, .fault x)
  | (d, it, .wait) => (d, it, .wait)

/-- The fill of an item, empty when it has none. -/
def SubArr.fillOf (s : SubArr) (id : Nat) : StnFill := (s.fills.find? (fun f => f.item = id)).getD { item := id, done := [], rows := [] }

def SubArr.setFill (s : SubArr) (f : StnFill) : SubArr :=
  { s with fills := s.fills.filter (fun x => decide (x.item ≠ f.item)) ++ [f] }

/-- The bed is complete: every block is written. -/
def fillDone (src : DressRec) (f : StnFill) : Bool := decide (src.blocks.length ≤ f.done.length)

/-- Write one more row of the shadow bed (R101); a block without rows or columns is complete at once. -/
def fillStep (d : Dev) (it : Item) : Dev × Item × Bool :=
  let p := it.part
  let src := d.fillSource it
  let f := (d.sub p).fillOf it.id
  match (sortBlks src.blocks)[f.done.length]? with
  | none => (d, it, false)
  | some b =>
    if b.k ≤ f.rows.length ∨ b.n = 0 then
      let blk : BedBlock := { row0 := b.row0, k := b.k, col0 := b.col0, n := b.n, cols := transpose b.n f.rows }
      (d.setSub p ((d.sub p).setFill { f with done := f.done ++ [blk], rows := [] }), it, true)
    else
      match d.bedRow it src.fmt b f.rows.length with
      | (d, _, .wait) => (d, it, false)
      | (d, _, .fault x) =>
        let d := d.itemFault { it with pos := (b.row0 + f.rows.length, it.pos.2) } x 0 p
        let it := { (d.item it.id).getD it with pos := it.pos }
        (d, it, false)
      | (d, it, .ok row) =>
        let d := d.setSub p ((d.sub p).setFill { f with rows := f.rows ++ [row] })
        ((d.sweep (.item it.id)).event p 0x102 (some p) 0 1, it, true)

/-- A Stones operation that is a no-op; one that names the active bed first meets R106's check at the head of its queue. -/
def Dev.stnAtOnce (d : Dev) (it : Item) : Bool := d.atOnce it && !d.stnActiveBed it

/-- Earlier items of the sub-array's queue have issued their last vectors (R104), or the operation is a no-op. -/
def Dev.earlierIssued (d : Dev) (it : Item) : Bool :=
  d.stnAtOnce it || ((d.queueOf it.part .stones Place.inQueue).takeWhile (fun x => decide (x.id ≠ it.id))).all (fun x => d.stnIssued x)

/-- Earlier items have written every output, also those saved; a deferred item does not wait for what was saved when it entered (R108,
R451). -/
def Dev.earlierWritten (d : Dev) (it : Item) : Bool :=
  ((d.queueOf it.part .stones (fun q => q.inQueue || decide (q = .saved))).takeWhile (fun x => decide (x.id ≠ it.id))).all (fun x => it.apart.contains x.id ||
    d.stnIssued x && decide (x.place ≠ .saved) && !(d.sub it.part).flight.any (fun f => f.item = x.id))

/-- The sub-array is held by a fault of its epilogue (R98, R137). -/
def Dev.stnHeld (d : Dev) (p : Nat) : Bool :=
  match (d.sub p).held with
  | some k => d.mem.faults.any (fun r => decide (r.key = k))
  | none => false

/-- The item of a Stones command: queued or running, without an open fault, behind its WAIT. -/
def Dev.stnWork (d : Dev) (id : Nat) : Option Item :=
  match d.item id with
  | some it =>
    if it.engine = .stones ∧ it.fault = none ∧ it.early = none ∧ (it.place = .queued ∨ it.place = .running)
        ∧ (!it.desc.wait || d.stnAtOnce it || d.earlierWritten it) = true then some it
    else none
  | none => none

/-- DRESSING (R99 to R104): up to n bed rows are filled; when the bed is complete and every earlier operation has issued its
last vector, the shadow bed becomes the active bed. -/
def cmdDressing (item n : Nat) (d : Dev) : Dev :=
  match d.stnWork item with
  | none => d
  | some it =>
    let p := it.part
    let saved := d.stn.parkedRec.any (fun e => e.1 = it.id)
    let ready := if it.desc.opcode = 0x13 then decide (it.sliceStage = 3) else true
    if it.dressedBit || d.stnNoop it || !ready || (d.stnActiveBed it && !saved) || d.stnHeld p then d
    else
      let (d, it) := stepMany fillStep n d it
      let src := d.fillSource it
      let f := (d.sub p).fillOf it.id
      if fillDone src f && it.fault.isNone && d.earlierIssued it then
        let s := d.sub p
        let s := { s with dressed := some src, bed := f.done, fills := s.fills.filter (fun x => decide (x.item ≠ it.id)) }
        let parked := d.stn.parkedRec.filter (fun e => decide (e.1 ≠ it.id))
        let d := d.setSub p s
        let d := { d with stn := { d.stn with parkedRec := parked } }
        (d.setItem { it with place := .running, unit := p, aux := 1 :: it.aux.drop 1 }).event p 0x101 (some p) 0 1
      else d.setItem it

/-! ### Issue -/

/-- Column c of the active bed over K rows [row0, row0 + k): cells outside the bed take no part (R94). -/
def bedColumn (bed : List BedBlock) (row0 k c : Nat) : List (Option Elem) :=
  match bed.find? (fun b => decide (b.col0 ≤ c) && decide (c < b.col0 + b.n) && decide (b.row0 < row0 + k) && decide (row0 < b.row0 + b.k)) with
  | some b =>
    let col := b.cols.getD (c - b.col0) []
    if b.row0 = row0 ∧ b.k = k then col.map some
    else (List.range k).map (fun i => if b.row0 ≤ row0 + i then col[row0 + i - b.row0]? else none)
  | none => List.replicate k none

/-- Read runner row m of a block (R120, R121); from a stream the row at its head, cut to the slot (R314, R316). The flag says
the row was longer than the slot. -/
def Dev.runnerRow (d : Dev) (it : Item) (fmt : Nat) (b : StnBlk) (m : Nat) : Dev × Item × VRes (List (Option Elem) × Bool) :=
  let f := fmtOf fmt
  let w := f.bits
  let len := rowBytes w b.k
  let (d, it, r, kk) :=
    if b.run.space = 4 then
      let n := streamIndex it.part (b.run.base / 16)
      if d.streamRows n = 0 then (d, it, VRes.wait, b.k)
      else
        let (d, bs) := d.streamPop it.part n
        let a := d.slotAt n (d.streamHead n + 2 ^ 32 - 1)
        (d, it.sawPoison 1 a (bs.take len), VRes.ok (bs.take len), min b.k (d.slotBytes n * 8 / w))
    else
      let a := b.run.base + m * b.run.rowStride len
      let (d, it, r) := d.boundRead it b.run.space a len b.run.hint
      (d, it, r, b.k)
  match r with
  | .wait => (d, it, .wait)
  | .fault x => (d, it, .fault x)
  | .ok bs =>
    let codes := unpackRow f kk bs
    let fin (d : Dev) (it : Item) (es : List Elem) : Dev × Item × VRes (List (Option Elem) × Bool) :=
      (d, it, .ok (es.map some ++ List.replicate (b.k - kk) none, decide (kk < b.k)))
    if f.isMx then
      let sa := b.runScale + m * scaleStride b.run w b.k
      match d.boundRead it (scaleSpace b.run) sa ((b.k + 31) / 32) b.run.hint with
      | (d, it, .ok ss) => fin d it (withScales f codes (fun i => (ss[i / 32]?).map (fun x => (x.b.toNat, x.p))))
      | (d, it, .fault x) => (d, it, .fault x)
      | (d, it, .wait) => (d, it, .wait)
    else fin d it (withScales f codes (fun _ => none))

/-- An active bed of the other mode than the operation's, integer or floating point: no rule states the sums (R106, log entry 94). -/
def Dev.bedMixed (d : Dev) (it : Item) : Bool :=
  match (d.sub it.part).dressed with
  | some r => decide (r.fmt = 6) != stnInteger it.desc
  | none => false

/-- A column sum that no rule states, poisoned as the stated one would be. -/
def ColSum.free (c : ColSum) (n : Nat) : ColSum :=
  match c.s32 with
  | some _ => { c with s32 := some (Config.freeNat 6 n % 2 ^ 32) }
  | none => ColSum.ofWide (Config.freeNat 6 n % 2 ^ 116) c.p

/-- The column sums of vector v over the blocks that it has a row for (R126). -/
def issueBlks (v : Nat) : List (Nat × StnBlk) → Dev → Item → Dev × Item × VRes (List (Nat × List ColSum))
  | [], d, it => (d, it, .ok [])
  | (i, b) :: bs, d, it =>
    if b.m ≤ v then issueBlks v bs d it
    else
      match d.runnerRow it (stnRunFmt it.desc) b v with
      | (d, it, .wait) => (d, it, .wait)
      | (d, it, .fault x) => (d, it, .fault x)
      | (d, it, .ok (row, cut)) =>
        let bed := (d.sub it.part).bed
        let mixed := d.bedMixed it
        let sums := (List.range b.n).map (fun c =>
          let sum := columnSum (stnInteger it.desc) (stnOrder it.desc) row (bedColumn bed b.row0 b.k (b.col0 + c))
          if mixed then sum.free (d.fresh + c) else sum)
        let d := if mixed then { d with fresh := d.fresh + b.n } else d
        let it := if cut then { it with clamped := true } else it
        let (d, it, r) := issueBlks v bs d it
        (d, it, r.map ((i, sums) :: ·))

/-- Issue the next vector (R95, R96): its column sums enter the pipeline. -/
def issueStep (d : Dev) (it : Item) : Dev × Item × Bool :=
  if d.stnIssued it then (d, it, false)
  else
    let p := it.part
    let v := it.pos.1
    let blks := (d.stnBlks p it.desc it.ext).zipIdx.map (fun e => (e.2, e.1))
    match issueBlks v blks d it with
    | (d', _, .wait) => ({ d' with regs := d.regs }, it, false)
    | (d', _, .fault x) =>
      let d := ({ d' with regs := d.regs }).itemFault it x 1 p
      (d, (d.item it.id).getD it, false)
    | (d, it, .ok sums) =>
      let s := d.sub p
      let d := d.setSub p { s with flight := s.flight ++ [{ item := it.id, vec := v, sums := sums }] }
      ((d.sweep (.item it.id)).event p 0x100 (some p) 0 1, { it with pos := (v + 1, 0, 0) }, true)

/-! ### The epilogue -/

/-- The outcome of one output element: its bits, its flags and its poison mark. -/
structure OutEl where
  bits : Nat
  sat : Bool
  nan : Bool
  p : Bool
deriving DecidableEq, Repr

/-- The partial combination of MATMUL_ACC in FP32 (R153, R165): the value and the SAT it set. -/
def combineFp32 (c : ColSum) (partialBits : Nat) (mode : RMode) (ftz : Bool) (r : Nat) : Num × Bool :=
  let x := Fmt.fp32.decode partialBits
  if c.s32.isSome then
    let y := igouxAdd (x, false) (c.num, c.sat)
    (y.1, y.2)
  else
    let s := Num.add false x c.num
    let v := convert s .fp32 mode ftz r
    (Fmt.fp32.decode v.bits, v.sat)

/-- The FP32 value that steps 3 and the MX output begin with (R66, R128): the value and its SAT. -/
def sumToFp32 (c : ColSum) : Num × Bool :=
  let v := c.convert .fp32 .rne false 0
  (if v.nan then .nan else Fmt.fp32.decode v.bits, v.sat)

/-- Step 3 of R128: bias and the element-wise operand in FP32, IEEE 754 nearest even. -/
def epiFp32 (x : Num) (bias : Option Num) (ewOp : Nat) (ew : Option Num) : Num :=
  let r32 (y : Num) : Num := Fmt.fp32.decode (ieeeRound y .fp32 .rne)
  let x := match bias with
    | some b => r32 (Num.add false x b)
    | none => x
  match ewOp, ew with
  | 1, some e => r32 (Num.add false x e)
  | 2, some e => r32 (Num.mul x e)
  | _, _ => x

/-- An element-wise operand in FP32 (R85, R86, R128): the value and the SAT of an MX element beyond FP32. -/
def ewToFp32 (v : Num) : Num × Bool :=
  let c := convert v .fp32 .rne false 0
  (if c.nan then .nan else Fmt.fp32.decode c.bits, c.sat)

/-- What the epilogue reads beside the sums: per column the partial's bits, the bias and the element-wise operand. -/
structure EpiIn where
  part : List (Nat × Bool) := []
  bias : List (Nat × Bool) := []
  ew : List Elem := []
deriving DecidableEq, Repr

/-- The poison of an output element (R138). -/
def EpiIn.poison (e : EpiIn) (c : ColSum) (i : Nat) : Bool :=
  c.p || ((e.part[i]?).map (·.2)).getD false || ((e.bias[i]?).map (·.2)).getD false || ((e.ew[i]?).map (·.p)).getD false

/-- One output row: the element bits with their flags, and the scale bytes of an MX output (R66, R128). `base` is the linear
index of the row's first element (R81). -/
def epiRow (c : Desc) (seed base : Nat) (sums : List ColSum) (e : EpiIn) : List OutEl × List (Nat × Bool) × Bool × Bool :=
  let cv := stnCvtc c
  let mode := RMode.ofBits (bitsAt cv 0 3)
  let ftz := bitAt cv 4
  let out := fmtOf (stnOutFmt c)
  let acc := decide (c.opcode = 0x11)
  let late := stnBias c || decide (stnEwOp c ≠ 0)
  let rnd (i : Nat) : Nat := if mode = .sr then srRandom seed (base + i) else 0
  if out = .w128 then
    let es := sums.zipIdx.map (fun (s, i) =>
      let w := if acc then
          let o := ColSum.ofWide ((e.part[i]?).map (·.1) |>.getD 0) false
          if stnInteger c then combineInteger o s else combineWide o s
        else s
      ({ bits := w.wide, sat := false, nan := false, p := e.poison s i } : OutEl))
    (es, [], false, false)
  else
    -- the result of step 1, and for steps 3 and MX the FP32 value
    let f32 (s : ColSum) (i : Nat) : Num × Bool :=
      if acc then combineFp32 s ((e.part[i]?).map (·.1) |>.getD 0) mode ftz (rnd i) else sumToFp32 s
    let after (s : ColSum) (i : Nat) : Num × Bool :=
      let (x, sat) := f32 s i
      if late then
        let b := (e.bias[i]?).map (fun v => Fmt.fp32.decode v.1)
        let w := (e.ew[i]?).map (fun v => ewToFp32 v.v)
        (epiFp32 x b (stnEwOp c) (w.map (·.1)), sat || (w.map (·.2)).getD false)
      else (x, sat)
    if out.isMx then
      let vals := sums.zipIdx.map (fun (s, i) => (after s i, i, e.poison s i))
      let blocks := chunks 32 vals.length vals
      let done := blocks.map (fun b =>
        let (bits, sc, sat, nan) := mxBlock out (bitAt cv 3) mode ftz (b.map (fun (v : (Num × Bool) × Nat × Bool) => (v.1.1, rnd v.2.1)))
        let pz := b.any (·.2.2)
        ((bits.zip b).map (fun (e : Nat × (Num × Bool) × Nat × Bool) => ({ bits := e.1, sat := e.2.1.2, nan := false, p := e.2.2.2 } : OutEl)),
          (sc, pz), sat, nan))
      let es := done.flatMap (·.1)
      (es, done.map (·.2.1), done.any (·.2.2.1) || es.any (·.sat), done.any (·.2.2.2))
    else
      let es := sums.zipIdx.map (fun (s, i) =>
        if late then
          let (x, sat) := after s i
          let v := convert x out mode ftz (rnd i)
          ({ bits := v.bits, sat := v.sat || sat, nan := v.nan, p := e.poison s i } : OutEl)
        else if acc then
          let (x, sat) := f32 s i
          let v := convert x out mode ftz (rnd i)
          { bits := v.bits, sat := v.sat || sat, nan := v.nan, p := e.poison s i }
        else
          let v := s.convert out mode ftz (rnd i)
          { bits := v.bits, sat := v.sat, nan := v.nan, p := e.poison s i })
      (es, [], es.any (·.sat), es.any (·.nan))

/-- Read n elements of a format from a row with its scale row. -/
def Dev.readRow (d : Dev) (it : Item) (f : Fmt) (r : Ref) (a n scaleAddr : Nat) : Dev × Item × VRes (List Elem) :=
  match d.boundRead it r.space a (rowBytes f.bits n) r.hint with
  | (d, it, .ok bs) =>
    let codes := unpackRow f n bs
    if f.isMx then
      match d.boundRead it r.space scaleAddr ((n + 31) / 32) r.hint with
      | (d, it, .ok ss) => (d, it, .ok (withScales f codes (fun i => (ss[i / 32]?).map (fun x => (x.b.toNat, x.p)))))
      | (d, it, .fault x) => (d, it, .fault x)
      | (d, it, .wait) => (d, it, .wait)
    else (d, it, .ok (withScales f codes (fun _ => none)))
  | (d, it, .fault x) => (d, it, .fault x)
  | (d, it, .wait) => (d, it, .wait)

/-- Read what the epilogue needs for row m of a block (R128). -/
def Dev.epiInputs (d : Dev) (it : Item) (b : StnBlk) (m : Nat) : Dev × Item × VRes EpiIn :=
  let c := it.desc
  let out := fmtOf (stnOutFmt c)
  let (d, it, r1) :=
    if c.opcode = 0x11 then
      let a := b.dest.base + m * b.dest.rowStride (rowBytes out.bits b.n)
      let (d, it, r) := d.boundRead it b.dest.space a (rowBytes out.bits b.n) b.dest.hint
      (d, it, r.map (fun bs => unpackRow out b.n bs))
    else (d, it, .ok [])
  match r1 with
  | .wait => (d, it, .wait)
  | .fault x => (d, it, .fault x)
  | .ok part =>
    let (d, it, r2) :=
      if stnBias c then
        let r := refOf (extWord it.ext 3)
        let (d, it, x) := d.boundRead it r.space r.base (4 * b.n) r.hint
        (d, it, x.map (fun bs => unpackRow .fp32 b.n bs))
      else (d, it, .ok [])
    match r2 with
    | .wait => (d, it, .wait)
    | .fault x => (d, it, .fault x)
    | .ok bias =>
      if stnEwOp c = 0 then (d, it, .ok { part := part, bias := bias })
      else
        let f := fmtOf (stnEwFmt c)
        let r := refOf (extWord it.ext 4)
        let a := r.base + m * r.rowStride (rowBytes f.bits b.n)
        match d.readRow it f r a b.n (extAddr it.ext 5 + m * scaleStride r f.bits b.n) with
        | (d, it, .ok ew) => (d, it, .ok { part := part, bias := bias, ew := ew })
        | (d, it, .fault x) => (d, it, .fault x)
        | (d, it, .wait) => (d, it, .wait)

/-- Write one output row of a block with its scales (R65, R121, R138, R744). -/
def Dev.epiWrite (d : Dev) (it : Item) (b : StnBlk) (m : Nat) (sums : List ColSum) (e : EpiIn) : Dev × Item × VRes Bool :=
  let c := it.desc
  let out := fmtOf (stnOutFmt c)
  let (es, scs, sat, nan) := epiRow c (extWord it.ext 6) (m * b.n) sums e
  let a := b.dest.base + m * b.dest.rowStride (rowBytes out.bits b.n)
  let row := packRow out (es.map (fun x => (x.bits, x.p)))
  let it := { it with sat := it.sat || sat, nan := it.nan || nan, poison := it.poison || es.any (·.p) }
  let ws := (b.dest, a, row) :: (if out.isMx then
    [(b.dest, b.outScale + m * scaleStride b.dest out.bits b.n, scs.map (fun s => { b := BitVec.ofNat 8 s.1, p := s.2 }))] else [])
  d.writeAll it ws

/-- The epilogue of every block of a vector. -/
def epiBlks (blks : List StnBlk) (m : Nat) : List (Nat × List ColSum) → Dev → Item → Dev × Item × VRes Bool
  | [], d, it => (d, it, .ok false)
  | (i, sums) :: rest, d, it =>
    match blks[i]? with
    | none => epiBlks blks m rest d it
    | some b =>
      match d.epiInputs it b m with
      | (d, it, .wait) => (d, it, .wait)
      | (d, it, .fault x) => (d, it, .fault x)
      | (d, it, .ok e) =>
        match d.epiWrite it b m sums e with
        | (d, it, .ok x) =>
          let (d, it, r) := epiBlks blks m rest d it
          (d, it, r.map (x || ·))
        | (d, it, r) => (d, it, r)

/-- A signed 16-bit number of the workspace. -/
def Dev.slice16 (d : Dev) (p a : Nat) : Int := toSigned 16 (leNat ((d.spadRead p a 2).map (·.b)))

/-- The epilogue of SLICE64 for row m of a phase (R177 to R179): T is read, added to and written; in phase 1 the FP64 result is
formed. `bad` marks rows and columns that hold a NaN or an infinity. -/
def Dev.sliceEpi (d : Dev) (it : Item) (m phase : Nat) (sums : List ColSum) : Dev × Item × VRes Bool :=
  let c := it.desc
  let p := it.part
  let (k, n, _) := d.stnKN p c
  let s := (stnSlices c).1
  let mm := d.sliceM p c it.ext
  let ws := (refOf (extWord it.ext 4)).base
  let (_, _, r2, r3, r4, _) := sliceRegions s mm k n
  let ta := ws + r4 + 12 * n * m
  let old : List MByte := if phase = s then [] else d.spadRead p ta (12 * n)
  let olds : List (List MByte) := chunks 12 n old
  let ts : List (Int × Bool) := sums.zipIdx.map (fun (x, i) =>
    let o := olds.getD i []
    (toSigned 96 (leNat (o.map (·.b))) + x.acc, x.p || o.any (·.p)))
  let d := d.spadWrite p ta (ts.flatMap (fun t => (leBytes 12 (ofSigned 96 t.1)).map (fun b => { b := b, p := t.2 })))
  if phase ≠ 1 then (d, it, .ok false)
  else
    let dest := refOf (c.word 5)
    let a := dest.base + m * dest.rowStride (8 * n)
    let (d, it, r) : Dev × Item × VRes (List MByte) := if stnAccum c then d.boundRead it dest.space a (8 * n) dest.hint else (d, it, .ok [])
    match r with
    | .wait => (d, it, .wait)
    | .fault x => (d, it, .fault x)
    | .ok ds =>
      let cv := stnCvtc c
      let mode := RMode.ofBits (bitsAt cv 0 3)
      let ea := d.slice16 p (ws + r3 + 2 * m)
      let dds := unpackRow .fp64 n ds
      let rowBad := decide (it.vals.getD (n + m) 0 = 1)
      let es := ts.zipIdx.map (fun (e : (Int × Bool) × Nat) =>
        let (t, i) := e
        let eb := d.slice16 p (ws + r2 + 2 * i)
        let dd : Nat × Bool := dds.getD i (0, false)
        let pz : Bool := t.2 || dd.2
        if rowBad || decide (it.vals.getD i 0 % 2 = 1) then ({ bits := Fmt.fp64.canonNan, sat := false, nan := true, p := pz } : OutEl)
        else
          let x := Num.ofScaled t.1 (ea + eb - 7 * s - 5)
          let old := Fmt.fp64.decode dd.1
          match stnAccum c, old with
          | true, .nan => { bits := dd.1, sat := false, nan := true, p := pz }
          | true, .inf _ => { bits := dd.1, sat := false, nan := false, p := pz }
          | ac, o =>
            let v := convert (if ac then Num.add false o x else x) .fp64 mode (bitAt cv 4)
              (if mode = RMode.sr then srRandom (extWord it.ext 6) (m * n + i) else 0)
            { bits := v.bits, sat := v.sat, nan := v.nan, p := pz })
      let it := { it with sat := it.sat || es.any (·.sat), nan := it.nan || es.any (·.nan), poison := it.poison || es.any (·.p) }
      d.boundWrite it dest.space a (packRow .fp64 (es.map (fun x => (x.bits, x.p)))) dest.hint

/-- A row of bytes does not lie whole within its space (R9). -/
def Dev.rowCut (d : Dev) (r : Ref) (a n : Nat) : Bool := decide (d.spaceEnd r.space a < a + n)

/-- An output of row m of a block is cut at the end of its space. -/
def Dev.blkCut (d : Dev) (c : Desc) (b : StnBlk) (m : Nat) : Bool :=
  let out := fmtOf (stnOutFmt c)
  let len := rowBytes out.bits b.n
  d.rowCut b.dest (b.dest.base + m * b.dest.rowStride len) len
    || (out.isMx && d.rowCut b.dest (b.outScale + m * scaleStride b.dest out.bits b.n) ((b.n + 31) / 32))

/-- An output of a vector is cut at the end of its space: PROGRESS does not count the vector (R452, log entry 15). -/
def Dev.vecCut (d : Dev) (it : Item) (f : Flight) : Bool :=
  if it.desc.opcode = 0x13 then
    let dest := refOf (it.desc.word 5)
    let len := 8 * (d.stnKN it.part it.desc).2.1
    d.rowCut dest (dest.base + f.vec * dest.rowStride len) len
  else
    f.sums.any (fun s => match (d.stnBlks it.part it.desc it.ext)[s.1]? with
      | some b => d.blkCut it.desc b f.vec
      | none => false)

/-- The vector at the end of the descent passes the epilogue (R128, R130). A fault holds the sub-array (R137). -/
def Dev.drainOne (d : Dev) (p : Nat) : Dev × Bool :=
  let s := d.sub p
  match s.flight with
  | [] => (d, false)
  | f :: fs =>
    match d.item f.item with
    | none => (d.setSub p { s with flight := fs }, true)
    | some it =>
      if d.stnHeld p then (d, false)
      else
        let r := if it.desc.opcode = 0x13 then d.sliceEpi it f.vec f.phase ((f.sums.head?.map (·.2)).getD [])
          else epiBlks (d.stnBlks p it.desc it.ext) f.vec f.sums d it
        match r with
        | (d', _, .wait) => ({ d' with regs := d.regs, mem := { d'.mem with spad := d.mem.spad, spadPoison := d.mem.spadPoison } }, false)
        | (d', _, .fault x) =>
          let d0 := { d' with regs := d.regs, mem := { d'.mem with spad := d.mem.spad, spadPoison := d.mem.spadPoison } }
          let pos := it.pos
          let d0 := d0.itemFault { it with pos := (f.vec, 0, 0) } x 2 p
          (match d0.item it.id with
            | some x => (d0.setSub p { d0.sub p with held := x.fault }).setItem { x with pos := pos }
            | none => d0, false)
        | (d, it', .ok lost) =>
          let last := decide (it.desc.opcode ≠ 0x13) || decide (f.phase = 1)
          let it' := { it' with poison := it'.poison || lost, prog := if last then it'.prog + 1 else it'.prog,
                                short := if last && d.vecCut it f then it'.short + 1 else it'.short }
          let d := (d.setSub p { d.sub p with flight := fs }).setItem it'
          ((d.sweep (.item it.id)).event p 0x103 (some p) 0 (if last then 1 else 0), true)

/-- Up to n vectors pass the epilogue. -/
def Dev.drain (p : Nat) : Nat → Dev → Dev
  | 0, d => d
  | n + 1, d =>
    match d.drainOne p with
    | (d, true) => Dev.drain p n d
    | (d, false) => d

/-! ### Commands -/

/-- The operation meets R106's check at the head of its queue and fails it: HEADER_CHECK without an effect. -/
def Dev.stnNoBed (d : Dev) (it : Item) : Bool :=
  d.stnActiveBed it && (d.sub it.part).dressed.isNone && !d.stn.parkedRec.any (fun e => e.1 = it.id)

/-- The item begins: it leaves the head of its queue (R38) with the flag of its clamped fields. -/
def Dev.stnStart (d : Dev) (it : Item) : Item :=
  { it with place := .running, unit := it.part, clamped := it.clamped || d.stnClamped it.part it.desc it.ext
      || (decide (it.desc.opcode = 0x13) && decide (d.sliceM it.part it.desc it.ext < stnM it.desc)) }

/-- An operation that streams a runner: up to n vectors are issued, and up to k vectors of the sub-array pass the epilogue
(R95, R117). -/
def Dev.stnRun (d : Dev) (op item n k : Nat) : Dev :=
  match d.stnWork item with
  | none => d
  | some it =>
    if it.desc.opcode ≠ op then d
    else if !d.earlierIssued it then d
    else if d.stnNoBed it then d.setItem { it with place := .running, early := some 0x03 }
    else
      let ready := it.dressedBit || (d.stnActiveBed it && !d.stn.parkedRec.any (fun e => e.1 = it.id)) || d.stnNoop it
      if !ready || (d.stnHeld it.part && !d.stnAtOnce it) then Dev.drain it.part k d
      else
        let it := d.stnStart it
        let d := d.setItem it
        let (d, it) := stepMany issueStep n d it
        Dev.drain it.part k (d.setItem it)

/-- MATMUL (R117). -/
def cmdMatmul (item n k : Nat) (d : Dev) : Dev := d.stnRun 0x10 item n k
/-- MATMUL_ACC (R110). -/
def cmdMatmulAcc (item n k : Nat) (d : Dev) : Dev := d.stnRun 0x11 item n k
/-- PACKED (R124 to R127). -/
def cmdPacked (item n k : Nat) (d : Dev) : Dev := d.stnRun 0x12 item n k

/-! ### SLICE64 preparation and phases (R172 to R177) -/

/-- The FP64 elements of a row; a bed named as the active bed holds none: free value 4 (log entry 25). -/
def Dev.row64 (d : Dev) (it : Item) (r : Ref) (row n : Nat) : Dev × Item × VRes (List (Nat × Bool)) :=
  if r.space = 3 then
    ({ d with fresh := d.fresh + n }, it, .ok ((List.range n).map (fun i => (Config.freeNat 4 (d.fresh + i) % 2 ^ 64, false))))
  else if r.space = 4 then
    let s := streamIndex it.part (r.base / 16)
    if d.streamRows s = 0 then (d, it, .wait)
    else
      let (d, bs) := d.streamPop it.part s
      let k := bs.length / 8
      (d, if k < n then { it with clamped := true } else it,
        .ok ((unpackRow .fp64 (min k n) bs) ++ List.replicate (n - min k n) (0, false)))
  else
    let a := r.base + row * r.rowStride (8 * n)
    let (d, it, x) := d.boundRead it r.space a (8 * n) r.hint
    (d, it, x.map (fun bs => unpackRow .fp64 n bs))

/-- The slices of an element under the largest exponent of its row or column (R172): d_1 … d_S. -/
def slicesOf (s : Nat) (e : Int) (x : Num) : List Int :=
  match x with
  | .fin neg m me =>
    let sh := me + 7 * s - e - 1
    let t := if 0 ≤ sh then m * 2 ^ sh.toNat else m / 2 ^ (-sh).toNat
    (List.range s).map (fun i => signedOf neg (t / 128 ^ (s - 1 - i) % 128))
  | _ => List.replicate s 0

/-- A list of slices as bytes of a plane. -/
def planeBytes (i : Nat) (xs : List (List Int × Bool)) : List MByte :=
  xs.map (fun x => { b := BitVec.ofInt 8 (x.1.getD i 0), p := x.2 })

/-- The exponent of a NaN-free column kept in `vals`: (e + 32,768) × 2 + bad; 0 for none yet (R173). -/
def expVal (o : Nat) (x : Num) : Nat :=
  let bad := match x with
    | .nan | .inf _ => 1
    | _ => o % 2
  let e : Nat := match exponent? x with
    | some e => max (o / 2) (e + 32768).toNat
    | none => o / 2
  2 * e + bad

/-- The exponent kept. -/
def keptExp (v : Nat) : Int := (v / 2 : Nat) - 32768

/-- One row of preparation or of a phase (R175): stage 0 finds the column exponents, 1 slices the bed, 2 the runner, 3 streams
the phases S to 1. -/
def sliceStep (d : Dev) (it : Item) : Dev × Item × Bool :=
  if d.stnIssued it then (d, it, false)
  else
    let c := it.desc
    let p := it.part
    let (k, n, _) := d.stnKN p c
    let s := (stnSlices c).1
    let mm := d.sliceM p c it.ext
    let ws := (refOf (extWord it.ext 4)).base
    let (_, r1, r2, r3, _, _) := sliceRegions s mm k n
    let row := it.pos.1
    let sweep (d : Dev) : Dev := d.sweep (.item it.id)
    let bad (d : Dev) (x : FaultInfo) (e : Nat) : Dev × Item × Bool :=
      let d := d.itemFault it x e p
      (d, (d.item it.id).getD it, false)
    match it.sliceStage with
    | 0 =>
      match d.row64 it (refOf (c.word 3)) row n with
      | (d, _, .wait) => (d, it, false)
      | (d, _, .fault x) => bad d x 0
      | (d, it, .ok es) =>
        let vals := (List.range n).map (fun i => expVal (it.vals.getD i 0) (Fmt.fp64.decode ((es[i]?).map (·.1) |>.getD 0)))
        let nxt := if row + 1 < k then (0, row + 1) else (1, 0)
        (sweep d, { it with vals := vals, aux := [0, nxt.1, s], pos := (nxt.2, 0, 0) }, true)
    | 1 =>
      match d.row64 it (refOf (c.word 3)) row n with
      | (d, _, .wait) => (d, it, false)
      | (d, _, .fault x) => bad d x 0
      | (d, it, .ok es) =>
        let xs := es.zipIdx.map (fun (e, i) => (slicesOf s (keptExp (it.vals.getD i 0)) (Fmt.fp64.decode e.1), e.2))
        let d := (List.range s).foldl (fun d i => d.spadWrite p (ws + i * k * n + row * n) (planeBytes i xs)) d
        let d := if row = 0 then
            d.spadWrite p (ws + r2) ((it.vals.take n).flatMap (fun v => (leBytes 2 (ofSigned 16 (keptExp v))).map (fun b => { b := b })))
          else d
        let nxt := if row + 1 < k then (1, row + 1) else (2, 0)
        (sweep d, { it with aux := [0, nxt.1, s], pos := (nxt.2, 0, 0) }, true)
    | 2 =>
      match d.row64 it (refOf (c.word 4)) row k with
      | (d, _, .wait) => (d, it, false)
      | (d, _, .fault x) => bad d x 1
      | (d, it, .ok es) =>
        let v := es.foldl (fun o e => expVal o (Fmt.fp64.decode e.1)) 0
        let xs := es.map (fun e => (slicesOf s (keptExp v) (Fmt.fp64.decode e.1), e.2))
        let d := (List.range s).foldl (fun d i => d.spadWrite p (ws + r1 + i * mm * k + row * k) (planeBytes i xs)) d
        let d := d.spadWrite p (ws + r3 + 2 * row) ((leBytes 2 (ofSigned 16 (keptExp v))).map (fun b => { b := b }))
        let nxt := if row + 1 < mm then (2, row + 1) else (3, 0)
        (sweep d, { it with vals := it.vals ++ [v % 2], aux := [0, nxt.1, s], pos := (nxt.2, 0, 0) }, true)
    | _ =>
      if !it.dressedBit then (d, it, false)
      else
        let j := it.slicePhase
        let bed := (d.sub p).bed
        let planes := (List.range (s + 1 - j)).map (fun i =>
          ((d.spadRead p (ws + r1 + i * mm * k + row * k) k).map (fun b => some ({ v := Num.ofInt (toSigned 8 b.b.toNat), p := b.p } : Elem)), i + 1))
        let sums := (List.range n).map (fun col =>
          let cells := bedColumn bed 0 k col
          planes.foldl (fun (t : ColSum) (xs, i) =>
            let x := columnSum true 0 xs cells
            { t with acc := t.acc + x.acc * (2 ^ (7 * (s + 1 - i - j)) : Nat), p := t.p || x.p }) {})
        let sa := d.sub p
        let d := d.setSub p { sa with flight := sa.flight ++ [{ item := it.id, vec := row, phase := j, sums := [(0, sums)] }] }
        let d := d.event p 0x100 (some p) 0 (s + 1 - j)
        let it := if row + 1 < mm then { it with pos := (row + 1, 0, 0) }
          else if 1 < j then { it with pos := (0, 0, 0), aux := [0, 3, j - 1] }
          else { it with pos := (mm, 0, 0), aux := [0, 4, 0] }
        (d, it, true)

/-- SLICE64 (R175): up to n rows of preparation or of a phase, and up to k rows pass the epilogue. -/
def cmdSlice64 (item n k : Nat) (d : Dev) : Dev :=
  match d.stnWork item with
  | none => d
  | some it =>
    if it.desc.opcode ≠ 0x13 ∨ !d.earlierIssued it then d
    else if d.stnHeld it.part && !d.stnAtOnce it then d
    else
      let it := d.stnStart it
      let d := d.setItem it
      let (d, it) := stepMany sliceStep n d it
      Dev.drain it.part k (d.setItem it)

/-- Everything the operation writes is written (R135). -/
def Dev.stnWritten (d : Dev) (it : Item) : Bool :=
  d.stnIssued it && !(d.sub it.part).flight.any (fun f => f.item = it.id) && !d.winPending (.item it.id)

end Sys2Proof.Machine
end

