-- ==== Sys2Proof/Machine/SpoolCtl.lean ====
section
/-!
DEFINITION. Machine/SpoolCtl.lean: the Spool instructions of class C (R241 to R256, R285, R287 to R291, R295), launches and
bundles (R228 to R232, R260), the end of a Stones operation and its report to a skein (R135, R251).
-/
namespace Sys2Proof.Machine

/-! ### Control flow -/

/-- The target of a branch: this instruction's address plus 8 × OFF (R274). -/
def branchTo (s : Skein) (i : SIns) : Nat := (((s.pc : Int) + 8 * offInt 24 i.off) % (2 ^ 52 : Nat)).toNat

/-- The condition predicate is poisoned in an active thread (R287). -/
def Skein.condPoison (s : Skein) (i : SIns) : Bool := decide ((s.pget i.pg).2 &&& s.active ≠ 0)

/-- Go on at an address. -/
def Dev.goto (d : Dev) (k : Nat) (s : Skein) (pc : Nat) : Dev := d.setSkein k (some { s with pc := pc })

/-- bra (0x70). -/
def cmdBra (k : Nat) (d : Dev) : Dev := d.issue k 0x70 (fun d s i => some (d.goto k s (branchTo s i)))

/-- bra.any (0x71). -/
def cmdBraAny (k : Nat) (d : Dev) : Dev :=
  d.issue k 0x71 (fun d s i =>
    if s.condPoison i then d.precise k s 0x11
    else some (if s.active &&& s.cond i ≠ 0 then d.goto k s (branchTo s i) else d.skip k s))

/-- bra.none (0x72). -/
def cmdBraNone (k : Nat) (d : Dev) : Dev :=
  d.issue k 0x72 (fun d s i =>
    if s.condPoison i then d.precise k s 0x11
    else some (if s.active &&& s.cond i = 0 then d.goto k s (branchTo s i) else d.skip k s))

/-- fork (0x73): with 16 entries on the stack it is not executed (R242). -/
def cmdFork (k : Nat) (d : Dev) : Dev :=
  d.issue k 0x73 (fun d s i =>
    if s.condPoison i then d.precise k s 0x11
    else if 16 ≤ s.stack.length then d.precise k s 0x22
    else
      let t := s.active &&& s.cond i
      let e := maskMinus s.active t
      let d := d.splEvent k s 0x307 1
      let entry : DivEntry := { outer := s.active, els := e, taken := decide (t = 0), elsePc := branchTo s i }
      let s := { s with stack := s.stack ++ [entry] }
      some (if t = 0 then d.goto k { s with active := e } (branchTo s i) else d.skip k { s with active := t }))

/-- seam (0x74): the else arm, or the entry is popped; on an empty stack a no-op that sets ILLEGAL (R241, R243). -/
def cmdSeam (k : Nat) (d : Dev) : Dev :=
  d.issue k 0x74 (fun d s _ =>
    match s.stack.getLast? with
    | none => some (d.illegal k s)
    | some e =>
      if !e.taken && decide (e.els ≠ 0) then
        some (d.goto k { s with active := e.els, stack := s.stack.dropLast ++ [{ e with taken := true }] } e.elsePc)
      else some (d.skip k { s with active := e.outer, stack := s.stack.dropLast }))

/-- brk (0x75). -/
def cmdBrk (k : Nat) (d : Dev) : Dev :=
  d.issue k 0x75 (fun d s i =>
    if s.condPoison i then d.precise k s 0x11 else some (d.skip k { s with active := maskMinus s.active (s.cond i) }))

/-- exit (0x76): the active threads end (R241, R245, R246). The last threads of a skein end once its requests have completed
(log entry 38). -/
def cmdExit (k : Nat) (d : Dev) : Dev :=
  d.issue k 0x76 (fun d s _ =>
    let gone := s.active
    let ended := s.ended ||| gone
    let t := { s with ended := ended, active := 0, region := maskMinus s.region gone, pc := (s.pc + 8) % 2 ^ 52,
                      stack := s.stack.map (fun e => { e with outer := maskMinus e.outer gone, els := maskMinus e.els gone }) }
    if ended = allLanes then (if s.reqs.isEmpty then some (d.endSkein k t) else none)
    else some ((d.setSkein k (some t)).tryBarrier k s.launch s.bundle))

/-- bar (0x77): the active threads arrive and the skein waits (R253 to R255). -/
def cmdBar (k : Nat) (d : Dev) : Dev :=
  d.issue k 0x77 (fun d s _ =>
    if s.active = 0 then some (d.skip k s)
    else
      let d := d.setSkein k (some { s.next with atBar := true, arrived := s.arrived ||| s.active })
      let d := match d.bundle s.launch s.bundle with
        | some b => d.setBundle { b with barTurns := some (b.barTurns.getD 0) }
        | none => d
      some (d.tryBarrier k s.launch s.bundle))

/-- fence (0x78): SUB 0 acquire-release, 1 acquire, 2 release (R295). -/
def cmdFence (k : Nat) (d : Dev) : Dev :=
  d.issue k 0x78 (fun d s i =>
    if i.sub ≠ 1 ∧ !s.released i.scope then none
    else some ((if i.sub = 2 then d else d.acquire (k / 16) i.scope).skip k s))

/-! ### Matrix issue -/

/-- mtx.enter (0x79). -/
def cmdMtxEnter (k : Nat) (d : Dev) : Dev :=
  d.issue k 0x79 (fun d s _ => some (d.skip k { s with region := s.active, regionOpen := true }))
/-- mtx.leave (0x7A). -/
def cmdMtxLeave (k : Nat) (d : Dev) : Dev :=
  d.issue k 0x7A (fun d s _ => some (d.skip k { s with region := 0, regionOpen := false }))

/-- Operations of a partition's Stones queue (R132): 64 at most. -/
def Dev.stnOccupied (d : Dev) (p : Nat) : Nat := (d.queueOf p .stones Place.inQueue).length

/-- The ticket of a number, among the skein's last 8 (R250). -/
def Skein.ticket (s : Skein) (n : Nat) : Option Ticket := s.tickets.find? (fun t => t.num = n)

/-- The eight words of a matrix-issue descriptor, with TURN_BOUND that of the launch (R249). -/
def issueDesc (s : Skein) (a : Nat) (bound : Bool) : Desc :=
  Desc.ofWords (fun j => if j = 0 then withBits (s.sget a).1 8 1 (b2n bound) else (s.sget (a + j)).1)

/-- Word 7 is the complement of word 0, and the operation is one of the Stones (R117, R249). -/
def issueHeader (s : Skein) (a : Nat) : Bool :=
  let w0 := (s.sget a).1
  decide ((s.sget (a + 7)).1 = 2 ^ 64 - 1 - w0) && decide (0x10 ≤ w0 % 256 ∧ w0 % 256 ≤ 0x13)

/-- Write a ticket, keeping the last 8 (R250, R290). -/
def Skein.putTicket (s : Skein) (reg lane : Nat) (done : Option TicketDone) : Skein :=
  let t : Ticket := { num := s.nextTicket, lane := lane, done := done }
  let ts := s.tickets ++ [t]
  ({ s with tickets := ts.drop (ts.length - 8), nextTicket := (s.nextTicket + 1) % 2 ^ 32 }).sset reg s.nextTicket false

/-- An RMODE that acts as 0 (R79) or a SLICES out of range (R119) counts once for a descriptor that passes its checks. -/
def stnClampCount (c : Desc) : Nat :=
  b2n (decide (5 ≤ bitsAt (stnCvtc c) 0 3)) + b2n (decide (c.opcode = 0x13) && (stnSlices c).2)

/-- Post one operation (R248 to R252, R290). It waits for the stores of the skein, for a free ticket, for a free entry of
the queue (R133), and while the partition admits no Stones operation (log entry 52). -/
def Dev.postStones (d : Dev) (k : Nat) (s : Skein) (i : SIns) (lane : Nat) : Option Dev :=
  if (List.range 8).any (fun j => (s.sget (i.a + j)).2) then d.precise k s 0x11
  else if !s.released 2 then none
  else if s.tickets.length = 8 ∧ ((s.tickets.head?.map (fun t => t.done.isNone)).getD false) then none
  else if 64 ≤ d.stnOccupied s.part ∨ d.stnClosed s.part then none
  else
    match d.item s.launch with
    | none => none
    | some it =>
      let c := issueDesc s i.a it.desc.turnBound
      let lost (st : Nat) (d : Dev) : Dev := d.setSkein k (some (s.putTicket i.d lane (some { status := st })).next)
      if !issueHeader s i.a then some (lost 0x03 d)
      else
        match d.stnCheck s.part (skeinWaiter k fetchReq) c with
        | (_, .wait, _) => none
        | (d, .fail, _) => some (lost 0x03 d)
        | (d, .poison _, _) => some (lost 0x11 d)
        | (d, .pass, ext) =>
          let op : Item := { id := 0, part := s.part, ring := it.ring, seq := it.seq, desc := c, place := .queued, ext := ext,
                             posted := some { launch := s.launch, spool := k / 16, slot := k % 16, ticket := s.nextTicket } }
          let d := ((d.clamped (stnClampCount c)).addItem op).splEvent k s 0x309 1
          some (d.setSkein k (some (s.putTicket i.d lane none).next))

/-- stn.issue (0x7B): posts when the active mask is the region mask (R247). -/
def cmdStnIssue (k : Nat) (d : Dev) : Dev :=
  d.issue k 0x7B (fun d s i =>
    if s.regionOpen && decide (s.active = s.region) then d.postStones k s i (((lanesOf s.region).head?).getD 0)
    else d.precise k s 0x20)

/-- stn.issue.lead (0x7C): posts from the lowest active thread (R248, R290). -/
def cmdStnIssueLead (k : Nat) (d : Dev) : Dev :=
  d.issue k 0x7C (fun d s i =>
    match (lanesOf s.active).head? with
    | none => some (d.skip k s)
    | some l => d.postStones k s i l)

/-- The completion of a ticket as stn.wait writes it (R251). -/
def TicketDone.word (t : TicketDone) : Nat := t.status % 256 + b2n t.sat * 2 ^ 9 + b2n t.nan * 2 ^ 10 + b2n t.clamped * 2 ^ 11

/-- stn.wait (0x7D): an acquire at partition scope (R251, R252). -/
def cmdStnWait (k : Nat) (d : Dev) : Dev :=
  d.issue k 0x7D (fun d s i =>
    let (t, p) := s.sget i.a
    if p then d.precise k s 0x11
    else
      match s.ticket t with
      | none => some ((d.acquire (k / 16) 2).skip k (s.sset i.d (2 ^ 8) false))
      | some x =>
        match x.done with
        | none => none
        | some c => some ((d.acquire (k / 16) 2).skip k (s.sset i.d c.word false)))

/-! ### Status register and clocks -/

/-- sks.rd (0x7E). -/
def cmdSksRd (k : Nat) (d : Dev) : Dev := d.issue k 0x7E (fun d s i => some (d.skip k (s.sset i.d s.sks false)))
/-- sks.wr (0x7F): RMODE and the sticky bits (R285). -/
def cmdSksWr (k : Nat) (d : Dev) : Dev :=
  d.issue k 0x7F (fun d s i => some (d.skip k { s with sks := (s.sget i.a).1 % 4 + bitsAt (s.sget i.a).1 8 4 * 2 ^ 8 }))
/-- rdtime (0x80). -/
def cmdRdtime (k : Nat) (d : Dev) : Dev := d.issue k 0x80 (fun d s i => some (d.skip k (s.sset i.d d.time false)))
/-- rdturn (0x81). -/
def cmdRdturn (k : Nat) (d : Dev) : Dev := d.issue k 0x81 (fun d s i => some (d.skip k (s.sset i.d d.turn false)))

/-- BARRIER_STALL (R255, R260): a barrier of the skein's bundle has seen the end of the Turn after the one in which it began. -/
def cmdBarrierStall (k : Nat) (d : Dev) : Dev :=
  match d.skein k with
  | none => d
  | some s =>
    match d.bundle s.launch s.bundle with
    | some b =>
      if s.atBar && decide (2 ≤ b.barTurns.getD 0) && ((d.item s.launch).map (fun it => it.early.isNone)).getD false then
        (d.haltLaunch s.launch 0x21 (haltDetail k)).splEvent k s 0x30A 1
      else d
    | none => d

/-! ### Launches (R228 to R232) -/

/-- The checks of R228. -/
def launchCheckFails (c : Desc) : Bool :=
  decide (c.fld 2 0 52 = 0) || decide (c.fld 2 0 52 % 8 ≠ 0) || decide (c.fld 3 0 52 % 64 ≠ 0)

def launchBundles (c : Desc) : Nat := c.fld 1 0 32
def launchSkeins (c : Desc) : Nat := min 16 (c.fld 1 32 5)
def launchVregs (c : Desc) : Nat := min 64 (c.fld 1 37 7)

/-- A launch with a zero amount is a no-op (R7, R228). -/
def launchNoop (c : Desc) : Bool := decide (launchBundles c = 0) || decide (launchSkeins c = 0) || decide (launchVregs c = 0)

/-- Every bundle of a launch has been dispatched. -/
def launchDispatched (it : Item) : Bool := launchNoop it.desc || decide (launchBundles it.desc ≤ it.pos.1)

/-- SPL_LAUNCH (R228, R230): the next launch of the queue begins; its argument block is read. `vals` holds the eight argument
words, each with 2^64 for poison. -/
def cmdSplLaunch (item : Nat) (d : Dev) : Dev :=
  let first (it : Item) : Bool :=
    ((d.queueOf it.part .launch Place.inQueue).takeWhile (fun x => decide (x.id ≠ it.id))).all launchDispatched
  match d.atWork item (fun it => decide (it.engine = .launch) && decide (it.place = .queued) && (d.atOnce it || first it)) (fun _ => some 0) with
  | none => d
  | some it =>
    let c := it.desc
    let it := { it with clamped := it.clamped || decide (16 < c.fld 1 32 5) || decide (64 < c.fld 1 37 7) }
    let a := c.fld 3 0 52
    if a = 0 ∨ launchNoop c then d.setItem { it with vals := List.replicate 8 0 }
    else
      match d.vread it.part (.item item) a 64 with
      | (d, .ok bs) =>
        let ws := (chunks 8 8 bs).map (fun w => leNat (w.map (·.b)) + b2n (w.any (·.p)) * 2 ^ 64)
        (d.sweep (.item item)).setItem { it with vals := ws }
      | (d, .wait) => d
      | (d, .fault f) => d.itemFault it f 4 it.part

/-- Spools of a partition (R229). -/
def Dev.spoolsPer (d : Dev) : Nat := 256 / d.parts

/-- A Spool may receive a bundle of a launch (R229, R230, R272). -/
def Dev.spoolOpen (d : Dev) (p spool : Nat) (launch n : Nat) : Bool :=
  decide (p * d.spoolsPer ≤ spool) && decide (spool < (p + 1) * d.spoolsPer)
  && d.rbit (F.SPL_HEALTH_SPOOLS (spool / 64)) (spool % 64) && !d.rbit (F.SPL_PENDING_SPOOLS (spool / 64)) (spool % 64)
  && !d.spl.scanning.contains spool
  && (d.resident spool).all (fun e => e.2.launch = launch) && decide (n + (d.resident spool).length ≤ 16)

/-- Free skein slots of a Spool, lowest first. -/
def Dev.freeSlots (d : Dev) (spool : Nat) : List Nat := (List.range 16).filter (fun t => (d.skein (16 * spool + t)).isNone)

/-- The state of a skein at its start (R231). -/
def startSkein (it : Item) (ordinal index : Nat) : Skein :=
  let c := it.desc
  let s : Skein := { launch := it.id, part := it.part, bundle := ordinal, index := index, vregs := launchVregs c, pc := c.fld 2 0 52 }
  let s := (((s.sset 0 ((c.fld 4 0 32 + ordinal) % 2 ^ 64) false).sset 1 index false).sset 2 (launchSkeins c) false).sset 3 c.tag false
  let s := (List.range 8).foldl (fun s j => s.sset (8 + j) (it.vals.getD j 0) (decide (2 ^ 64 ≤ it.vals.getD j 0))) s
  (List.range 32).foldl (fun s l => (s.vset 0 l l false).vset 1 l (index * 32 + l) false) s

/-- Place the skeins of a bundle on a Spool. -/
def Dev.placeSkeins (d : Dev) (spool : Nat) (ss : List Skein) : Dev :=
  ((d.freeSlots spool).zip ss).foldl (fun d e => d.setSkein (16 * spool + e.1) (some e.2)) d

/-- BUNDLE_DISPATCH (R230, R271): a saved bundle of a running launch resumes on the Spool, or the next bundle of the first
launch that has bundles left is placed there. -/
def cmdBundleDispatch (p spool : Nat) (d : Dev) : Dev :=
  let running := d.queueOf p .launch (· = .running)
  let live (it : Item) : Bool := it.early.isNone && it.fault.isNone && !launchNoop it.desc && decide (it.vals.length = 8)
  match d.spl.bundles.find? (fun b => b.spool.isNone && running.any (fun it => decide (it.id = b.launch) && live it)) with
  | some b =>
    if d.spoolOpen p spool b.launch b.saved.length then
      (d.placeSkeins spool b.saved).setBundle { b with spool := some spool, saved := [] }
    else d
  | none =>
    match running.find? (fun it => !launchDispatched it) with
    | some it =>
      let n := launchSkeins it.desc
      if live it && d.spoolOpen p spool it.id n then
        let o := it.pos.1
        let d := d.placeSkeins spool ((List.range n).map (startSkein it o))
        let d := { d with spl := { d.spl with bundles := d.spl.bundles ++ [({ launch := it.id, ordinal := o, spool := some spool } : Bundle)] } }
        d.setItem { it with pos := (o + 1, it.pos.2) }
      else d
    | none => d

/-- Operations that skeins of a launch posted and that have not completed (R232, R260). -/
def Dev.postedBy (d : Dev) (launch : Nat) : Bool :=
  d.ctl.items.any (fun x => match x.posted with
    | some q => decide (q.launch = launch)
    | none => false)

/-- Remove what is left of a launch from the Spools. -/
def Dev.clearLaunch (d : Dev) (launch : Nat) : Dev :=
  let d := (d.skeinList.filter (fun e => decide (e.2.launch = launch))).foldl (fun d e => d.setSkein e.1 none) d
  { d with spl := { d.spl with bundles := d.spl.bundles.filter (fun b => decide (b.launch ≠ launch)) } }

/-- Every request of a launch's resident skeins has ended or waits on a fault. -/
def Dev.launchQuiet (d : Dev) (launch : Nat) : Bool :=
  d.skeinList.all (fun e => decide (e.2.launch ≠ launch) || e.2.reqs.all (fun q => q.parts.all (fun x => x.fault.isSome)))

/-! ### Stones completion (R135, R251) -/

/-- The end of an operation that a skein posted: its ticket records the completion (R251). -/
def Dev.ticketDone (d : Dev) (it : Item) (q : Posted) : Dev :=
  let done : TicketDone := { status := it.status, sat := it.sat, nan := it.nan, clamped := it.clamped }
  let mark (s : Skein) : Skein :=
    { s with tickets := s.tickets.map (fun t => if t.num = q.ticket ∧ t.done.isNone then { t with done := some done } else t) }
  let d := match d.skein (16 * q.spool + q.slot) with
    | some s => if s.launch = q.launch then d.setSkein (16 * q.spool + q.slot) (some (mark s)) else d
    | none => d
  let d := if it.status = 0x11 then d.poisonRecord it else d
  (d.forgetWaiter (.item it.id)).dropItem it.id

/-- A linked MANGLE whose producer failed R106's check completes with HEADER_CHECK at the same moment (R218). -/
def Dev.failLinked (d : Dev) (producer : Nat) : Dev :=
  match d.prs.links.find? (fun l => l.producer = producer) with
  | some l =>
    match d.item l.mangle with
    | some m => d.finishItem { m with early := some 0x03 }
    | none => d
  | none => d

/-- STONES_COMPLETION (R135): the last output is written; the completion goes to the ring or to the ticket. -/
def cmdStonesCompletion (item : Nat) (d : Dev) : Dev :=
  match d.item item with
  | some it =>
    let ends : Bool := it.early.isSome || d.stnWritten it
    if it.engine = .stones ∧ it.place = .running ∧ it.fault = none ∧ ends then
      let d := (d.event it.part 0x104 (some it.part) 0 1).event it.part 0x105 (some it.part) 0 (b2n it.sat)
      match it.posted with
      | some q => d.ticketDone it q
      | none => (if it.status = 0x03 then d.failLinked it.id else d).finishItem it
    else d
  | none => d

end Sys2Proof.Machine
end

