-- ==== Sys2Proof/Machine/Save.lean ====
section
/-!
DEFINITION. Machine/Save.lean: pre-emption, the context-save area and resumption (R38, R139 to R141, R225, R226, R269 to R271,
R421 to R428), and the end of a launch (R232, R260). The area's contents are written as the manual lays them out; an item
resumes from the device's own state, which holds the same values (log entry 42).
-/
namespace Sys2Proof.Machine

/-! ### The context-save area (R425 to R428) -/

/-- Bytes of the area in the layout in force. -/
def Dev.csaBytes (d : Dev) : Nat :=
  match d.layout with
  | 0 => 0x2500000 + 4112 * 2048 * 16
  | 1 => 0x1300000 + 4112 * 1024 * 16
  | _ => 0xA00000 + 2064 * 1024 * 16

/-- Where the Stones column sums begin. -/
def Dev.csaStones (d : Dev) : Nat := if d.layout = 0 then 0x2500000 else if d.layout = 1 then 0x1300000 else 0xA00000

/-- The area of partition p does not fit in its region (R425). -/
def Dev.csaBad (d : Dev) (p : Nat) : Bool := decide (d.regionSize (.part p) < d.mem.csaInForce.getD p 0 + d.csaBytes)

/-- Partition p admits in an open Turn (R34, R42, R425, R464, R484). -/
def Dev.partAdmits (d : Dev) (p : Nat) : Bool :=
  decide (p < d.parts) && d.ready p && !d.ctl.changing && !d.csaBad p && !d.rb F.TRN_STATUS_WITHHELD

/-- Bytes written at device-physical addresses of a partition's region, line by line: saves are not translated. -/
def Dev.physLine (d : Dev) (p a : Nat) (bs : List MByte) : Dev :=
  match d.channelOf (.part p) a with
  | some (ch, off) => (d.lineWrite none (lineKey ch (off / 128)) 0 (bs.zipIdx.map (fun e => (off % 128 + e.2, e.1)))).1
  | none => d

def Dev.physParts (d : Dev) (p : Nat) : List (Nat × Nat) → List MByte → Dev
  | [], _ => d
  | (a, n) :: ps, bs => (d.physLine p a (bs.take n)).physParts p ps (bs.drop n)

/-- Write bytes at an offset of partition p's context-save area. -/
def Dev.csaWrite (d : Dev) (p off : Nat) (bs : List MByte) : Dev :=
  d.physParts p (linesOf (d.mem.csaInForce.getD p 0 + off) bs.length) bs

/-- Clean bytes of numbers of 8 bytes each. -/
def wordsBytes (ws : List Nat) : List MByte := (ws.flatMap (leBytes 8)).map (fun b => { b := b })

/-- Bytes whose layout the manual does not give (log entry 41). -/
def openBytes (fresh n : Nat) : List MByte :=
  (List.range n).map (fun i => { b := BitVec.ofNat 8 (Config.freeNat 41 (fresh + i)) })

/-- KIND of an item record (R428). -/
def Item.kind (it : Item) : Nat :=
  match it.engine with
  | .stones => 1
  | .press => if it.desc.opcode = 0x20 then 2 else 3
  | .launch => 4
  | .sluice => 5
  | _ => 6

/-- Words 10 to 15 of an item record (R428): one value a word in the order the manual names them (log entry 41). -/
def Dev.stateWords (d : Dev) (it : Item) (slot0 skeins : Nat) : List Nat :=
  match it.kind with
  | 1 =>
    let n := (d.stn.parked.filter (fun f => decide (f.item = it.id))).length
    let bed := match d.stn.parkedRec.find? (fun e => decide (e.1 = it.id)) with
      | some (_, r) => (r.blocks.head?.map (fun b => b.bed.base / 16 + b.bed.space * 2 ^ 48 + (b.bed.stride / 256) * 2 ^ 51 + b.bed.hint * 2 ^ 62)).getD 0
      | none => it.desc.word 3
    [n, bed, it.sliceStage, it.slicePhase, it.pos.1, 0]
  | 2 => [it.pos.1, it.pos.2.1, it.pos.2.2, it.vals.getD 0 0, 0, 0]
  | 3 => [it.pos.1, 0, 0, 0, 0, 0]
  | 4 => [it.pos.1, slot0, skeins, Config.freeNat 40 d.fresh % 2 ^ 64, 0, 0]
  | 5 => [it.pos.1, it.pos.2.1, it.pos.2.2, 0, 0, 0]
  | _ => [it.pos.1, it.pos.2.1, 0, 0, 0, 0]

/-- The fault number of an item's open fault. -/
def Dev.faultId (d : Dev) (it : Item) : Nat :=
  match it.fault with
  | some k => ((d.mem.faults.find? (fun f => decide (f.key = k))).map (·.id)).getD 0
  | none => 0

/-- An item record (R428). -/
def Dev.itemRecord (d : Dev) (it : Item) (slot0 skeins : Nat) : List MByte :=
  (it.desc.bytes.map (fun b => { b := b }))
  ++ wordsBytes ([it.kind + it.ring % 64 * 2 ^ 8 + it.overruns % 8 * 2 ^ 14 + b2n it.held * 2 ^ 17 + b2n it.fault.isSome * 2 ^ 18
      + d.faultId it % 2 ^ 16 * 2 ^ 32, it.position] ++ d.stateWords it slot0 skeins)

/-- Skeins of a launch that its saved bundles hold. -/
def Dev.savedSkeins (d : Dev) (launch : Nat) : List Skein :=
  (d.spl.bundles.filter (fun b => decide (b.launch = launch))).flatMap (·.saved)

/-- A skein slot of the area (R270, R427): the inner layout of the header and of the ticket table is not given. -/
def Dev.skeinBytes (d : Dev) (s : Skein) : List MByte :=
  let num (n v : Nat) (p : Bool) : List MByte := (leBytes n v).map (fun b => { b := b, p := p })
  openBytes d.fresh 128
  ++ (List.range 16).flatMap (fun i => match s.stack[i]? with
      | some e => num 16 (e.outer % 2 ^ 32 + (e.els % 2 ^ 32) * 2 ^ 32 + b2n e.taken * 2 ^ 64 + (e.elsePc / 8 % 2 ^ 49) * 2 ^ 72) false
      | none => num 16 0 false)
  ++ (List.range 8).flatMap (fun p => num 4 (s.pget p).1 (decide ((s.pget p).2 ≠ 0)))
  ++ (List.range 32).flatMap (fun r => num 8 (s.sget r).1 (s.sget r).2)
  ++ (List.range s.vregs).flatMap (fun r => (List.range 32).flatMap (fun l => num 4 (s.vget r l).1 (s.vget r l).2))

/-- Write skeins to consecutive slots. -/
def Dev.csaSkeins (d : Dev) (p slot0 : Nat) (ss : List Skein) : Dev :=
  ss.zipIdx.foldl (fun d e => { d.csaWrite p (0x100000 + 9216 * (slot0 + e.2)) (d.skeinBytes e.1) with fresh := d.fresh + 128 }) d

/-- The column sums of an item's saved vectors (R139, R426). -/
def Dev.csaSums (d : Dev) (it : Item) : Dev :=
  let w := d.stnWidth it.part
  ((d.stn.parked.filter (fun f => decide (f.item = it.id))).zipIdx).foldl (fun d e =>
    e.1.sums.foldl (fun d b =>
      let col0 := if it.desc.opcode = 0x12 then ((d.stnBlks it.part it.desc it.ext)[b.1]?.map (·.col0)).getD 0 else 0
      b.2.zipIdx.foldl (fun d c =>
        d.csaWrite it.part (d.csaStones + e.2 * (w * 16) + 16 * (col0 + c.2)) ((leBytes 16 c.1.wide).map (fun x => { b := x, p := c.1.p }))) d) d) d

/-- The lane registers and their poison marks (R426). -/
def Dev.csaLanes (d : Dev) (p : Nat) : Dev :=
  let v (k : Nat) : Nat := SMap.get noLane d.prs.lanes k
  let d := d.csaWrite p 0x40000 ((List.range 65536).flatMap (fun k => (leBytes 4 (v k % 2 ^ 32)).map (fun b => { b := b })))
  d.csaWrite p 0x80000 ((List.range 8192).map (fun i =>
    { b := BitVec.ofNat 8 ((List.range 8).foldl (fun x j => x + b2n (decide (2 ^ 32 ≤ v (8 * i + j))) * 2 ^ j) 0) }))

/-- The saved items of a partition, in order. -/
def Dev.savedItems (d : Dev) (p : Nat) : List Item := d.ctl.items.filter (fun i => decide (i.part = p) && decide (i.place = .saved))

/-- Write the records of a partition's saved items. -/
def Dev.csaRecords (d : Dev) (p : Nat) : Dev :=
  ((d.savedItems p).foldl (fun (acc : Dev × Nat × Nat) x =>
    let (d, i, slot0) := acc
    let n := (d.savedSkeins x.id).length
    (d.csaWrite p (0x1000 + 128 * i) (d.itemRecord x slot0 n), i + 1, slot0 + n)) (d, 0, 0)).1

/-- Where the saved items of a partition are no longer those of the device `d0` and the layout stands, the area's number of valid
records and its records follow (R426, log entry 26). -/
def Dev.csaFollow (d d0 : Dev) : Dev :=
  (List.range 4).foldl (fun d p =>
    if (d.savedItems p).map (·.id) = (d0.savedItems p).map (·.id) ∨ d.ctl.changing = true ∨ d.csaBad p = true then d
    else (d.csaWrite p 0 (wordsBytes [(d.savedItems p).length])).csaRecords p) d

/-- Write the header, the records of every saved item, and what the item `it` leaves beside its record. -/
def Dev.csaSave (d : Dev) (it : Item) : Dev :=
  let p := it.part
  let saved := d.savedItems p
  let d := (d.csaWrite p 0 (wordsBytes [saved.length, d.turn, d.layout])).csaRecords p
  match it.kind with
  | 1 => d.csaSums it
  | 3 => d.csaLanes p
  | 4 =>
    let slot0 := ((saved.takeWhile (fun x => decide (x.id ≠ it.id))).map (fun x => (d.savedSkeins x.id).length)).sum
    d.csaSkeins p slot0 (d.savedSkeins it.id)
  | _ => d

/-! ### Saving an item -/

/-- Take the resident bundles of a launch off the Spools (R269, R270). -/
def Dev.parkBundles (d : Dev) (keep : Bundle → Bool) : Dev :=
  (d.spl.bundles.filter (fun b => b.spool.isSome && !keep b)).foldl (fun d b =>
    let ss := d.skeinsOf b.launch b.ordinal
    let d := ss.foldl (fun d e => d.setSkein e.1 none) d
    d.setBundle { b with spool := none, saved := ss.map (·.2) }) d

/-- The first open fault among the saved skeins of a launch. -/
def Dev.skeinFault (d : Dev) (launch : Nat) : Option Nat :=
  ((d.savedSkeins launch).flatMap (fun s => s.fetchFault.toList ++ s.reqs.flatMap (fun q => q.parts.filterMap (·.fault)))).head?

/-- What stays with the Stones for an item's resumption: the vectors in flight behind a held epilogue and, for the active bed,
the dressing record (R139 to R141, R187). -/
def Dev.parkStones (d : Dev) (it : Item) : Dev × Item :=
  let p := it.part
  let s := d.sub p
  let (mine, rest) := s.flight.partition (fun f => decide (f.item = it.id))
  let rec' := if d.stnActiveBed it && decide (it.place ≠ .queued) then s.dressed.toList.map (fun r => (it.id, r)) else []
  let parkedRec := d.stn.parkedRec.filter (fun e => rec'.isEmpty || decide (e.1 ≠ it.id)) ++ rec'
  let d := d.setSub p { s with flight := rest, fills := s.fills.filter (fun f => decide (f.item ≠ it.id)),
                               held := if mine.isEmpty then s.held else none }
  let d := { d with stn := { d.stn with parked := d.stn.parked ++ mine, parkedRec := parkedRec } }
  if it.desc.opcode = 0x13 then
    if it.sliceStage ≤ 2 then (d, { it with aux := [], vals := [], pos := (0, 0, 0) })
    else (d, { it with aux := 0 :: it.aux.drop 1 })
  else (d, { it with aux := [] })

/-- Save an item whose drain has ended, and write its OVERRUN_RESUMED record (R38, R40). -/
def Dev.saveItem (d : Dev) (it : Item) : Dev :=
  let (d, it) := if it.engine = .stones then d.parkStones it else (d, it)
  let d := if it.engine = .launch then d.parkBundles (fun b => decide (b.launch ≠ it.id)) else d
  let it := { it with place := .saved, fault := if it.engine = .launch then d.skeinFault it.id else it.fault }
  let d := (d.setItem it).csaSave it
  if it.posted.isSome then d else d.resumedRecord it

/-- Pre-empt an item (R38, R421): a running item begins to drain, a waiting one is saved at its start. -/
def Dev.preemptItem (d : Dev) (it : Item) (cause : SaveCause) (held : Bool) : Dev :=
  match it.place with
  | .running => d.setItem { it with place := .draining, cause := cause, held := held }
  | .queued => d.saveItem { it with cause := cause, held := held }
  | .draining => d.setItem { it with held := it.held || held, cause := if it.cause = .overrun then cause else it.cause }
  | .saved => d.setItem { it with held := it.held || held }
  | .pool => d

/-! ### Resumption -/

/-- The producer of a linked MANGLE, while it has not completed. -/
def Dev.producerOf (d : Dev) (it : Item) : Option Item :=
  match d.prs.links.find? (fun l => decide (l.mangle = it.id)) with
  | some l => d.item l.producer
  | none => none

/-- A saved item that nothing keeps from resuming (R421, R423). -/
def Item.free (it : Item) : Bool := decide (it.place = .saved) && !it.held && it.fault.isNone && it.early.isNone && decide (it.cause ≠ .partition)

/-- A saved item is due to resume; a linked MANGLE resumes with its producer (R226). -/
def Dev.resumable (d : Dev) (it : Item) : Bool :=
  it.free && (match d.producerOf it with
    | some p => decide (p.place ≠ .saved) || p.free
    | none => true)

/-- Put an item behind the last one of its queue that runs. -/
def behindRunning (it : Item) : List Item → List Item
  | [] => [it]
  | x :: xs =>
    if (x :: xs).any (fun y => decide (y.part = it.part) && decide (y.engine = it.engine) && decide (y.place = .running)) then x :: behindRunning it xs
    else it :: x :: xs

/-- The items with a saved one back in its queue: in order of entry, but behind what has begun (R38, R132, log entry 42). -/
def putBack (it : Item) (l : List Item) : List Item :=
  l.takeWhile (fun x => decide (x.id ≠ it.id)) ++ behindRunning it ((l.dropWhile (fun x => decide (x.id ≠ it.id))).drop 1)

/-- A saved item resumes: it goes back to its engine queue, ahead of every later entry that has not begun; the vectors saved with it
are the first to pass the epilogue (R38, R139). -/
def Dev.resumeItem (d : Dev) (it : Item) : Dev :=
  let begun := decide (it.engine = .launch) && decide (it.vals.length = 8)
  let it := { it with place := if begun then .running else .queued, cause := .none }
  let d := { d with ctl := { d.ctl with items := putBack it d.ctl.items } }
  if it.engine = .stones then
    let (mine, rest) := d.stn.parked.partition (fun f => decide (f.item = it.id))
    let s := d.sub it.part
    let d := { d with stn := { d.stn with parked := rest } }
    let back (f : Flight) : Bool := match d.item f.item with
      | some x => decide (x.place = .queued)
      | none => false
    d.setSub it.part { s with flight := s.flight.takeWhile back ++ mine ++ s.flight.dropWhile back }
  else d

/-- Resume the due items among some, in their order. -/
def Dev.resumeAll (d : Dev) (f : Item → Bool) : Dev :=
  (d.ctl.items.filter f).foldl (fun d x => match d.item x.id with
    | some it => if d.resumable it then d.resumeItem it else d
    | none => d) d

/-- A pre-empted item's drain has ended (R424). -/
def Dev.drained (d : Dev) (it : Item) : Bool :=
  match it.engine with
  | .stones => !(d.sub it.part).flight.any (fun f => decide (f.item = it.id)) || d.stnHeld it.part
  | .launch => d.launchQuiet it.id
  | _ => true

/-- CONTEXT_SAVE_DONE (R33, R38, R139, R225, R269): a pre-empted item's drain and save end; its OVERRUN_RESUMED record is
written. An item saved for an overrun resumes at once (R38). -/
def cmdContextSaveDone (item : Nat) (d : Dev) : Dev :=
  match d.item item with
  | some it0 =>
    if it0.place = .draining then
      let d := if it0.engine = .stones then Dev.drain it0.part (d.sub it0.part).flight.length d else d
      match d.item item with
      | some it =>
        if d.drained it && !d.winPending (.item item) then
          let d := d.saveItem it
          match d.item item with
          | some it => if it.cause = .overrun && d.resumable it then (d.resumeItem it).csaFollow d else d
          | none => d
        else d
      | none => d
    else d
  | none => d

/-! ### The end of a launch (R232, R260) -/

/-- The skeins of a halted launch, resident and saved. -/
def Dev.allSkeins (d : Dev) (launch : Nat) : List Skein :=
  (d.skeinList.filter (fun e => decide (e.2.launch = launch))).map (·.2) ++ d.savedSkeins launch

/-- A launch ends: normally when its bundles and posted operations have ended, or after its halt, when its skeins have stopped
and their state is written for inspection; the ring of a halted launch stops (R260). -/
def cmdLaunchCompletion (item : Nat) (d : Dev) : Dev :=
  match d.item item with
  | some it =>
    let at' := decide (it.place = .running) || (decide (it.place = .saved) && it.early.isSome)
    if it.engine ≠ .launch ∨ !at' ∨ d.postedBy item then d
    else
      match it.early with
      | some st =>
        if d.launchQuiet item then
          let d := d.csaSkeins it.part 0 (d.allSkeins item)
          let it := (d.allSkeins item).foldl (fun (it : Item) s => { it with sat := it.sat || bitAt s.sks 8, nan := it.nan || bitAt s.sks 9 }) it
          ((d.clearLaunch item).finishItem it).stopRing (ringIndex it.part it.ring) st
        else d
      | none =>
        if launchNoop it.desc || (launchDispatched it && decide (it.prog = launchBundles it.desc)) then d.finishItem it else d
  | none => d

end Sys2Proof.Machine
end

