-- ==== Sys2Proof/Machine/Serving.lean ====
section
/-!
DEFINITION. Machine/Serving.lean: what the rest of the module does to a serving service (R611 to R614) and its rings (R615, R619,
R620): pausing, stopping, doorbells, token records.
-/
namespace Sys2Proof.Machine

/-- The service of partition p. -/
def Dev.srvOf (d : Dev) (p : Nat) : Srv := d.srv.getD p {}
def Dev.setSrv (d : Dev) (p : Nat) (v : Srv) : Dev := { d with srv := setAt {} d.srv p v }

/-- STATE of R636: 0 idle, 1 running, 2 refused, 3 paused. -/
def Dev.srvState (d : Dev) (p : Nat) : Nat := d.rf (F.MIL_SRV_STAT_STATE p)

/-- The service of partition p runs or is paused. -/
def Dev.srvActive (d : Dev) (p : Nat) : Bool := decide (d.srvState p = 1 ∨ d.srvState p = 3)

/-- Pages that n positions of a sequence take: 256 ÷ KVHEADS positions a page, in every layer (R627). -/
def Srv.pagesFor (v : Srv) (n : Nat) : Nat :=
  let m0 := v.table.getD 0 0
  bitsAt m0 0 8 * ceilDiv (n * bitsAt m0 16 5) 256

/-- Pages that the batch holds. -/
def Srv.pagesOf (v : Srv) (b : List SrvSeq) : Nat := (b.map (fun s => v.pagesFor (s.done + s.step))).foldl (· + ·) 0

/-- The status fields of R636. -/
def Dev.srvShow (d : Dev) (p : Nat) : Dev :=
  let v := d.srvOf p
  let d := d.wf (F.MIL_SRV_STAT_ACTIVE p) v.batch.length
  let d := d.wf (F.MIL_SRV_STAT_WAITING p) v.waiting.length
  d.wf (F.MIL_SRV_STAT_FREE_PAGES p) (if d.srvActive p then v.cfg.kvPages - v.pagesOf v.batch else 0)

/-! ### Token records (R619, R621) -/

/-- A token record. -/
def tokenBytes (req : SrvReq) (tok pos status turn time : Nat) : List Byte :=
  leBytes 8 (req.id % 2 ^ 32 + (tok % 2 ^ 32) * 2 ^ 32)
  ++ leBytes 8 (pos % 2 ^ 32 + (status % 256) * 2 ^ 32 + b2n (decide (status ≠ 0)) * 2 ^ 40)
  ++ leBytes 8 (turn % 2 ^ 32 + (req.toks.length % 2 ^ 32) * 2 ^ 32)
  ++ leBytes 8 (time % 2 ^ 64)

/-- Records in the token ring that are not consumed. -/
def Srv.unconsumed (v : Srv) : Nat := (v.prod + 2 ^ 32 - v.cons) % 2 ^ 32

/-- Free slots of the token ring. -/
def Srv.room (v : Srv) : Nat := 2 ^ v.cfg.tokLog2 - v.unconsumed - v.toWrite.length

/-- Write the records that have a slot, each with the producer word after it. -/
def Dev.srvPump (p : Nat) : Nat → Dev → Dev
  | 0, d => d
  | f + 1, d =>
    let v := d.srvOf p
    match v.toWrite with
    | [] => d
    | r :: rest =>
      if 2 ^ v.cfg.tokLog2 ≤ v.unconsumed then d
      else
        let prod := (v.prod + 1) % 2 ^ 32
        let d := d.toCompanion (v.cfg.tokBase + 32 * (v.prod % 2 ^ v.cfg.tokLog2)) r
        let d := d.toCompanion v.cfg.tokProd (leBytes 8 (doorbellWord prod))
        Dev.srvPump p f (d.setSrv p { v with toWrite := rest, prod := prod })

/-- Write a token record for a request. `tok` is all ones in a record without a token. -/
def Dev.srvRecord (d : Dev) (p : Nat) (req : SrvReq) (tok pos status : Nat) : Dev :=
  let v := d.srvOf p
  Dev.srvPump p (v.toWrite.length + 1)
    (d.setSrv p { v with toWrite := v.toWrite ++ [tokenBytes req tok pos status d.turn d.time] })

/-- The final record of a request that ends without a token (R619). -/
def Dev.srvEndReq (d : Dev) (p : Nat) (req : SrvReq) (status : Nat) : Dev :=
  d.srvRecord p req 0xFFFFFFFF (req.prompt.length + req.toks.length) status

/-! ### Words that the service follows (R615, R437, R652) -/

def Srv.dbLine (v : Srv) : Nat := v.cfg.reqDb / 64
def Srv.consLine (v : Srv) : Nat := (v.cfg.tokProd + 8) / 64

/-- An idle service whose records are all written follows its words no more. -/
def Dev.srvRelease (d : Dev) (p : Nat) : Dev :=
  let v := d.srvOf p
  if v.following && !d.srvActive p && v.toWrite.isEmpty then
    ((d.unfollow v.dbLine).unfollow v.consLine).setSrv p { v with following := false }
  else d

/-- A reread word of the service is examined as R437 to R439 and R454 have it: `which` 2 the request doorbell, 3 the token
consumer word. -/
def Dev.srvDoorbell (d : Dev) (p which word : Nat) (bad : Bool) : Dev :=
  let v := d.srvOf p
  if 4 ≤ p ∨ 4 ≤ which ∨ !v.following then d
  else
    let t := word % 2 ^ 32
    if which = 2 then
      if bad then
        if v.badDb then d else ((d.setSrv p { v with badDb := true }).pollAgain v.dbLine).bump (F.MIL_SRV_EVENTS_BAD p) 1
      else
        let d := if v.badDb then d.pollEnd v.dbLine else d
        let v := { v with badDb := false }
        let pend (c : Nat) : Nat := (c + 2 ^ 32 - v.head) % 2 ^ 32
        if doorbellOk word ∧ pend t ≤ 2 ^ v.cfg.reqLog2 ∧ pend v.tail ≤ pend t then d.setSrv p { v with tail := t }
        else (d.setSrv p v).bump (F.MIL_SRV_EVENTS_BAD p) 1
    else
      if bad then
        if v.badCons then d else ((d.setSrv p { v with badCons := true }).pollAgain v.consLine).bump (F.MIL_SRV_EVENTS_BAD p) 1
      else
        let d := if v.badCons then d.pollEnd v.consLine else d
        let v := { v with badCons := false }
        if doorbellOk word ∧ (t + 2 ^ 32 - v.cons) % 2 ^ 32 ≤ v.unconsumed then
          (Dev.srvPump p v.toWrite.length (d.setSrv p { v with cons := t })).srvRelease p
        else (d.setSrv p v).bump (F.MIL_SRV_EVENTS_BAD p) 1

/-! ### Pausing and stopping (R612 to R614) -/

/-- The service stops: a final record for every request, STATE 0 (R613). -/
def Dev.srvStop (d : Dev) (p : Nat) : Dev :=
  let v := d.srvOf p
  let all := v.batch.map (·.req) ++ v.waiting
  let d := d.setSrv p { v with batch := [], waiting := [], stepping := false, stalled := false, stopping := false, pause := none }
  let d := all.foldl (fun d r => d.srvEndReq p r 0x08) d
  let d := (d.wf (F.MIL_SRV_STAT_STATE p) 0).wf (F.MIL_SRV_STAT_CAUSE p) 0
  (d.srvRelease p).srvShow p

/-- The service stops at once: its step is lost and ENABLE is cleared (R614). -/
def Dev.srvKill (d : Dev) (p : Nat) : Dev :=
  let v := d.srvOf p
  let d := d.setSrv p { v with due := false, starting := false }
  if d.srvActive p then (d.wb (F.MIL_SRV_CTL_ENABLE p) false).srvStop p
  else if v.due || v.starting then d.wb (F.MIL_SRV_CTL_ENABLE p) false
  else d

/-- PREEMPT with ALL = 1 pauses a running service, at the end of the step in progress (R612). -/
def Dev.srvPause (d : Dev) (p : Nat) (hold : Bool) : Dev :=
  let v := d.srvOf p
  if !d.srvActive p then d
  else
    let d := d.setSrv p { v with pause := some (hold || v.pause = some true) }
    if v.stepping then d else d.wf (F.MIL_SRV_STAT_STATE p) 3

/-- After a RESUME a held service continues at the boundary that follows (R612). -/
def Dev.srvResume (d : Dev) (p : Nat) : Dev :=
  let v := d.srvOf p
  if v.pause.isSome then d.setSrv p { v with pause := some false } else d

end Sys2Proof.Machine
end

