-- ==== Sys2Proof/Machine/Queue.lean ====
section
/-!
DEFINITION. Machine/Queue.lean: doorbells and descriptor fetch (R431 to R444), admission (R445 to R451), the service operations
(R397, R421, R457 to R459), fault answers (R401 to R405) and job stops (R527 to R529).
-/
namespace Sys2Proof.Machine

/-! ### Ending items -/

/-- What a Stones operation leaves in the array is dropped. -/
def Dev.dropStones (d : Dev) (it : Item) : Dev :=
  let s := d.sub it.part
  let mine := s.flight.any (fun f => decide (f.item = it.id))
  let d := d.setSub it.part { s with flight := s.flight.filter (fun f => decide (f.item ≠ it.id)),
                                     fills := s.fills.filter (fun f => decide (f.item ≠ it.id)),
                                     held := if mine then none else s.held }
  { d with stn := { d.stn with parked := d.stn.parked.filter (fun f => decide (f.item ≠ it.id)),
                               parkedRec := d.stn.parkedRec.filter (fun e => decide (e.1 ≠ it.id)) } }

/-- An item without skeins ends early, wherever it is, with a status and a DETAIL (R456). -/
def Dev.killPlain (d : Dev) (it : Item) (status detail : Nat) : Dev :=
  let it := { it with early := some status, detail := detail }
  match it.engine with
  | .stones =>
    let d := d.dropStones it
    match it.posted with
    | some q => d.ticketDone it q
    | none => d.finishItem it
  | .service =>
    (if (d.tst.ckpt.map (fun c => decide (c.item = it.id))).getD false then { d with tst := { d.tst with ckpt := none } } else d).finishItem it
  | .collective => (if it.desc.opcode < 0x73 then (d.dropMsg it.id).finishItem it else d.endCol it status)
  | _ => d.finishItem it

/-- An item ends early with a status: a launch takes the operations its skeins posted and its bundles with it. -/
def Dev.killItem (d : Dev) (it : Item) (status detail : Nat) : Dev :=
  if it.engine = .launch then
    let posted := d.ctl.items.filter (fun x => match x.posted with
      | some q => decide (q.launch = it.id)
      | none => false)
    let d := posted.foldl (fun d x => d.killPlain x status 0) d
    (d.clearLaunch it.id).finishItem { it with early := some status, detail := detail }
  else d.killPlain it status detail

/-- End every item that `f` names (operations that skeins posted end with their launch). -/
def Dev.killAll (d : Dev) (f : Item → Bool) (status : Nat) : Dev :=
  (d.ctl.items.filter (fun it => f it && it.posted.isNone)).foldl (fun d x =>
    match d.item x.id with
    | some it => d.killItem it status 0
    | none => d) d

/-! ### Doorbells (R436 to R439, R454) -/

/-- The 64-byte lines of a ring's doorbell and consumer words. -/
def Dev.dbLine (d : Dev) (n : Nat) : Nat := d.rf (F.QUE_DB_ADDR n) / 8
def Dev.consLine (d : Dev) (n : Nat) : Nat := d.rf (F.QUE_CCONS_ADDR n) / 8

/-- Descriptors published and not admitted (R433). -/
def Dev.pendingOf (d : Dev) (n tail : Nat) : Nat := (tail + 2 ^ 32 - d.rf (F.QUE_RSTAT_HEAD n)) % 2 ^ 32

/-- DOORBELL (R437, R438, R454): a reread word of an active ring is examined: `which` 0 its doorbell, 1 its consumer word; `bad`
says that the read of its line returned poison or failed. 2 and 3: the request doorbell and the token consumer word of partition p's
service (R615). -/
def cmdDoorbell (p r which word : Nat) (bad : Bool) (d : Dev) : Dev :=
  let n := ringIndex p r
  if 2 ≤ which then d.srvDoorbell p which word bad
  else if 4 ≤ p ∨ 64 ≤ r ∨ !d.rb (F.QUE_RSTAT_ACTIVE n) then d
  else
    let d := d.event 41 0x903 (some p) r 1
    let x := d.ring n
    if which = 0 then
      let line := d.dbLine n
      if bad then
        if x.badDb then d else ((d.setRing n { x with badDb := true }).pollAgain line).bump (F.QUE_RSTAT_BAD_DB n) 1
      else
        let d := if x.badDb then (d.setRing n { x with badDb := false }).pollEnd line else d
        let x := { x with badDb := false }
        let t := word % 2 ^ 32
        if doorbellOk word ∧ d.pendingOf n t ≤ 2 ^ d.ringLog2 n ∧ d.pendingOf n x.tail ≤ d.pendingOf n t then
          d.setRing n { x with tail := t }
        else d.bump (F.QUE_RSTAT_BAD_DB n) 1
    else
      let line := d.consLine n
      if bad then
        if x.badCons then d else ((d.setRing n { x with badCons := true }).pollAgain line).bump F.QUE_EVENTS_BAD_CONSUMER 1
      else
        let d := if x.badCons then (d.setRing n { x with badCons := false }).pollEnd line else d
        let x := { x with badCons := false }
        let c := word % 2 ^ 32
        if doorbellOk word ∧ (c + 2 ^ 32 - x.cons) % 2 ^ 32 ≤ x.unconsumed then d.setRing n { x with cons := c }
        else d.bump F.QUE_EVENTS_BAD_CONSUMER 1

/-! ### Descriptor fetch (R440 to R444) -/

/-- The classes that accept an engine's operations (R441). -/
def classAccepts (cls : Nat) : Engine → Bool
  | .nop => true
  | .stones | .press | .launch => decide (cls = 0)
  | .sluice | .bolter => decide (cls = 1)
  | .collective => decide (cls = 2)
  | .service => decide (cls = 3)
  | .reserved => false

/-- The checks a service descriptor has (R457, R592). -/
def serviceCheckFails (c : Desc) : Bool :=
  (decide (c.opcode = 0x64) && decide (c.fld 2 0 52 % 8 ≠ 0))
    || (decide (c.opcode = 0x65) && (decide (c.fld 1 0 52 % 64 ≠ 0) || decide (c.fld 2 0 52 % 64 ≠ 0)))

/-- Word 7 is the complement of word 0 (R441). -/
def Desc.headerOk (c : Desc) : Bool := decide (c.w7 = ~~~c.w0)

/-- The requester of the tables that a descriptor of ring n names. -/
def fetchUnit (n : Nat) : Waiter := .unit (2 ^ 24 + n)

/-- Check a descriptor of ring n of partition p on arrival (R442); `prev` is the descriptor before it, not yet admitted. -/
def Dev.checkDesc (d : Dev) (p n : Nat) (c : Desc) (prev : Option Fetched) : Dev × Check × List Nat :=
  if !c.headerOk || !classAccepts (d.ringClass n) (engineOf c.opcode) then (d, .fail, [])
  else
    let plain (b : Bool) : Dev × Check × List Nat := (d, if b then .fail else .pass, [])
    match engineOf c.opcode with
    | .stones => d.stnCheck p (fetchUnit n) c
    | .press => if c.opcode = 0x20 then d.mangleCheck p (fetchUnit n) c prev else plain (d.laneCheckFails c)
    | .launch => plain (launchCheckFails c)
    | .sluice => plain (sluiceCheckFails c)
    | .bolter => plain (bolterCheckFails c)
    | .service => plain (serviceCheckFails c)
    | .collective => d.colCheck p (fetchUnit n) c
    | .nop => plain false
    | .reserved => plain true

/-- Fields of a descriptor that act as another value (R79, R119, R477). -/
def descClampCount (c : Desc) : Nat :=
  match engineOf c.opcode with
  | .stones => stnClampCount c
  | .press => b2n (decide (5 ≤ bitsAt (if c.opcode = 0x20 then mngCvtc c else c.fld 2 16 8) 0 3))
  | _ => 0

/-- DESCRIPTOR_FETCH (R440 to R443): the next descriptor of a ring arrives and is checked. `bad`: its fetch returned poison or
failed on the Companion Link. -/
def cmdDescriptorFetch (p r : Nat) (c : Desc) (bad : Bool) (d : Dev) : Dev :=
  let n := ringIndex p r
  let x := d.ring n
  let k := x.fetched.length
  if 4 ≤ p ∨ 64 ≤ r ∨ !d.rb (F.QUE_RSTAT_ACTIVE n) ∨ 32 ≤ k ∨ d.pendingOf n x.tail ≤ k then d
  else
    let seq := (d.rf (F.QUE_RSTAT_HEAD n) + k) % 2 ^ 32
    let put (d : Dev) (st : Option Nat) (ext : List Nat) : Dev :=
      let d := d.sweep (fetchUnit n)
      let x := d.ring n
      d.setRing n { x with fetched := x.fetched ++ [{ seq := seq, desc := c, bad := st, ext := ext }] }
    if bad then put d (some 0x11) []
    else
      match d.checkDesc p n c x.fetched.getLast? with
      | (d, .wait, _) => d
      | (d, .fail, _) => put d (some 0x03) []
      | (d, .poison _, _) => put d (some 0x11) []
      | (d, .pass, ext) => put (d.clamped (descClampCount c)) none ext

/-! ### Admission (R445 to R451) -/

/-- The compute or copy ring is a deferred ring (R448). -/
def Dev.deferredRing (d : Dev) (n : Nat) : Bool := d.rb (F.QUE_RCTL_DEFERRED n) && decide (d.ringClass n ≤ 1)

/-- Entries of the deferred pool. -/
def Dev.poolCount (d : Dev) (p : Nat) : Nat := (d.ctl.items.filter (fun i => decide (i.part = p) && decide (i.place = .pool))).length

/-- The room of an engine queue (R133, R192, R413, R447, R536). -/
def queueRoom : Engine → Nat
  | .stones => 64 | .press => 32 | .launch => 32 | .sluice => 64 | .bolter => 16 | .collective => 32 | _ => 2 ^ 32

/-- Entries of an engine queue: a descriptor that a Sluice has taken and a launch without bundles left have left theirs
(R447). -/
def Dev.queueUsed (d : Dev) (p : Nat) (e : Engine) : Nat :=
  ((d.queueOf p e (fun q => if e = .sluice then q = .queued else q.inQueue)).filter
    (fun it => decide (e ≠ .launch) || !launchDispatched it)).length

/-- A fetched descriptor that needs no engine. -/
def Fetched.noEngine (f : Fetched) : Bool := f.bad.isSome || decide (engineOf f.desc.opcode = .nop)

/-- Its target has room for it (R446). -/
def Dev.hasRoom (d : Dev) (p n : Nat) (f : Fetched) : Bool :=
  f.noEngine || (if d.deferredRing n then decide (d.poolCount p < 64) && d.engineOpen p (engineOf f.desc.opcode)
    else d.engineOpen p (engineOf f.desc.opcode) && decide (d.queueUsed p (engineOf f.desc.opcode) < queueRoom (engineOf f.desc.opcode)))

/-- The final record of a descriptor that ends at admission (R442 to R444). -/
def Dev.endAtAdmission (d : Dev) (n : Nat) (it : Item) (st : Nat) : Dev :=
  let d := if st = 0x11 then
      (d.bump F.QUE_EVENTS_FETCH_POISON 1).postError
        { cls := 2, source := 0x0E, event := 0xF0, inst := it.ring, parts := 2 ^ it.part, akind := 4,
          addr := d.rf (F.QUE_RBASE_BASE n) * 64 + 64 * (it.seq % 2 ^ d.ringLog2 n), tag := it.desc.tag, ring := it.ring }
    else d
  let d := d.event 41 0x901 (some it.part) it.ring (b2n (decide (st = 0x03)))
  d.writeRecord n st 0 it

/-- The front descriptor of ring n leaves the ring: it ends at once or enters the pool, its queue or the service order. -/
def Dev.admitOne (d : Dev) (p n : Nat) (f : Fetched) : Dev :=
  let x := d.ring n
  let d := (d.setRing n { x with fetched := x.fetched.drop 1, headMoved := true }).wf (F.QUE_RSTAT_HEAD n) (f.seq + 1)
  let d := d.event 41 0x900 (some p) (n % 64) 1
  let it : Item := { id := 0, part := p, ring := n % 64, seq := f.seq, desc := f.desc, ext := f.ext,
                     place := if d.deferredRing n then .pool else .queued, deferred := d.deferredRing n }
  match f.bad with
  | some st => d.endAtAdmission n it st
  | none =>
    if engineOf f.desc.opcode = .nop then d.endAtAdmission n it 0x00
    else
      let d := d.addItem it
      if engineOf f.desc.opcode = .collective ∧ 0x73 ≤ f.desc.opcode ∧ colGate f.ext ≠ 0 then d.follow (colGate f.ext / 64) else d

/-- The linked MANGLE of a producer and the producer are in place: the link between them (R218 to R220). -/
def Dev.joinLink (d : Dev) (p : Nat) (prod mangle : Fetched) (prodId : Nat) : Dev :=
  if mangle.bad.isSome then d
  else
    let l : PressLink := { mangle := d.ctl.nextId - 1, producer := prodId, part := p, desc := prod.desc, ext := prod.ext,
                           done := prod.bad.map (fun st => (st, 0)) }
    { d with prs := { d.prs with links := d.prs.links ++ [l] } }

/-- The descriptors at the front of a ring that are admitted together: a producer and its linked MANGLE, or one (R218). None:
the front must wait for the descriptor behind it to be checked. -/
def Dev.frontGroup (d : Dev) (n : Nat) : Option (List Fetched) :=
  let x := d.ring n
  match x.fetched with
  | [] => none
  | f :: rest =>
    if f.desc.opcode = 0x10 ∨ f.desc.opcode = 0x11 then
      match rest with
      | [] => if 1 < d.pendingOf n x.tail then none else some [f]
      | g :: _ => if g.desc.opcode = 0x20 ∧ mngLink g.desc ∧ g.bad.isNone then some [f, g] else some [f]
    else some [f]

/-- Slots of the completion ring that are neither reserved nor hold an unconsumed record (R454). -/
def Dev.freeSlotsOf (d : Dev) (n : Nat) : Nat := 2 ^ d.cplLog2 n - (d.reserved n + (d.ring n).unconsumed)

/-- Admit one group of ring n, at most `left` descriptors; none: the ring stops for this boundary (R446). -/
def Dev.admitGroup (d : Dev) (p n left : Nat) : Option (Dev × Nat) :=
  match d.frontGroup n with
  | some [f] =>
    if 1 ≤ left ∧ 1 ≤ d.freeSlotsOf n ∧ d.hasRoom p n f then some (d.admitOne p n f, 1) else none
  | some [f, g] =>
    let pool := if d.deferredRing n then decide (d.poolCount p + b2n (!f.noEngine) < 64) else true
    if 2 ≤ left ∧ 2 ≤ d.freeSlotsOf n ∧ d.hasRoom p n f ∧ d.hasRoom p n g ∧ pool then
      let prodId := d.ctl.nextId
      some ((((d.admitOne p n f).admitOne p n g).joinLink p f g prodId), 2)
    else none
  | _ => none

/-- Ring n may admit (R446, R421); beside a service, no compute or copy ring does (R612), and a partition without the compute set
admits service-ring work only (R363, R606). -/
def Dev.ringAdmits (d : Dev) (n : Nat) : Bool :=
  d.rb (F.QUE_RSTAT_ACTIVE n) && !d.rb (F.QUE_RSTAT_STOPPED n) && !(d.ring n).held
    && !(decide (d.ringClass n ≤ 1) && d.srvActive (n / 64)) && (decide (d.ringClass n = 3) || !d.serviceOnly (n / 64))

/-- Admit from ring n: `left` descriptors of ADMIT_MAX, `budget` of the partition. Answers the budget left. -/
def Dev.admitRing (p n : Nat) : Nat → Nat → Dev × Nat → Dev × Nat
  | 0, _, x => x
  | f + 1, left, (d, budget) =>
    match d.admitGroup p n (min left budget) with
    | some (d, k) => Dev.admitRing p n f (left - k) (d, budget - k)
    | none => (d, budget)

/-- Admit from a list of rings in order. -/
def Dev.admitRings (p : Nat) (rings : List Nat) (x : Dev × Nat) : Dev × Nat :=
  rings.foldl (fun x r =>
    let n := ringIndex p r
    let k := (x.1.ring n).fetched.length
    if x.1.ringAdmits n then
      let (d, b) := Dev.admitRing p n k (x.1.rf (F.QUE_RCTL_ADMIT_MAX n)) x
      (d.event 41 0x905 (some p) r (d.ring n).fetched.length, b)
    else x) x

/-- Rings of partition p that take part in its admission: enabled at an earlier boundary (R466). -/
def Dev.enabledRings (d : Dev) (p : Nat) (f : Nat → Bool) : List Nat :=
  (List.range 64).filter (fun r => d.rb (F.QUE_RSTAT_ACTIVE (ringIndex p r)) && !(d.ring (ringIndex p r)).joining && f (ringIndex p r))

/-- A list of ring numbers beginning at the first one that is at least `start`. -/
def rotateFrom (start : Nat) (rs : List Nat) : List Nat :=
  rs.filter (fun r => decide (start ≤ r)) ++ rs.filter (fun r => decide (r < start))

/-- One PRIO level takes its turn (R445). -/
def Dev.admitLevel (p level : Nat) (x : Dev × Nat) : Dev × Nat :=
  let d := x.1
  let rs := rotateFrom (SMap.get (fun _ => 0) d.ctl.prioStart (4 * p + level))
    (d.enabledRings p (fun n => decide (d.ringClass n ≠ 3) && decide (d.rf (F.QUE_RCTL_PRIO n) = level)))
  match rs with
  | [] => x
  | r :: _ =>
    let d := { d with ctl := { d.ctl with prioStart := SMap.set (fun _ => 0) d.ctl.prioStart (4 * p + level) (r + 1) } }
    Dev.admitRings p rs (d, x.2)

/-! ### Service operations (R421, R457 to R459) -/

/-- The rings that PREEMPT and RESUME name: never a service ring (R421). -/
def Dev.namedRing (d : Dev) (p : Nat) (c : Desc) (r : Nat) : Bool :=
  (decide (c.fld 1 6 1 = 1) || decide (c.fld 1 0 6 = r)) && decide (d.ringClass (ringIndex p r) ≠ 3)

/-- Set the hold of every named ring. -/
def Dev.holdRings (d : Dev) (p : Nat) (c : Desc) (v : Bool) : Dev :=
  (List.range 64).foldl (fun d r =>
    if d.namedRing p c r then d.setRing (ringIndex p r) { d.ring (ringIndex p r) with held := v } else d) d

/-- The head of its service ring (R458). -/
def Dev.serviceFirst (d : Dev) (it : Item) : Bool :=
  match d.ctl.items.find? (fun x => decide (x.part = it.part) && decide (x.ring = it.ring) && decide (x.engine = .service)) with
  | some x => decide (x.id = it.id)
  | none => false

/-- PREEMPT takes the items of the named rings (R421): collectives, messages and CKPT run on. -/
def Dev.preemptTake (d : Dev) (it : Item) : Dev :=
  let c := it.desc
  let hold := decide (c.fld 1 7 1 = 1)
  let mine := d.ctl.items.filter (fun x => decide (x.part = it.part) && d.namedRing it.part c x.ring
    && decide (x.engine ≠ .collective) && decide (x.engine ≠ .service))
  let d := if hold then d.holdRings it.part c true else d
  let d := if c.fld 1 6 1 = 1 then d.srvPause it.part hold else d
  let d := mine.foldl (fun d x => match d.item x.id with
    | some y => if y.early.isSome then d else d.preemptItem y .preempt hold
    | none => d) d
  d.setItem { it with place := .running, aux := mine.map (·.id) }

/-- A DRAIN's items: those that the named rings admitted at an earlier boundary and that have no final record (R457, R458). -/
def Dev.drainSet (d : Dev) (it : Item) (first : Nat) : List Nat :=
  let rings := it.desc.word 1
  (d.ctl.items.filter (fun x => decide (x.id < first) && decide (x.part = it.part) && decide (x.ring ≠ it.ring)
    && (decide (rings = 0) || bitAt rings x.ring))).map (·.id)

/-- At the boundary that admits them, DRAIN notes its items and a PREEMPT that heads its ring takes its own; `first` is the
number of the first item admitted here. -/
def Dev.serviceAdmitted (d : Dev) (p first : Nat) : Dev :=
  (d.ctl.items.filter (fun x => decide (x.part = p) && decide (first ≤ x.id) && decide (x.engine = .service))).foldl (fun d x =>
    match x.desc.opcode with
    | 0x64 => d.setItem { x with aux := d.drainSet x first }
    | 0x61 => if d.serviceFirst x then d.preemptTake x else d
    | _ => d) d

/-- Step 7 of R33 for partition p: service rings, whose PREEMPT takes its items there and then (log entry 97), then the PRIO levels
from 3 to 0. -/
def Dev.admitPart (d : Dev) (p : Nat) : Dev :=
  if !d.partAdmits p then d
  else
    let first := d.ctl.nextId
    let x := Dev.admitRings p (d.enabledRings p (fun n => decide (d.ringClass n = 3))) (d, 256)
    (([3, 2, 1, 0]).foldl (fun x level => Dev.admitLevel p level x) (x.1.serviceAdmitted p first, x.2)).1

/-- A service item that may execute. -/
def Dev.serviceWork (d : Dev) (op id : Nat) : Option Item :=
  match d.item id with
  | some it => if it.desc.opcode = op ∧ it.early.isNone ∧ it.place.inQueue ∧ d.serviceFirst it then some it else none
  | none => none

/-- DEFERRED_ENTRY (R449, R450): the first pool entry whose engine queue is empty enters it, in an open Turn. -/
def cmdDeferredEntry (p : Nat) (d : Dev) : Dev :=
  if !d.partAdmits p then d
  else
    match d.ctl.items.find? (fun it => decide (it.part = p) && decide (it.place = .pool) && !(d.ring (ringIndex p it.ring)).held
        && d.engineOpen p it.engine && decide (d.queueUsed p it.engine = 0)) with
    | some it =>
      let apart := (d.queueOf p it.engine (· = .saved)).map (·.id)
      let d := { d with ctl := { d.ctl with items := d.ctl.items.filter (fun (x : Item) => decide (x.id ≠ it.id)) ++ [{ it with place := .queued, apart := apart }] } }
      d.event 41 0x902 (some p) it.ring 1
    | none => d

/-- TLB_INVAL (R397): the overlapping entries are dropped; PROGRESS is the bytes covered. -/
def cmdTlbInval (item : Nat) (d : Dev) : Dev :=
  match d.serviceWork 0x60 item with
  | none => d
  | some it =>
    let base := it.desc.fld 1 0 52
    let len := it.desc.word 2
    if len = 0 then d.finishItem it
    else
      let all := decide (len = 2 ^ 64 - 1)
      let lo := if all then 0 else base / 65536 * 65536
      let hi := if all then 2 ^ 52 else min (base + len) (2 ^ 52)
      (d.dropTlb it.part lo (hi - lo)).finishItem { it with prog := hi - lo, clamped := !all && decide (2 ^ 52 < base + len) }

/-- PREEMPT (R421, R457): the named items are taken, and it completes when they are saved. -/
def cmdPreempt (item : Nat) (d : Dev) : Dev :=
  match d.serviceWork 0x61 item with
  | none => d
  | some it =>
    let d := if it.place = .queued then d.preemptTake it else d
    match d.item item with
    | some it =>
      if it.aux.any (fun i => ((d.item i).map (fun x => decide (x.place = .draining))).getD false) then d else d.finishItem it
    | none => d

/-- RESUME (R421): held items may resume at the next boundary and held rings admit again. -/
def cmdResume (item : Nat) (d : Dev) : Dev :=
  match d.serviceWork 0x62 item with
  | none => d
  | some it =>
    let d := (d.holdRings it.part it.desc false).srvResume it.part
    let items := d.ctl.items.map (fun x =>
      if x.part = it.part ∧ d.namedRing it.part it.desc x.ring then { x with held := false } else x)
    ({ d with ctl := { d.ctl with items := items } }).finishItem it

/-- RESTART (R457, R481): a stopped ring admits again from the next boundary. -/
def cmdRestart (item : Nat) (d : Dev) : Dev :=
  match d.serviceWork 0x63 item with
  | none => d
  | some it => (d.wb (F.QUE_RSTAT_STOPPED (ringIndex it.part (it.desc.fld 1 0 6))) false).finishItem it

/-- DRAIN (R457): its items have their final records; VALUE is stored at ADDR. -/
def cmdDrain (item : Nat) (d : Dev) : Dev :=
  match d.serviceWork 0x64 item with
  | none => d
  | some it =>
    if it.aux.any (fun i => (d.item i).isSome) then d
    else
      let a := it.desc.fld 2 0 52
      (if a = 0 then d else d.toCompanion a (leBytes 8 (it.desc.word 3))).finishItem it

/-! ### A fault as an event of its own (R394, R400) -/

/-- The engine code and unit number that a fault of an item's access records (R400). `site`: the place of a Stones operation's access, 0
fill, 1 run-in, 2 epilogue. -/
def Item.faultSite (it : Item) (site : Nat) : Option (Nat × Nat) :=
  match it.engine with
  | .stones => some (site % 3, it.part)
  | .press => some (3, it.part)
  | .sluice => some (6, it.unit)
  | .bolter => some (7, it.part)
  | _ => none

/-- An item's access at `va` faults on its walk: the item waits on the record (R394, R400, R402). -/
def Dev.itemFaults (d : Dev) (id va site : Nat) (acc : Acc) : Dev :=
  match d.item id with
  | none => d
  | some it =>
    match it.faultSite site with
    | none => d
    | some (e, u) =>
      if it.place ≠ .running ∨ it.fault.isSome ∨ it.early.isSome then d
      else match d.translate it.part va acc with
        | (d', .fault f) => d'.itemFault it f e u
        | _ => d

/-- The kind of access of a request's lines. -/
def SKind.acc : SKind → Acc
  | .st | .sts => .write
  | .atom | .red => .atomic
  | .range 3 => .dead
  | _ => .read

/-- A skein's fetch or the line of one of its requests faults on its walk (R259, R400). -/
def Dev.skeinFaults (d : Dev) (k req va : Nat) : Dev :=
  match d.skein k with
  | none => d
  | some s =>
    if req = fetchReq then
      if !d.mayIssue s then d
      else match d.translate s.part s.pc .fetch with
        | (_, .fault _) => (d.fetchIns k s).1
        | _ => d
    else
      match s.reqs.find? (fun q => q.id = req) with
      | none => d
      | some q =>
        if q.ins.sp || !s.earlierDone q then d
        else
          let line := match q.kind with | .range _ => (q.parts.head?.map (·.line)).getD 0 | _ => va / 128
          let a := match q.kind with | .range _ => q.next | _ => va / 128 * 128
          match q.parts.find? (fun x => decide (x.line = line) && x.fault.isNone) with
          | none => d
          | some x =>
            match d.translate s.part a q.kind.acc with
            | (d', .fault f) => d'.partFault k s q x f
            | _ => d

/-- TRANSLATION_FAULT (R400): the access of `who` at `va` faults on its walk; a record is posted, or the fault attaches to an open one.
Nothing happens where the walk does not fault. -/
def cmdTranslationFault (who : Waiter) (va site : Nat) (acc : Acc) (d : Dev) : Dev :=
  match who with
  | .item id => d.itemFaults id va site acc
  | .skein spool slot req => d.skeinFaults (spool * 16 + slot) req va
  | .unit _ => d

/-! ### Fault answers (R401 to R405, R743) -/

/-- Free the slots of answered records in order (R404). -/
def Dev.freeFaults : Nat → Nat → Dev → Dev
  | 0, _, d => d
  | f + 1, p, d =>
    let n := d.rf (F.MMU_FRING_STAT_FREED p)
    let ans := d.mem.answered.getD p []
    if ans.contains (n % 2 ^ 16) then
      let d := { d with mem := { d.mem with answered := d.mem.answered.set p (ans.erase (n % 2 ^ 16)) } }
      Dev.freeFaults f p (d.wf (F.MMU_FRING_STAT_FREED p) (n + 1))
    else d

/-- A posted record is answered: it is no longer open, its line is not followed, slots free, waiting records are posted. -/
def Dev.closeFault (d : Dev) (r : FaultRec) : Dev :=
  let d := d.unfollow (d.fringLine r.part r.id)
  let d := { d with mem := { d.mem with faults := d.mem.faults.filter (fun f => decide (f.key ≠ r.key)),
                                        answered := d.mem.answered.modify r.part (· ++ [r.id]) } }
  (Dev.freeFaults 65536 r.part d).postFaults r.part

/-- The waits of a skein on a record end. -/
def Skein.retry (s : Skein) (key : Nat) : Skein :=
  { s with fetchFault := if s.fetchFault = some key then none else s.fetchFault,
           reqs := s.reqs.map (fun q => { q with parts := q.parts.map (fun x => if x.fault = some key then { x with fault := none } else x) }) }

/-- A skein waits on a record. -/
def Skein.waitsOn (s : Skein) (key : Nat) : Bool :=
  decide (s.fetchFault = some key) || s.reqs.any (fun q => q.parts.any (fun x => decide (x.fault = some key)))

/-- RETRY: every access attached to the record may repeat its walk (R402). -/
def Dev.retryFault (d : Dev) (key : Nat) : Dev :=
  let items := d.ctl.items.map (fun it => if it.fault = some key then { it with fault := none } else it)
  let skeins := d.spl.skeins.map (fun e => (e.1, e.2.map (·.retry key)))
  let bundles := d.spl.bundles.map (fun b => { b with saved := b.saved.map (·.retry key) })
  let ckpt := d.tst.ckpt.map (fun c => { c with parts := c.parts.map (fun x => if x.fault = some key then { x with fault := none } else x) })
  { d with ctl := { d.ctl with items := items }, spl := { d.spl with skeins := skeins, bundles := bundles },
           tst := { d.tst with ckpt := ckpt } }

/-- ABORT: the operations concerned end with PAGE_FAULT; a Spool fault halts its launch (R402). -/
def Dev.abortFault (d : Dev) (key id : Nat) : Dev :=
  let launches := (d.spl.skeins.filterMap (fun e => match e.2 with
      | some s => if s.waitsOn key then some s.launch else none
      | none => none))
    ++ d.spl.bundles.filterMap (fun b => if b.saved.any (·.waitsOn key) then some b.launch else none)
    ++ d.ctl.items.filterMap (fun it => if it.fault = some key ∧ it.engine = .launch then some it.id else none)
  let ckpt := match d.tst.ckpt with
    | some c => if c.parts.any (fun x => decide (x.fault = some key)) then some c.item else none
    | none => none
  let plain := d.ctl.items.filter (fun it => (decide (it.fault = some key) && decide (it.engine ≠ .launch)) || decide (ckpt = some it.id))
  let d0 := d.retryFault key
  let d := launches.foldl (fun d l => d.haltLaunch l 0x10 id) d0
  (plain.foldl (fun (d : Dev) (x : Item) => match d.item x.id with
    | some it => d.killPlain it 0x10 id
    | none => d) d).csaFollow d0

/-- The open posted record of partition p with an ID. -/
def Dev.postedFault (d : Dev) (p id : Nat) : Option FaultRec :=
  d.mem.faults.find? (fun f => decide (f.part = p) && f.posted && decide (f.id = id))

/-- FAULT_ANSWER (R401, R402): the word read from record `id` of partition p's fault ring. A word of zero is the one the device
wrote: it is no answer. -/
def cmdFaultAnswer (p id word : Nat) (d : Dev) : Dev :=
  match d.postedFault p id with
  | none => d
  | some r =>
    let action := bitsAt word 32 2
    if word % 2 ^ 64 = 0 then d
    else if bitsAt word 0 16 ≠ id ∨ bitsAt word 16 16 ≠ 2 ^ 16 - 1 - id ∨ action = 0 ∨ action = 3 then d.bump F.MMU_STATUS_BAD_REPLY 1
    else
      let d := if action = 1 then d.retryFault r.key else d.abortFault r.key id
      d.closeFault r

/-- FAULT_TIMEOUT (R405): a record has passed FAULT_TURNS boundaries unanswered. -/
def cmdFaultTimeout (p id : Nat) (d : Dev) : Dev :=
  match d.postedFault p id with
  | none => d
  | some r =>
    if r.bounds < max 1 (d.rf F.MMU_CTRL_FAULT_TURNS) then d
    else ((d.bump F.MMU_STATUS_TIMEOUTS 1).abortFault r.key id).closeFault r

/-- A partition reset closes the partition's open records without an answer (R743). -/
def Dev.closeFaults (d : Dev) (p : Nat) : Dev :=
  let mine := d.mem.faults.filter (fun f => decide (f.part = p))
  let d := mine.foldl (fun d f => if f.posted then d.unfollow (d.fringLine p f.id) else d) d
  { d with mem := { d.mem with faults := d.mem.faults.filter (fun f => decide (f.part ≠ p)), answered := d.mem.answered.set p [] } }

/-! ### Job stops (R527 to R529) -/

/-- Stop the partition for its job: its rings but the service rings, its items, a running CKPT with them (R528, R593). -/
def Dev.stopPart (d0 : Dev) (p : Nat) : Dev :=
  let d := d0.srvKill p
  let d := (List.range 64).foldl (fun d r =>
    let n := ringIndex p r
    if d.rb (F.QUE_RSTAT_ACTIVE n) && decide (d.ringClass n ≠ 3) then d.stopRing n 0x30 else d) d
  (d.killAll (fun it => decide (it.part = p) && (decide (it.engine ≠ .service) || (decide (it.desc.opcode = 0x65) && decide (it.place = .running)))) 0x30).csaFollow d0

/-- Take a job stop, received on a port or originated here (R528). -/
def Dev.jobStop (d : Dev) (job id : Nat) (port : Option Nat) : Dev :=
  if d.fab.jobStops.contains (job, id) then d
  else
    let stops := d.fab.jobStops ++ [(job, id)]
    let d := ({ d with fab := { d.fab with jobStops := stops.drop (stops.length - 16) } }).bump F.FAB_EVENTS_STOPS 1
    let d := (List.range 6).foldl (fun d n =>
      if d.portRunning n && decide (port ≠ some n) then
        d.putOnPort n false { kind := 0xF, src := d.ownNode, job := job, aux := id }
      else d) d
    let hit := (List.range d.parts).filter (fun p => decide (d.jobOf p = job))
    let d := d.postError { cls := 1, source := 0x08, event := 0x04, inst := port.getD 0xFF,
                           parts := (hit.map (2 ^ ·)).foldl (· + ·) 0, detail0 := job % 2 ^ 16 + (id % 2 ^ 32) * 2 ^ 16 }
    let d := hit.foldl (fun d p => d.stopPart p) d
    (List.range 64).foldl (fun d i =>
      let a := SMap.get (fun _ => 0) d.fab.ing i
      if bitsAt a 0 16 = job then d.wbit F.FAB_ING_STOP_STOPPED i true else d) d

/-- JOB_STOP (R528): a JOB_STOP packet arrives. -/
def cmdJobStop (port : Nat) (p : Packet) (d : Dev) : Dev :=
  if !d.arrives port 0xF p then d else (d.takePacket port p).jobStop p.job p.aux (some port)

/-- FAB_JOBSTOP (R527): a write originates a JOB_STOP. -/
def Dev.writeJobstop (d : Dev) (v : Nat) : Dev := d.jobStop (bitsAt v 0 16) (bitsAt v 16 32) none

end Sys2Proof.Machine
end

