-- ==== Sys2Proof/Machine/Rs.lean ====
section
/-!
DEFINITION. Machine/Rs.lean: the symbol code of a half-line (R364 to R366): the Reed-Solomon code over GF(2^8) with n = 72 and
k = 64. The code is linear, so decoding looks only at the pattern of errors: the codeword itself does not matter.
-/
namespace Sys2Proof.Machine.Rs

/-- Multiply by α = 2 modulo x^8 + x^4 + x^3 + x^2 + 1 (R365). -/
def dbl (a : Nat) : Nat := if 128 ≤ a then (2 * a) ^^^ 0x11D else 2 * a

/-- Product in GF(2^8). -/
def mulN : Nat → Nat → Nat → Nat
  | 0, _, _ => 0
  | n + 1, a, b => (if b % 2 = 1 then a else 0) ^^^ mulN n (dbl a) (b / 2)

def mul (a b : Nat) : Nat := mulN 8 a b

/-- α to a power. -/
def alpha : Nat → Nat
  | 0 => 1
  | n + 1 => dbl (alpha n)

/-- The inverse: a^254. -/
def inv (a : Nat) : Nat := (List.range 253).foldl (fun x _ => mul x a) a

/-- The locator of symbol i, 0 to 63 data and 64 to 71 check: the coefficient of x^(71 − i) (R365). -/
def loc (i : Nat) : Nat := alpha (71 - i)

/-- An error pattern: (symbol, the bits in error). -/
abbrev Pattern := List (Nat × Nat)

/-- Syndrome m of an error pattern: its value at α^m. -/
def syndrome (e : Pattern) (m : Nat) : Nat := e.foldl (fun s x => s ^^^ mul x.2 (alpha ((71 - x.1) * m % 255))) 0

def syndromes (e : Pattern) : List Nat := (List.range 8).map (syndrome e)

/-- Coefficients, lowest first, of the product of (x + r) over the roots. -/
def polyOf : List Nat → List Nat
  | [] => [1]
  | r :: rs =>
    let p := polyOf rs
    ((0 :: p).zip (p ++ [0])).map (fun (a, b) => a ^^^ mul r b)

/-- Σ p_k S_(k + m). -/
def dot (p s : List Nat) (m : Nat) : Nat := ((p.zip (s.drop m)).foldl (fun x e => x ^^^ mul e.1 e.2) 0)

/-- Some errors confined to the symbols `u` have these syndromes. -/
def consistent (s : List Nat) (u : List Nat) : Bool :=
  let p := polyOf (u.map loc)
  (List.range (8 - u.length)).all (fun m => dot p s m = 0)

/-- The errors confined to the symbols `u` that have these syndromes, when they are consistent. -/
def magnitudes (s : List Nat) (u : List Nat) : Pattern :=
  u.map (fun i =>
    let others := (u.filter (fun j => decide (j ≠ i))).map loc
    (i, mul (dot (polyOf others) s 0) (inv (others.foldl (fun x y => mul x (loc i ^^^ y)) 1))))

/-- The sublists of n elements. -/
def choose {α : Type} : Nat → List α → List (List α)
  | 0, _ => [[]]
  | _ + 1, [] => []
  | n + 1, x :: xs => (choose n xs).map (x :: ·) ++ choose (n + 1) xs

/-- Decode: with the symbols `mark` erased, the least number of further symbols, up to `t`, that explains the syndromes
(R366, R367). Answers the errors found and how many symbols outside the mark are among them. -/
def decode (e : Pattern) (mark : List Nat) (t : Nat) : Option (Pattern × Nat) :=
  let s := syndromes e
  let free := (List.range 72).filter (fun i => !mark.contains i)
  (List.range (t + 1)).findSome? (fun n =>
    ((choose n free).find? (fun x => consistent s (mark ++ x))).map (fun x => (magnitudes s (mark ++ x), n)))

/-- What the decoder leaves wrong in the data: the errors that came less the errors found, on the 64 data symbols. -/
def residue (e found : Pattern) : Pattern :=
  (List.range 64).filterMap (fun i =>
    let x := (e ++ found).foldl (fun a y => if y.1 = i then a ^^^ y.2 else a) 0
    if x = 0 then none else some (i, x % 256))

end Sys2Proof.Machine.Rs
end

