-- ==== Sys2Proof/Machine/Hbm.lean ====
section
/-!
DEFINITION. Machine/Hbm.lean: the base dies: reads of half-lines under the symbol code with probes and lane marks (R364 to
R370), patrol scrub, refresh and retraining (R371 to R374, R382), fencing (R375, R376); requests at a slice as commands
(R319 to R350), and the refetch of shared-weight lines (R471 to R476).
-/
namespace Sys2Proof.Machine

/-! ### Half-lines (R364 to R370) -/

/-- The erased symbols of a channel: the pins of its lane mark (R358, R366). -/
def Dev.markPins (d : Dev) (ch : Nat) : List Nat :=
  let lane := d.rf (F.HBM_CHAN_LANE (ch / 32) (ch % 32))
  if 8 < lane then []
  else ((List.range 8).filter (fun i => bitAt (d.rf (F.HBM_CHAN_PINS (ch / 32) (ch % 32))) i)).map (fun i => 8 * lane + i)

/-- Set the lane mark (R368, R370): a mark that reaches MARK_MAPOUT pins posts a record. -/
def Dev.setMark (d : Dev) (ch : Nat) (pins : List Nat) (r : ErrRec) : Dev :=
  let s := ch / 32
  let c := ch % 32
  let old := (d.markPins ch).length
  let lane := (pins.head?.map (· / 8)).getD 15
  let d := (d.wf (F.HBM_CHAN_LANE s c) lane).wf (F.HBM_CHAN_PINS s c) ((pins.map (fun p => 2 ^ (p % 8))).foldl (· ||| ·) 0)
  let d := if d.rf (F.HBM_CHAN_STATE s c) = 0 then d.wf (F.HBM_CHAN_STATE s c) 1 else d
  let m := d.rf (F.HBM_CTRL_MARK_MAPOUT s)
  let m := if m = 0 ∨ 8 < m then 8 else m
  if old < m ∧ m ≤ pins.length then d.postError { r with cls := 1, event := 0x05 } else d

/-- A record of the base dies about half h of line k (R385, R575). -/
def Dev.hbmRec (d : Dev) (k h : Nat) : ErrRec :=
  { cls := 0, source := 0x07, event := 0x01, inst := keySlice k, detail0 := keySlice k, addr := keyLine k * 128 + 64 * h, akind := 2,
    parts := match d.ownerOf (keySlice k) with
      | some p => 2 ^ p
      | none => 0 }

/-- Change the stored data of a half by what decoding left wrong in it. -/
def Dev.flipData (d : Dev) (k h : Nat) (res : Rs.Pattern) : Dev :=
  let hbm := res.foldl (fun m x =>
    let a := keyHbm k + 64 * h + x.1
    SMap.set zeroByte m a (SMap.get zeroByte m a ^^^ BitVec.ofNat 8 x.2)) d.mem.hbm
  { d with mem := { d.mem with hbm := hbm } }

/-- How a half reads (R367). -/
inductive HalfOut | clean | corrected | poison
deriving DecidableEq, Repr

/-- An uncorrectable half: counted, and added to the poison list unless the Granary holds a Clean copy to rewrite it from
(R367, R372, R375). -/
def Dev.lostHalf (d : Dev) (k h : Nat) (copy : Bool) : Dev × HalfOut :=
  let ch := keySlice k
  let d := d.bumpSat (F.HBM_CHAN_UNCORR (ch / 32) (ch % 32)) 1
  let d := if copy then d.postError { d.hbmRec k h with event := 0x03 }
    else (d.setDramPoison k h true).postError { d.hbmRec k h with cls := 1, event := 0x04 }
  let d := if d.rf (F.HBM_CTRL_UE_LIMIT (ch / 32)) < d.rf (F.HBM_CHAN_UNCORR (ch / 32) (ch % 32)) then d.failChannel ch else d
  (d, if copy then .corrected else .poison)

/-- A corrected half: rewritten in DRAM, counted and recorded (R367, R385). -/
def Dev.fixedHalf (d : Dev) (k h ev : Nat) (res : Rs.Pattern) : Dev × HalfOut :=
  let ch := keySlice k
  let d := ((d.flipData k h res).bump (F.HBM_CHAN_CORRECTED (ch / 32) (ch % 32)) 1).event (chanBlock ch) 0x603 none (ch % 32) 1
  (d.postError { d.hbmRec k h with event := ev }, .corrected)

/-- The byte lane of a symbol (R358). -/
def laneOfPin (p : Nat) : Nat := if p < 64 then p / 8 else 8

/-- `probe` of R367. -/
def Dev.probe (d : Dev) (k h : Nat) (x : HalfErr) (copy : Bool) : Dev × HalfOut :=
  let ch := keySlice k
  let d := d.event (chanBlock ch) 0x604 none (ch % 32) 1
  let mark := d.markPins ch
  let stuck := x.stuck.filter (fun p => decide (p < 72) && !mark.contains p)
  if x.stuck.isEmpty then d.lostHalf k h copy
  else
    let u := mark ++ stuck.eraseDups
    if u.any (fun p => decide (laneOfPin p ≠ (u.head?.map laneOfPin).getD 0)) then
      let (d, o) := d.lostHalf k h copy
      (d.failChannel ch, o)
    else
      let d := d.setMark ch u (d.hbmRec k h)
      match Rs.decode x.errs u (if u.length = 8 then 0 else (7 - u.length) / 2) with
      | none => d.lostHalf k h copy
      | some (found, _) => d.fixedHalf k h 0x02 (Rs.residue x.errs found)

/-- `read_half` of R367: `copy` says that the Granary holds a Clean copy of the half (R372). -/
def Dev.readHalf (d : Dev) (k h : Nat) (x : HalfErr) (copy : Bool) : Dev × HalfOut :=
  let mark := d.markPins (keySlice k)
  let e := mark.length
  if d.dramPoisoned k h then (d, .poison)
  else if x.errs.isEmpty then (d, .clean)
  else
    match Rs.decode x.errs mark ((7 - e) / 2) with
    | some (found, 0) => (d.flipData k h (Rs.residue x.errs found), .clean)
    | some (found, _) => d.fixedHalf k h 0x01 (Rs.residue x.errs found)
    | none => d.probe k h x copy

/-- The errors of half h among those of an access. -/
def errsOf (errs : List HalfErr) (ch h : Nat) : HalfErr :=
  (errs.find? (fun x => decide (x.chan = ch) && decide (x.half = h))).getD { half := h, errs := [] }

/-- A channel that serves requests now. -/
def Dev.chanServes (d : Dev) (ch : Nat) : Bool := decide (ch < 256) && !d.chanDead ch && !d.mem.retraining.contains ch

/-- LINE_FILL (R326, R330, R367): the data of a line arrives from HBM and its way leaves Fill; `lost` says that the command
still failed after three retries (R375). -/
def cmdLineFill (slice line : Nat) (errs : List HalfErr) (lost : Bool) (d : Dev) : Dev :=
  let k := lineKey slice line
  if 2 ^ 24 ≤ line ∨ !d.chanServes slice ∨ !d.awaitsData k then d
  else if lost then d.failChannel slice
  else
    let half (d : Dev) (h : Nat) : Dev :=
      let mask := ((d.line k).map (·.mask)).getD 0
      if halfMask mask h = 2 ^ 64 - 1 then d else (d.readHalf k h (errsOf errs 0 h) false).1
    let d := half (half d 0) 1
    if d.chanDead slice then d else d.arrive k

/-! ### Scrub, refresh, retraining (R371 to R374, R382) -/

/-- What scrub does with half h of a line (R372). -/
def Dev.scrubHalf (d : Dev) (k : Nat) (h : Nat) (x : HalfErr) : Dev :=
  match d.line k with
  | some l =>
    if l.st = .fill ∨ (l.st = .dirty ∧ halfMask l.mask h = 2 ^ 64 - 1) then d
    else (d.readHalf k h x (decide (l.st = .clean) && !bitAt l.poison h)).1
  | none => (d.readHalf k h x false).1

/-- SCRUB (R371, R372): the next line of every healthy channel of a stack. -/
def cmdScrub (stack : Nat) (errs : List HalfErr) (d : Dev) : Dev :=
  if 8 ≤ stack ∨ !d.rb (F.HBM_CTRL_SCRUB_EN stack) ∨ d.rf (F.HBM_STATUS_STATE stack) ≠ 2 then d
  else
    let line := d.rf (F.HBM_SCRUB_LINE stack)
    let d := (List.range 32).foldl (fun d c =>
      let ch := 32 * stack + c
      if d.chanServes ch then
        let k := lineKey ch line
        let d := d.event (chanBlock ch) 0x600 none c 2
        (d.scrubHalf k 0 (errsOf errs c 0)).scrubHalf k 1 (errsOf errs c 1)
      else d) d
    let d := d.wf (F.HBM_SCRUB_LINE stack) (line + 1)
    if line + 1 = 2 ^ 24 then d.bump (F.HBM_SCRUB_PASSES stack) 1 else d

/-- A channel's temperature is read (R374): HBM_STATUS shows the stack's highest. -/
def Dev.setTemp (d : Dev) (ch temp : Nat) : Dev :=
  let d := { d with mem := { d.mem with temps := SMap.set (fun _ => 0) d.mem.temps ch (temp % 256) } }
  let s := ch / 32
  let top := (List.range 32).foldl (fun m c => max m (SMap.get (fun _ => 0) d.mem.temps (32 * s + c))) 0
  (d.wf (F.HBM_STATUS_DRAM_TEMP s) top).wb (F.HBM_STATUS_HOT s) (decide (85 < top))

/-- REFRESH (R374): a per-bank refresh of a channel, at the temperature it reads. -/
def cmdRefresh (ch temp : Nat) (d : Dev) : Dev :=
  if 256 ≤ ch ∨ d.rf (F.HBM_STATUS_STATE (ch / 32)) = 0 ∨ d.rf (F.HBM_CHAN_STATE (ch / 32) (ch % 32)) = 3 then d
  else (d.setTemp ch temp).event (chanBlock ch) 0x602 none (ch % 32) 1

/-- HBM_RETRAIN (R382): the channel's temperature has moved by RETRAIN_DELTA since its last training. -/
def cmdHbmRetrain (ch temp : Nat) (d : Dev) : Dev :=
  if 256 ≤ ch ∨ !d.rb (F.HBM_CTRL_RETRAIN_EN (ch / 32)) ∨ d.rf (F.HBM_STATUS_STATE (ch / 32)) ≠ 2 ∨ !d.chanServes ch then d
  else
    let last := SMap.get (fun _ => 0) d.mem.trainedAt ch
    let t := temp % 256
    if (t - last) + (last - t) < max 1 (d.rf (F.HBM_CTRL_RETRAIN_DELTA (ch / 32))) then d.setTemp ch t
    else
      let d := (d.setTemp ch t).bump (F.HBM_STATUS_RETRAINS (ch / 32)) 1
      { d with mem := { d.mem with retraining := d.mem.retraining ++ [ch] } }

/-- HBM_RETRAIN_DONE (R382): requests resume, or the channel fails. -/
def cmdHbmRetrainDone (ch : Nat) (ok : Bool) (d : Dev) : Dev :=
  if !d.mem.retraining.contains ch then d
  else
    let d := { d with mem := { d.mem with retraining := d.mem.retraining.erase ch,
                                          trainedAt := SMap.set (fun _ => 0) d.mem.trainedAt ch (SMap.get (fun _ => 0) d.mem.temps ch) } }
    if ok then d.retrySlice ch else d.failChannel ch

/-! ### Fencing (R376) -/

/-- The slice of a failed channel serves nothing: what it held is lost, and every access that waits there is answered as one
to a dead channel (R325, R376, R476). -/
def Dev.emptySlice (d : Dev) (ch : Nat) : Dev :=
  let here (k : Nat) : Bool := decide (keySlice k = ch)
  let reqs := (d.mem.lines.flatMap (fun e => if here e.1 then ((e.2.map (·.waits)).getD []).map (fun q => (e.1, q)) else []))
    ++ (d.mem.wbs.flatMap (fun e => if here e.1 then ((e.2.map (fun w => w.fwd ++ w.waits)).getD []).map (fun q => (e.1, q)) else []))
    ++ (d.mem.sliceWaits.filterMap (fun e => if e.1 = ch then some (lineKey e.1 e.2.1, e.2.2) else none))
    ++ (d.mem.refetches.flatMap (fun r => if here r.key then r.held.map (fun q => (r.key, q)) else []))
  let d := { d with mem := { d.mem with
    lines := SMap.clearIf here d.mem.lines, wbs := SMap.clearIf here d.mem.wbs,
    sliceWaits := d.mem.sliceWaits.filter (fun e => decide (e.1 ≠ ch)),
    refetches := d.mem.refetches.filter (fun r => !here r.key),
    retraining := d.mem.retraining.erase ch } }
  reqs.foldl (fun d e =>
    let (d, a) := d.serveDead e.1 e.2
    d.answer e.2 a) d

/-- Every ring of a partition stops and every item of it ends (R376). -/
def Dev.stopAll (d0 : Dev) (p : Nat) : Dev :=
  let d := d0.srvKill p
  let d := (List.range 64).foldl (fun d r => if d.rb (F.QUE_RSTAT_ACTIVE (ringIndex p r)) then d.stopRing (ringIndex p r) 0x30 else d) d
  ((d.killAll (fun it => decide (it.part = p)) 0x30).csaFollow d0).wbit F.PRT_STATUS_STOPPED p true

/-- Partitions named in MAP of an enabled shared-weight region. -/
def Dev.swrMaps (d : Dev) : Nat :=
  (List.range 16).foldl (fun m k => if d.rb (F.PRT_SWR_STAT_ACTIVE k) then m ||| d.rf (F.PRT_SWR_A_MAP k) else m) 0

/-- Carry out the fencing of one channel. -/
def Dev.fenceOne (d : Dev) (ch : Nat) : Dev :=
  let d := d.emptySlice ch
  let owner := d.ownerOf ch
  let d := match owner with
    | some p => d.stopAll p
    | none => d
  let parts := (match owner with
      | some p => 2 ^ p
      | none => 0) ||| (if d.mem.commonGranules = 0 then 0 else d.swrMaps)
  d.postError { cls := 3, source := 0x07, event := 0x07, inst := ch, parts := parts, detail0 := ch }

/-- At the end of a step, the fencing of the channels that failed in it (R376). -/
def Dev.fenceAll (d : Dev) : Dev :=
  let d' := d.mem.fenceDue.foldl (fun d ch => d.fenceOne ch) d
  { d' with mem := { d'.mem with fenceDue := [] } }

/-! ### Requests at a slice -/

/-- Offer a request to a slice; a channel in retraining lets it wait (R382). -/
def Dev.offer (d : Dev) (slice line : Nat) (q : SliceReq) : Dev :=
  if 256 ≤ slice ∨ 2 ^ 24 ≤ line then d
  else if d.mem.retraining.contains slice then d.waitAtSlice (lineKey slice line) q
  else
    let (d, a) := d.serve (lineKey slice line) q
    d.answer q a

/-- The partition of a request: 4 and above, none (R691). -/
def partOf (p : Nat) : Option Nat := if p < 4 then some p else none

/-- SLICE_READ (R319 to R330). -/
def cmdSliceRead (id part slice line lo n hint : Nat) (d : Dev) : Dev :=
  if n = 0 ∨ 128 < lo + n then d else d.offer slice line { id := id, part := partOf part, op := .read lo n, hint := hint }

/-- SLICE_WRITE (R329, R331, R332): bytes from offset `lo`, with their poison. -/
def cmdSliceWrite (id part slice line lo : Nat) (bytes : List MByte) (hint : Nat) (d : Dev) : Dev :=
  if bytes.isEmpty ∨ 128 < lo + bytes.length then d
  else d.offer slice line { id := id, part := partOf part, op := .write (bytes.zipIdx.map (fun e => (lo + e.2, e.1))), hint := hint }

/-- The element lies in the line, aligned to its type (R341). -/
def RedElem.fits (e : RedElem) : Bool := decide (e.off % e.ty.bytes = 0) && decide (e.off + e.ty.bytes ≤ 128)

/-- SLICE_REDUCTION (R341 to R347). -/
def cmdSliceReduction (id part slice line : Nat) (elems : List RedElem) (hint : Nat) (d : Dev) : Dev :=
  if elems.isEmpty ∨ !elems.all (·.fits) then d
  else d.offer slice line { id := id, part := partOf part, op := .reduce elems, hint := hint }

/-- RANGE_REQUEST (R333, R336 to R340): a slice walks its lines [base, base + count) for a range operation. -/
def cmdRangeRequest (id slice : Nat) (op : RangeOp) (base count hint : Nat) (d : Dev) : Dev :=
  if 256 ≤ slice ∨ 2 ^ 24 < base + count then d
  else
    let d := (List.range count).foldl (fun d i => d.rangeLine op (lineKey slice (base + i)) hint) d
    d.emit (.sliceDone id)

/-- WRITE_BACK_DONE (R331, R344). -/
def cmdWriteBackDone (slice line : Nat) (d : Dev) : Dev :=
  if d.chanServes slice && decide (line < 2 ^ 24) then d.wbDone (lineKey slice line) else d

/-! ### Refetch of shared-weight lines (R471 to R476) -/

def Dev.refetchOf (d : Dev) (k : Nat) : Option Refetch := d.mem.refetches.find? (fun r => decide (r.key = k))
def Dev.setRefetch (d : Dev) (r : Refetch) : Dev :=
  { d with mem := { d.mem with refetches := d.mem.refetches.map (fun x => if x.key = r.key then r else x) } }

/-- The Miller as the reader of line k. -/
def millerUnit (k : Nat) : Waiter := .unit (2 ^ 40 + k)

/-- Read the line's source: companion memory, or the neighbour by a window load (R472; log entry 51). -/
def Dev.refetchRead (d : Dev) (r : Refetch) : Dev × Option (List MByte) :=
  match d.addrOf (keySlice r.key) (keyLine r.key * 128) with
  | none => (d, some (poisonBytes 128))
  | some (_, a) =>
    let src := d.rf (F.PRT_SWR_C_SOURCE r.region) * 128 + (a - d.rf (F.PRT_SWR_A_BASE r.region) * 65536)
    match d.swrSrc r.region with
    | 1 => d.companionRead src 128 2 (millerUnit r.key)
    | 2 => d.winLoad (((lowBit4 (d.rf (F.PRT_SWR_A_MAP r.region)))).getD 0) (d.rf (F.PRT_SWR_A_PORT r.region) - 1) src 128 (millerUnit r.key)
    | _ => (d, some (poisonBytes 128))

/-- REFETCH (R472): the Miller starts the oldest request it has not started, 64 at a time at most. -/
def cmdRefetch (slice line : Nat) (d : Dev) : Dev :=
  let k := lineKey slice line
  match d.mem.refetches.find? (fun r => !r.started) with
  | some r =>
    if r.key ≠ k ∨ 64 ≤ (d.mem.refetches.filter (·.started)).length then d
    else
      let r := { r with started := true, startedAt := d.time }
      ((d.setRefetch r).refetchRead r).1
  | none => d

/-- The record of a line of a region (R475). -/
def Dev.swrRec (d : Dev) (k region cls ev : Nat) : ErrRec :=
  { cls := cls, source := 0x06, event := ev, inst := region, parts := d.rf (F.PRT_SWR_A_MAP region), akind := 1,
    addr := (match d.addrOf (keySlice k) (keyLine k * 128) with
      | some (_, a) => a
      | none => 0) }

/-- Serve the accesses that a refetch held. -/
def Dev.serveHeld (d : Dev) (r : Refetch) : Dev :=
  r.held.foldl (fun d q =>
    let (d, a) := d.serve r.key q
    d.answer q a) d

/-- An attempt fails: it is repeated, and after the third the line is left poisoned (R473). -/
def Dev.refetchFail (d : Dev) (r : Refetch) : Dev :=
  let d := d.sweep (millerUnit r.key)
  if r.failures + 1 < 3 then
    let r := { r with failures := r.failures + 1, startedAt := d.time }
    ((d.setRefetch r).refetchRead r).1
  else
    let d := { d with mem := { d.mem with refetches := d.mem.refetches.filter (fun x => decide (x.key ≠ r.key)),
                                          refetchDead := d.mem.refetchDead ++ [r.key] } }
    let d := (d.bump (F.PRT_SWR_STAT_POISONED r.region) 1).postError (d.swrRec r.key r.region 1 0x06)
    d.serveHeld r

/-- REFETCH_LINE_ARRIVAL (R472, R473): the source's line is here; it is written whole and the held accesses are served. -/
def cmdRefetchLineArrival (slice line : Nat) (d : Dev) : Dev :=
  let k := lineKey slice line
  match d.refetchOf k with
  | none => d
  | some r =>
    if !r.started then d
    else
      match d.refetchRead r with
      | (d, none) => d
      | (d, some bs) =>
        if bs.any (·.p) then d.refetchFail r
        else
          let d' := { d with mem := { d.mem with refetches := d.mem.refetches.filter (fun x => decide (x.key ≠ k)) } }
          match d'.lineWrite none k 0 (bs.zipIdx.map (fun e => (e.2, e.1))) with
          | (_, false) => d
          | (d', true) =>
            let d' := d'.sweep (millerUnit k)
            ((d'.bump (F.PRT_SWR_STAT_REFETCHED r.region) 1).postError (d'.swrRec k r.region 0 0x05)).serveHeld r

/-- REFETCH_TIMEOUT (R473): an attempt has not returned the line within one Turn. -/
def cmdRefetchTimeout (slice line : Nat) (d : Dev) : Dev :=
  match d.refetchOf (lineKey slice line) with
  | some r => if r.started && d.periodPast r.startedAt then d.refetchFail r else d
  | none => d

end Sys2Proof.Machine
end

