-- ==== Sys2Proof/Machine/State.lean ====
section
/-!
DEFINITION. Machine/State.lean: the whole state of the model, why a step can stop, and the machine after reset.
-/
namespace Sys2Proof.Machine

/-- Why the machine stops with a fault. No meaning raises one: the manual gives every command an effect, and a command whose event cannot
arise in a state leaves that state as it is (log entry 2). -/
inductive Fault
  /-- raised by nothing; safe -/
  | unreachable
deriving DecidableEq, Repr

/-- Why a command has no meaning. -/
inductive Refusal
  /-- raised by an arm of exec that has no meaning yet; safe -/
  | notModelled (mnemonic : String)
deriving DecidableEq, Repr

/-- The state: the commands that wait, first in, first out; the module's surroundings; the module. -/
structure State where
  pending : List Instr
  board : Board
  dev : Dev
deriving DecidableEq, Repr

/-- The module just after RESET_N is released with power good (R662, R725): the boot ROM has started. -/
def State.reset : State :=
  { pending := [], board := { power := true, pwrOk := true, resetN := true, tripped := false, straps := 0 }, dev := {} }

end Sys2Proof.Machine
end

