-- ==== Sys2Proof/Machine/Exec.lean ====
section
/-!
DEFINITION. Machine/Exec.lean: how a command reaches the module: by its powered units, by the Miller, which runs on through a trip, or by
the I3C sideband (R725, R737, R738).
-/
namespace Sys2Proof.Machine

/-- The answer of a meaning. -/
abbrev Out' := Host.Outcome State Fault Refusal

/-- The Miller runs: power is on, RESET_N is high and the SRAM passed its test (R662, R725, R738). -/
def State.miller (s : State) : Bool := s.board.power && s.board.resetN && !s.dev.boot.dead

/-- The whole module runs: no trip, and PWR_OK stands (R725, R737). -/
def State.running (s : State) : Bool := s.miller && s.board.pwrOk && !s.board.tripped

/-- What a command does to a module that is ready for it: channels that fail in it are fenced at its end (R376). -/
def State.act (s : State) (f : Dev → Dev) : State := { s with dev := (f s.dev).fenceAll }

/-- A command of a unit that stops in a trip. -/
def onDev (f : Dev → Dev) (s : State) : Out' := .next (if s.running then s.act f else s)

/-- A command of the Miller: the set-up space, the logs and the management class (R738). -/
def onMiller (f : Dev → Dev) (s : State) : Out' := .next (if s.miller then s.act f else s)

/-- A command of a port; port 6 is the Companion Link, whose management class runs on through a trip (R738). -/
def onPort (port : Nat) (f : Dev → Dev) (s : State) : Out' := if port = 6 then onMiller f s else onDev f s

/-- A command of the I3C target (R733), which needs power and RESET_N high. -/
def onI3c (f : Dev → Dev) (s : State) : Out' := .next (if s.board.power && s.board.resetN then s.act f else s)

end Sys2Proof.Machine
end

