-- ==== Sys2Proof/Machine/Resilience.lean ====
section
/-!
DEFINITION. Machine/Resilience.lean: the error log writer and the error ring (R576 to R580), the failure rate and checkpoint
interval (R589, R590), checkpoints (R592, R593), weight digests (R594 to R598), in-field scan (R44, R600 to R602).
-/
namespace Sys2Proof.Machine

/-! ### Logs (R577 to R580) -/

/-- A corrected record repeats the newest entry of the correctable log (R577). -/
def ErrRec.repeats (r e : ErrRec) : Bool :=
  decide (r.cls = 0) && decide (r.word0base = e.word0base) && decide (r.word3 = e.word3) && decide (r.turn = e.turn)

/-- A logged record is copied to the error ring when the ring takes its class (R580). -/
def Dev.queueCopy (d : Dev) (r : ErrRec) : Dev :=
  if d.rb F.ERR_CTRL_RING_EN ∧ d.rf F.ERR_CTRL_RING_MIN ≤ r.cls then
    { d with err := { d.err with toCopy := d.err.toCopy ++ [r] } }
  else d

/-- LOG_WRITE (R576 to R579): the log writer takes the record at the head of the intake. -/
def cmdLogWrite (d : Dev) : Dev :=
  match d.err.intake with
  | [] => d
  | r :: rest =>
    let d := { d with err := { d.err with intake := rest } }
    if 3 ≤ r.cls then
      if 64 ≤ d.err.flog.length then d.bump F.ERR_FLOG_STAT_OVERFLOW 1
      else
        let d := { d with err := { d.err with flog := d.err.flog ++ [r] } }
        (d.wf F.ERR_FLOG_STAT_ENTRIES d.err.flog.length).queueCopy r
    else
      match d.err.clog.getLast? with
      | some e =>
        if r.repeats e then
          { d with err := { d.err with clog := d.err.clog.dropLast ++ [{ e with count := min (e.count + 1) 0xFFFF }] } }
        else if 4096 ≤ d.err.clog.length then
          ({ d with err := { d.err with clog := d.err.clog.drop 1 ++ [r] } } |>.bump F.ERR_CLOG_STAT_OVERFLOW 1).queueCopy r
        else
          let d := { d with err := { d.err with clog := d.err.clog ++ [r] } }
          (d.wf F.ERR_CLOG_STAT_ENTRIES d.err.clog.length).queueCopy r
      | none => (({ d with err := { d.err with clog := [r] } }).wf F.ERR_CLOG_STAT_ENTRIES 1).queueCopy r

/-- ERROR_RING_COPY (R580): the consumer word as read (`bad`: the read returned poison or failed) is judged; the next record is
copied and an ERROR_RING notice gives the producer count (R657), or it is dropped when the ring is full. -/
def cmdErrorRingCopy (word : Nat) (bad : Bool) (d : Dev) : Dev :=
  match d.err.toCopy with
  | [] => d
  | r :: rest =>
    let size := 2 ^ d.rf F.ERR_RING_CTL_LOG2SIZE
    let c := word % 2 ^ 32
    let used (cons : Nat) : Nat := (d.err.ringProd + 2 ^ 32 - cons) % 2 ^ 32
    let ok := !bad && doorbellOk word && decide ((c + 2 ^ 32 - d.err.ringCons) % 2 ^ 32 ≤ used d.err.ringCons)
    let cons := if ok then c else d.err.ringCons
    let d := if ok then d else d.bump F.ERR_STATUS_BAD_CONSUMER 1
    let d := { d with err := { d.err with toCopy := rest, ringCons := cons } }
    if size ≤ used cons then d.bump F.ERR_STATUS_RING_DROPPED 1
    else
      let prod := (d.err.ringProd + 1) % 2 ^ 32
      let d := d.toCompanion (d.rf F.ERR_RING_BASE_BASE * 64 + 64 * (d.err.ringProd % size)) r.bytes
      let d := { d with err := { d.err with ringProd := prod } }
      let d := d.toCompanion (d.rf F.ERR_RING_CTL_PRODUCER * 32) (leBytes 8 (doorbellWord prod))
      d.sendCpl { op := 0x4B, arg := 2, addr := prod }

/-! ### Rate and interval (R589, R590) -/

/-- The integer square root. -/
def isqrt (x : Nat) : Nat := isqrtBits x (Nat.log2 x / 2 + 1) 0

/-- Nanoseconds of an hour. -/
def hourNs : Nat := 3600 * 10 ^ 9

/-- λ of R589 in FIT, to the nearest unit. -/
def Dev.failureRate (d : Dev) : Nat :=
  let prior := max 1 (d.rf F.ERR_RATE_PRIOR_PRIOR_FIT)
  let n := (d.err.fatals + d.rf F.ERR_RATE_HIST_EVENTS + 1) * 10 ^ 9 * hourNs * prior
  let m := (d.time + d.rf F.ERR_RATE_HIST_HOURS * hourNs) * prior + 10 ^ 9 * hourNs
  (2 * n + m) / (2 * m)

/-- TURNS of R590: the root of 2 δ M over P, to the nearest Turn. -/
def Dev.ckptInterval (d : Dev) : Nat :=
  let n := max 1 (d.rf F.ERR_CKPT_CTL_MODULES)
  let c := max 1 (d.rf F.ERR_CKPT_COVER_COVER)
  let p := max 1 (d.rf F.TRN_PERIOD_ACTIVE_NS)
  let num := 2 * d.rf F.ERR_CKPT_CTL_COST_US * (36 * 10 ^ 17) * 65536 * 10 ^ 6
  let den := max 1 d.failureRate * n * c * p * p
  (isqrt (4 * num / den) + 1) / 2

/-- The firmware's estimates at a boundary. -/
def Dev.showRates (d : Dev) : Dev :=
  ((d.wf F.ERR_RATE_FIT (min d.failureRate (2 ^ 32 - 1))).wf F.ERR_RATE_EVENTS (min d.err.fatals 0xFFFF)).wf
    F.ERR_CKPT_INTERVAL_TURNS (min d.ckptInterval (2 ^ 32 - 1))

/-! ### Checkpoints (R45, R592, R593) -/

def ckptSrc (c : Desc) : Nat := c.fld 1 0 52
def ckptDst (c : Desc) : Nat := c.fld 2 0 52
def ckptLen (c : Desc) : Nat := c.fld 3 0 40

/-- Bytes of the share, clamped where a range would run past 2^52. -/
def ckptBytes (c : Desc) : Nat := min (ckptLen c) (min (2 ^ 52 - ckptSrc c) (2 ^ 52 - ckptDst c))

def Dev.setCkpt (d : Dev) (c : Option CkptRun) : Dev := { d with tst := { d.tst with ckpt := c } }

/-- The CKPT ends; PROGRESS is the bytes written. -/
def Dev.endCkpt (d : Dev) (it : Item) : Dev := (d.setCkpt none).finishItem it

/-- One line of a part: read, written; answers the part and whether poison was met (R393, R593). -/
def Dev.ckptLine (d : Dev) (it : Item) (sluice : Nat) (x : CkptPart) : Dev × CkptPart × Nat × Bool :=
  let a := x.src + x.pos
  let n := min (x.len - x.pos) (128 - a % 128)
  match d.vread it.part (.item it.id) a n with
  | (d, .wait) => (d, x, 0, false)
  | (d, .fault f) =>
    let (d, key) := d.raiseFault f it.part 6 sluice it.desc.tag it.ring x.pos 0 0 (.item it.id)
    (d, { x with fault := some key }, 0, false)
  | (d, .ok bs) =>
    match d.vwrite it.part (.item it.id) (x.dst + x.pos) bs with
    | (d, .wait) => (d, x, 0, false)
    | (d, .fault f) =>
      let (d, key) := d.raiseFault f it.part 6 sluice it.desc.tag it.ring x.pos 0 0 (.item it.id)
      (d, { x with fault := some key }, 0, false)
    | (d, .ok lost) => (d, { x with pos := x.pos + n }, n, lost || bs.any (·.p))

/-- One line of every part that can go on. -/
def Dev.ckptRound (d : Dev) (it : Item) (c : CkptRun) : Dev × Item × CkptRun :=
  (c.parts.zipIdx).foldl (fun (acc : Dev × Item × CkptRun) e =>
    let (d, it, c) := acc
    if e.1.len ≤ e.1.pos ∨ e.1.fault.isSome then acc
    else
      let (d, x, n, pz) := d.ckptLine it e.2 e.1
      (d, { it with prog := it.prog + n, poison := it.poison || pz }, { c with parts := c.parts.set e.2 x })) (d, it, c)

/-- CKPT (R592, R593): the share starts when it is first of the module's CKPTs; then the released slice moves, a line of each
part at a time. -/
def cmdCkpt (item n : Nat) (d : Dev) : Dev :=
  match d.serviceWork 0x65 item with
  | none => d
  | some it =>
    match d.tst.ckpt with
    | none =>
      let earlier := (d.ctl.items.takeWhile (fun x => decide (x.id ≠ item))).any (fun x => decide (x.desc.opcode = 0x65))
      if earlier then d
      else
        let b := ckptBytes it.desc
        let it := { it with place := .running, clamped := decide (b < ckptLen it.desc) }
        if b = 0 then d.finishItem it else (d.setItem it).setCkpt (some { item := item, total := b })
    | some c =>
      if c.item ≠ item then d
      else if c.lost then d.endCkpt { it with poison := true }
      else
        let (d, it, c) := (List.range n).foldl (fun (acc : Dev × Item × CkptRun) _ =>
          if acc.2.1.poison then acc else acc.1.ckptRound acc.2.1 acc.2.2) (d, it, c)
        let d := (d.sweep (.item item)).setItem it
        if it.poison then d.endCkpt it else d.setCkpt (some c)

/-- At a boundary the next slice is released when the previous one has completed (R45, R593). -/
def Dev.ckptRelease (d : Dev) : Dev :=
  match d.tst.ckpt with
  | some c =>
    if c.parts = [] ∧ c.released < c.total then
      match d.item c.item with
      | some it =>
        let k := min (min (d.rf F.TRN_CKPT_SLICE_SLICE_BYTES) 0x40000000) (c.total - c.released)
        let m := max 1 d.sluiceCount
        let each := k / 128 / m * 128
        let part (i : Nat) : CkptPart :=
          { src := ckptSrc it.desc + c.released + i * each, dst := ckptDst it.desc + c.released + i * each,
            len := if i + 1 = m then k - (m - 1) * each else each }
        d.setCkpt (some { c with parts := (List.range m).map part, released := c.released + k })
      | none => d
    else d
  | none => d

/-- A write to companion memory of an item is not yet acknowledged. -/
def Dev.cplWriting (d : Dev) (w : Waiter) : Bool :=
  d.cpl.queue.any (fun x => x.who.contains w) || d.cpl.reqs.any (fun r => decide (3 ≤ r.op) && r.who.contains w)

/-- CKPT_SLICE_DONE (R593): every part has completed; after the last slice the CKPT completes. -/
def cmdCkptSliceDone (d : Dev) : Dev :=
  match d.tst.ckpt with
  | some c =>
    match d.item c.item with
    | some it =>
      if c.parts = [] ∨ !c.parts.all (fun x => decide (x.len ≤ x.pos)) ∨ d.cplWriting (.item c.item) ∨ d.winPending (.item c.item) then d
      else if c.lost then d.endCkpt { it with poison := true }
      else if c.total ≤ c.released then d.endCkpt it
      else d.setCkpt (some { c with parts := [] })
    | none => d
  | none => d

/-! ### Weight digests (R596 to R598) -/

def Dev.pass (d : Dev) (g : Nat) : DigPass := (d.col.passes.find? (fun x => decide (x.group = g))).getD { group := g }
def Dev.setPass (d : Dev) (x : DigPass) : Dev :=
  { d with col := { d.col with passes := d.col.passes.filter (fun y => decide (y.group ≠ x.group)) ++ [x] } }
def Dev.dropPass (d : Dev) (g : Nat) : Dev :=
  { d with col := { d.col with passes := d.col.passes.filter (fun y => decide (y.group ≠ g)) } }

/-- The record of rank r: digest, generation, rank (R597). -/
def digBytes (dig gen r : Nat) : List Byte := leBytes 32 dig ++ leBytes 4 gen ++ leBytes 4 r

/-- Write entry r of the digest table. -/
def Dev.digWrite (d : Dev) (dig gen r : Nat) : Dev :=
  let p := d.rf F.TST_DIG_CTL_PART
  let bs := (digBytes dig gen r).map (fun (b : Byte) => ({ b := b } : MByte))
  d.physParts p (linesOf (d.rf F.TST_DIG_TABLE_BASE * 64 + 64 * r) 40) bs

/-- A table entry: digest plus 2^256 × generation. -/
def digEntry (dig gen : Nat) : Nat := dig % 2 ^ 256 + (gen % 2 ^ 32) * 2 ^ 256

/-- An odd member posts its record, floods a job stop and scans all its groups (R598). -/
def Dev.oddMember (d : Dev) (g gen : Nat) : Dev :=
  let p := d.grpPart g
  let d := d.postError { cls := 3, source := 0x0C, event := 0x02, inst := g, parts := 2 ^ p }
  let d := { d with tst := { d.tst with forced := List.range 43 } }
  d.jobStop (d.jobOf p) gen none

/-- The pass is complete: the entries of the own generation are compared (R598). -/
def Dev.digCompare (d : Dev) (x : DigPass) : Dev :=
  let g := x.group
  let gen := d.rf F.TST_DIG_STAT_SNAP_GEN
  let all := x.table.filterMap (fun e => e.2.map (fun v => (e.1, v)))
  let mine := all.filter (fun e => decide (e.2 / 2 ^ 256 = gen))
  let d := d.bump F.TST_DIG_STAT_SKEW (all.length - mine.length)
  let count (v : Nat) : Nat := (mine.filter (fun e => decide (e.2 = v))).length
  let own := (mine.find? (fun e => decide (e.1 = d.grpRank g))).map (·.2)
  if mine.all (fun e => some e.2 = own) then d.bump F.TST_DIG_STAT_AGREED 1
  else
    let d := d.bump F.TST_DIG_STAT_MISMATCH 1
    match mine.find? (fun e => decide (mine.length < 2 * count e.2)) with
    | some m =>
      if d.grpSize g < 3 then d.oddMember g gen
      else
        let odd := mine.filter (fun e => decide (e.2 ≠ m.2))
        let d := d.postError { cls := 1, source := 0x0C, event := 0x01, inst := g, parts := 2 ^ d.grpPart g, detail0 := odd.length,
                               detail1 := ((odd.map (·.1)).min?).getD 0 }
        if own = some m.2 then d else d.oddMember g gen
    | none => d.oddMember g gen

/-- Complete the pass when the own record is sent and G − 1 records have come (R597). -/
def Dev.digFinish (d : Dev) (g : Nat) : Dev :=
  let x := d.pass g
  if x.begun ∧ d.grpSize g ≤ (x.table.filter (fun e => e.2.isSome)).length then (d.digCompare x).dropPass g else d

/-- A record of rank r enters the table and its pass. -/
def Dev.digNote (d : Dev) (g r dig gen : Nat) : Dev :=
  let x := d.pass g
  (d.digWrite dig gen r).setPass { x with table := SMap.set (fun _ => none) x.table r (some (digEntry dig gen)), turns := 0 }

/-- At a boundary, SNAP latches and clears D and CLEAR clears it (R596). -/
def Dev.digLatch (d : Dev) : Dev :=
  let d := if d.tst.snapDue then
      let d := (List.range 4).foldl (fun d k => d.wf (F.TST_DIG_SNAP_WORD k) (bitsAt d.mem.digest (64 * k) 64)) d
      d.wf F.TST_DIG_STAT_SNAP_GEN (d.rf F.TST_DIG_CTL_GEN)
    else d
  if d.tst.snapDue || d.tst.clearDue then { d with mem := { d.mem with digest := 0 } } else d

/-- Step 6: the digest pass of a SNAP starts (R596, R597); on an invalid group none does. -/
def Dev.digStart (d : Dev) : Dev :=
  let due := d.tst.snapDue
  let d := { d with tst := { d.tst with snapDue := false, clearDue := false } }
  let g := d.rf F.TST_DIG_CTL_GROUP
  if due && d.grpValid g then
    let dig := (List.range 4).foldl (fun x k => x + d.rf (F.TST_DIG_SNAP_WORD k) * 2 ^ (64 * k)) 0
    let gen := d.rf F.TST_DIG_STAT_SNAP_GEN
    let r := d.grpRank g
    let d : Dev := d.digNote g r dig gen
    let d : Dev := d.setPass { d.pass g with begun := true }
    let d : Dev := if d.grpSize g = 1 then d
      else d.sendOn { kind := 0xC, dst := d.grpNext g, src := d.ownNode, job := d.jobOf (d.grpPart g), len := 40, sub := 6, aux := d.grpGen g,
                      addr := g + r * 2 ^ 16, payload := digBytes dig gen r } none
    d.digFinish g
  else d

/-- DIGEST_RECORD (R553, R597): a record arrives, is tabled and forwarded. -/
def cmdDigestRecord (port : Nat) (p : Packet) (d : Dev) : Dev :=
  if !d.arrives port 0xC p || decide (p.sub ≠ 6) || !d.forMe p then d
  else
    let d := d.takePacket port p
    let g := colGrp p
    let r := colIndex p
    match d.colHead p with
    | some true => d.bump F.COL_EVENTS_STALE 1
    | some false => d.bump F.COL_EVENTS_DROP 1
    | none =>
      if p.src ≠ d.grpPrev g ∨ d.grpSize g ≤ r then d.bump F.COL_EVENTS_DROP 1
      else
        let dig := leNat (p.payload.take 32)
        let gen := leNat ((p.payload.drop 32).take 4)
        let d := d.digNote g r dig gen
        let d := if r = (d.grpRank g + 1) % d.grpSize g then d
          else d.sendOn { p with dst := d.grpNext g, src := d.ownNode } none
        d.digFinish g

/-- A Turn passes over the digest passes: one that hears nothing for STALL_TURNS whole Turns ends with GROUP_STALE (R554). -/
def Dev.digTurn (d : Dev) : Dev :=
  d.col.passes.foldl (fun d x =>
    if !x.begun then d
    else if max 1 (d.rf F.COL_CTRL_STALL_TURNS) < x.turns + 1 then
      ((d.dropPass x.group).postError { cls := 1, source := 0x09, event := 0x01, inst := x.group, parts := 2 ^ d.grpPart x.group }).bump
        F.COL_EVENTS_TIMEOUTS 1
    else d.setPass { x with turns := x.turns + 1 }) d

/-! ### In-field scan (R44, R600 to R602) -/

/-- Slot lengths of the shipped pattern pack, in ns (R600). -/
def slotNs (g : Nat) : Nat :=
  (if g < 16 then 40 else if g < 32 then 30 else if g < 37 then 20 else 10) * 10 ^ 6

/-- A pack slot of the flash; none: as the card came. -/
def Dev.packSlot (d : Dev) (slot : Nat) : Option PackSlot := if slot = 0 then d.flash.pack0 else d.flash.pack1

/-- The bytes of a pack slot of the flash. -/
def Dev.packBytes (d : Dev) (slot : Nat) : List Byte :=
  match d.packSlot slot with
  | some s => (List.range s.len).map (fun i => SMap.get (fun _ => 0) s.bytes i)
  | none => Config.shippedPack slot

/-- The slot length of a group in ns: the active pack's (R600); the shipped pack's lengths are the table's. -/
def Dev.slotLen (d : Dev) (g : Nat) : Nat :=
  match d.boot.packActive with
  | some k => if (d.packSlot k).isNone then slotNs g else Config.packSlotNs (d.packBytes k) g
  | none => slotNs g

/-- The scheduled time of slot number k, counted from `since` (R601). -/
def Dev.slotTime (d : Dev) (k : Nat) : Nat := d.tst.since + k * (86400 * 10 ^ 9) / 43

/-- The port of a collective-engine group has a running item. -/
def Dev.engineBusy (d : Dev) (port : Nat) : Bool :=
  d.col.runs.any (fun r => match d.item r.item with
    | some it => (d.colPorts it.desc.opcode r.groups).contains port
    | none => false)

/-- A partition that owns a part of group g is in a reset or a layout change. -/
def Dev.scanBlocked (d : Dev) (g : Nat) : Bool :=
  d.ctl.changing || (d.scanOwners g).any (fun p => d.rbit F.PRT_STATUS_RESETTING p)

/-- The slot that was due has been opened or skipped. -/
def Dev.nextSlot (d : Dev) (isForced : Bool) : Dev :=
  if isForced then { d with tst := { d.tst with forced := d.tst.forced.drop 1, deferrals := 0 } }
  else { d with tst := { d.tst with nextGroup := (d.tst.nextGroup + 1) % 43, scheduled := d.tst.scheduled + 1, deferrals := 0 } }

/-- Open a slot on group g (R44, R272, R601). -/
def Dev.openSlot (d : Dev) (g : Nat) : Dev :=
  let slot : ScanSlot := { group := g, left := ceilDiv (d.slotLen g) (max 1 (d.rf F.TRN_PERIOD_ACTIVE_NS)), turn := d.turn,
                           time := d.rf F.TRN_LAST_BOUNDARY_TIMESTAMP_NS }
  let d := { d with tst := { d.tst with slot := some slot } }
  let d := (d.wf F.TST_SCAN_STAT_GROUP g).wb F.TST_SCAN_STAT_OPEN true
  if 16 ≤ g ∧ g < 32 then
    let mine := (List.range 16).map (fun i => 16 * (g - 16) + i)
    let d := d.parkBundles (fun b => match b.spool with
      | some s => !mine.contains s
      | none => true)
    { d with spl := { d.spl with scanning := mine } }
  else d

/-- The group due at this boundary: one ahead of the schedule first. Without a valid pack there are no patterns and no slot opens. -/
def Dev.slotDue (d : Dev) : Option (Nat × Bool) :=
  if d.boot.packActive.isNone then none
  else match d.tst.forced with
  | g :: _ => some (g, true)
  | [] => if d.rb F.TST_SCAN_CTL_ENABLE && decide (d.slotTime d.tst.scheduled ≤ d.time) then some (d.tst.nextGroup, false) else none

/-- Step 6: an open slot runs on, or the slot that is due opens, is deferred or is skipped (R601). -/
def Dev.scanStep (d : Dev) : Dev :=
  match d.tst.slot with
  | some s => { d with tst := { d.tst with slot := some { s with left := s.left - 1 } } }
  | none =>
    match d.slotDue with
    | none => d
    | some (g, isForced) =>
      if d.scanBlocked g then d
      else if 37 ≤ g ∧ d.engineBusy (g - 37) then
        if d.tst.deferrals < 64 then { d with tst := { d.tst with deferrals := d.tst.deferrals + 1 } }
        else (((d.nextSlot isForced).bump F.TST_SCAN_STAT_SKIPPED 1).postError { cls := 0, source := 0x0B, event := 0x01, inst := g })
      else (d.nextSlot isForced).openSlot g

/-- The reference moment of R581 for a group that in-field scan finds bad: its last passing slot, else its last built-in test. -/
def Dev.scanReference (d : Dev) (g : Nat) : Nat × Nat :=
  match SMap.get (fun _ => none) d.tst.slotPass g with
  | some x => x
  | none => (SMap.get (fun _ => none) d.tst.testPass g).getD (0, 0)

/-- The reference moment for a group that the built-in test of a partition reset finds bad: the earlier one (R581). -/
def Dev.testReference (d : Dev) (g : Nat) : Nat × Nat :=
  match SMap.get (fun _ => none) d.tst.slotPass g, SMap.get (fun _ => none) d.tst.testPass g with
  | some x, some y => if x.2 ≤ y.2 then x else y
  | some x, none => x
  | none, some y => y
  | none, none => (0, 0)

/-- The record of a unit found bad with the reference moment of its results in doubt (R581). -/
def Dev.badUnit (d : Dev) (r : ErrRec) (ref : Nat × Nat) (scan : Bool) : Dev :=
  d.postError { r with scan := scan, detail0 := ref.1 % 2 ^ 32 + (d.turn % 2 ^ 32) * 2 ^ 32, detail1 := ref.2 }

/-- The PARTS field of a list of partitions. -/
def partsMask (ps : List Nat) : Nat := (ps.map (2 ^ ·)).foldl (· ||| ·) 0

/-- Report the bad units of group g and act on them (R116, R272, R602). `bad` is a mask of the units within the group. -/
def Dev.scanFail (d : Dev) (g bad : Nat) : Dev :=
  let ref := d.scanReference g
  let owners := d.scanOwners g
  if g < 16 then
    let d := (List.range 8).foldl (fun d i =>
      if bitAt bad i then
        let c := 8 * g + i
        (d.wbit (F.STN_PENDING_GROUPS (c / 64)) (c % 64) true).badUnit
          { cls := 1, source := 0x02, event := 0x01, inst := c, parts := partsMask owners } ref true
      else d) d
    { d with tst := { d.tst with stnWithheld := d.tst.stnWithheld ||| partsMask owners } }
  else if g < 32 then
    (List.range 16).foldl (fun d i =>
      if bitAt bad i then
        let s := 16 * (g - 16) + i
        (d.wbit (F.SPL_PENDING_SPOOLS (s / 64)) (s % 64) true).badUnit
          { cls := 1, source := 0x04, event := 0x01, inst := s, parts := partsMask owners } ref true
      else d) d
  else if g < 36 then
    ({ d with tst := { d.tst with pressDead := d.tst.pressDead ||| 2 ^ (g - 32) } }).badUnit
      { cls := 3, source := 0x03, event := 0x01, inst := g, parts := partsMask owners } ref true
  else if g = 36 then
    ({ d with tst := { d.tst with copyDead := true } }).postError
      { cls := 3, source := 0x0A, event := 0x01, parts := partsMask owners, scan := true }
  else
    let d := { d with tst := { d.tst with colDead := d.tst.colDead ||| 2 ^ (g - 37) } }
    (d.postError { cls := 1, source := 0x09, event := 0x02, inst := g - 37, scan := true }).portDown (g - 37)

/-- SCAN_SLOT_RESULT (R44, R602): the slot has run its Turns; `bad` names the failing units, 0 none. -/
def cmdScanSlotResult (bad : Nat) (d : Dev) : Dev :=
  match d.tst.slot with
  | some s =>
    if s.left ≠ 0 then d
    else
      let g := s.group
      let d := { d with tst := { d.tst with slot := none }, spl := { d.spl with scanning := [] } }
      let d := d.wb F.TST_SCAN_STAT_OPEN false
      if bad = 0 then
        let d := (d.bump F.TST_SCAN_STAT_PASSES 1).wbit F.TST_SCAN_FAIL_GROUPS g false
        { d with tst := { d.tst with slotPass := SMap.set (fun _ => none) d.tst.slotPass g (some (s.turn, s.time)) } }
      else ((d.bump F.TST_SCAN_STAT_FAILS 1).wbit F.TST_SCAN_FAIL_GROUPS g true).scanFail g bad
  | none => d

end Sys2Proof.Machine
end

