-- ==== Sys2Proof/Machine/ServingStep.lean ====
section
/-!
DEFINITION. Machine/ServingStep.lean: start of a service (R611, R615, R616), requests (R617, R618, R622), batching (R623 to R625),
steps (R626, R627, R629, R634) and sampling (R630 to R632).
-/
namespace Sys2Proof.Machine

/-! ### Starting (R611, R615, R616) -/

/-- A value brought into a range, and whether it was outside (R9). -/
def clampRange (lo hi v : Nat) : Nat × Nat := if v < lo then (lo, 1) else if hi < v then (hi, 1) else (v, 0)

/-- The control block of eight words, and the fields that were clamped; none when a check fails. -/
def SrvCfg.parse (w : Nat → Nat) : Option (SrvCfg × Nat) :=
  let addr (k lo : Nat) : Nat := bitsAt (w k) lo (52 - lo) * 2 ^ lo
  let (rl, c1) := clampRange 4 16 (bitsAt (w 0) 52 5)
  let (tl, c2) := clampRange 4 16 (bitsAt (w 2) 52 5)
  let (kp, c3) := clampRange 1 (2 ^ 32 - 1) (bitsAt (w 6) 0 32)
  let (fl, c4) := clampRange 1 2048 (bitsAt (w 6) 32 12)
  let (bm, c5) := clampRange 1 2048 (bitsAt (w 7) 0 12)
  let (mc, c6) := clampRange 1 1048575 (bitsAt (w 7) 12 20)
  let (pm, c7) := clampRange 1 65535 (bitsAt (w 7) 32 16)
  let c : SrvCfg := { reqBase := addr 0 6, reqLog2 := rl, reqDb := addr 1 3, tokBase := addr 2 6, tokLog2 := tl, tokProd := addr 3 3,
                      model := addr 4 6, kvBase := addr 5 16, kvPages := kp, fill := fl, batchTurns := bitsAt (w 6) 44 8,
                      batchMax := bm, maxContext := mc, prefillMax := pm }
  if c.reqBase = 0 ∨ c.reqDb = 0 ∨ c.tokBase = 0 ∨ c.tokProd = 0 ∨ c.model = 0 ∨ c.kvBase = 0 then none
  else some (c, c1 + c2 + c3 + c4 + c5 + c6 + c7)

/-- The model table's words keep their stated ranges, and M7 is the complement of M0 (R616). -/
def modelTableOk (m : List Nat) : Bool :=
  let m0 := m.getD 0 0
  let m1 := m.getD 1 0
  let q := bitsAt m0 8 8
  let kv := bitsAt m0 16 5
  decide (1 ≤ bitsAt m0 0 8) && decide (1 ≤ q) && decide (q ≤ 128) && [1, 2, 4, 8, 16].contains kv && decide (q % max 1 kv = 0)
    && [0x04, 0x05, 0x07, 0x0A].contains (bitsAt m0 21 5) && [0x04, 0x05].contains (bitsAt m0 26 5)
    && decide (bitsAt m1 0 32 % 32 = 0) && decide (2 ≤ bitsAt m1 32 32) && decide (bitsAt m1 32 32 ≤ 2 ^ 24)
    && decide (m.getD 7 0 = 2 ^ 64 - 1 - m0)

/-- The words of a byte list. -/
def wordsOf (bs : List Byte) (n : Nat) : List Nat := (List.range n).map (fun k => leNat ((bs.drop (8 * k)).take 8))

/-- The firmware's reads for partition p's service. -/
def srvUnit (p : Nat) : Waiter := .unit (2 ^ 21 + p)

/-- The service does not start (R611). -/
def Dev.srvRefuse (d : Dev) (p cause : Nat) : Dev :=
  let d := d.setSrv p { d.srvOf p with starting := false }
  (((d.sweep (srvUnit p)).wf (F.MIL_SRV_STAT_STATE p) 2).wf (F.MIL_SRV_STAT_CAUSE p) cause).srvShow p

/-- The service starts with its rings empty. -/
def Dev.srvBegin (d : Dev) (p : Nat) (c : SrvCfg) (table : List Nat) : Dev :=
  let d := d.sweep (srvUnit p)
  let v : Srv := { cfg := c, table := table, following := true }
  let d := ((d.setSrv p v).follow v.dbLine).follow v.consLine
  (((d.wf (F.MIL_SRV_STAT_STATE p) 1).wf (F.MIL_SRV_STAT_CAUSE p) 0)).srvShow p

/-- Read and check the control block and the model table, as far as their reads have come (R611). -/
def Dev.srvTry (d : Dev) (p : Nat) : Dev :=
  let v := d.srvOf p
  if !v.starting || v.following then d
  else if p < d.parts ∧ d.ready p then
    let (d, r) := d.companionRead (d.rf (F.MIL_SRV_CTL_SCB p) * 64) 64 2 (srvUnit p)
    match r with
    | none => d
    | some bs =>
      if bs.any (·.p) then d.srvRefuse p 1
      else
        let w := wordsOf (bs.map (·.b)) 8
        match SrvCfg.parse (fun k => w.getD k 0) with
        | none => d.srvRefuse p 1
        | some (c, n) =>
          match d.vread p (srvUnit p) c.model 64 with
          | (d, .wait) => d
          | (d, .fault _) => (d.clamped n).srvRefuse p 2
          | (d, .ok ms) =>
            let m := wordsOf (ms.map (·.b)) 8
            if ms.any (·.p) || !modelTableOk m then (d.clamped n).srvRefuse p 2 else (d.clamped n).srvBegin p c m
  else d.srvRefuse p 3

/-- Every service whose control block is being read. -/
def Dev.srvTryAll (d : Dev) : Dev := (List.range 4).foldl (fun d p => d.srvTry p) d

/-! ### Requests (R617, R618, R622) -/

/-- Cancel every request with the ID (R617). -/
def Dev.srvCancel (d : Dev) (p id : Nat) : Dev :=
  let v := d.srvOf p
  let hit := (v.batch.map (·.req) ++ v.waiting).filter (fun r => decide (r.id = id))
  let d := d.setSrv p { v with batch := v.batch.filter (fun s => decide (s.req.id ≠ id)), waiting := v.waiting.filter (fun r => decide (r.id ≠ id)) }
  hit.foldl (fun d r => d.srvEndReq p r 0x04) d

/-- VOCAB of the model. -/
def Srv.vocab (v : Srv) : Nat := bitsAt (v.table.getD 1 0) 32 32

/-- SERVING_REQUEST_FETCH (R618, R622): the next request record arrives with its prompt's token IDs; `bad`: the read failed and is
repeated. -/
def cmdServingRequestFetch (p : Nat) (rec : Desc) (toks : List Nat) (bad : Bool) (d : Dev) : Dev :=
  let v := d.srvOf p
  if 4 ≤ p ∨ !d.srvActive p ∨ v.head = v.tail ∨ v.cfg.batchMax ≤ v.waiting.length ∨ bad then d
  else
    let len := rec.fld 1 0 32
    let mx := rec.fld 1 32 32
    let k := rec.fld 3 4 12
    let req : SrvReq := { id := rec.fld 0 0 32, prompt := (toks.take len).map (· % 2 ^ 32), maxNew := mx, mode := rec.fld 3 0 2,
                          topK := if k = 0 then 1 else min k 2048, temp := rec.fld 3 32 32, topP := rec.fld 4 0 32,
                          stop := rec.fld 4 32 32, seed := rec.word 5 }
    let took (d : Dev) : Dev :=
      let v := d.srvOf p
      let h := (v.head + 1) % 2 ^ 32
      ((d.setSrv p { v with head := h }).toCompanion (v.cfg.reqDb + 8) (leBytes 8 (doorbellWord h))).srvShow p
    let final (st : Nat) : Dev := took (d.srvRecord p req 0xFFFFFFFF len st)
    if rec.w7 ≠ ~~~rec.w0 then final 0x05
    else if rec.fld 0 32 1 = 1 then took (d.srvCancel p req.id)
    else if req.prompt.any (fun t => decide (v.vocab ≤ t)) then final 0x05
    else if v.cfg.maxContext ≤ len ∨ v.cfg.kvPages < v.pagesFor len then final 0x06
    else if len = 0 ∨ mx = 0 then final 0x02
    else if req.prompt.length < len then d
    else
      let d := d.clamped (b2n (decide (k = 0 ∨ 2048 < k)))
      took (d.setSrv p { d.srvOf p with waiting := v.waiting ++ [req] })

/-! ### Joining (R623, R624) -/

/-- Positions that a request processes before its next token: its prompt and the tokens of an evicted sequence (R629). -/
def SrvReq.prefill (r : SrvReq) : Nat := r.prompt.length + r.toks.length

/-- Waiting requests join in order while the batch and the pool have room. -/
def Srv.join : Nat → Srv → Srv
  | 0, v => v
  | f + 1, v =>
    match v.waiting with
    | [] => v
    | r :: rest =>
      if v.batch.length < v.cfg.batchMax ∧ v.pagesOf v.batch + v.pagesFor r.prefill ≤ v.cfg.kvPages then
        Srv.join f { v with waiting := rest, batch := v.batch ++ [{ req := r }] }
      else v

/-- An empty batch starts again (R624). -/
def Srv.fills (v : Srv) : Bool :=
  !v.batch.isEmpty || decide (v.cfg.fill ≤ v.waiting.length) || v.waiting.any (fun r => decide (v.cfg.batchTurns ≤ r.age))

/-- What a boundary does to the service of partition p (R611 to R613, R623, R624), before the boundary's admission. -/
def Dev.srvBoundary (d : Dev) (p : Nat) : Dev :=
  let v := d.srvOf p
  let on := d.rb (F.MIL_SRV_CTL_ENABLE p)
  let d := d.setSrv p { v with due := false, waiting := v.waiting.map (fun r => { r with age := r.age + 1 }) }
  let d :=
    if !v.due then d
    else if on && !d.srvActive p then
      let d := (d.wf (F.MIL_SRV_STAT_STATE p) 0).wf (F.MIL_SRV_STAT_CAUSE p) 0
      d.setSrv p { d.srvOf p with starting := true }
    else if on then d
    else if d.srvActive p then
      (if v.stepping then d.setSrv p { d.srvOf p with stopping := true } else d.srvStop p)
    else
      let d := (d.wf (F.MIL_SRV_STAT_STATE p) 0).wf (F.MIL_SRV_STAT_CAUSE p) 0
      d.setSrv p { d.srvOf p with starting := false }
  let d := d.srvTry p
  let d := if d.srvState p = 3 ∧ (d.srvOf p).pause = some false then
      (d.setSrv p { d.srvOf p with pause := none }).wf (F.MIL_SRV_STAT_STATE p) 1
    else d
  let v := d.srvOf p
  if d.srvState p = 1 ∧ d.partAdmits p ∧ !v.stopping ∧ v.fills then
    (d.setSrv p (Srv.join v.waiting.length v)).srvShow p
  else if d.srvActive p then d.srvShow p else d

/-! ### Steps (R621, R625 to R629) -/

/-- What a step takes: the batch with each sequence's positions, the evicted requests (the last evicted first) and a sequence that
ends for want of a page. Sequences are taken in join order; `acc` holds those already taken. -/
def Srv.plan (v : Srv) : Nat → List SrvSeq → List SrvSeq → Nat → List SrvReq → List SrvSeq × List SrvReq × Option SrvReq
  | 0, acc, rest, _, ev => (acc ++ rest, ev, none)
  | _, acc, [], _, ev => (acc, ev, none)
  | f + 1, acc, s :: rest, budget, ev =>
    let need := s.req.prefill - s.done
    let k := if s.pre then min need budget else need
    let s' := { s with step := k }
    if v.pagesOf acc + v.pagesOf (s' :: rest) ≤ v.cfg.kvPages then
      v.plan f (acc ++ [s']) rest (if s.pre then budget - k else budget) ev
    else
      match rest.getLast? with
      | some x => v.plan f acc (s :: rest.dropLast) budget (x.req :: ev)
      | none => if acc.isEmpty then ([], ev, some s.req) else (acc, s.req :: ev, none)

/-- SERVING_STEP (R621, R624 to R629): a step begins on the batch. -/
def cmdServingStep (p : Nat) (d : Dev) : Dev :=
  let v := d.srvOf p
  if 4 ≤ p ∨ d.srvState p ≠ 1 ∨ v.stepping ∨ v.batch.isEmpty ∨ !d.partAdmits p then d
  else if v.room < v.batch.length then
    if v.stalled then d else (d.setSrv p { v with stalled := true }).bump (F.MIL_SRV_EVENTS_TOKSTALL p) 1
  else
    let (b, ev, ended) := v.plan (2 * v.batch.length + 1) [] v.batch v.cfg.prefillMax []
    let d := d.setSrv p { v with batch := b, waiting := ev ++ v.waiting, stepping := !b.isEmpty, stalled := false }
    let d := d.bump (F.MIL_SRV_EVENTS_EVICTIONS p) ev.length
    let d := match ended with
      | some r => d.srvEndReq p r 0x03
      | none => d
    d.srvShow p

/-! ### Sampling (R630 to R632) -/

/-- The quotient, with a sticky last bit below the precision that a rounding to FP32 needs. -/
def Num.div : Num → Num → Num
  | .nan, _ => .nan
  | _, .nan => .nan
  | .inf _, .inf _ => .nan
  | .inf a, y => .inf (xor a y.neg?)
  | x, .inf b => .zero (xor x.neg? b)
  | .zero _, .zero _ => .nan
  | .zero a, y => .zero (xor a y.neg?)
  | x, .zero b => .inf (xor x.neg? b)
  | .fin a m e, .fin b n f =>
    let sh := 64 + Nat.log2 n
    let q := (m <<< sh) / n
    .fin (xor a b) (2 * q + b2n (q * n != m <<< sh)) (e - f - sh - 1)

def f32 (x : Nat) : Num := Fmt.fp32.decode x
def r32 (v : Num) : Nat := ieeeRound v .fp32 .rne

/-- Token a goes before token b: larger value first, ties in ascending ID, NaN last (R630, R631). -/
def rankBefore (a b : Nat × Nat) : Bool :=
  match (f32 a.1).isNan, (f32 b.1).isNan with
  | true, true => decide (a.2 < b.2)
  | true, false => false
  | false, true => true
  | false, false =>
    match Num.cmp (f32 a.1) (f32 b.1) with
    | some .gt => true
    | some .lt => false
    | _ => decide (a.2 < b.2)

/-- Insert in rank order, keeping at most n. -/
def rankInsert (n : Nat) (x : Nat × Nat) : List (Nat × Nat) → List (Nat × Nat)
  | [] => if n = 0 then [] else [x]
  | y :: ys => if n = 0 then [] else if rankBefore x y then (x :: y :: ys).take n else y :: rankInsert (n - 1) x ys

/-- The candidates' cumulative weights (R631, steps 3 and 4). -/
def cumWeights (z0 : Nat) : Nat → List (Nat × Nat) → List (Nat × Nat)
  | _, [] => []
  | c, (z, id) :: rest =>
    let w := fnBits fnExp2 (r32 (Num.mul (f32 (r32 (Num.add false (f32 z) (f32 z0).negate))) (f32 0x3FB8AA3B)))
    let c' := r32 (Num.add false (f32 c) (f32 w))
    (c', id) :: cumWeights z0 c' rest

/-- a ≥ b in FP32; false when either is NaN. -/
def geF32 (a b : Nat) : Bool :=
  match Num.cmp (f32 a) (f32 b) with
  | some .lt => false
  | some _ => true
  | none => false

/-- The shortest prefix that R631, step 5, keeps. -/
def topPrefix (topP : Nat) (cs : List (Nat × Nat)) : List (Nat × Nat) :=
  let last := (cs.getLast?.map (·.1)).getD 0
  let p := f32 topP
  if p.isNan || Num.cmp p (.fin false 1 0) == some .gt then cs
  else if Num.cmp p (.zero false) != some .gt then cs.take 1
  else
    let t := r32 (Num.mul p (f32 last))
    match cs.findIdx? (fun e => geF32 e.1 t) with
    | some i => cs.take (i + 1)
    | none => cs

/-- The token that a sequence with the logits `l` chooses at position `pos`. -/
def sampleToken (req : SrvReq) (vocab pos : Nat) (l : Nat → Nat) : Nat :=
  let ids := List.range vocab
  let temp := f32 req.temp
  if req.mode = 0 ∨ temp.isNan ∨ Num.cmp temp (.zero false) != some .gt then
    (((ids.foldl (fun b i => rankInsert 1 (l i, i) b) []).head?).map (·.2)).getD 0
  else
    let k := if req.mode = 2 then 2048 else req.topK
    let z (i : Nat) : Nat := r32 (Num.div (f32 (l i)) temp)
    let top := ids.foldl (fun b i => rankInsert k (z i, i) b) []
    let cs := match top with
      | [] => []
      | (z0, id0) :: rest =>
        let w0 := fnBits fnExp2 (r32 (Num.mul (f32 (r32 (Num.add false (f32 z0) (f32 z0).negate))) (f32 0x3FB8AA3B)))
        (w0, id0) :: cumWeights z0 w0 rest
    let kept := if req.mode = 1 then cs else topPrefix req.topP cs
    let w := pick4 (philox (pos % 2 ^ 32, 0xD6000000, 0, 0) (req.seed % 2 ^ 32, req.seed / 2 ^ 32 % 2 ^ 32)) 0
    let u := r32 (Num.mk' false (w / 2 ^ 8) (-24))
    let cl := (kept.getLast?.map (·.1)).getD 0
    let t := r32 (Num.mul (f32 u) (f32 cl))
    match kept.find? (fun e => Num.cmp (f32 e.1) (f32 t) == some .gt) with
    | some e => e.2
    | none => (kept.getLast?.map (·.2)).getD 0

/-- What the memory that holds the model contributes to the logits. -/
def Dev.modelLines (d : Dev) : List (Nat × Nat × Nat) :=
  d.mem.lines.filterMap (fun e => e.2.map (fun l => (e.1, l.mask, l.data)))

/-- A sequence at the end of a step: none when it has ended (R619, R626, R634). -/
def Dev.srvSeqDone (d : Dev) (p : Nat) (s : SrvSeq) (poisoned : Bool) : Dev × Option SrvSeq :=
  let v := d.srvOf p
  if s.step = 0 then (d, some s)
  else if poisoned then (d.srvEndReq p s.req 0x07, none)
  else
    let done := s.done + s.step
    let pos := s.req.prefill
    if done < pos then (d, some { s with done := done, step := 0 })
    else
      let l (i : Nat) : Nat := Config.servingLogit d.layout v.table d.mem.hbm d.modelLines (s.req.prompt ++ s.req.toks) i % 2 ^ 32
      let tok := sampleToken s.req v.vocab pos l
      let req : SrvReq := { s.req with toks := s.req.toks ++ [tok] }
      let st := if tok = req.stop ∧ req.stop ≠ 0xFFFFFFFF then 0x01
        else if req.maxNew ≤ req.toks.length then 0x02
        else if v.cfg.maxContext ≤ pos + 1 then 0x03 else 0x00
      let d := d.srvRecord p req tok pos st
      (d, if st = 0 then some { s with req := req, done := done, step := 0, pre := false } else none)

/-- SERVING_STEP_DONE (R619, R620, R634): the step in progress ends. `poisoned` names the places in the batch whose logits, keys or
values carried poison; `halted`: the serving launch was halted (R614). -/
def cmdServingStepDone (p : Nat) (poisoned : List Nat) (halted : Bool) (d : Dev) : Dev :=
  let v := d.srvOf p
  if 4 ≤ p ∨ !v.stepping then d
  else if halted then d.srvKill p
  else
    let hit (i : Nat) (s : SrvSeq) : Bool := poisoned.contains i && decide (s.step ≠ 0)
    let (d, b) := v.batch.zipIdx.foldl (fun (x : Dev × List SrvSeq) e =>
      let (d, s) := x.1.srvSeqDone p e.1 (hit e.2 e.1)
      (d, x.2 ++ s.toList)) (d, [])
    let d := if v.batch.zipIdx.any (fun e => hit e.2 e.1) then
        d.postError { cls := 2, source := 0x04, event := 0xF0, parts := 2 ^ p }
      else d
    let d := (d.setSrv p { d.srvOf p with batch := b, stepping := false }).bump (F.MIL_SRV_EVENTS_STEPS p) 1
    if v.stopping then d.srvStop p
    else
      let d := if v.pause.isSome then d.wf (F.MIL_SRV_STAT_STATE p) 3 else d
      d.srvShow p

end Sys2Proof.Machine
end

