-- ==== Sys2Proof/Machine/Setup.lean ====
section
/-!
DEFINITION. Machine/Setup.lean: the set-up space (chapter 18): reads with live status, violations, writes with their clamps, staging
and the moment at which a value takes effect, complement pairs (R501), ring and region set-up (R466, R469, R480, R482).
-/
namespace Sys2Proof.Machine

/-! ### Masks of a register -/

/-- The bits of the fields of an access code. -/
def RegSpec.mask (r : RegSpec) (a : Access) : Nat :=
  r.fields.foldl (fun m f => if f.acc = a then m ||| ((2 ^ f.w - 1) <<< f.lo) else m) 0

/-- `x` with the bits of `m` taken from `v`. -/
def mergeMask (x v m : Nat) : Nat := (x - (x &&& m)) ||| (v &&& m)

/-- A value with every RW field clamped, and the number of fields clamped or acted on as another value (R477); DEFERRED of a
collective or service ring takes 0 (R479). -/
def RegSpec.clamp (r : RegSpec) (v : Nat) : Nat × Nat :=
  let y := r.fields.foldl (fun (x : Nat × Nat) f =>
    if f.acc = .rw then
      let (y, c) := f.clamp.apply (bitsAt v f.lo f.w)
      (withBits x.1 f.lo f.w y, x.2 + b2n c)
    else x) (v, 0)
  if r.base = Reg.QUE_RCTL 0 ∧ bitAt v 3 = true ∧ 2 ≤ bitsAt v 1 2 then (withBits y.1 3 1 0, y.2 + 1) else y

/-- The write is staged (R12, R711): after the first commit, in the control and data planes and where a chapter states a boundary. -/
def Dev.stages (d : Dev) (r : RegSpec) : Bool :=
  d.rb F.CFG_STATUS_FIRST_COMMIT && (match r.apply with
    | .plain => decide (r.plane ≠ .management) && decide (r.mask .rw ≠ 0)
    | .boundary => decide (r.mask .rw ≠ 0)
    | .ownerReset => false
    | .allReset => false)

/-! ### Live status (R11, R708, R715) -/

/-- A list of numbers as consecutive fields of width w from bit lo, `step` bits apart. -/
def packFields (lo step w : Nat) (vs : List Nat) : Nat :=
  (vs.zipIdx.map (fun e => (e.1 % 2 ^ w) * 2 ^ (lo + step * e.2))).foldl (· + ·) 0

/-- A bit for each partition. -/
def partBits (f : Nat → Bool) : Nat := partsMask ((List.range 4).filter f)


/-- Spools of partition p that hold a resident skein. -/
def Dev.residentSpools (d : Dev) (p : Nat) : Nat :=
  (((d.skeinList.filter (fun e => decide (e.2.part = p))).map (fun e => e.1 / 16)).eraseDups).length

/-- Partition p admits nothing in this Turn (PRT_STATUS.WITHHELD of R484). -/
def Dev.partWithheld (d : Dev) (p : Nat) : Bool :=
  decide (p < d.parts) && (d.rb F.TRN_STATUS_WITHHELD || d.rbit F.PRT_STATUS_RESETTING p || d.ctl.changing || d.csaBad p)

/-- The user counter area or the sampling buffer of n bytes does not lie in p's region (R696, R700). -/
def Dev.outsideRegion (d : Dev) (p base n : Nat) : Bool := decide (d.regionSize (.part p) < base + n)

/-- Some counter of the registers [lo, hi) has OVF set. -/
def Dev.anyOvf (d : Dev) (lo hi : Nat) : Bool :=
  d.regs.any (fun e => decide (lo ≤ e.1) && decide (e.1 < hi) && bitAt e.2.toNat 48)

/-- Entry e of the bucket table as GRN_BUCKET shows it: the channel, and bit 15 when the entry is valid (R322, R356). -/
def Dev.bucketEntry (d : Dev) (e : Nat) : Nat :=
  let p := e * d.parts / 1024
  let i := e - 1024 * p / d.parts
  let l := d.mem.chanLists.getD p []
  if i < 4 * l.length then l.getD (i % l.length) 0 + 2 ^ 15 else 0

/-- Status that follows from the state: the register as it is read. -/
def Dev.liveWord (d : Dev) (r : RegSpec) (idx : List Nat) (off : Nat) : Nat :=
  let x := (d.reg off).toNat
  let n := idx.headD 0
  let ps : List Nat := [0, 1, 2, 3]
  if r.base = Reg.CFG_TIME then d.time % 2 ^ 64
  else if r.base = Reg.CFG_STATUS then withBits x 1 11 d.staged.length
  else if r.base = Reg.STN_STATUS then
    x + packFields 0 8 7 (ps.map (fun p => d.queueUsed p .stones)) + d.tst.stnWithheld % 16 * 2 ^ 32
      + partBits (fun p => !(d.sub p).flight.isEmpty) * 2 ^ 36 + partBits d.stnHeld * 2 ^ 40
  else if r.base = Reg.PRS_STATUS then
    x + packFields 0 8 6 (ps.map (fun p => d.queueUsed p .press))
      + partBits (fun p => !(d.queueOf p .press (· = .running)).isEmpty) * 2 ^ 32
      + partBits (fun p => (d.queueOf p .press (· = .running)).any (·.fault.isSome)) * 2 ^ 36
      + partBits (fun p => match d.headOf p .press with
          | some it => decide (it.desc.opcode = 0x20) && mngLink it.desc && !d.mngDone it && (match d.linkOfItem it with
              | some l => decide ((d.producerRows l).1 ≤ it.pos.1)
              | none => false)
          | none => false) * 2 ^ 40
  else if r.base = Reg.SPL_STATUS then
    withBits x 0 9 ((List.range 4).map (fun k => popcount 64 (d.rf (F.SPL_HEALTH_SPOOLS k)))).sum
      + d.residentSpools 0 * 2 ^ 12 + packFields 21 8 8 ([1, 2, 3].map d.residentSpools)
      + partBits (fun p => d.ctl.items.any (fun it => decide (it.part = p) && decide (it.engine = .launch) && it.early.isSome)) * 2 ^ 48
      + b2n (!d.spl.scanning.isEmpty) * 2 ^ 52
  else if r.base = Reg.GRN_SLICE_STATUS 0 then
    let pins := (d.mem.lines.filter (fun e => decide (keySlice e.1 = n) && (e.2.map Line.pinned).getD false)).length
    withBits (withBits (withBits (withBits x 0 8 n) 10 2 ((d.ownerOf n).getD 0)) 12 13 pins) 25 12 (d.heldIn n)
  else if r.base = Reg.GRN_SEGMENT then x + packFields 0 16 11 (ps.map (fun p => 4 * (d.mem.chanLists.getD p []).length))
  else if r.base = Reg.GRN_BUCKET 0 then x + packFields 0 16 16 ((List.range 4).map (fun i => d.bucketEntry (4 * n + i)))
  else if r.base = Reg.MMU_STATUS then withBits x 60 4 (partBits (fun p => decide (p < d.parts) && d.csaBad p))
  else if r.base = Reg.SLC_STATUS then
    let busy := d.ctl.items.filter (fun it => decide (it.engine = .sluice) && decide (it.place = .running))
    x + (busy.map (fun it => 2 ^ (it.unit % 32))).foldl (· ||| ·) 0
      + partBits (fun p => !(d.queueOf p .bolter (· = .running)).isEmpty) * 2 ^ 32
      + partBits (fun p => d.ctl.items.any (fun it => decide (it.part = p) && decide (it.engine = .sluice ∨ it.engine = .bolter)
          && decide (it.place = .running) && it.fault.isSome)) * 2 ^ 36
      + packFields 40 5 5 (ps.map (fun p => d.queueUsed p .bolter))
  else if r.base = Reg.QUE_DPOOL then x + packFields 0 8 7 (ps.map d.poolCount)
  else if r.base = Reg.PRT_STATUS then withBits x 12 4 (partBits d.partWithheld)
  else if r.base = Reg.FAB_COORD then withBits x 63 1 (b2n d.coordValid)
  else if r.base = Reg.FAB_DIMS then withBits x 63 1 (b2n d.fab.dims.isSome)
  else if r.base = Reg.COL_GRP_STAT 0 then
    let busy := d.ctl.items.any (fun it => decide (it.engine = .collective) && decide (0x73 ≤ it.desc.opcode) && it.place.inQueue
      && (colGroups it.desc it.ext).any (fun g => decide (g.1 = n)))
    x + b2n (d.grpValid n) * 2 ^ 32 + b2n busy * 2 ^ 33 + b2n (d.col.carries.any (fun c => decide (c.group = n))) * 2 ^ 34
  else if r.base = Reg.COL_STATUS then
    x + packFields 0 8 6 (ps.map (fun p => d.queueUsed p .collective)) + packFields 32 4 4 (ps.map d.colRunning)
  else if r.base = Reg.CPL_CACHE then
    x + d.cplShared + d.cplPinned * 2 ^ 17 + b2n d.snoopQuarantined * 2 ^ 33 + min d.cpl.polled.length 0xFFFF * 2 ^ 34
  else if r.base = Reg.PMU_OVF then
    x + ((List.range 42).map (fun b => b2n (d.anyOvf (Reg.PMU_CNT b 0) (Reg.PMU_CNT (b + 1) 0)) * 2 ^ b)).foldl (· + ·) 0
      + b2n (d.anyOvf (Reg.PMU_FIX_STN 0 0) (Reg.PMU_FIX_BOL 7)) * 2 ^ 42
  else if r.base = Reg.PMU_USER 0 then
    withBits x 1 1 (b2n (bitAt x 0 && d.outsideRegion n (bitsAt x 16 36 * 65536) 65536))
  else if r.base = Reg.PMU_SAMP_STAT 0 then
    withBits x 17 1 (b2n (d.rb (F.PMU_SAMP_CTL_ENABLE n) && d.outsideRegion n (d.rf (F.PMU_SAMP_BASE_BASE n) * 2 ^ 20) (2 ^ 20)))
  else x

/-! ### Access violations (R706, R707) -/

/-- The violations of an access: misaligned, width, outside. An offset is outside when the register-aligned offset below it is
in no table. -/
def setupViolations (off : Nat) (write : Bool) (len : Nat) : Bool × Bool × Bool :=
  (decide (off % 8 ≠ 0), write && decide (len ≠ 8), decide (0x4000000 ≤ off) || (regFind (off / 8 * 8)).isNone)

/-- Count and record a violating access. -/
def Dev.noteViolation (d : Dev) (off : Nat) (write : Bool) (len : Nat) : Dev :=
  let (m, w, o) := setupViolations off write len
  let d := ((d.bump F.CFG_VIOL_MISALIGNED (b2n m)).bump F.CFG_VIOL_WIDTH (b2n w)).bump F.CFG_VIOL_OUTSIDE (b2n o)
  (((d.wf F.CFG_VIOL_LAST_OFFSET (off % 2 ^ 26)).wb F.CFG_VIOL_LAST_WRITE write).wb F.CFG_VIOL_LAST_HIGH (decide (0x4000000 ≤ off))).wf
    F.CFG_VIOL_LAST_TURN d.turn

/-- The access breaks a rule of R706. -/
def setupBad (off : Nat) (write : Bool) (len : Nat) : Bool :=
  let (m, w, o) := setupViolations off write len
  m || w || o

/-! ### Reads (R708, R716) -/

/-- The words of the log entry that ERR_LOG_SEL selects. -/
def Dev.logEntry (d : Dev) : List Nat :=
  let log := if d.rb F.ERR_LOG_SEL_LOG then d.err.flog else d.err.clog
  match log[d.rf F.ERR_LOG_SEL_INDEX]? with
  | some r => (List.range 8).map r.word
  | none => List.replicate 8 0

/-- What a well-formed read returns. -/
def Dev.readReg (d : Dev) (off : Nat) : Nat :=
  match regFind off with
  | none => 0
  | some (r, idx) =>
    if r.base = Reg.ERR_LOG_WORD 0 then (d.err.readBuf.getD (List.replicate 8 0)).getD (idx.headD 0) 0
    else
      let x := d.liveWord r idx off
      match d.staged.find? (fun e => decide (e.1 = off)) with
      | some (_, v) => mergeMask x v.toNat (if r.base = Reg.TRN_CTRL then r.mask .rw - 0xF00 else r.mask .rw)
      | none => x

/-- A read of ERR_LOG_WORD0 fills the read buffer (R716). -/
def Dev.fillLogBuffer (d : Dev) : Dev := { d with err := { d.err with readBuf := some d.logEntry } }

/-- A set-up read: the state after it and the data of SETUP_DATA. -/
def Dev.setupRead (d : Dev) (off : Nat) : Dev × Nat :=
  if setupBad off false 8 then (d.noteViolation off false 8, 0)
  else
    let d := if off = Reg.ERR_LOG_WORD 0 then d.fillLogBuffer else d
    (d, d.readReg off)

/-! ### What a write does when it takes effect -/

/-- Locked QUE registers and fields (R482): the mask of the bits that a write cannot change while the ring is active. -/
def lockMask (r : RegSpec) : Nat :=
  if r.base = Reg.QUE_RBASE 0 ∨ r.base = Reg.QUE_CBASE 0 ∨ r.base = Reg.QUE_DB 0 ∨ r.base = Reg.QUE_HEADW 0
      ∨ r.base = Reg.QUE_CPROD 0 ∨ r.base = Reg.QUE_CCONS 0 then r.mask .rw
  else if r.base = Reg.QUE_RCTL 0 then 0xFFCE
  else 0

/-- Fields of `r` inside the mask that differ between x and v. -/
def RegSpec.changes (r : RegSpec) (m x v : Nat) : Nat :=
  (r.fields.filter (fun f => bitAt m f.lo && decide (bitsAt x f.lo f.w ≠ bitsAt v f.lo f.w))).length

/-- A value judged against the locks of R469 and R482: locked fields keep their values, each counted when it would change. -/
def Dev.judge (d : Dev) (r : RegSpec) (idx : List Nat) (off v : Nat) : Dev × Nat :=
  let x := (d.reg off).toNat
  let n := idx.headD 0
  let m := if d.rb (F.QUE_RSTAT_ACTIVE n) ∧ lockMask r ≠ 0 then lockMask r
    else if r.base = Reg.PRT_SWR_A 0 ∧ d.rb (F.PRT_SWR_STAT_ACTIVE n) then r.mask .rw - 0x3E1
    else if r.base = Reg.PRT_SWR_B 0 ∧ d.rb (F.PRT_SWR_STAT_ACTIVE n) then r.mask .rw
    else 0
  (d.clamped (r.changes m x v), mergeMask v x m)

/-- An event number that PMU block b counts (R689). -/
def pmuEventOk (b ev : Nat) : Bool :=
  let i := ev % 256
  let cls := ev / 256
  let inCls := decide (cls = (if b < 4 then 1 else if b < 8 then 2 else if b < 24 then 3 else if b < 26 then 4 else if b < 34 then 5
    else if b < 40 then 7 else if b = 40 then 8 else 9)) || (decide (cls = 6) && decide (26 ≤ b) && decide (b < 34))
  if cls = 0 then decide (i ≤ 2)
  else inCls && (match cls with
    | 1 => decide (i ≤ 5) || (decide (0xC0 ≤ i) && decide (i ≤ 0xCA))
    | 2 => decide (i ≤ 3) || (decide (0xC0 ≤ i) && decide (i ≤ 0xC7))
    | 3 => decide (i ≤ 0x0A) || (decide (0xC0 ≤ i) && decide (i ≤ 0xCA))
    | 4 => decide (i ≤ 4) || (decide (0xC0 ≤ i) && decide (i ≤ 0xC4)) || (decide (0xD0 ≤ i) && decide (i ≤ 0xD6))
    | 5 => decide (i ≤ 8) || (decide (0x10 ≤ i) && decide (i ≤ 0x14)) || (decide (0x18 ≤ i) && decide (i ≤ 0x1C))
    | 6 => decide (i ≤ 4)
    | 7 => decide (i ≤ 7)
    | _ => decide (i ≤ 5))

/-- HBM_LOOP (R383, R384): loop-back begins only on a stack that trains or is offline; RUN restarts the error count. -/
def Dev.writeLoop (d : Dev) (k off v : Nat) : Dev :=
  let st := d.rf (F.HBM_STATUS_STATE k)
  let mode := bitsAt v 0 2
  if mode ≠ 0 ∧ st ≠ 1 ∧ st ≠ 3 ∧ !(decide (st = 4) && decide (mode = d.rf (F.HBM_LOOP_MODE k))) then d.bump (F.HBM_STATUS_LOOP_REFUSED k) 1
  else
    let ran := d.rb (F.HBM_LOOP_RUN k)
    let d := d.setReg off (BitVec.ofNat 64 v)
    let d := if bitAt v 9 && !ran then (d.wf (F.HBM_LOOP_ERR_ERRORS k) 0).wf (F.HBM_LOOP_ERR_FIRST_PIN k) 0xFF else d
    if mode ≠ 0 then d.wf (F.HBM_STATUS_STATE k) 4
    else if st = 4 then d.wf (F.HBM_STATUS_STATE k) (if bitAt d.boot.trained k then 3 else 1)
    else d

/-- The registers of the complement pairs (R501, R537). -/
def isPairReg (r : RegSpec) : Bool :=
  [Reg.FAB_COORD, Reg.FAB_DIMS, Reg.FAB_RTE_A 0, Reg.FAB_RTE_B 0, Reg.FAB_ING_A 0, Reg.FAB_ING_B 0, Reg.COL_GRP_A 0, Reg.COL_GRP_B 0,
    Reg.COL_GRP_C 0, Reg.COL_GRP_D 0].contains r.base

/-- Another port becomes the UPSTREAM port: its measured delay is shown (R25), 0 for none, and expected boundaries are counted anew (R30). -/
def Dev.upstreamMoved (d : Dev) (u : Nat) : Dev :=
  let hop := if u = 0 ∨ u = 7 then 0 else ((d.linkOf (u - 1)).hopDelay / 16).toNat
  ({ d with ctl := { d.ctl with sinceSymbol := 0 } }).wf F.TRN_PHASE_ERR_HOP_DELAY_NS hop

/-- What follows from the new value of a register, beside the value itself. -/
def Dev.afterWrite (d : Dev) (r : RegSpec) (idx : List Nat) (off old v : Nat) : Dev :=
  let n := idx.headD 0
  if r.base = Reg.TRN_CTRL then
    let d := if bitAt v 0 then d.wb F.TRN_STATUS_HOLDOVER false else d
    if bitsAt v 1 3 = bitsAt old 1 3 then d else d.upstreamMoved (bitsAt v 1 3)
  else if r.base = Reg.MIL_SRV_CTL 0 then d.setSrv n { d.srvOf n with due := true }
  else if r.base = Reg.SCP_HSTREAM 0 then
    let d := if bitAt v 0 && !bitAt old 0 then (d.wf (F.SCP_HSTREAM_STAT_HEAD n) 0).wf (F.SCP_HSTREAM_STAT_TAIL n) 0 else d
    let fit := (d.hopSize - d.rf (F.SCP_HSTREAM_BASE n) * 4096) / max 1 (d.slotBytes n)
    if d.slotBytes n ≠ 0 ∧ fit < d.rf (F.SCP_HSTREAM_SLOTS n) then (d.wf (F.SCP_HSTREAM_SLOTS n) fit).clamped 1 else d
  else if r.base = Reg.FAB_PORT_CTL 0 then
    if bitAt old 0 && !bitAt v 0 && decide (d.rf (F.FAB_PORT_STAT_STATE n) ≠ 0) then d.portDown n else d
  else if r.base = Reg.PMU_SEL 0 0 then d.clamped (b2n (!pmuEventOk n (bitsAt v 0 12)))
  else if r.base = Reg.PMU_SAMP_CTL 0 then d.clamped (b2n (!(decide (bitsAt v 8 4 = 3) && pmuEventOk 8 (bitsAt v 0 12))))
  else if r.base = Reg.PMU_BW_CTL then { d with pmu := { d.pmu with bwRestart := true } }
  else if r.base = Reg.ERR_LOG_SEL then { d with err := { d.err with readBuf := none } }
  else if r.base = Reg.TST_SCAN_CTL then
    if bitAt v 0 && !bitAt old 0 then { d with tst := { d.tst with since := d.time, scheduled := 0 } } else d
  else if isPairReg r then { d with fab := { d.fab with pairs := d.fab.pairs ++ [off] } }
  else d

/-- The RW fields of a register take a clamped value. -/
def Dev.applyReg (d : Dev) (off v : Nat) : Dev :=
  match regFind off with
  | none => d
  | some (r, idx) =>
    let (d, v) := d.judge r idx off v
    let old := (d.reg off).toNat
    let new := mergeMask old v (r.mask .rw)
    if r.base = Reg.HBM_LOOP 0 then d.writeLoop (idx.headD 0) off new
    else if r.base = Reg.TRN_CTRL then
      let d := { d with ctl := { d.ctl with floorSetup := bitsAt v 8 4 } }
      (d.setReg off (BitVec.ofNat 64 (withBits new 8 4 (bitsAt old 8 4)))).afterWrite r idx off old new
    else (d.setReg off (BitVec.ofNat 64 new)).afterWrite r idx off old new

/-! ### Rings and shared-weight regions in force (R466, R469, R480) -/

/-- A ring's enable takes effect: it fetches from here on (R466). -/
def Dev.enableRing (d : Dev) (n : Nat) : Dev :=
  let x := d.ring n
  let d := (d.wb (F.QUE_RSTAT_ACTIVE n) true).setRing n { x with tail := d.rf (F.QUE_RSTAT_HEAD n), fetched := [], badDb := false, badCons := false, joining := true }
  (d.follow (d.dbLine n)).follow (d.consLine n)

/-- A ring is disabled: fetched descriptors are dropped (R482). -/
def Dev.disableRing (d : Dev) (n : Nat) : Dev :=
  let d := (d.unfollow (d.dbLine n)).unfollow (d.consLine n)
  (d.wb (F.QUE_RSTAT_ACTIVE n) false).setRing n { d.ring n with fetched := [] }

/-- An enable of 1 is refused (R480). -/
def Dev.enableRefused (d : Dev) (n : Nat) : Bool :=
  decide (d.rf (F.QUE_RBASE_BASE n) = 0) || decide (d.rf (F.QUE_CBASE_BASE n) = 0) || decide (d.rf (F.QUE_DB_ADDR n) = 0)
    || decide (d.rf (F.QUE_CPROD_ADDR n) = 0) || decide (d.rf (F.QUE_CCONS_ADDR n) = 0) || decide (d.parts ≤ n / 64)

/-- Rings whose control or status register is not at its reset value. -/
def Dev.knownRings (d : Dev) : List Nat :=
  (List.range 256).filter (fun n => d.regs.any (fun e => decide (e.1 = Reg.QUE_RCTL n) || decide (e.1 = Reg.QUE_RSTAT n)))

/-- After every write of a moment: enables and disables of rings take effect (R480). -/
def Dev.settleRings (d : Dev) : Dev :=
  d.knownRings.foldl (fun d n =>
    let en := d.rb (F.QUE_RCTL_ENABLE n)
    let act := d.rb (F.QUE_RSTAT_ACTIVE n)
    if en && !act then
      if d.enableRefused n then (d.wb (F.QUE_RCTL_ENABLE n) false).clamped 1 else d.enableRing n
    else if act && !en then d.disableRing n
    else d) d

/-- The extent of a region: first page and number of pages. -/
def Dev.swrExtent (d : Dev) (k : Nat) : Nat × Nat := (d.rf (F.PRT_SWR_A_BASE k), d.rf (F.PRT_SWR_B_PAGES k))

/-- Whether region k is in force (R468, R469); `count`: its registers were written at this moment. -/
def Dev.settleSwr (d : Dev) (k : Nat) (count : Bool) : Dev :=
  let was := d.rb (F.PRT_SWR_STAT_ACTIVE k)
  if !d.rb (F.PRT_SWR_A_ENABLE k) then
    if was then
      let dead := d.mem.refetchDead.filter (fun x => decide (d.swrOfLine x ≠ some k))
      ({ d with mem := { d.mem with refetchDead := dead } }).wb (F.PRT_SWR_STAT_ACTIVE k) false
    else d
  else if was then d
  else
    let (b, n) := d.swrExtent k
    let pages := d.regionSize .common / 65536
    let fit := min n (pages - b)
    let d := if fit < n then (d.wf (F.PRT_SWR_B_PAGES k) fit).clamped (b2n count) else d
    let clash := (List.range k).any (fun j =>
      let (bj, nj) := d.swrExtent j
      d.rb (F.PRT_SWR_STAT_ACTIVE j) && decide (b < bj + nj) && decide (bj < b + fit))
    if fit = 0 then d
    else if clash then d.clamped (b2n count)
    else d.wb (F.PRT_SWR_STAT_ACTIVE k) true

/-- The regions after the writes of a moment. -/
def Dev.settleSwrs (d : Dev) (touched : List Nat) : Dev :=
  if touched.any (fun o => decide (Reg.PRT_SWR_A 0 ≤ o) && decide (o < Reg.PRT_SWR_C 0)) then
    (List.range 16).foldl (fun d k => d.settleSwr k (touched.contains (Reg.PRT_SWR_A k) || touched.contains (Reg.PRT_SWR_B k))) d
  else d

/-- What waits for every write of a moment. -/
def Dev.settle' (d : Dev) (touched : List Nat) : Dev := (d.settleSwrs touched).settleRings

/-! ### Complement pairs (R501, R503, R537, R539) -/

/-- The 18-bit complement. -/
def compl (w x : Nat) : Nat := 2 ^ w - 1 - x % 2 ^ w

/-- A pair in two registers: both halves staged for this boundary, B the complement of A in its low w bits. -/
def Dev.pairOk (d : Dev) (offs : List Nat) (a b w : Nat) : Bool :=
  offs.contains a && offs.contains b && decide (bitsAt (d.reg b).toNat 0 w = compl w (bitsAt (d.reg a).toNat 0 w))

/-- One table of pairs: apply those that match, count the others. -/
def Dev.pairTable (d : Dev) (offs : List Nat) (n w : Nat) (a b : Nat → Nat) (bad : Fld) (put : Dev → Nat → Nat → Dev) : Dev :=
  (List.range n).foldl (fun d i =>
    if offs.contains (a i) || offs.contains (b i) then
      if d.pairOk offs (a i) (b i) w then put d i (bitsAt (d.reg (a i)).toNat 0 w) else d.bump bad 1
    else d) d

/-- At a boundary every pair with a half written since the last one is checked. -/
def Dev.checkPairs (d : Dev) : Dev :=
  let offs := d.fab.pairs
  if offs.isEmpty then d
  else
    let zero : Nat → Nat := fun _ => 0
    let d := { d with fab := { d.fab with pairs := [] } }
    let d := if offs.contains Reg.FAB_DIMS then
        let v := bitsAt (d.reg Reg.FAB_DIMS).toNat 0 18
        if d.rf F.FAB_DIMS_DIMS_N = compl 18 v then
          let (v', cut) := reduceDims v
          ({ d with fab := { d.fab with dims := some v' } }).clamped (b2n cut)
        else d.bump F.FAB_EVENTS_BAD_PAIR 1
      else d
    let d := if offs.contains Reg.FAB_COORD then
        if d.rf F.FAB_COORD_NODE_N = compl 18 (d.rf F.FAB_COORD_NODE) then
          { d with fab := { d.fab with node := some (d.rf F.FAB_COORD_NODE) } }
        else d.bump F.FAB_EVENTS_BAD_PAIR 1
      else d
    let d := if offs.contains Reg.FAB_COORD then (List.range 6).foldl (fun d n => d.announce n) d else d
    let d := if offs.contains Reg.FAB_COORD || offs.contains Reg.FAB_DIMS then (List.range 6).foldl (fun d n => d.judgePeer n) d else d
    let d := d.pairTable offs 64 41 Reg.FAB_RTE_A Reg.FAB_RTE_B F.FAB_EVENTS_BAD_PAIR (fun d i v =>
      { d with fab := { d.fab with rte := SMap.set zero d.fab.rte i v } })
    let d := d.pairTable offs 64 29 Reg.FAB_ING_A Reg.FAB_ING_B F.FAB_EVENTS_BAD_PAIR (fun d i v =>
      ({ d with fab := { d.fab with ing := SMap.set zero d.fab.ing i v } }).wbit F.FAB_ING_STOP_STOPPED i false)
    let d := d.pairTable offs 256 57 Reg.COL_GRP_A Reg.COL_GRP_C F.COL_EVENTS_BAD_PAIR (fun d i v =>
      { d with col := { d.col with grpA := SMap.set zero d.col.grpA i v } })
    d.pairTable offs 256 64 Reg.COL_GRP_B Reg.COL_GRP_D F.COL_EVENTS_BAD_PAIR (fun d i v =>
      let gen := d.grpGen i
      let d := { d with col := { d.col with grpB := SMap.set zero d.col.grpB i v } }
      if d.grpGen i = gen then d else (d.dropPass i).newGen i)

/-! ### Writes (R707 to R713) -/

/-- W1C fields are cleared when the write is answered (R6, R711). -/
def Dev.clearBits (d : Dev) (r : RegSpec) (off v : Nat) : Dev :=
  let m := r.mask .w1c &&& v
  if m = 0 then d else d.setReg off (BitVec.ofNat 64 (mergeMask (d.reg off).toNat 0 m))

/-- A request for partition resets at the next boundary (R463). -/
def Dev.writePrtReset (d : Dev) (v : Nat) : Dev := { d with ctl := { d.ctl with resetReq := d.ctl.resetReq ||| v % 16 } }

/-- ERR_FLOG_CLEAR (R579, R609). -/
def Dev.writeFlogClear (d : Dev) (v : Nat) : Dev :=
  if bitAt v 0 then (({ d with err := { d.err with flog := [] } }).wf F.ERR_FLOG_STAT_ENTRIES 0).wf F.ERR_FLOG_STAT_OVERFLOW 0 else d

/-- SNAP of TST_DIG_CTL waits for the boundary (R596). -/
def Dev.writeSnap (d : Dev) (v : Nat) : Dev := if bitAt v 11 then { d with tst := { d.tst with snapDue := true } } else d
/-- CLEAR of TST_DIG_CTL (R596). -/
def Dev.writeClear (d : Dev) (v : Nat) : Dev := if bitAt v 12 then { d with tst := { d.tst with clearDue := true } } else d

/-- RESTART of PMU_SAMP_CTLp (R704). -/
def Dev.writeRestart (d : Dev) (p v : Nat) : Dev :=
  if bitAt v 37 then (d.wf (F.PMU_SAMP_STAT_INDEX p) 0).wb (F.PMU_SAMP_STAT_FULL p) false else d

/-- The WO fields of a register (R711). -/
def Dev.writeOnly (d : Dev) (r : RegSpec) (idx : List Nat) (v : Nat) : Dev :=
  if r.base = Reg.PRT_RESET then d.writePrtReset v
  else if r.base = Reg.FAB_JOBSTOP then d.writeJobstop v
  else if r.base = Reg.ERR_FLOG_CLEAR then d.writeFlogClear v
  else if r.base = Reg.TST_DIG_CTL then (d.writeSnap v).writeClear v
  else if r.base = Reg.PMU_SAMP_CTL 0 then d.writeRestart (idx.headD 0) v
  else d

/-- The RW fields of a register are written: staged, or in force at once (R12, R711, R712). -/
def Dev.writeRw (d : Dev) (r : RegSpec) (off v : Nat) : Dev :=
  if r.mask .rw = 0 then d
  else
    let (v, c) := r.clamp v
    let d := d.clamped c
    if d.stages r then { d with staged := d.staged.filter (fun e => decide (e.1 ≠ off)) ++ [(off, BitVec.ofNat 64 (v &&& r.mask .rw))] }
    else (d.applyReg off v).settle' [off]

/-- The register would need a 1,025th place (R713). -/
def Dev.stageFull (d : Dev) (r : RegSpec) (off : Nat) : Bool :=
  d.stages r && decide (1024 ≤ d.staged.length) && !d.staged.any (fun e => decide (e.1 = off))

/-- A set-up write: the state after it and the status of RESULT. -/
def Dev.setupWrite (d : Dev) (off len v : Nat) : Dev × Nat :=
  if setupBad off true len then (d.noteViolation off true len, 0x00)
  else
    match regFind off with
    | none => (d, 0x00)
    | some (r, idx) =>
      if d.stageFull r off then (d.bump F.CFG_STATUS_STAGE_BUSY 1, 0x02)
      else ((((d.clearBits r off v).writeOnly r idx v).writeRw r off v), 0x00)

/-- A record of a blob, or a value of a return, takes effect (R673, R677). -/
def Dev.applyRec (d : Dev) (off v : Nat) : Dev :=
  match regFind off with
  | none => d
  | some (r, _) =>
    let (v, c) := r.clamp v
    (d.clamped c).applyReg off v

end Sys2Proof.Machine
end

