-- ==== Sys2Proof/Machine/Cpl.lean ====
section
/-!
DEFINITION. Machine/Cpl.lean: packets from the companion (R641 to R661): the checks and violations, requests to device memory, snoops,
the answers to the module's own requests, set-up accesses (R654, R706 to R716), link control and quarantine.
-/
namespace Sys2Proof.Machine

/-! ### Checks and violations (R658 to R660) -/

/-- The class a packet arrived on; a packet that does not wait among the received ones is taken to have come on the class of its OP. -/
def Dev.cplVc (d : Dev) (p : CplPacket) : Nat :=
  match (d.linkOf 6).rxCpl.find? (fun e => decide (e.2 = p)) with
  | some e => e.1
  | none => cplClass p.op

/-- Operations that a class carries from the companion to the module (R642, R654). -/
def cplCarries (cls op : Nat) : Bool :=
  (match cls with
    | 0 => [1, 3, 4]
    | 1 => [0x10]
    | 2 => [0x20, 0x21]
    | 3 => [0x30]
    | _ => [0x40, 0x41, 0x42, 0x43, 0x4C]).contains op

/-- A command code of R655. -/
def knownCommand (c : Nat) : Bool := [0x01, 0x02, 0x10, 0x11, 0x18, 0x19, 0x20, 0x21, 0x22, 0x30, 0x31].contains c

/-- LEN, or the read size, is one that R642 or R654 permits. The length of a set-up access is judged by R706. -/
def cplLenOk (p : CplPacket) : Bool :=
  if p.op = 1 then decide (p.len = 0) && [64, 128, 192, 256].contains (p.arg % 512)
  else if p.op = 3 then [64, 128, 192, 256].contains p.len
  else if p.op = 4 then decide (p.len = 72)
  else if p.op = 0x30 then decide (64 ≤ p.len) && decide (p.len ≤ 256)
  else if p.op = 0x40 ∨ p.op = 0x41 then true
  else if p.op = 0x42 then decide (p.len = if p.arg % 256 = 0x30 then 64 else 0)
  else if p.op = 0x43 then decide (p.len ≤ 256)
  else decide (p.len = 0)

/-- The regions the companion's device-physical addresses name, one after another: the partitions' in order, then the common region
(log entry 55). -/
def Dev.devRegions (d : Dev) : List Region := (List.range d.parts).map Region.part ++ [.common]

/-- Populated device memory in bytes. -/
def Dev.devBytes (d : Dev) : Nat := (d.devRegions.map d.regionSize).foldl (· + ·) 0

/-- The region and the offset in it of a companion's device-physical address. -/
def Dev.devFind (d : Dev) : List Region → Nat → Option (Region × Nat)
  | [], _ => none
  | r :: rs, a => if a < d.regionSize r then some (r, a) else d.devFind rs (a - d.regionSize r)

/-- Bytes a request from the companion covers. -/
def CplPacket.span (p : CplPacket) : Nat := if p.op = 1 then p.arg % 512 else if p.op = 4 then 64 else p.len

/-- ADDR is aligned and inside populated memory, and the zero fields are zero (R658). -/
def Dev.cplAddrOk (d : Dev) (p : CplPacket) : Bool :=
  decide (p.resv = 0) && (!p.poison || [3, 4, 0x30].contains p.op)
    && (if p.op = 1 ∨ p.op = 3 ∨ p.op = 4 then decide (p.addr % 64 = 0) && decide (p.addr + p.span ≤ d.devBytes)
        else if p.op = 0x10 then decide (p.addr % 64 = 0)
        else if p.op = 0x42 ∧ p.arg % 256 = 0x20 then decide (p.addr % 64 = 0)
        else true)

/-- The outstanding module request that an answer names: DATA a read, ACK a write, NAK either (R642, R658). -/
def Dev.cplNamed (d : Dev) (p : CplPacket) : Option CplReq :=
  d.cpl.reqs.find? (fun r => decide (r.tag = p.tag)
    && (if p.op = 0x30 then decide (r.op ≤ 2) else if p.op = 0x20 then decide (3 ≤ r.op) else true))

/-- An answer to a request that has failed (R645). -/
def Dev.cplLate (d : Dev) (p : CplPacket) : Bool := (d.cplNamed p).isNone && d.cpl.failedTags.contains p.tag

/-- The tag of a request is not that of a request still outstanding; an answer names a request (R658). -/
def Dev.cplTagOk (d : Dev) (p : CplPacket) : Bool :=
  if p.op = 1 ∨ p.op = 3 ∨ p.op = 4 then
    !((d.linkOf 6).rxCpl.takeWhile (fun e => decide (e.2 ≠ p))).any (fun e => [1, 3, 4].contains e.2.op && decide (e.2.tag = p.tag))
  else if p.op = 0x20 ∨ p.op = 0x21 ∨ p.op = 0x30 then (d.cplNamed p).isSome || d.cplLate p
  else true

/-- A DATA packet lies inside its read. -/
def Dev.cplFits (d : Dev) (p : CplPacket) : Bool :=
  decide (p.op ≠ 0x30) || (match d.cplNamed p with
    | some r => decide (p.addr + p.len ≤ r.len)
    | none => true)

/-- The code of the first check of R658 that a packet fails; 0 when it passes. NOT_READY and QUARANTINED come first: they refuse
every packet of their classes (log entry 56). -/
def Dev.cplCode (d : Dev) (p : CplPacket) : Nat :=
  let c := d.cplVc p
  if c ≤ 3 ∧ !d.coherent then 5
  else if c ≤ 1 ∧ d.rbit F.CPL_STATUS_QUAR c then 6
  else if !cplCarries c p.op ∨ (p.op = 0x4C ∧ 2 < p.arg % 256) then 1
  else if !cplLenOk p || !d.cplFits p then 2
  else if !d.cplAddrOk p then 3
  else if !d.cplTagOk p then 4
  else 0

/-- The CPL_VIOL field of a class. -/
def violField (c : Nat) : Fld :=
  match c with
  | 0 => F.CPL_VIOL_REQ | 1 => F.CPL_VIOL_SNP | 2 => F.CPL_VIOL_RSP | 3 => F.CPL_VIOL_DAT | _ => F.CPL_VIOL_MGT

/-- A class is quarantined (R659, R661). -/
def Dev.quarantine (d : Dev) (c : Nat) : Dev :=
  let d := ((d.wbit F.CPL_STATUS_QUAR c true).bump F.CPL_EVENTS_QUARANTINES 1).postError { cls := 1, source := 0x10, event := 0x03, inst := c }
  if c = 1 then { d with cpl := { d.cpl with cache := [] } } else d

/-- Count a violation; one too many in a Turn quarantines the class (R658, R659). -/
def Dev.countViolation (d : Dev) (c code : Nat) : Dev :=
  let d := d.bump (violField c) 1
  if 1 < c ∨ 5 ≤ code then d
  else
    let q := if c = 0 then { d.cpl with violReq := d.cpl.violReq + 1 } else { d.cpl with violSnp := d.cpl.violSnp + 1 }
    let d : Dev := { d with cpl := q }
    let n : Nat := if c = 0 then d.cpl.violReq else d.cpl.violSnp
    if d.rf F.CPL_CTL_VIOL_LIMIT < n ∧ !d.rbit F.CPL_STATUS_QUAR c then d.quarantine c else d

/-- A packet that fails a check is dropped, answered by NAK unless it is a NAK, counted and recorded (R658). -/
def Dev.violate (d : Dev) (p : CplPacket) (code : Nat) : Dev :=
  let c := d.cplVc p
  let d := d.takeCpl p
  let d := if p.op = 0x21 then d
    else
      let d := (d.sendCpl { op := 0x21, tag := p.tag, code := code, arg := c }).event 40 0x805 none 0 1
      (((d.wf F.CPL_NAK_LAST_CODE code).wf F.CPL_NAK_LAST_CLASS c).wf F.CPL_NAK_LAST_TAG p.tag).wf F.CPL_NAK_LAST_TURN d.turn
  d.countViolation c code

/-- The management class carries packets (R653); LINK_CTL is also accepted while the link trains (R640). -/
def Dev.cplHears (d : Dev) (p : CplPacket) : Bool :=
  decide (2 ≤ d.rf F.CPL_STATUS_STATE) || (decide (p.op = 0x4C) && decide (d.rf F.CPL_STATUS_STATE = 1))

/-- A packet of the companion of operation `op` is handled: checked, then acted on. -/
def Dev.onPacket (d : Dev) (op : Nat) (p : CplPacket) (f : Dev → Dev) : Dev :=
  if p.op ≠ op || !d.cplHears p then d
  else if d.cplCode p ≠ 0 then d.violate p (d.cplCode p)
  else f d

/-- BAD_OP (R658, R640): an OP that the packet's class or direction does not carry, or a LINK_CTL with SUB above 2. -/
def cmdBadOp (p : CplPacket) (d : Dev) : Dev :=
  if !d.cplHears p ∨ !(!cplCarries (d.cplVc p) p.op || decide (p.op = 0x4C) && decide (2 < p.arg % 256)) then d
  else d.violate p (d.cplCode p)

/-! ### Requests of the companion to device memory (R319, R643) -/

/-- Read [a, a + n) of the companion's device-physical space, cut at lines; none while a slice makes it wait. -/
def Dev.devRead (d : Dev) : List (Nat × Nat) → Dev × Option (List MByte)
  | [] => (d, some [])
  | (a, n) :: ps =>
    match d.devFind d.devRegions a with
    | none => (d, none)
    | some (r, o) =>
      match d.channelOf r o with
      | none => (d, none)
      | some (ch, off) =>
        match d.lineRead none (lineKey ch (off / 128)) (off % 128) n 0 with
        | (d, some bs) =>
          let (d, rest) := d.devRead ps
          (d, rest.map (bs ++ ·))
        | (d, none) => (d, none)

/-- Write the bytes of `bs`, by offset from `a0`, that fall in each line part. -/
def Dev.devWrite (d : Dev) (a0 : Nat) (bs : List (Nat × MByte)) : List (Nat × Nat) → Option Dev
  | [] => some d
  | (a, n) :: ps =>
    let mine := bs.filter (fun e => decide (a ≤ a0 + e.1) && decide (a0 + e.1 < a + n))
    match d.devFind d.devRegions a with
    | none => none
    | some (r, o) =>
      match d.channelOf r o with
      | none => none
      | some (ch, off) =>
        if mine.isEmpty then d.devWrite a0 bs ps
        else
          match d.lineWrite none (lineKey ch (off / 128)) 0 (mine.map (fun e => (off % 128 + (a0 + e.1 - a), e.2))) with
          | (d, true) => d.devWrite a0 bs ps
          | (_, false) => none

/-- CPL_RD (R643): the read is performed at the slices and answered with DATA. -/
def cmdCplRd (p : CplPacket) (d : Dev) : Dev :=
  d.onPacket 1 p (fun d =>
    let n := p.arg % 512
    match (d.takeCpl p).devRead (linesOf p.addr n) with
    | (d', some bs) => d'.sendCpl { op := 0x30, tag := p.tag, len := n, poison := bs.any (·.p), payload := bs.map (·.b) }
    | (_, none) => d)

/-- The bytes that a WR or a WR_MASK writes, by offset (R642, R643). -/
def CplPacket.written (p : CplPacket) : List (Nat × MByte) :=
  if p.op = 4 then
    let m := leNat (p.payload.take 8)
    ((p.payload.drop 8).take 64).zipIdx.filterMap (fun e => if bitAt m e.2 then some (e.2, { b := e.1, p := p.poison }) else none)
  else p.payload.zipIdx.map (fun e => (e.2, { b := e.1, p := p.poison }))

/-- A write of the companion is performed and acknowledged. -/
def Dev.cplWrites (d : Dev) (p : CplPacket) : Dev :=
  match (d.takeCpl p).devWrite p.addr p.written (linesOf p.addr p.span) with
  | some d' => d'.sendCpl { op := 0x20, tag := p.tag }
  | none => d

/-- CPL_WR (R643). -/
def cmdCplWr (p : CplPacket) (d : Dev) : Dev := d.onPacket 3 p (fun d => d.cplWrites p)

/-- CPL_WR_MASK (R643). -/
def cmdCplWrMask (p : CplPacket) (d : Dev) : Dev := d.onPacket 4 p (fun d => d.cplWrites p)

/-! ### Snoops (R650 to R652) -/

/-- SNP_INV (R650, R651): the copy is dropped, the snoop acknowledged, a Pinned line read again. -/
def cmdSnpInv (p : CplPacket) (d : Dev) : Dev :=
  d.onPacket 0x10 p (fun d =>
    let n := p.addr / 64
    let had := d.cplLine n
    let d := ((d.takeCpl p).sendCpl { op := 0x20, tag := p.tag }).event 40 0x802 none 0 1
    let reqs := d.cpl.reqs.map (fun r => if r.op = 2 ∧ r.addr / 64 = n then { r with snooped := true } else r)
    let d := { d with cpl := { d.cpl with reqs := reqs } }
    match had with
    | some l =>
      let d := (if l.used then d else d.event 40 0x803 none 0 1).setCplLine n none
      if d.pinnedLine n && !d.reading n then d.sendRead n true else d
    | none => d)

/-- Followed lines of which the module holds no copy are read (R437, R652). -/
def Dev.refollow (d : Dev) : Dev :=
  d.cpl.followed.eraseDups.foldl (fun d n =>
    if d.pinnedLine n && (d.cplLine n).isNone && !d.reading n then d.sendRead n true else d) d

/-- The last read of a followed line was bad: it stays polled (R438). -/
def Dev.badLine (d : Dev) (n : Nat) : Bool :=
  d.ctl.rings.any (fun e => (e.2.badDb && decide (d.dbLine e.1 = n)) || (e.2.badCons && decide (d.consLine e.1 = n)))
    || d.srv.any (fun v => (v.badDb && decide (v.dbLine = n)) || (v.badCons && decide (v.consLine = n)))

/-- POLL_LINE (R652, R661): a polled followed line is read again; when fewer than 8 lines of its set are Pinned it takes the freed
place. `line` is the address divided by 64. -/
def cmdPollLine (line : Nat) (d : Dev) : Dev :=
  if !d.cpl.followed.contains line || d.reading line then d
  else if d.snoopQuarantined then d.sendRead line false
  else if d.cpl.polled.contains line then
    let d := if d.badLine line then d else d.pollEnd line
    d.sendRead line (!d.cpl.polled.contains line)
  else if (d.cplLine line).isNone then d.sendRead line true
  else d

/-! ### Answers to the module's requests (R644, R645) -/

/-- A request is complete: its tag is free, and writes and reads that wait may go. -/
def Dev.cplFree (d : Dev) (r : CplReq) : Dev :=
  { d with cpl := { d.cpl with reqs := d.cpl.reqs.filter (fun x => decide (x.tag ≠ r.tag)) } }

/-- A line is delivered to the accesses that wait for it. -/
def Dev.cplDeliver (d : Dev) (r : CplReq) (bytes : List Byte) (poison : Bool) : Dev :=
  let mine (w : Waiter) : CplGot := { line := r.addr / 64, who := w, bytes := bytes, poison := poison }
  { d with cpl := { d.cpl with got := d.cpl.got ++ r.who.map mine } }

/-- An answer came too late (R645). -/
def Dev.cplLateDrop (d : Dev) (p : CplPacket) : Dev :=
  ({ d with cpl := { d.cpl with failedTags := d.cpl.failedTags.filter (· ≠ p.tag) } }).bump F.CPL_EVENTS_LATE 1

/-- A request fails (R645): a read completes with poison, a write is treated as done; a checkpoint's write is lost (R593). -/
def Dev.cplFail (d : Dev) (r : CplReq) : Dev :=
  let d := (d.cplFree r).bump F.CPL_EVENTS_FAILED 1
  let d := { d with cpl := { d.cpl with failTurn := d.cpl.failTurn + 1, failedTags := d.cpl.failedTags.filter (· ≠ r.tag) ++ [r.tag] } }
  let d := if r.op ≤ 2 then d.cplDeliver r (List.replicate 64 0) true
    else
      match d.tst.ckpt with
      | some c => if r.who.contains (.item c.item) then d.setCkpt (some { c with lost := true }) else d
      | none => d
  d.pumpCpl.srvTryAll

/-- The one record of a Turn's failures, at the Turn's end (R645, R684). -/
def Dev.postCplFails (d : Dev) : Dev :=
  if d.cpl.failTurn = 0 then d
  else ({ d with cpl := { d.cpl with failTurn := 0 } }).postError { cls := 1, source := 0x10, event := 0x04, detail0 := d.cpl.failTurn }

/-- CPL_DATA (R644, R647, R651): the line is delivered, and kept unless it was snooped or read with RD. -/
def cmdCplData (p : CplPacket) (d : Dev) : Dev :=
  d.onPacket 0x30 p (fun d =>
    let d := d.takeCpl p
    match d.cplNamed p with
    | none => d.cplLateDrop p
    | some r =>
      let n := r.addr / 64
      let d := (d.cplFree r).cplDeliver r p.payload p.poison
      let d := if r.op = 2 ∧ !r.snooped ∧ !d.snoopQuarantined then d.keepLine n p.payload p.poison else d
      let d := if r.snooped ∧ d.pinnedLine n ∧ !d.snoopQuarantined then d.sendRead n true else d
      d.pumpCpl.srvTryAll)

/-- CPL_ACK (R644): a write's tag is free. -/
def cmdCplAck (p : CplPacket) (d : Dev) : Dev :=
  d.onPacket 0x20 p (fun d =>
    let d := d.takeCpl p
    match d.cplNamed p with
    | none => d.cplLateDrop p
    | some r => (d.cplFree r).pumpCpl.srvTryAll)

/-- CPL_NAK (R645): the request fails. -/
def cmdCplNak (p : CplPacket) (d : Dev) : Dev :=
  d.onPacket 0x21 p (fun d =>
    let d := d.takeCpl p
    match d.cplNamed p with
    | none => d.cplLateDrop p
    | some r => d.cplFail r)

/-- CPL_REQUEST_TIMEOUT (R645): no answer within one Turn period of sending. -/
def cmdCplRequestTimeout (tag : Nat) (d : Dev) : Dev :=
  match d.cpl.reqs.find? (fun r => decide (r.tag = tag)) with
  | some r => if d.periodPast r.sentAt then d.cplFail r else d
  | none => d

/-! ### Set-up accesses (R654, R706 to R716) -/

/-- A set-up read is answered with SETUP_DATA; ADDR repeats the offset (log entry 57). -/
def Dev.answerRead (d : Dev) (p : CplPacket) : Dev :=
  let (d, v) := (d.takeCpl p).setupRead p.addr
  d.sendCpl { op := 0x48, tag := p.tag, len := 8, addr := p.addr, payload := leBytes 8 v }

/-- A set-up write is applied or staged and answered with RESULT; before boot stage 0x04 it is answered BUSY (R654). -/
def Dev.answerWrite (d : Dev) (p : CplPacket) : Dev :=
  let d := d.takeCpl p
  let (d, st) := if d.rf F.SEC_STATUS_STAGE < 4 then (d, 2) else d.setupWrite p.addr p.len (leNat (p.payload.take 8))
  d.sendCpl { op := 0x49, tag := p.tag, code := st }

/-- SETUP_RD (R708). -/
def cmdSetupRd (p : CplPacket) (d : Dev) : Dev := d.onPacket 0x40 p (fun d => d.answerRead p)

/-- ERR_LOG_WORD0 (R716): the read that fills the read buffer. -/
def cmdErrLogWord0 (p : CplPacket) (d : Dev) : Dev :=
  if p.addr ≠ Reg.ERR_LOG_WORD 0 then d else d.onPacket 0x40 p (fun d => d.answerRead p)

/-- SETUP_WR (R709 to R713). -/
def cmdSetupWr (p : CplPacket) (d : Dev) : Dev := d.onPacket 0x41 p (fun d => d.answerWrite p)

/-- A set-up write of one register: `ok` says which offset and value. -/
def Dev.writeRow (d : Dev) (p : CplPacket) (ok : Nat → Nat → Bool) : Dev :=
  if ok p.addr (leNat (p.payload.take 8)) then d.onPacket 0x41 p (fun d => d.answerWrite p) else d

/-- The offset is that of an element of a register's array. -/
def isReg (base off : Nat) : Bool :=
  match regFind off with
  | some (r, _) => decide (r.base = base)
  | none => false

/-- PRT_RESET (R463). -/
def cmdPrtReset (p : CplPacket) (d : Dev) : Dev := d.writeRow p (fun o _ => decide (o = Reg.PRT_RESET))
/-- ERR_FLOG_CLEAR (R579, R609). -/
def cmdErrFlogClear (p : CplPacket) (d : Dev) : Dev := d.writeRow p (fun o _ => decide (o = Reg.ERR_FLOG_CLEAR))
/-- ERR_LOG_SEL (R716). -/
def cmdErrLogSel (p : CplPacket) (d : Dev) : Dev := d.writeRow p (fun o _ => decide (o = Reg.ERR_LOG_SEL))
/-- DIGEST_SNAP (R596): a write of TST_DIG_CTL with SNAP. -/
def cmdDigestSnap (p : CplPacket) (d : Dev) : Dev := d.writeRow p (fun o v => decide (o = Reg.TST_DIG_CTL) && bitAt v 11)
/-- DIGEST_CLEAR (R596): a write of TST_DIG_CTL with CLEAR. -/
def cmdDigestClear (p : CplPacket) (d : Dev) : Dev := d.writeRow p (fun o v => decide (o = Reg.TST_DIG_CTL) && bitAt v 12)
/-- SAMPLING_RESTART (R704): a write of PMU_SAMP_CTLp with RESTART. -/
def cmdSamplingRestart (p : CplPacket) (d : Dev) : Dev := d.writeRow p (fun o v => isReg (Reg.PMU_SAMP_CTL 0) o && bitAt v 37)
/-- PMU_COUNT_WRITE (R693). -/
def cmdPmuCountWrite (p : CplPacket) (d : Dev) : Dev := d.writeRow p (fun o _ => isReg (Reg.PMU_CNT 0 0) o)
/-- PMU_SELECT (R692). -/
def cmdPmuSelect (p : CplPacket) (d : Dev) : Dev := d.writeRow p (fun o _ => isReg (Reg.PMU_SEL 0 0) o)
/-- LOOPBACK_MODE (R384). -/
def cmdLoopbackMode (p : CplPacket) (d : Dev) : Dev := d.writeRow p (fun o _ => isReg (Reg.HBM_LOOP 0) o)
/-- THERM_LEVEL (R43, R735): a write of TRN_CTRL. -/
def cmdThermLevel (p : CplPacket) (d : Dev) : Dev := d.writeRow p (fun o _ => decide (o = Reg.TRN_CTRL))
/-- FAB_JOBSTOP (R527). -/
def cmdFabJobstop (p : CplPacket) (d : Dev) : Dev := d.writeRow p (fun o _ => decide (o = Reg.FAB_JOBSTOP))

/-! ### Commands of the management channel (R655, R656) -/

/-- A command's RESULT. -/
def Dev.cplResult (d : Dev) (p : CplPacket) (status addr : Nat) : Dev :=
  d.sendCpl { op := 0x49, tag := p.tag, code := status, arg := p.arg % 256, addr := addr }

/-- No earlier command waits: commands execute one at a time, in arrival order (R656). -/
def Dev.cmdFirst (d : Dev) (p : CplPacket) : Bool :=
  match (d.linkOf 6).rxCpl.find? (fun e => decide (e.1 = 4) && decide (e.2.op = 0x42)) with
  | some e => decide (e.2 = p)
  | none => true

/-- A CMD of command code `c` is executed; the packet has been taken when `f` runs. -/
def Dev.onCommand (d : Dev) (c : Nat) (p : CplPacket) (f : Dev → Dev) : Dev :=
  if p.arg % 256 = c ∧ d.cmdFirst p then d.onPacket 0x42 p (fun d => f (d.takeCpl p)) else d

/-- A command at a boot stage, or after a trip, where the manual states no answer to it: the status is free, nothing else happens (log entry 58). -/
def Dev.answerOpen (d : Dev) (p : CplPacket) : Dev := d.tick.cplResult p (Config.freeNat 58 d.fresh % 256) 0

/-- RESERVED_COMMAND (R658): a reserved command code is answered RESULT UNKNOWN and counted. -/
def cmdReservedCommand (p : CplPacket) (d : Dev) : Dev :=
  if p.op ≠ 0x42 ∨ knownCommand (p.arg % 256) ∨ !d.cplHears p ∨ !d.cmdFirst p then d
  else if d.cplCode p ≠ 0 then d.violate p (d.cplCode p)
  else ((d.takeCpl p).cplResult p 8 0).countViolation 4 1

/-- LINK_COHERENT (R653): the coherent classes open, once the module has reported boot stage 0x05. -/
def cmdLinkCoherent (p : CplPacket) (d : Dev) : Dev :=
  d.onCommand 0x01 p (fun d =>
    if d.rf F.SEC_STATUS_STAGE < 5 ∨ d.pwr.cause ≠ 0 then d.answerOpen p
    else ((d.wf F.CPL_STATUS_STATE 3).cplResult p 0 0).refollow.pumpCpl.srvTryAll)

/-- RELEASE (R659): quarantine of the named classes ends. -/
def cmdRelease (p : CplPacket) (d : Dev) : Dev :=
  d.onCommand 0x02 p (fun d =>
    if d.rf F.SEC_STATUS_STAGE < 4 ∨ d.pwr.cause ≠ 0 then d.answerOpen p
    else ((d.wf F.CPL_STATUS_QUAR (d.rf F.CPL_STATUS_QUAR &&& (3 - p.addr % 4))).cplResult p 0 0).refollow)

/-! ### Width changes of the Companion Link (R640) -/

/-- LINK_CTL_WIDTH_CHANGE: the peer names the lane groups to be in service; this end answers and changes width. -/
def cmdLinkCtlWidthChange (p : CplPacket) (d : Dev) : Dev :=
  if p.arg % 256 ≠ 1 then d
  else d.onPacket 0x4C p (fun d =>
    let d := d.takeCpl p
    let g := bitsAt p.arg 8 4
    let l := d.linkOf 6
    if d.rf F.CPL_STATUS_STATE < 2 then d
    else
      let seq := l.txNext
      let d := d.sendLinkCtl 2 g seq
      let d := d.setLink 6 { d.linkOf 6 with groupsPeer := g, widthAtTx := some (seq, g), widthAtRx := some (p.addr % 4096, g) }
      if (d.linkOf 6).groups = 0 then d.cplDown else d.cplShowWidth)

/-- LINK_CTL_WIDTH_ANSWER: the answer to this end's width change arrives, and the width changes at the named flits. -/
def cmdLinkCtlWidthAnswer (p : CplPacket) (d : Dev) : Dev :=
  if p.arg % 256 ≠ 2 then d
  else d.onPacket 0x4C p (fun d =>
    let d := d.takeCpl p
    let g := bitsAt p.arg 8 4
    if d.cpl.widthAsked ≠ some g then d
    else
      let d := d.setLink 6 { d.linkOf 6 with widthAtRx := some (p.addr % 4096, g) }
      ({ d with cpl := { d.cpl with widthAsked := none } }).cplShowWidth)

end Sys2Proof.Machine
end

