-- ==== Sys2Proof/Machine/Boot.lean ====
section
/-!
DEFINITION. Machine/Boot.lean: start-up on the management channel (R662 to R666), firmware images (R663, R664, R668, R669), pattern
packs (R603, R604, R670), identity and attestation (R679 to R683), configuration generations and their store (R671 to R678).
-/
namespace Sys2Proof.Machine

/-- A byte string cut or filled with zeros to n bytes. -/
def fit (n : Nat) (bs : List Byte) : List Byte := (bs ++ List.replicate n 0).take n

/-- Byte string part [o, o + n). -/
def slice (bs : List Byte) (o n : Nat) : List Byte := (bs.drop o).take n

/-- Eight registers take the words of a 512-bit number (R686). -/
def Dev.setWords (d : Dev) (f : Nat → Fld) (v : Nat) : Dev := (List.range 8).foldl (fun d k => d.wf (f k) (v / 2 ^ (64 * k))) d

/-- The 64 bytes that eight word registers hold. -/
def Dev.wordBytes (d : Dev) (f : Nat → Fld) : List Byte := (List.range 8).flatMap (fun k => leBytes 8 (d.rf (f k)))

/-- An EVENT notice (R657). -/
def Dev.notice (d : Dev) (arg addr : Nat) : Dev := d.sendCpl { op := 0x4B, arg := arg, addr := addr }

/-- A boot stage is reached and reported (R657, R686). -/
def Dev.bootStage (d : Dev) (n : Nat) : Dev := (d.wf F.SEC_STATUS_STAGE n).notice 1 n

/-! ### Images (R663, R664, R668, R669) -/

/-- The outcome of the checks of R663. -/
inductive ImageCheck
  | ok (payload : Nat)
  /-- the format or a length fails -/
  | format
  /-- the key hash or the signature fails -/
  | signature
deriving DecidableEq, Repr

/-- The checks of R663 on an image's bytes. -/
def checkImage (bs : List Byte) : ImageCheck :=
  let n := 0xAA0 + leNat (slice bs 0xC 4)
  if leNat (slice bs 0 4) ≠ 0x4E544657 ∨ leNat (slice bs 4 4) ≠ 1 then .format
  else if 1572864 < leNat (slice bs 0xC 4) ∨ leNat (slice bs 0xC 4) % 16 ≠ 0 ∨ bs.length < n + 4627 then .format
  else if Config.sha3_512 (slice bs 0x40 2592) ≠ Config.romKeyHash then .signature
  else if Config.mldsaVerify (slice bs 0x40 2592) (leBytes 64 (Config.sha3_512 (bs.take n))) (slice bs n 4627) then .ok (leNat (slice bs 0xC 4))
  else .signature

/-- The bytes of the flash's image slot. -/
def Dev.flashImage (d : Dev) : List Byte := d.flash.image.getD Config.shippedImage

/-- The pattern-pack key hash that the running image carries (R603, R668). -/
def Dev.packKeyHash (d : Dev) : List Byte := slice d.boot.running 0xA60 64

/-! ### Pattern packs (R603, R604) -/

/-- Replace a pack slot. -/
def Dev.setPack (d : Dev) (slot : Nat) (s : PackSlot) : Dev :=
  if slot = 0 then { d with flash := { d.flash with pack0 := some s } } else { d with flash := { d.flash with pack1 := some s } }

/-- The slot holds a valid pack. -/
def Dev.packOk (d : Dev) (slot : Nat) : Bool := Config.packValid d.packKeyHash (d.packBytes slot)

/-- The version of the pack in a slot: 32 bits. -/
def Dev.packVer (d : Dev) (slot : Nat) : Nat := Config.packVersion (d.packBytes slot) % 2 ^ 32

/-- A pack becomes the active one (R604): TST_PACK shows it. -/
def Dev.activatePack (d : Dev) (slot : Option Nat) : Dev :=
  let d := { d with boot := { d.boot with packActive := slot, packDue := none } }
  match slot with
  | some k => ((d.wf F.TST_PACK_VERSION (d.packVer k)).wf F.TST_PACK_SLOT k).wb F.TST_PACK_VALID true
  | none => d

/-- The valid pack of the higher version (R603). -/
def Dev.bestPack (d : Dev) : Option Nat :=
  match d.packOk 0, d.packOk 1 with
  | true, true => some (if d.packVer 0 < d.packVer 1 then 1 else 0)
  | true, false => some 0
  | false, true => some 1
  | false, false => none

/-! ### Identity (R679 to R682) -/

/-- The seed of the identity key: bytes 0 to 31 of SHA3-512 over 0x49, 0x44 and K (R679). -/
def identitySeed : Nat := Config.sha3_512 ([0x49, 0x44] ++ fit 32 Config.pufSecret) % 2 ^ 256

/-- The identity public key (R679). -/
def identityPublic (seed : Nat) : List Byte := fit 2592 (Config.identityKey seed)

/-- The identity key is derived, or the module has none (R679, R682). -/
def Dev.deriveIdentity (d : Dev) : Dev :=
  if Config.identityRecordValid && decide (Config.sha3_512 (fit 32 Config.pufSecret) = Config.identityCheck) then
    (({ d with boot := { d.boot with seed := some identitySeed } }).wb F.SEC_STATUS_IDENTITY true).setWords
      F.SEC_ID_HASH_WORD (Config.sha3_512 (identityPublic identitySeed))
  else d.postError { cls := 1, source := 0x13, event := 0x01 }

/-! ### Start-up (R662) -/

/-- Step 4: the firmware of a verified image starts. It derives the identity, posts the boot outcome, starts the Turn generator and
reports stage 0x04; the stacks begin to train (R380). -/
def Dev.firmwareStart (d : Dev) (bs : List Byte) (payload : Nat) (recovery : Bool) : Dev :=
  let d := { d with boot := { d.boot with running := bs, image := none } }
  let d := (d.setWords F.SEC_FW_MEAS_WORD (Config.sha3_512 (bs.take (0xAA0 + payload)))).wf F.SEC_STATUS_FW_VERSION (leNat (slice bs 8 4))
  let d := (d.wb F.SEC_STATUS_RECOVERY recovery).deriveIdentity
  let d := if d.boot.rejected then d.postError { cls := 1, source := 0x11, event := 0x01 } else d
  let d := if recovery then d.postError { cls := 0, source := 0x11, event := 0x02 } else d
  let d := d.activatePack d.bestPack
  let d := { d with ctl := { d.ctl with boundaryAt := d.time + d.rf F.TRN_PERIOD_ACTIVE_NS }, tst := { d.tst with since := d.time } }
  let d : Dev := (List.range 8).foldl (fun (d : Dev) s => d.wf (F.HBM_STATUS_STATE s) 1) d
  d.bootStage 4

/-- Steps 2 and 3: the link is trained; the boot ROM reports stage 0x01 and verifies the flash image (R662, R663). -/
def Dev.bootRom (d : Dev) : Dev :=
  let d := d.bootStage 1
  match (if Config.flashFound then checkImage d.flashImage else .format) with
  | .ok n => d.firmwareStart d.flashImage n false
  | _ => ({ d with boot := { d.boot with rejected := true } }).bootStage 2

/-- LINK_CTL_GROUPS (R640, R653): the peer's healthy lane groups arrive and the width is set; the management class opens. The first
training after reset goes on to the boot ROM's next step. -/
def cmdLinkCtlGroups (p : CplPacket) (d : Dev) : Dev :=
  if p.arg % 256 ≠ 0 then d
  else d.onPacket 0x4C p (fun d =>
    let d := d.takeCpl p
    let l := d.linkOf 6
    if l.step = 0 then d
    else
      let d := d.setLink 6 { l with groupsPeer := bitsAt p.arg 8 4 }
      if (d.linkOf 6).groups = 0 then d.cplDown
      else if 2 ≤ d.rf F.CPL_STATUS_STATE then d.cplShowWidth
      else
        let d := ((d.wf F.CPL_STATUS_STATE 2).cplShowWidth.wf F.CPL_STATUS_QUAR 0).bump F.CPL_STATUS_LINKUPS 1
        if d.rf F.SEC_STATUS_STAGE = 0 then d.bootRom else d)

/-- Step 6: stage 0x05 is reported once the built-in test and the training of every stack have ended (R662). -/
def Dev.startReady (d : Dev) : Dev :=
  if d.rf F.SEC_STATUS_STAGE = 4 && d.boot.tested && decide (d.boot.trained = 255) then d.bootStage 5 else d

/-! ### Transfers (R656, R664, R669, R670) -/

/-- Bytes arrive at an offset of a transfer. -/
def Upload.put (u : Upload) (o : Nat) (bs : List Byte) : Upload :=
  { u with beyond := u.beyond || decide (u.len < o + bs.length),
           got := bs.zipIdx.foldl (fun m e => if o + e.2 < u.len then SMap.set (fun _ => none) m (o + e.2) (some e.1) else m) u.got }

/-- Every byte below the announced length was received and none beyond it (R656). -/
def Upload.whole (u : Upload) : Bool := !u.beyond && decide (u.got.length = u.len)

/-- The received bytes. -/
def Upload.bytes (u : Upload) : List Byte := u.got.filterMap (·.2)

/-- The slot a new pack is written to: the one that is not active (R604). -/
def Dev.inactiveSlot (d : Dev) : Nat := if d.boot.packActive = some 0 then 1 else 0

/-- Bytes of a pack slot of the flash: 4 MiB (R667). -/
def packSlotBytes : Nat := 0x400000

/-- BLOCK (R656, R664, R670): bytes of the image or the pack under transfer; those of a pack are written to the inactive slot. -/
def cmdBlock (p : CplPacket) (d : Dev) : Dev :=
  d.onPacket 0x43 p (fun d =>
    let d := d.takeCpl p
    match d.boot.image, d.boot.pack with
    | some u, _ => { d with boot := { d.boot with image := some (u.put p.addr p.payload) } }
    | none, some u =>
      let u := u.put p.addr p.payload
      let mem := u.got.filterMap (fun e => e.2.map (fun b => (e.1, b)))
      ({ d with boot := { d.boot with pack := some u } }).setPack d.inactiveSlot { len := min u.len packSlotBytes, bytes := mem.filter (fun e => decide (e.1 < packSlotBytes) && decide (e.2 ≠ 0)) }
    | none, none => d)

/-- IMG_BEGIN (R664). -/
def cmdImgBegin (p : CplPacket) (d : Dev) : Dev :=
  d.onCommand 0x10 p (fun d =>
    if 0x200000 < p.addr then d.cplResult p 1 0
    else ({ d with boot := { d.boot with image := some { len := p.addr }, pack := none } }).cplResult p 0 0)

/-- The firmware writes a verified image to the flash and reads it back (R669): `ok` says that the slot reads back as written. -/
def Dev.writeImage (d : Dev) (p : CplPacket) (bs : List Byte) (ok : Bool) : Dev :=
  if ok then
    (({ d with flash := { d.flash with image := some bs } }).postError
      { cls := 0, source := 0x11, event := 0x03, detail0 := leNat (slice bs 8 4) }).cplResult p 0 0
  else
    (({ d.tick with flash := { d.flash with image := some (Config.flashGarbage d.fresh) } }).postError
      { cls := 1, source := 0x11, event := 0x04 }).cplResult p 7 0

/-- A verified image at IMG_END: while the boot ROM waits it runs as recovery; with ADDR[0] it is written to the flash (R664, R669). -/
def Dev.imgVerified (d : Dev) (p : CplPacket) (bs : List Byte) (payload : Nat) (flashOk : Bool) : Dev :=
  let waits := decide (d.rf F.SEC_STATUS_STAGE < 4)
  if p.addr % 2 = 0 then
    let d := d.cplResult p 0 0
    if waits then d.firmwareStart bs payload true else d
  else (if waits then d.firmwareStart bs payload true else d).writeImage p bs flashOk

/-- An image that fails: the boot ROM waits again (R664). -/
def Dev.imgFailed (d : Dev) (p : CplPacket) (status : Nat) : Dev :=
  let d := d.cplResult p status 0
  if d.rf F.SEC_STATUS_STAGE < 4 then d.bootStage 3 else d

/-- IMG_END (R656, R664, R669): the received image is verified, run as recovery, or written to flash. -/
def cmdImgEnd (p : CplPacket) (flashOk : Bool) (d : Dev) : Dev :=
  d.onCommand 0x11 p (fun d =>
    let u := d.boot.image.getD { len := 0 }
    let d := { d with boot := { d.boot with image := none } }
    if !u.whole then d.imgFailed p 1
    else
      match checkImage u.bytes with
      | .ok n => d.imgVerified p u.bytes n flashOk
      | .format => d.imgFailed p 1
      | .signature => d.imgFailed p 3)

/-- PACK_BEGIN (R670): the inactive slot is erased for the new pack. -/
def cmdPackBegin (p : CplPacket) (d : Dev) : Dev :=
  d.onCommand 0x18 p (fun d =>
    if d.rf F.SEC_STATUS_STAGE < 4 then d.answerOpen p
    else
      let d := { d with boot := { d.boot with pack := some { len := p.addr }, image := none, packDue := none } }
      (d.setPack d.inactiveSlot { len := 0, bytes := [] }).cplResult p 0 0)

/-- A pack that fails a check leaves the active one unchanged (R604). -/
def Dev.packFails (d : Dev) (p : CplPacket) (status : Nat) : Dev :=
  (d.postError { cls := 1, source := 0x0B, event := 0x03 }).cplResult p status 0

/-- PACK_END (R604, R670): the slot's contents are checked; an installed pack becomes active at the next boundary. `flashOk` says
that the slot reads back as written. -/
def cmdPackEnd (p : CplPacket) (flashOk : Bool) (d : Dev) : Dev :=
  d.onCommand 0x19 p (fun d =>
    if d.rf F.SEC_STATUS_STAGE < 4 then d.answerOpen p
    else
      let u := d.boot.pack.getD { len := 0, beyond := true }
      let d := { d with boot := { d.boot with pack := none } }
      let k := d.inactiveSlot
      let newer := match d.boot.packActive with
        | some a => decide (d.packVer a < d.packVer k)
        | none => true
      if !u.whole ∨ packSlotBytes < u.len then d.packFails p 1
      else if !d.packOk k then d.packFails p 3
      else if !newer then d.packFails p 6
      else if !flashOk then
        let bs := Config.flashGarbage d.fresh
        (d.tick.setPack k { len := bs.length, bytes := bs.zipIdx.map (fun e => (e.2, e.1)) |>.filter (fun e => decide (e.2 ≠ 0)) }).packFails p 7
      else ({ d with boot := { d.boot with packDue := some k } }).cplResult p 0 0)

/-- At the boundary an installed pack becomes active, and a record says so (R604). -/
def Dev.packBoundary (d : Dev) : Dev :=
  match d.boot.packDue with
  | some k => (d.activatePack (some k)).postError { cls := 0, source := 0x0B, event := 0x02 }
  | none => d

/-! ### Identity and attestation (R681 to R683) -/

/-- Bytes leave as BLOCK_OUT packets of at most 256 bytes (R654). -/
def Dev.blockOut (d : Dev) (p : CplPacket) (bs : List Byte) : Dev :=
  (chunks 256 bs.length bs).zipIdx.foldl (fun d c =>
    d.sendCpl { op := 0x4A, tag := p.tag, len := c.1.length, addr := 256 * c.2, payload := c.1 }) d

/-- Bytes 0 to 2,911 of the attestation report (R683). -/
def Dev.report (d : Dev) (seed : Nat) (nonce : List Byte) : List Byte :=
  let pack := match d.boot.packActive with
    | some k => leBytes 64 (Config.packDigest (d.packBytes k))
    | none => List.replicate 64 0
  leBytes 4 1
    ++ leBytes 4 (d.rf F.SEC_STATUS_RECOVERY + 2 * d.rf F.SEC_CFG_STAT_TRIAL + 4 * d.rf F.SEC_STATUS_STORE_FAULT + 8 * b2n d.boot.packActive.isNone)
    ++ leBytes 8 Config.serial ++ leBytes 8 d.time ++ leBytes 4 d.turn ++ leBytes 4 (d.rf F.SEC_STATUS_FW_VERSION)
    ++ leBytes 4 (d.rf F.SEC_CFG_GEN_CURRENT) ++ leBytes 4 (d.rf F.TST_PACK_VERSION) ++ List.replicate 24 0
    ++ fit 64 nonce ++ d.wordBytes F.SEC_FW_MEAS_WORD ++ d.wordBytes F.SEC_CFG_MEAS_WORD ++ pack ++ identityPublic seed

/-- The report with its signature: 7,539 bytes. -/
def Dev.signedReport (d : Dev) (seed : Nat) (nonce : List Byte) : List Byte :=
  let r := d.report seed nonce
  r ++ fit 4627 (Config.mldsaSign seed (leBytes 64 (Config.sha3_512 r)))

/-- ATTEST (R682, R683). -/
def cmdAttest (p : CplPacket) (d : Dev) : Dev :=
  d.onCommand 0x30 p (fun d =>
    if d.rf F.SEC_STATUS_STAGE < 4 then d.answerOpen p
    else
      match d.boot.seed with
      | none => d.cplResult p 5 0
      | some s => (d.cplResult p 0 7539).blockOut p (d.signedReport s p.payload))

/-- The public key, SERIAL and CERT: 7,227 bytes (R681). -/
def identityRecord (seed : Nat) : List Byte := identityPublic seed ++ leBytes 8 Config.serial ++ fit 4627 Config.identityCert

/-- ID_GET (R681, R682). -/
def cmdIdGet (p : CplPacket) (d : Dev) : Dev :=
  d.onCommand 0x31 p (fun d =>
    if d.rf F.SEC_STATUS_STAGE < 4 then d.answerOpen p
    else
      match d.boot.seed with
      | none => d.cplResult p 5 0
      | some s => (d.cplResult p 0 7227).blockOut p (identityRecord s))

/-! ### Configuration generations (R671 to R678) -/

/-- Word k of a blob. -/
def blobWord (bs : List Byte) (k : Nat) : Nat := leNat (slice bs (8 * k) 8)

/-- A blob that obeys R671 as R672 checks it, its generation apart. -/
def parseBlob (bs : List Byte) : Option Blob :=
  let w0 := blobWord bs 0
  let w1 := blobWord bs 1
  let n := bitsAt w1 32 32
  let len := 128 + 16 * n
  let recs := (List.range n).map (fun i => (blobWord bs (8 + 2 * i), BitVec.ofNat 64 (blobWord bs (9 + 2 * i))))
  let known (o : Nat) : Bool := match regFind o with
    | some (r, _) => decide (r.mask .rw ≠ 0)
    | none => false
  let meas := leNat (slice bs (len - 64) 64)
  if bitsAt w0 0 32 = 1 ∧ bitsAt w0 32 32 = len ∧ 1 ≤ n ∧ n ≤ 4088 ∧ len ≤ bs.length
      ∧ blobWord bs 2 < 16 ∧ (List.range 5).all (fun k => decide (blobWord bs (3 + k) = 0))
      ∧ recs.all (fun e => decide (e.1 < 0x4000000) && known e.1) ∧ meas = Config.sha3_512 (bs.take (len - 64))
  then some { gen := bitsAt w1 0 32, health := blobWord bs 2, recs := recs, meas := meas }
  else none

/-- The generation is neither 0 nor the current nor the previous one (R672). -/
def Dev.newGeneration (d : Dev) (g : Nat) : Bool :=
  decide (g ≠ 0) && decide (g ≠ d.rf F.SEC_CFG_GEN_CURRENT)
    && !(d.rb F.SEC_CFG_STAT_PREV_VALID && decide (g = d.rf F.SEC_CFG_GEN_PREVIOUS))

/-- CFG_STAGE (R15, R672): the blob at ADDR is read over the coherent link, checked and staged. `blob` is what the read returned,
`bad` says that it returned poison or failed. -/
def cmdCfgStage (p : CplPacket) (blob : List Byte) (bad : Bool) (d : Dev) : Dev :=
  d.onCommand 0x20 p (fun d =>
    if d.rf F.SEC_STATUS_STAGE < 4 then d.answerOpen p
    else if !d.coherent ∨ d.rb F.SEC_CFG_STAT_TRIAL ∨ d.rb F.SEC_CFG_STAT_RETURN_STAGED then d.cplResult p 2 0
    else
      let g := if bad then 0 else bitsAt (blobWord blob 1) 0 32
      match (if bad then none else parseBlob blob) with
      | none => d.cplResult p 1 g
      | some b =>
        if !d.newGeneration b.gen then d.cplResult p 1 g
        else
          let d := if d.cfg.staged.isSome then d.wb F.TRN_STATUS_COMMIT_REPLACED true else d
          let d := { d with cfg := { d.cfg with staged := some b } }
          ((d.wf F.SEC_CFG_STAT_STAGED b.gen).wb F.SEC_CFG_STAT_STAGED_VALID true).cplResult p 0 b.gen)

/-- A staged blob is discarded. -/
def Dev.unstage (d : Dev) : Dev := ({ d with cfg := { d.cfg with staged := none } }).wb F.SEC_CFG_STAT_STAGED_VALID false

/-- CFG_RETURN (R678). -/
def cmdCfgReturn (p : CplPacket) (d : Dev) : Dev :=
  d.onCommand 0x21 p (fun d =>
    if d.rf F.SEC_STATUS_STAGE < 4 then d.answerOpen p
    else if !d.rb F.SEC_CFG_STAT_PREV_VALID then d.cplResult p 4 0
    else
      let d := if d.rb F.SEC_CFG_STAT_RETURN_STAGED then d else { d with cfg := { d.cfg with failed := none } }
      (d.unstage.wb F.SEC_CFG_STAT_RETURN_STAGED true).cplResult p 0 (d.rf F.SEC_CFG_GEN_PREVIOUS))

/-- CFG_CONFIRM (R676). -/
def cmdCfgConfirm (p : CplPacket) (d : Dev) : Dev :=
  d.onCommand 0x22 p (fun d =>
    if d.rf F.SEC_STATUS_STAGE < 4 then d.answerOpen p
    else (if d.rb F.SEC_CFG_STAT_TRIAL then d.wb F.SEC_CFG_STAT_CONFIRMED true else d).cplResult p 0 0)

/-- Fabric ports that run. -/
def Dev.runningPorts (d : Dev) : Nat := partsMask ((List.range 6).filter d.portRunning)

/-- The records of a blob or the values of a return, in order. -/
def Dev.applyRecs (d : Dev) (recs : List (Nat × Word)) : Dev :=
  let d := recs.foldl (fun d e => d.applyRec e.1 e.2.toNat) d
  { d with cfg := { d.cfg with applied := d.cfg.applied ++ recs.map (·.1) } }

/-- The trial's fields. -/
def Dev.setTrial (d : Dev) (on : Bool) (left : Nat) : Dev := (d.wb F.SEC_CFG_STAT_TRIAL on).wf F.SEC_CFG_STAT_TRIAL_LEFT left

/-- A staged generation is committed (R673): its predecessor is the generation that was current, the trial begins, and a first
commit asks for the reset of every partition (R662 step 8). -/
def Dev.commit (d : Dev) (b : Blob) : Dev :=
  let undo := (b.recs.map (·.1)).eraseDups.map (fun o => (o, d.reg o))
  let first := !d.rb F.CFG_STATUS_FIRST_COMMIT
  let prev := d.rf F.SEC_CFG_GEN_CURRENT
  let d := d.unstage.applyRecs b.recs
  let d := { d with cfg := { d.cfg with current := some b, previous := if d.cfg.lost then none else d.cfg.current, undo := undo,
                                        lost := false, fatalsAt := d.err.fatals, portsAt := d.runningPorts } }
  let d := ((d.wf F.SEC_CFG_GEN_CURRENT b.gen).wf F.SEC_CFG_GEN_PREVIOUS prev).setWords F.SEC_CFG_MEAS_WORD b.meas
  let d := ((d.setTrial true 64).wb F.SEC_CFG_STAT_CONFIRMED false).wf F.SEC_CFG_STAT_HEALTH b.health
  let d := (d.wb F.CFG_STATUS_FIRST_COMMIT true).postError { cls := 0, source := 0x12, event := 0x01, detail0 := b.gen }
  if first then { d with ctl := { d.ctl with resetReq := d.ctl.resetReq ||| (2 ^ d.parts - 1) } } else d

/-- The commit and what it says of a previous generation: none when the current blob had been lost (R675). -/
def Dev.commitStaged (d : Dev) (b : Blob) : Dev :=
  let lost := d.cfg.lost
  (d.commit b).wb F.SEC_CFG_STAT_PREV_VALID (!lost)

/-- A return takes effect (R677). -/
def Dev.doReturn (d : Dev) : Dev :=
  let left := d.rf F.SEC_CFG_GEN_CURRENT
  let p := d.cfg.previous
  let recs := (p.map (·.recs)).getD []
  let rest := d.cfg.undo.filter (fun e => !(recs.map (·.1)).contains e.1)
  let gen := d.rf F.SEC_CFG_GEN_PREVIOUS
  let failed := d.cfg.failed
  let d := (d.applyRecs recs).applyRecs rest
  let d := { d with cfg := { d.cfg with current := p, previous := none, undo := [], lost := false, failed := none } }
  let d := ((d.wf F.SEC_CFG_GEN_CURRENT gen).wf F.SEC_CFG_GEN_PREVIOUS 0).setWords F.SEC_CFG_MEAS_WORD ((p.map (·.meas)).getD 0)
  let d := ((d.setTrial false 0).wb F.SEC_CFG_STAT_PREV_VALID false).wb F.SEC_CFG_STAT_RETURN_STAGED false
  let d := ((d.wf F.SEC_CFG_STAT_HEALTH ((p.map (·.health)).getD 0)).wb F.SEC_CFG_STAT_CONFIRMED false).notice 3 gen
  d.postError (match failed with
    | some b => { cls := 1, source := 0x12, event := 0x02, detail0 := left, detail1 := b }
    | none => { cls := 0, source := 0x12, event := 0x03, detail0 := left })

/-- The first check of HEALTH that fails at this boundary (R676): bit 3 is evaluated at the last one only. -/
def Dev.healthFails (d : Dev) (last : Bool) : Option Nat :=
  let h := d.rf F.SEC_CFG_STAT_HEALTH
  if bitAt h 0 && decide (d.err.fatals ≠ d.cfg.fatalsAt) then some 0
  else if bitAt h 1 && decide (d.runningPorts &&& d.cfg.portsAt ≠ d.cfg.portsAt) then some 1
  else if bitAt h 2 && d.rb F.TRN_STATUS_HOLDOVER then some 2
  else if bitAt h 3 && last && !d.rb F.SEC_CFG_STAT_CONFIRMED then some 3
  else none

/-- A boundary of the trial (R676): it goes on, passes, or fails and stages a return. -/
def Dev.trialBoundary (d : Dev) : Dev :=
  if !d.rb F.SEC_CFG_STAT_TRIAL then d
  else
    let left := d.rf F.SEC_CFG_STAT_TRIAL_LEFT - 1
    match d.healthFails (decide (left = 0)) with
    | some b =>
      let d := d.setTrial false 0
      if d.rb F.SEC_CFG_STAT_PREV_VALID then
        ({ d with cfg := { d.cfg with failed := some b } }).wb F.SEC_CFG_STAT_RETURN_STAGED true
      else d
    | none => if left = 0 ∨ d.rb F.SEC_CFG_STAT_CONFIRMED then d.setTrial false 0 else d.setTrial true left

/-- The configuration generations at a boundary (R673, R676, R677): a return, or a commit, or a boundary of the trial. -/
def Dev.cfgBoundary (d : Dev) : Dev :=
  if d.rb F.SEC_CFG_STAT_RETURN_STAGED then d.doReturn
  else
    match d.cfg.staged with
    | some b => d.commitStaged b
    | none => d.trialBoundary

/-- CONFIG_STORE_CHECK (R675): the store's complements are checked; `where_` 0 no mismatch, 1 in the previous blob or the undo list,
2 in the current blob. -/
def cmdConfigStoreCheck (where_ : Nat) (d : Dev) : Dev :=
  if d.rf F.SEC_STATUS_STAGE < 4 ∨ where_ = 0 then d
  else
    let d := (d.wb F.SEC_STATUS_STORE_FAULT true).postError { cls := 1, source := 0x12, event := 0x04 }
    if where_ = 1 then
      let d := { d with cfg := { d.cfg with previous := none, undo := [] } }
      ((d.wb F.SEC_CFG_STAT_PREV_VALID false).wf F.SEC_CFG_GEN_PREVIOUS 0).wb F.SEC_CFG_STAT_RETURN_STAGED false
    else { d with cfg := { d.cfg with current := none, lost := true } }

end Sys2Proof.Machine
end

