-- ==== Sys2Proof/Machine/Part.lean ====
section
/-!
DEFINITION. Machine/Part.lean: partition resets and layout changes (R112, R116, R321, R322, R362, R377 to R379, R462 to R467, R742,
R743), the compute set (R605, R606), and the ends of start-up's built-in test and HBM training (R380, R381, R662).
-/
namespace Sys2Proof.Machine

/-! ### Shares of a layout -/

/-- The units [first, first + count) as a mask. -/
def maskOf (first count : Nat) : Nat := (2 ^ count - 1) * 2 ^ first

/-- Column groups of partition p (R112). -/
def colsOf (layout p : Nat) : Nat := if layout = 0 then maskOf 0 128 else maskOf (64 * (p % 2)) 64

/-- Spools of partition p (R229). -/
def spoolsOf (layout p : Nat) : Nat := maskOf (256 / 2 ^ layout * p) (256 / 2 ^ layout)

/-- Press lane groups of partition p (R188, R600). -/
def pressOf (layout p : Nat) : Nat := maskOf (4 / 2 ^ layout * p) (4 / 2 ^ layout)

/-- Scratchpad banks of partition p (R306). -/
def banksOf (layout p : Nat) : Nat := maskOf (512 / 2 ^ layout * p) (512 / 2 ^ layout)

/-- The units of `m` that are not in `x`. -/
def without (m x : Nat) : Nat := m - (m &&& x)

/-! ### The compute set (R605, R606) -/

/-- Partition p of a layout has the compute set: a healthy column group, the Press, 16 Spools, half its scratchpad banks, and a stack
with 16 healthy channels (log entry 59). -/
def Dev.computeSet (d : Dev) (layout p : Nat) : Bool :=
  decide (without (colsOf layout p) d.tst.badStones ≠ 0)
    && decide (pressOf layout p &&& d.tst.pressDead = 0)
    && decide (16 ≤ popcount 256 (without (spoolsOf layout p) d.tst.badSpools))
    && decide (2 * popcount 512 (banksOf layout p &&& d.tst.badBanks) ≤ 512 / 2 ^ layout)
    && (stacksOf layout p).any (fun s => decide (16 ≤ d.rf (F.HBM_STATUS_HEALTHY s)))

/-- Some layout has a partition that meets the compute set. -/
def Dev.someLayout (d : Dev) : Bool := (List.range 3).any (fun l => (List.range (2 ^ l)).any (d.computeSet l))

/-- The check at a partition reset (R606). The code of the compute service is not given: a free value (log entry 4). -/
def Dev.checkCompute (d : Dev) (p : Nat) : Dev :=
  let ok := d.computeSet d.layout p
  let m := d.tst.serviceOnly
  let d := { d with tst := { d.tst with serviceOnly := if ok then without m (2 ^ p) else m ||| 2 ^ p } }
  let d := if ok then d else d.postError { cls := 1, source := 0x0D, event := 0x02, inst := p, parts := 2 ^ p }
  if d.someLayout then d
  else (d.wb F.ERR_STATUS_DEGRADED true).tick.postError
    { cls := 4, source := 0x0D, event := 0x01, inst := Config.freeNat 59 d.fresh % 256 }

/-! ### Steps 1 and 2: the partition is halted (R464, R743) -/

/-- Every ring of a partition is disabled. -/
def Dev.disableRings (d : Dev) (p : Nat) : Dev :=
  (List.range 64).foldl (fun d r =>
    let n := ringIndex p r
    let d := d.wb (F.QUE_RCTL_ENABLE n) false
    if d.rb (F.QUE_RSTAT_ACTIVE n) then d.disableRing n else d) d

/-- The partition's work ends with JOB_STOPPED, its rings are disabled, its sub-array's dressing record is dropped (R464, R106). -/
def Dev.haltPart (d : Dev) (p : Nat) : Dev :=
  let d := (((d.srvKill p).killAll (fun it => decide (it.part = p)) 0x30).closeFaults p).disableRings p
  let d := d.setSub p {}
  { d with ctl := { d.ctl with prioStart := SMap.clearIf (fun k => decide (k / 4 = p)) d.ctl.prioStart } }

/-- A reset of partition p begins (R463, R467); `together` says that every partition of the layout begins one here. -/
def Dev.beginReset (d : Dev) (p : Nat) (together : Bool) : Dev :=
  if d.parts ≤ p ∨ d.rbit F.PRT_STATUS_RESETTING p then d
  else
    let d := ((d.bump F.PRT_STATUS_RESETS 1).wbit F.PRT_STATUS_READY p false).wbit F.PRT_STATUS_RESETTING p true
    let d := (d.wbit F.ERR_STATUS_PART_FATAL p false).haltPart p
    let d := if d.csaBad p then d else d.csaWrite p 0 (wordsBytes [0])
    { d with ctl := { d.ctl with resets := d.ctl.resets ++ [{ part := p, together := together }] } }

/-- The requests for this boundary (R463). -/
def Dev.beginResets (d : Dev) : Dev :=
  let m := d.ctl.resetReq
  let all := maskOf 0 d.parts
  let together := decide (m &&& all = all) && decide (d.rf F.PRT_STATUS_RESETTING = 0)
  let d := { d with ctl := { d.ctl with resetReq := 0 } }
  (List.range 4).foldl (fun d p => if bitAt m p then d.beginReset p together else d) d

/-! ### Step 3: built-in test (R115, R116, R602) -/

/-- Units of a mask, each with an operation. -/
def Dev.forMask (d : Dev) (n m : Nat) (f : Dev → Nat → Dev) : Dev := (List.range n).foldl (fun d i => if bitAt m i then f d i else d) d

/-- Column groups found bad by the test of partition p: marked pending and reported; in the quartered layout the other sub-array that
holds the group is withheld until its own reset (R116). -/
def Dev.newBadCols (d : Dev) (p m : Nat) : Dev :=
  d.forMask 128 m (fun d c =>
    let owners := d.scanOwners (c / 8)
    let d := (d.wbit (F.STN_PENDING_GROUPS (c / 64)) (c % 64) true).badUnit
      { cls := 1, source := 0x02, event := 0x01, inst := c, parts := partsMask owners } (d.testReference (c / 8)) false
    { d with tst := { d.tst with stnWithheld := d.tst.stnWithheld ||| partsMask (owners.filter (· ≠ p)) } })

/-- Pending column groups as one mask. -/
def Dev.pendingCols (d : Dev) : Nat := d.rf (F.STN_PENDING_GROUPS 0) + d.rf (F.STN_PENDING_GROUPS 1) * 2 ^ 64
/-- Pending Spools as one mask. -/
def Dev.pendingSpools (d : Dev) : Nat := ((List.range 4).map (fun k => d.rf (F.SPL_PENDING_SPOOLS k) * 2 ^ (64 * k))).sum

/-- Pending bits of partition p's groups clear at the reset of the last sub-array that holds the group (R116). -/
def Dev.clearPending (d : Dev) (p : Nat) : Dev :=
  let cols := colsOf d.layout p
  let mine := d.pendingCols &&& cols
  let (x, y) := if d.layout < 2 then (mine, mine)
    else (d.tst.stnDone0 ||| (if p < 2 then mine else 0), d.tst.stnDone1 ||| (if p < 2 then 0 else mine))
  let both := x &&& y
  let d := { d with tst := { d.tst with stnDone0 := without x both, stnDone1 := without y both, stnWithheld := without d.tst.stnWithheld (2 ^ p) } }
  let left := without d.pendingCols both
  (d.wf (F.STN_PENDING_GROUPS 0) left).wf (F.STN_PENDING_GROUPS 1) (left / 2 ^ 64)

/-- STN_BYPASS and STN_WIDTH after the bypass of partition p's bad groups; the 17th bypassed group asks for replacement (R113,
R115). -/
def Dev.applyBypass (d : Dev) (p : Nat) : Dev :=
  let cols := colsOf d.layout p
  let old := d.rf (F.STN_BYPASS_GROUPS 0) + d.rf (F.STN_BYPASS_GROUPS 1) * 2 ^ 64
  let new := without old cols ||| (d.tst.badStones &&& cols)
  let n := popcount 128 new
  let moved := decide (new ≠ old) || decide (d.rf F.STN_LAYOUT_LAYOUT ≠ d.layout)
  let d := (d.wf (F.STN_BYPASS_GROUPS 0) new).wf (F.STN_BYPASS_GROUPS 1) (new / 2 ^ 64)
  let d := d.wf F.STN_WIDTH_FUSED (16 * (128 - n))
  let d := if cols &&& maskOf 0 64 ≠ 0 then d.wf F.STN_WIDTH_HALF0 (16 * (64 - popcount 64 new)) else d
  let d := if cols &&& maskOf 64 64 ≠ 0 then d.wf F.STN_WIDTH_HALF1 (16 * (64 - popcount 64 (new / 2 ^ 64))) else d
  let was := d.rb F.STN_WIDTH_DEGRADED
  let d := ((d.wf F.STN_WIDTH_BYPASSED n).wb F.STN_WIDTH_DEGRADED (decide (16 < n))).wf F.STN_LAYOUT_LAYOUT d.layout
  let d := if moved then d.wb F.STN_STATUS_LAYOUT_CHANGED true else d
  if 16 < n ∧ !was then (d.wb F.ERR_STATUS_DEGRADED true).postError { cls := 4, source := 0x02, event := 0x02, inst := n, parts := 2 ^ p } else d

/-- The Stones share of the test. -/
def Dev.testStones (d : Dev) (p : Nat) (r : TestResult) : Dev :=
  let cols := colsOf d.layout p
  let d := d.newBadCols p (without (without (r.stones &&& cols) d.tst.badStones) d.pendingCols)
  let d := { d with tst := { d.tst with badStones := d.tst.badStones ||| (d.pendingCols &&& cols) } }
  (d.clearPending p).applyBypass p

/-- The Spool share of the test (R272, R464). -/
def Dev.testSpools (d : Dev) (p : Nat) (r : TestResult) : Dev :=
  let mine := spoolsOf d.layout p
  let pend := d.pendingSpools
  let found := without (without (r.spools &&& mine) d.tst.badSpools) pend
  let d := d.forMask 256 found (fun d s => d.badUnit
    { cls := 1, source := 0x04, event := 0x01, inst := s, parts := 2 ^ p } (d.testReference (16 + s / 16)) false)
  let bad := d.tst.badSpools ||| (pend &&& mine) ||| found
  let d := { d with tst := { d.tst with badSpools := bad } }
  (List.range 4).foldl (fun d k =>
    let here := bitsAt mine (64 * k) 64
    let d := d.wf (F.SPL_PENDING_SPOOLS k) (without (d.rf (F.SPL_PENDING_SPOOLS k)) here)
    d.wf (F.SPL_HEALTH_SPOOLS k) (without (d.rf (F.SPL_HEALTH_SPOOLS k)) here ||| without here (bitsAt bad (64 * k) 64))) d

/-- The Press share of the test. -/
def Dev.testPress (d : Dev) (p : Nat) (r : TestResult) : Dev :=
  d.forMask 4 (without (r.press &&& pressOf d.layout p) d.tst.pressDead) (fun d q =>
    ({ d with tst := { d.tst with pressDead := d.tst.pressDead ||| 2 ^ q } }).badUnit
      { cls := 3, source := 0x03, event := 0x01, inst := 32 + q, parts := 2 ^ p } (d.testReference (32 + q)) false)

/-- The units of scan group g that a test found bad (R600). -/
def TestResult.inGroup (r : TestResult) (g : Nat) : Bool :=
  if g < 16 then decide (bitsAt r.stones (8 * g) 8 ≠ 0) else if g < 32 then decide (bitsAt r.spools (16 * (g - 16)) 16 ≠ 0)
  else bitAt r.press (g - 32)

/-- A test ended: the groups among some that passed it note the moment (R581). -/
def Dev.notePass (d : Dev) (r : TestResult) (f : Nat → Bool) : Dev :=
  (List.range 36).foldl (fun d g =>
    if f g && !r.inGroup g then
      { d with tst := { d.tst with testPass := SMap.set (fun _ => none) d.tst.testPass g (some (d.turn, d.time)) } }
    else d) d

/-- What follows from the layout in force (R112, R188, R189, R306, R312, R406). -/
def Dev.showLayout (d : Dev) : Dev :=
  let n := d.parts
  let d := ((d.wf F.PRS_LANES_LANES (2048 / n)).wb F.PRS_STATUS_LANE_AVAIL (decide (d.layout = 0))).wf F.SLC_ALLOC_SLUICES (32 / n)
  (((d.wf F.SCP_LAYOUT_SCP_MIB (192 / n)).wf F.SCP_LAYOUT_SCP_BANKS (512 / n)).wf F.SCP_LAYOUT_HOP_MIB (16 / n)).wf F.SCP_LAYOUT_HOP_BANKS (64 / n)

/-! ### Step 4: channel lists and map-out (R321, R322, R370, R377, R378) -/

/-- A channel is mapped out (R377). -/
def Dev.mapOut (d : Dev) (ch : Nat) : Dev :=
  let d := ((d.wf (F.HBM_CHAN_STATE (ch / 32) (ch % 32)) 3).wb (F.GRN_SLICE_STATUS_MAPPED_OUT ch) true).emptySlice ch
  d.showHealthy (ch / 32)

/-- The channel is to be mapped out: it is fenced, or its lane mark has MARK_MAPOUT pins (R370, R377). -/
def Dev.mapOutDue (d : Dev) (ch : Nat) : Bool :=
  let m := d.rf (F.HBM_CTRL_MARK_MAPOUT (ch / 32))
  let m := if m = 0 ∨ 8 < m then 8 else m
  let st := d.rf (F.HBM_CHAN_STATE (ch / 32) (ch % 32))
  decide (st = 2) || (decide (st < 2) && decide (m ≤ (d.markPins ch).length))

/-- The channel list of partition p (R322). -/
def Dev.chanList (d : Dev) (p : Nat) : List Nat :=
  let n := 8 / d.parts
  ((List.range (32 * n)).map (fun i => 32 * (n * p + i % n) + i / n)).filter
    (fun ch => decide (d.rf (F.HBM_CHAN_STATE (ch / 32) (ch % 32)) < 2))

/-- Put a channel list in force after the map-outs of its stacks. -/
def Dev.buildList (d : Dev) (p : Nat) : Dev :=
  let d := ((stacksOf d.layout p).flatMap (fun s => (List.range 32).map (fun c => 32 * s + c))).foldl
    (fun d ch => if d.mapOutDue ch then d.mapOut ch else d) d
  { d with mem := { d.mem with chanLists := d.mem.chanLists.set p (d.chanList p) } }

/-! ### Step 5: zero fill (R310, R379, R213, R398) -/

/-- Zeros with valid check symbols over granules [lo, hi) of channels, and their poison-list entries removed; a request that waited for a
line there is served anew. -/
def Dev.zeroHbm (d : Dev) (chans : List Nat) (lo hi : Nat) : Dev :=
  let here (ch g : Nat) : Bool := chans.contains ch && decide (lo ≤ g) && decide (g < hi)
  let line (k : Nat) : Bool := here (keySlice k) (keyLine k / 8)
  let reqs := (d.mem.lines.flatMap (fun e => if line e.1 then ((e.2.map (·.waits)).getD []).map (fun q => (e.1, q)) else []))
    ++ (d.mem.wbs.flatMap (fun e => if line e.1 then ((e.2.map (fun w => w.fwd ++ w.waits)).getD []).map (fun q => (e.1, q)) else []))
    ++ (d.mem.refetches.flatMap (fun r => if line r.key then r.held.map (fun q => (r.key, q)) else []))
  let d := { d with mem := { d.mem with
    hbm := SMap.clearIf (fun k => here (k / 2 ^ 31) (k % 2 ^ 31 / 1024)) d.mem.hbm,
    dramPoison := SMap.clearIf (fun k => here (k / 2 ^ 25) (k % 2 ^ 25 / 16)) d.mem.dramPoison,
    lines := SMap.clearIf line d.mem.lines, wbs := SMap.clearIf line d.mem.wbs,
    refetches := d.mem.refetches.filter (fun r => !line r.key), refetchDead := d.mem.refetchDead.filter (fun k => !line k) } }
  let d := chans.foldl (fun d ch => d.wf (F.HBM_CHAN_POISON (ch / 32) (ch % 32)) (min 512 (d.poisonCount ch))) d
  reqs.foldl (fun d e => d.offer (keySlice e.1) (keyLine e.1) e.2) d

/-- Rebuild partition p's list alone; its region is zeroed when the list changed (R379). -/
def Dev.rebuildOne (d : Dev) (p : Nat) : Dev :=
  let old := d.mem.chanLists.getD p []
  let d := d.buildList p
  let new := d.mem.chanLists.getD p []
  if new = old then d else d.zeroHbm new 0 d.gc

/-- Rebuild every list and the common region's view (R378): a changed view is zeroed whole, a partition region that changed its list
likewise, and one that grew has the granules it gained zeroed. -/
def Dev.rebuildAll (d : Dev) : Dev :=
  let old := d.mem.chanLists
  let oldCommon := (d.mem.commonLists, d.mem.commonGranules)
  let oldGc := d.gc
  let d := (List.range 4).foldl (fun (d : Dev) p =>
    if p < d.parts then d.buildList p else { d with mem := { d.mem with chanLists := d.mem.chanLists.set p [] } }) d
  let d := { d with mem := { d.mem with commonLists := d.mem.chanLists, commonGranules := d.rf F.GRN_COMMON_GRANULES } }
  let d := (List.range d.parts).foldl (fun d p =>
    let l := d.mem.chanLists.getD p []
    if l ≠ old.getD p [] then d.zeroHbm l 0 d.gc else d.zeroHbm l oldGc d.gc) d
  if (d.mem.commonLists, d.mem.commonGranules) = oldCommon then d
  else d.zeroHbm d.mem.commonLists.flatten d.gc Config.channelGranules

/-- Step 4 of a reset and the zero fill of HBM. -/
def Dev.rebuild (d : Dev) (r : ResetRun) : Dev :=
  if !r.together then d.rebuildOne r.part
  else if r.built then d
  else
    let d := d.rebuildAll
    { d with ctl := { d.ctl with resets := d.ctl.resets.map (fun x => { x with built := x.built || x.together }) } }

/-- Translation caches, scratchpad, Hopper and lane registers of partition p (R213, R310, R398), and the registers that apply at its
reset (R13, R425). -/
def Dev.clearShare (d : Dev) (p : Nat) : Dev :=
  let sp (k : Nat) : Bool := decide (k / Config.spadBankBytes / d.spadB = p)
  let hp (k : Nat) : Bool := decide (k / Config.hopBankBytes / d.hopB = p)
  let d := { d with mem := { d.mem with
    tlb := d.mem.tlb.filter (fun t => decide (t.part ≠ p)),
    spad := SMap.clearIf sp d.mem.spad, spadPoison := SMap.clearIf (fun k => sp (8 * k)) d.mem.spadPoison,
    hop := SMap.clearIf hp d.mem.hop, hopPoison := SMap.clearIf (fun k => hp (8 * k)) d.mem.hopPoison,
    rootInForce := d.mem.rootInForce.set p (d.rf (F.MMU_ROOT_ROOT p) * 2 ^ 16),
    csaInForce := d.mem.csaInForce.set p (d.rf (F.MMU_CSA_BASE p) * 2 ^ 12) } }
  let d := if d.layout = 0 then { d with prs := { d.prs with lanes := [] } } else d
  (d.mem.chanLists.getD p []).foldl (fun d ch => d.wf (F.HBM_CHAN_UNCORR (ch / 32) (ch % 32)) 0) d

/-! ### Step 6 (R464, R743) -/

/-- HEAD of each ring, the producer counts and the fault ring's counts become 0; stopped rings are cleared (R481). -/
def Dev.zeroCounts (d : Dev) (p : Nat) : Dev :=
  let d := (List.range 64).foldl (fun d r =>
    let n := ringIndex p r
    ((d.setRing n {}).wf (F.QUE_RSTAT_HEAD n) 0).wb (F.QUE_RSTAT_STOPPED n) false) d
  let d := (d.wf (F.MMU_FRING_STAT_POSTED p) 0).wf (F.MMU_FRING_STAT_FREED p) 0
  -- a fault ring that names no producer word has none to write (log entry 22)
  let d := if d.rf (F.MMU_FRING_CTL_PRODUCER p) = 0 then d else d.fringProducer p 0
  d.wbit F.PRT_STATUS_STOPPED p false

/-- Once every partition has been reset after the first commit, the module reports that it is ready (R662 step 8). -/
def Dev.reportReady (d : Dev) : Dev :=
  if d.rb F.CFG_STATUS_FIRST_COMMIT && !d.boot.ready && (List.range d.parts).all d.ready then
    ({ d with boot := { d.boot with ready := true } }).bootStage 6
  else d

/-- PARTITION_RESET_DONE (R464): steps 3 to 6 of a running reset; `r` is what its built-in test finds. -/
def cmdPartitionResetDone (p : Nat) (r : TestResult) (d : Dev) : Dev :=
  match d.ctl.resets.find? (fun x => decide (x.part = p)) with
  | none => d
  | some x =>
    let d := ((d.testStones p r).testSpools p r).testPress p r
    let d := ((d.notePass r (fun g => (d.scanOwners g).contains p)).showLayout).rebuild x
    let d := ((d.clearShare p).zeroCounts p).checkCompute p
    let d := { d with ctl := { d.ctl with resets := d.ctl.resets.filter (fun y => decide (y.part ≠ p)) } }
    ((d.wbit F.PRT_STATUS_RESETTING p false).wbit F.PRT_STATUS_READY p true).reportReady

/-! ### Layout change (R34, R462, R467) -/

/-- The second boundary of a layout change: saved items end, the layout is put in force, running resets are dropped and every partition
of the new layout is reset. -/
def Dev.switchLayout (d : Dev) : Dev :=
  let d := (List.range 4).foldl (fun d p => d.haltPart p) d
  let d := d.wf F.PRT_LAYOUT_ACTIVE (d.rf F.PRT_LAYOUT_COUNT)
  let d := (d.wf F.PRT_STATUS_RESETTING 0).wf F.PRT_STATUS_READY 0
  let d := { d with ctl := { d.ctl with changing := false, resets := [], resetReq := 0 },
                    tst := { d.tst with stnDone0 := 0, stnDone1 := 0, serviceOnly := 0 } }
  (List.range d.parts).foldl (fun d p => d.beginReset p true) d

/-- The first boundary: collectives end (R555) and the resident items of every partition are pre-empted. Messages and service
operations, which are never saved (R421), run on to the second one (R462; log entry 60). -/
def Dev.beginChange (d : Dev) : Dev :=
  let d := { d with ctl := { d.ctl with changing := true } }
  let d := d.killAll (fun it => decide (it.engine = .collective) && decide (0x73 ≤ it.desc.opcode)) 0x30
  (d.ctl.items.filter (fun it => decide (it.place ≠ .pool) && decide (it.engine ≠ .collective) && decide (it.engine ≠ .service))).foldl
    (fun d x => match d.item x.id with
      | some it => d.preemptItem it .partition it.held
      | none => d) d

/-- A layout change at a boundary. -/
def Dev.layoutBoundary (d : Dev) : Dev :=
  if d.ctl.changing then d.switchLayout
  else if d.rf F.PRT_LAYOUT_COUNT ≠ d.layout then d.beginChange
  else d

/-! ### Start-up (R380, R381, R662) -/

/-- STARTUP_TEST_DONE (R662 step 5a): what the built-in test of the compute and link dies found; it is applied at the first partition
reset (R742). -/
def cmdStartupTestDone (r : TestResult) (d : Dev) : Dev :=
  if d.rf F.SEC_STATUS_STAGE ≠ 4 ∨ d.boot.tested then d
  else
    let d := { d with boot := { d.boot with tested := true },
                      tst := { d.tst with badStones := r.stones % 2 ^ 128, badSpools := r.spools % 2 ^ 256, badBanks := r.banks % 2 ^ 512,
                                          pressDead := r.press % 16, copyDead := r.copy, colDead := r.col % 64 } }
    ((d.notePass r (fun _ => true)).forMask 6 r.col (fun d n => d.portDown n)).startReady

/-- HBM_TRAINING_DONE (R380, R381): a stack's training, pin screen and zero fill end. `ifaceOk`: steps 1 and 2 passed; `badChans`: a mask
of channels that failed step 3 or 4; `marks`: pins found bad by the screen, per channel. -/
def cmdHbmTrainingDone (stack : Nat) (ifaceOk : Bool) (badChans : Nat) (marks : List (Nat × List Nat)) (d : Dev) : Dev :=
  if 8 ≤ stack ∨ d.rf (F.HBM_STATUS_STATE stack) ≠ 1 ∨ bitAt d.boot.trained stack then d
  else
    let pinsOf (c : Nat) : List Nat := ((marks.filter (fun m => decide (m.1 = c))).flatMap (·.2)).eraseDups.filter (fun p => decide (p < 72))
    let lost (c : Nat) : Bool := !ifaceOk || bitAt badChans c
      || (pinsOf c).any (fun p => decide (laneOfPin p ≠ ((pinsOf c).head?.map laneOfPin).getD 0))
    let d := (List.range 32).foldl (fun d c =>
      let ch := 32 * stack + c
      if lost c then (d.mapOut ch).postError { cls := 1, source := 0x07, event := 0x06, inst := ch, detail0 := ch }
      else if (pinsOf c).isEmpty then d
      else d.setMark ch (pinsOf c) { cls := 1, source := 0x07, event := 0x05, inst := ch, detail0 := ch }) d
    let d := { d with boot := { d.boot with trained := d.boot.trained ||| 2 ^ stack },
                      mem := { d.mem with trainedAt := (List.range 32).foldl (fun m c =>
                        SMap.set (fun _ => 0) m (32 * stack + c) (SMap.get (fun _ => 0) d.mem.temps (32 * stack + c))) d.mem.trainedAt } }
    let d := d.zeroHbm ((List.range 32).map (32 * stack + ·)) 0 Config.channelGranules
    ((d.wf (F.HBM_STATUS_STATE stack) 2).showHealthy stack).startReady

end Sys2Proof.Machine
end

