-- ==== Sys2Proof/Machine/Pmu.lean ====
section
/-!
DEFINITION. Machine/Pmu.lean: what the performance monitor does at a boundary (R688 to R699), the user counter area (R696, R697),
bandwidth windows (R699) and sample records (R700 to R704).
-/
namespace Sys2Proof.Machine

/-! ### Class-0 events and snapshots (R689, R693 to R695) -/

/-- The selected counters of every block: (block, counter, select word). -/
def Dev.pmuAll (d : Dev) : List (Nat × Nat × Word) :=
  (List.range 42).flatMap (fun b => (d.pmuSelected b).map (fun e => (b, e.1, e.2)))

/-- A class-0 event, counted in every block whatever the instance filter: `n` occurrences for the attributions of a mask; a counter
counts them once. -/
def Dev.eventAll (d : Dev) (ev parts n : Nat) : Dev :=
  d.pmuAll.foldl (fun d (b, k, sel) =>
    let s := sel.toNat
    if bitAt s 25 && decide (bitsAt s 0 12 = ev) && decide (bitsAt s 12 5 &&& parts ≠ 0) && decide (n ≠ 0) then
      let before := d.rf (F.PMU_CNT_COUNT b k)
      let d := d.pmuAdd (F.PMU_CNT_COUNT b k) (F.PMU_CNT_OVF b k) n
      if 2 ^ 48 ≤ before + n ∧ bitAt s 26 then { d with pmu := { d.pmu with overflowed := d.pmu.overflowed + 1 } } else d
    else d) d

/-- Step 2 of R33: the counters are latched into their snapshots. The fixed counters stay 0 (log entry 61). -/
def Dev.pmuSnap (d : Dev) : Dev :=
  let isCnt (o : Nat) : Bool := decide (Reg.PMU_CNT 0 0 ≤ o) && decide (o < Reg.PMU_CNT 42 0)
  let counts := d.regs.filter (fun e => isCnt e.1)
  let kept := SMap.clearIf (fun o => decide (Reg.PMU_SNAP_CNT 0 0 ≤ o) && decide (o < Reg.PMU_SNAP_CNT 42 0)) d.regs
  counts.foldl (fun d e => d.setReg (e.1 - Reg.PMU_CNT 0 0 + Reg.PMU_SNAP_CNT 0 0) (BitVec.ofNat 64 (bitsAt e.2.toNat 0 48))) { d with regs := kept }

/-- An EVENT PMU notice (R695). -/
def Dev.pmuNotice (d : Dev) (cause x : Nat) : Dev := d.notice 4 (cause + x * 2 ^ 8 + d.turn * 2 ^ 16)

/-- The notices of the Turn that ends (R695). -/
def Dev.pmuNotices (d : Dev) : Dev :=
  let (o, b) := (d.pmu.overflowed, d.pmu.bufferFull)
  let d := { d with pmu := { d.pmu with overflowed := 0, bufferFull := 0 } }
  let d := if o = 0 then d else d.pmuNotice 1 (min o 255)
  if b = 0 then d else d.pmuNotice 2 b

/-! ### Bandwidth windows (R698, R699) -/

/-- BW_WINDOW_END (R699): the counts of the window that ended at the boundary are shown. -/
def cmdBwWindowEnd (d : Dev) : Dev :=
  match d.pmu.bwDone with
  | none => d
  | some (m, ns) =>
    let d := { d with pmu := { d.pmu with bwDone := none } }
    let d := (List.range 39).foldl (fun d n =>
      (d.wf (F.PMU_BW_IN_BYTES n) (SMap.get (fun _ => 0) m (2 * n))).wf (F.PMU_BW_OUT_BYTES n) (SMap.get (fun _ => 0) m (2 * n + 1))) d
    (d.wf F.PMU_BW_TIME_NS ns).bump F.PMU_BW_SEQ_WINDOWS 1

/-- A boundary counts for the window; the one that ends it takes its counts and its length. -/
def Dev.bwBoundary (d : Dev) : Dev :=
  let t := d.rf F.TRN_LAST_BOUNDARY_TIMESTAMP_NS
  let n := d.pmu.bwTurns + 1
  if d.pmu.bwRestart ∨ max 1 (d.rf F.PMU_BW_CTL_TURNS) ≤ n then
    let d := cmdBwWindowEnd d
    { d with pmu := { d.pmu with bwDone := some (d.pmu.bw, t - d.pmu.bwStart), bw := [], bwTurns := 0, bwStart := t, bwRestart := false } }
  else { d with pmu := { d.pmu with bwTurns := n } }

/-! ### The user counter area (R696, R697) -/

/-- Partitions whose area is to be written after this boundary. -/
def Dev.userArea (d : Dev) : Dev :=
  { d with pmu := { d.pmu with userDue := partsMask ((List.range d.parts).filter (fun p => d.rb (F.PMU_USER_USER_EN p))) } }

/-- Partition p's view of the programmable snapshots: a counter whose PARTS is exactly bit p. -/
def Dev.userSnaps (d : Dev) (p : Nat) : List Nat :=
  (List.range 672).map (fun i =>
    if d.rf (F.PMU_SEL_PARTS (i / 16) (i % 16)) = 2 ^ p then d.rf (F.PMU_SNAP_CNT_COUNT (i / 16) (i % 16)) else 0)

/-- Write words at a device-physical address of partition p's region. -/
def Dev.physWords (d : Dev) (p a : Nat) (ws : List Nat) : Dev := d.physParts p (linesOf a (8 * ws.length)) (wordsBytes ws)

/-- Write one area: TURN_A, the counters, TURN_B. The fixed counters are 0 (log entry 61). -/
def Dev.writeUser (d : Dev) (p : Nat) : Dev :=
  let base := d.rf (F.PMU_USER_BASE p) * 65536
  if d.outsideRegion p base 65536 then d
  else
    let d := (d.physWords p base [d.turn]).physWords p (base + 8) [d.rf F.TRN_LAST_BOUNDARY_TIMESTAMP_NS, d.layout]
    let d := (d.physWords p (base + 0x40) (d.userSnaps p)).physWords p (base + 0x1540) (List.replicate 4384 0)
    d.physWords p (base + 0x38) [d.turn]

/-- USER_COUNTER_AREA (R696, R697): the areas due since the boundary are written, one after the other. -/
def cmdUserCounterArea (d : Dev) : Dev :=
  let m := d.pmu.userDue
  let d := { d with pmu := { d.pmu with userDue := 0 } }
  (List.range 4).foldl (fun d p => if bitAt m p then d.writeUser p else d) d

/-! ### Samples (R700 to R704) -/

/-- The words of a sample record (R703). The latency in cycles is a free value where the manual does not make it 0 (log entry 4). -/
def Dev.sampleWords (d : Dev) (x : Sample) : List Nat :=
  let lat := if x.noReg then 0 else Config.freeNat 60 d.fresh % 2 ^ 32
  [x.pc % 2 ^ 52 + x.event * 2 ^ 52, x.daddr % 2 ^ 52 + b2n x.sp * 2 ^ 52,
   lat + x.spool * 2 ^ 32 + x.slot * 2 ^ 40 + x.lane * 2 ^ 44, d.turn + x.tag % 2 ^ 16 * 2 ^ 32 + x.ring % 64 * 2 ^ 48]

/-- SAMPLE (R701 to R704): the next sample's record is written or dropped. `soon`: the Spool's last record is less than 64 cycles
old. -/
def cmdSample (soon : Bool) (d : Dev) : Dev :=
  match d.pmu.samples with
  | [] => d
  | x :: rest =>
    let p := x.part
    let d := { d with pmu := { d.pmu with samples := rest } }
    let base := d.rf (F.PMU_SAMP_BASE_BASE p) * 2 ^ 20
    if d.outsideRegion p base (2 ^ 20) then d
    else if soon ∨ d.rb (F.PMU_SAMP_STAT_FULL p) then d.bump (F.PMU_SAMP_STAT_DROPPED p) 1
    else
      let i := d.rf (F.PMU_SAMP_STAT_INDEX p)
      let d := (d.physWords p (base + 32 * i) (d.sampleWords x)).tick.wf (F.PMU_SAMP_STAT_INDEX p) (i + 1)
      if i + 1 < 32768 then d
      else
        let d := d.wb (F.PMU_SAMP_STAT_FULL p) true
        if d.rb F.PMU_CTRL_SAMP_INT then { d with pmu := { d.pmu with bufferFull := d.pmu.bufferFull ||| 2 ^ p } } else d

end Sys2Proof.Machine
end

