-- ==== Sys2Proof/Machine/Power.lean ====
section
/-!
DEFINITION. Machine/Power.lean: the I3C target (R733, R740), the limiting policy (R43, R734, R735, R739), the protective trip (R737,
R738) and what a reset leaves (R666, R727).
-/
namespace Sys2Proof.Machine

/-! ### The I3C target -/

/-- I3C_ID. -/
def i3cId : Nat := 0x4155 + 0x4E54 * 2 ^ 16

/-- I3C_STATUS; `tripped` is the board's latch. -/
def Dev.i3cStatus (d : Dev) (tripped : Bool) : Nat :=
  d.rf F.SEC_STATUS_STAGE % 256 + d.rf F.TRN_CTRL_THERM_LEVEL * 2 ^ 8 + b2n tripped * 2 ^ 12 + d.pwr.cause % 8 * 2 ^ 13
    + b2n ((List.range 8).any (fun s => d.rb (F.HBM_STATUS_HOT s))) * 2 ^ 16

/-- I3C_POWER, I3C_TEMP and I3C_LIMIT. -/
def Dev.i3cPower (d : Dev) : Nat := d.pwr.pTurn % 2 ^ 16 + d.pwr.pOpen % 2 ^ 16 * 2 ^ 16
def Dev.i3cTemp (d : Dev) : Nat := d.pwr.tj % 256 + d.pwr.td % 256 * 2 ^ 8 + d.pwr.tIn % 256 * 2 ^ 16 + d.pwr.tOut % 256 * 2 ^ 24
def Dev.i3cLimitWord (d : Dev) : Nat := d.pwr.limit % 2 ^ 16 + d.pwr.floor % 16 * 2 ^ 16

/-- An in-band interrupt with I3C_STATUS bits [15:8] (R733). -/
def Dev.ibi (d : Dev) (tripped : Bool) : Dev := d.emit (.i3cIbi (bitsAt (d.i3cStatus tripped) 8 8))

/-- I3C_LIMIT (R740): the power limit, clamped under R477, and the level floor. -/
def cmdI3cLimit (value : Nat) (d : Dev) : Dev :=
  let v := bitsAt value 0 16
  let lim := max 1000 (min 2000 v)
  ({ d with pwr := { d.pwr with limit := lim, floor := bitsAt value 16 4 } }).clamped (b2n (decide (lim ≠ v)))

/-- I3C_ENTDAA (R733): the target takes a dynamic address. -/
def cmdI3cEntdaa (addr : Nat) (d : Dev) : Dev :=
  ({ d with pwr := { d.pwr with addr := some (addr % 128) } }).emit (.i3cAddr (addr % 128))

/-! ### The limiting policy (R734, R735, R739) -/

/-- The mean of a list as (sum, count). -/
def meanOf (l : List (Nat × Bool)) : Nat × Nat := ((l.map (·.1)).foldl (· + ·) 0, l.length)

/-- Lp from the window: mean power of open Turns (so, no), of withheld Turns (sh, nh). -/
def powerLevel (lp limit : Nat) (op held : Nat × Nat) : Nat :=
  let (so, no) := op
  let (sh, nh) := if held.2 = 0 then (450, 1) else held
  if no = 0 then lp
  else if so ≤ limit * no then 0
  else if so * nh ≤ sh * no then 15
  else min 15 (ceilDiv (16 * (so - limit * no) * nh) (so * nh - sh * no))

/-- Lt and calm. -/
def thermalLevel (lt calm tj td : Nat) : Nat × Nat :=
  if 101 ≤ tj ∨ 100 ≤ td then (min 15 (lt + 4), 0)
  else if 97 ≤ tj ∨ 95 ≤ td then (min 15 (lt + 1), 0)
  else if tj < 92 ∧ td < 90 then (if calm + 1 = 64 then (lt - 1, 0) else (lt, calm + 1))
  else (lt, 0)

/-- A condition of R739: its record is posted on entry, again only after 64 Turns without it. Answers whether to post and the Turns of
absence. -/
def onceIn64 (now : Bool) (absent : Nat) : Bool × Nat := if now then (decide (64 ≤ absent), 0) else (false, min 64 (absent + 1))

/-- Post a record when asked. -/
def Dev.postIf (d : Dev) (b : Bool) (r : ErrRec) : Dev := if b then d.postError r else d

/-- The evaluation at the end of a Turn (R734): the policy's part of the level for the boundary after the next one is staged; F_setup joins it
at the boundary (R735, log entry 81). `withheld` tells of the Turn that ends. -/
def Dev.policy (d : Dev) (t : Telemetry) (withheld : Bool) : Dev :=
  let w := d.pwr
  let win := ((t.power, withheld) :: w.window).take 16
  let op := meanOf (win.filter (fun e => !e.2))
  let lp := powerLevel w.lp w.limit op (meanOf (win.filter (fun e => e.2)))
  let (lt, calm) := thermalLevel w.lt w.calm t.tj t.td
  let pOpen := if op.2 = 0 then w.pOpen else op.1 / op.2
  let (b1, a1) := onceIn64 (decide (0 < lp)) w.absentPower
  let (b2, a2) := onceIn64 (decide (0 < lt)) w.absentThermal
  let (b3, a3) := onceIn64 (decide (101 ≤ t.tj ∨ 100 ≤ t.td)) w.absentHot
  let (b4, a4) := onceIn64 (decide (t.tIn < 20 ∨ 45 < t.tIn)) w.absentInlet
  let d := { d with pwr := { w with window := win, lp := lp, lt := lt, calm := calm, pTurn := t.power, pOpen := pOpen, tj := t.tj, td := t.td,
                                    tIn := t.tIn, tOut := t.tOut, absentPower := a1, absentThermal := a2, absentHot := a3, absentInlet := a4 },
                    ctl := { d.ctl with levelStaged := max (max lp lt) w.floor } }
  let d := (d.postIf b1 { cls := 0, source := 0x14, event := 0x01, detail0 := pOpen }).postIf b2
    { cls := 0, source := 0x15, event := 0x01, detail0 := t.tj }
  (d.postIf b3 { cls := 1, source := 0x15, event := 0x02, inst := t.sensor }).postIf b4 { cls := 1, source := 0x15, event := 0x04, detail0 := t.tIn }

/-- Turn n is withheld at level L (R41). -/
def withheldAt (n level : Nat) : Bool := decide (n % 16 * level / 16 < (n % 16 + 1) * level / 16)

/-- Step 5 of R33: the level staged for this boundary and the floor take effect; the Turn is withheld or open; a level that rises above 7
raises an in-band interrupt. `staged` is what the policy staged for this boundary. -/
def Dev.levelBoundary (d : Dev) (staged : Nat) : Dev :=
  let old := d.rf F.TRN_CTRL_THERM_LEVEL
  let l := min 15 (max staged d.ctl.floorSetup)
  let d := (d.wf F.TRN_CTRL_THERM_LEVEL l).wb F.TRN_STATUS_WITHHELD (withheldAt d.turn l)
  if old ≤ 7 ∧ 7 < l then d.ibi false else d

/-! ### The trip, resets and the loss of power -/

/-- A module after a reset or with its power lost: only the card's flash stands as it was (R666, R667, R727). -/
def Dev.restart (d : Dev) : Dev := { flash := d.flash }

/-- Step 2 of R662: the boot ROM's test of the Miller SRAM; a module that fails it does nothing more (R665). -/
def Dev.sramTest (d : Dev) (ok : Bool) : Dev := { d with boot := { d.boot with dead := !ok } }

/-- The lowest cause of a trip among those of a mask of bits 1 to 4 (R737, R738). -/
def tripCause (causes : Nat) : Nat := (([1, 2, 3, 4].find? (fun c => bitAt causes c))).getD 4

/-- What stops in a trip is lost: HBM and on-chip memories, work, rings, links; the Miller with the set-up space, the logs and the
management class on one lane group stays (R737, R738). -/
def Dev.stopForTrip (d : Dev) : Dev :=
  let l := d.linkOf 6
  let g := ((List.range 4).find? (fun i => bitAt l.groups i)).getD 0
  let stt := d.rf F.CPL_STATUS_STATE
  let d := { d with mem := { MemSt.reset with temps := d.mem.temps }, stn := {}, prs := {}, spl := {}, col := {}, srv := [{}, {}, {}, {}],
                    ctl := { d.ctl with rings := [], items := [], prioStart := [], changing := false, resetReq := 0, resets := [] },
                    tst := { d.tst with slot := none, ckpt := none, forced := [] },
                    pmu := { d.pmu with samples := [] },
                    fab := { d.fab with links := [{}, {}, {}, {}, {}, {}, { l with groupsOwn := 2 ^ g }], pairs := [], wins := [], msgs := [], putRx := [] },
                    cpl := {}, staged := [] }
  let d := (List.range 6).foldl (fun d n => d.wf (F.FAB_PORT_STAT_STATE n) 0) d
  let d := (List.range 8).foldl (fun d s => d.wf (F.HBM_STATUS_STATE s) 0) d
  if stt = 0 then d else (d.wf F.CPL_STATUS_STATE (min 2 stt)).cplShowWidth

/-- A trip (R737, R738): its record, THERMTRIP_N and an in-band interrupt. `inst` is the sensor or the rail of the lowest cause. -/
def Dev.trip (d : Dev) (causes inst : Nat) : Dev :=
  let c := tripCause causes
  let d := { d.stopForTrip with pwr := { d.pwr with cause := c } }
  let d := d.postError (if c ≤ 2 then { cls := 4, source := 0x15, event := 0x03, inst := inst }
    else { cls := 4, source := 0x14, event := 0x02, inst := if c = 4 then 0xFF else inst })
  (d.emit (.thermtrip false)).ibi true

end Sys2Proof.Machine
end

