-- ==== Sys2Proof/Machine/ExecBoard.lean ====
section
/-!
DEFINITION. Machine/ExecBoard.lean: the meanings of the commands of power, reset, the trip and the sideband (R724 to R744).
-/
namespace Sys2Proof.Machine

/-- I3C_LIMIT (R740). -/
def execI3cLimit (value : Nat) (s : State) : Out' := onI3c (cmdI3cLimit value) s

/-- I3C_ENTDAA (R733). -/
def execI3cEntdaa (addr : Nat) (s : State) : Out' := onI3c (cmdI3cEntdaa addr) s

/-- PWR_OK (R725): the rails are in their windows and the board asserts PWR_OK; RESET_N is still low. -/
def execPwrOk (s : State) : Out' :=
  if s.board.power then .next s else .next { s with board := { s.board with power := true, pwrOk := true, resetN := false, tripped := false } }

/-- RESET_RELEASE (R662, R725): RESET_N goes high and the boot ROM starts; `sramOk` says whether the Miller SRAM passes its test. -/
def execResetRelease (sramOk : Bool) (s : State) : Out' :=
  if s.board.power ∧ s.board.pwrOk ∧ s.board.resetN = false then .next { s with board := { s.board with resetN := true }, dev := s.dev.restart.sramTest sramOk }
  else .next s

/-- RESET_PULSE (R666, R726): a full module reset; it does not end a trip (R738). -/
def execResetPulse (sramOk : Bool) (s : State) : Out' :=
  if s.board.power ∧ s.board.pwrOk ∧ s.board.resetN ∧ s.board.tripped = false then .next { s with dev := s.dev.restart.sramTest sramOk }
  else .next s

/-- TRIP (R737, R738): bits 1 to 4 of `causes` are the causes of R737 that arose together; `inst` the sensor or rail of the lowest. -/
def execTrip (causes inst : Nat) (s : State) : Out' :=
  if s.board.power ∧ s.board.resetN ∧ s.board.tripped = false ∧ bitsAt causes 1 4 ≠ 0 then
    .next { s with board := { s.board with tripped := true, pwrOk := s.board.pwrOk && !bitAt causes 4 }, dev := s.dev.trip causes inst }
  else .next s

/-- POWER_DOWN (R727, R738): the rails are removed; every state but the card's flash is lost, and a trip ends. -/
def execPowerDown (s : State) : Out' :=
  .next { s with board := { s.board with power := false, pwrOk := false, resetN := false, tripped := false }, dev := s.dev.restart }

end Sys2Proof.Machine
end

