-- ==== Sys2Proof/Machine/ExecCollective.lean ====
section
/-!
DEFINITION. Machine/ExecCollective.lean: the meanings of the commands of collectives (R537 to R566).
-/
namespace Sys2Proof.Machine

/-- REDUCE_SCATTER (R547). -/
def execReduceScatter (item : Nat) (n : Nat) (s : State) : Out' := onDev (cmdReduceScatter item n) s

/-- ALL_GATHER (R548). -/
def execAllGather (item : Nat) (n : Nat) (s : State) : Out' := onDev (cmdAllGather item n) s

/-- ALL_REDUCE (R548). -/
def execAllReduce (item : Nat) (n : Nat) (s : State) : Out' := onDev (cmdAllReduce item n) s

/-- KV_PASS (R562). -/
def execKvPass (item : Nat) (n : Nat) (s : State) : Out' := onDev (cmdKvPass item n) s

/-- NORM2 (R564). -/
def execNorm2 (item : Nat) (n : Nat) (s : State) : Out' := onDev (cmdNorm2 item n) s

/-- COLLECTIVE_COMPLETION (R556). -/
def execCollectiveCompletion (item : Nat) (s : State) : Out' := onDev (cmdCollectiveCompletion item) s

/-- COLLECTIVE_STALL (R554). -/
def execCollectiveStall (item : Nat) (s : State) : Out' := onDev (cmdCollectiveStall item) s

/-- GATE_WORD (R557). -/
def execGateWord (item : Nat) (word : Nat) (bad : Bool) (s : State) : Out' := onDev (cmdGateWord item word bad) s

/-- KV_RELEASE_POLL (R563). -/
def execKvReleasePoll (item : Nat) (s : State) : Out' := onDev (cmdKvReleasePoll item) s

/-- REDUCE_PARTIAL (R547). -/
def execReducePartial (port : Nat) (pkt : Packet) (s : State) : Out' := onDev (cmdReducePartial port pkt) s

/-- DELIVERED_RESULT (R548). -/
def execDeliveredResult (port : Nat) (pkt : Packet) (s : State) : Out' := onDev (cmdDeliveredResult port pkt) s

/-- GRANT (R550). -/
def execGrant (port : Nat) (pkt : Packet) (s : State) : Out' := onDev (cmdGrant port pkt) s

/-- KV_BLOCK (R563). -/
def execKvBlock (port : Nat) (pkt : Packet) (s : State) : Out' := onDev (cmdKvBlock port pkt) s

/-- NORM2_PARTIAL (R564). -/
def execNorm2Partial (port : Nat) (pkt : Packet) (s : State) : Out' := onDev (cmdNorm2Partial port pkt) s

/-- NORM2_RESULT (R565). -/
def execNorm2Result (port : Nat) (pkt : Packet) (s : State) : Out' := onDev (cmdNorm2Result port pkt) s

end Sys2Proof.Machine
end

