-- ==== Sys2Proof/Machine/ExecCompanion.lean ====
section
/-!
DEFINITION. Machine/ExecCompanion.lean: the meanings of the commands of requests, snoops and widths of the Companion Link (R635 to R660).
-/
namespace Sys2Proof.Machine

/-- CPL_RD (R643). -/
def execCplRd (pkt : CplPacket) (s : State) : Out' := onDev (cmdCplRd pkt) s

/-- CPL_WR (R643). -/
def execCplWr (pkt : CplPacket) (s : State) : Out' := onDev (cmdCplWr pkt) s

/-- CPL_WR_MASK (R643). -/
def execCplWrMask (pkt : CplPacket) (s : State) : Out' := onDev (cmdCplWrMask pkt) s

/-- SNP_INV (R650). -/
def execSnpInv (pkt : CplPacket) (s : State) : Out' := onDev (cmdSnpInv pkt) s

/-- CPL_DATA (R644). -/
def execCplData (pkt : CplPacket) (s : State) : Out' := onDev (cmdCplData pkt) s

/-- CPL_ACK (R644). -/
def execCplAck (pkt : CplPacket) (s : State) : Out' := onDev (cmdCplAck pkt) s

/-- CPL_NAK (R645). -/
def execCplNak (pkt : CplPacket) (s : State) : Out' := onDev (cmdCplNak pkt) s

/-- CPL_REQUEST_TIMEOUT (R645). -/
def execCplRequestTimeout (tag : Nat) (s : State) : Out' := onDev (cmdCplRequestTimeout tag) s

/-- POLL_LINE (R652). -/
def execPollLine (line : Nat) (s : State) : Out' := onDev (cmdPollLine line) s

/-- LINK_CTL_GROUPS (R640). -/
def execLinkCtlGroups (pkt : CplPacket) (s : State) : Out' := onMiller (cmdLinkCtlGroups pkt) s

/-- LINK_CTL_WIDTH_CHANGE (R640). -/
def execLinkCtlWidthChange (pkt : CplPacket) (s : State) : Out' := onMiller (cmdLinkCtlWidthChange pkt) s

/-- LINK_CTL_WIDTH_ANSWER (R640). -/
def execLinkCtlWidthAnswer (pkt : CplPacket) (s : State) : Out' := onMiller (cmdLinkCtlWidthAnswer pkt) s

/-- BAD_OP (R658). -/
def execBadOp (pkt : CplPacket) (s : State) : Out' := onMiller (cmdBadOp pkt) s

end Sys2Proof.Machine
end

