-- ==== Sys2Proof/Machine/ExecCounters.lean ====
section
/-!
DEFINITION. Machine/ExecCounters.lean: the meanings of the commands of counters, bandwidth windows, sampling (R686 to R706).
-/
namespace Sys2Proof.Machine

/-- BW_WINDOW_END (R699). -/
def execBwWindowEnd (s : State) : Out' := onDev cmdBwWindowEnd s

/-- USER_COUNTER_AREA (R697). -/
def execUserCounterArea (s : State) : Out' := onDev cmdUserCounterArea s

/-- SAMPLE (R701). -/
def execSample (soon : Bool) (s : State) : Out' := onDev (cmdSample soon) s

end Sys2Proof.Machine
end

