-- ==== Sys2Proof/Machine/ExecFabric.lean ====
section
/-!
DEFINITION. Machine/ExecFabric.lean: the meanings of the commands of windows and messages of the fabric (R504 to R530).
-/
namespace Sys2Proof.Machine

/-- PUT (R520). -/
def execPut (item : Nat) (n : Nat) (s : State) : Out' := onDev (cmdPut item n) s

/-- GET (R520). -/
def execGet (item : Nat) (n : Nat) (s : State) : Out' := onDev (cmdGet item n) s

/-- SEND (R521). -/
def execSend (item : Nat) (n : Nat) (s : State) : Out' := onDev (cmdSend item n) s

/-- MESSAGE_COMPLETION (R526). -/
def execMessageCompletion (item : Nat) (s : State) : Out' := onDev (cmdMessageCompletion item) s

/-- MESSAGE_TIMEOUT (R525). -/
def execMessageTimeout (item : Nat) (s : State) : Out' := onDev (cmdMessageTimeout item) s

/-- FORWARD_PACKET (R504). -/
def execForwardPacket (port : Nat) (atEdge : Bool) (pkt : Packet) (s : State) : Out' := onDev (cmdForwardPacket port atEdge pkt) s

/-- WLOAD (R515). -/
def execWload (port : Nat) (pkt : Packet) (s : State) : Out' := onDev (cmdWload port pkt) s

/-- WSTORE (R517). -/
def execWstore (port : Nat) (pkt : Packet) (s : State) : Out' := onDev (cmdWstore port pkt) s

/-- WATOM (R517). -/
def execWatom (port : Nat) (pkt : Packet) (s : State) : Out' := onDev (cmdWatom port pkt) s

/-- PUT_PACKET (R520). -/
def execPutPacket (port : Nat) (last : Bool) (pkt : Packet) (s : State) : Out' := onDev (cmdPutPacket port last pkt) s

/-- GET_PACKET (R520). -/
def execGetPacket (port : Nat) (pkt : Packet) (s : State) : Out' := onDev (cmdGetPacket port pkt) s

/-- SEND_PACKET (R521). -/
def execSendPacket (port : Nat) (pkt : Packet) (s : State) : Out' := onDev (cmdSendPacket port pkt) s

/-- WDATA (R511). -/
def execWdata (port : Nat) (pkt : Packet) (s : State) : Out' := onDev (cmdWdata port pkt) s

/-- WACK (R517). -/
def execWack (port : Nat) (pkt : Packet) (s : State) : Out' := onDev (cmdWack port pkt) s

/-- PACK (R520). -/
def execPack (port : Nat) (pkt : Packet) (s : State) : Out' := onDev (cmdPack port pkt) s

/-- GDATA (R520). -/
def execGdata (port : Nat) (pkt : Packet) (s : State) : Out' := onDev (cmdGdata port pkt) s

/-- WINDOW_TIMEOUT (R518). -/
def execWindowTimeout (port : Nat) (tag : Nat) (s : State) : Out' := onDev (cmdWindowTimeout port tag) s

/-- JOB_STOP (R528). -/
def execJobStop (port : Nat) (pkt : Packet) (s : State) : Out' := onDev (cmdJobStop port pkt) s

/-- FAB_JOBSTOP (R527). -/
def execFabJobstop (pkt : CplPacket) (s : State) : Out' := onMiller (cmdFabJobstop pkt) s

/-- WINDOW_TAG_REUSE (R518). -/
def execWindowTagReuse (port : Nat) (tag : Nat) (s : State) : Out' := onDev (cmdWindowTagReuse port tag) s

end Sys2Proof.Machine
end

