-- ==== Sys2Proof/Machine/ExecLink.lean ====
section
/-!
DEFINITION. Machine/ExecLink.lean: the meanings of the commands of the ports: flits, training, delay and identity (R482 to R508, R532 to R536).
-/
namespace Sys2Proof.Machine

/-- FLIT_RECEIVED (R494). -/
def execFlitReceived (port : Nat) (flit : Flit) (s : State) : Out' := onPort port (cmdFlitReceived port flit) s

/-- NAK_RESEND (R494). -/
def execNakResend (port : Nat) (s : State) : Out' := onPort port (cmdNakResend port) s

/-- LANE_RETRAIN (R490). -/
def execLaneRetrain (port : Nat) (laneNum : Nat) (s : State) : Out' := onPort port (cmdLaneRetrain port laneNum) s

/-- LANE_RETRAIN_DONE (R490). -/
def execLaneRetrainDone (port : Nat) (laneNum : Nat) (ok : Bool) (s : State) : Out' := onPort port (cmdLaneRetrainDone port laneNum ok) s

/-- LINK_TRAINING_DONE (R497). -/
def execLinkTrainingDone (port : Nat) (groups : Nat) (ok : Bool) (s : State) : Out' := onPort port (cmdLinkTrainingDone port groups ok) s

/-- DELAY_REQUEST (R532). -/
def execDelayRequest (port : Nat) (t2 : Nat) (t3 : Nat) (pkt : Packet) (s : State) : Out' := onDev (cmdDelayRequest port t2 t3 pkt) s

/-- DELAY_RESPONSE (R532). -/
def execDelayResponse (port : Nat) (t1 : Nat) (t4 : Nat) (pkt : Packet) (s : State) : Out' := onDev (cmdDelayResponse port t1 t4 pkt) s

/-- IDENTITY (R498). -/
def execIdentity (port : Nat) (pkt : Packet) (s : State) : Out' := onDev (cmdIdentity port pkt) s

/-- COORDINATE (R499). -/
def execCoordinate (port : Nat) (pkt : Packet) (s : State) : Out' := onDev (cmdCoordinate port pkt) s

/-- WIDTH_CHANGE (R490). -/
def execWidthChange (port : Nat) (pkt : Packet) (s : State) : Out' := onDev (cmdWidthChange port pkt) s

end Sys2Proof.Machine
end

