-- ==== Sys2Proof/Machine/ExecManagement.lean ====
section
/-!
DEFINITION. Machine/ExecManagement.lean: the meanings of the commands of commands of the Companion Link: images, packs, generations, identity (R656 to R685).
-/
namespace Sys2Proof.Machine

/-- BLOCK (R656). -/
def execBlock (pkt : CplPacket) (s : State) : Out' := onMiller (cmdBlock pkt) s

/-- LINK_COHERENT (R653). -/
def execLinkCoherent (pkt : CplPacket) (s : State) : Out' := onMiller (cmdLinkCoherent pkt) s

/-- RELEASE (R659). -/
def execRelease (pkt : CplPacket) (s : State) : Out' := onMiller (cmdRelease pkt) s

/-- IMG_BEGIN (R664). -/
def execImgBegin (pkt : CplPacket) (s : State) : Out' := onMiller (cmdImgBegin pkt) s

/-- IMG_END (R664). -/
def execImgEnd (pkt : CplPacket) (flashOk : Bool) (s : State) : Out' := onMiller (cmdImgEnd pkt flashOk) s

/-- PACK_BEGIN (R670). -/
def execPackBegin (pkt : CplPacket) (s : State) : Out' := onMiller (cmdPackBegin pkt) s

/-- PACK_END (R670). -/
def execPackEnd (pkt : CplPacket) (flashOk : Bool) (s : State) : Out' := onMiller (cmdPackEnd pkt flashOk) s

/-- CFG_STAGE (R672). -/
def execCfgStage (pkt : CplPacket) (blob : List Byte) (bad : Bool) (s : State) : Out' := onMiller (cmdCfgStage pkt blob bad) s

/-- CFG_RETURN (R678). -/
def execCfgReturn (pkt : CplPacket) (s : State) : Out' := onMiller (cmdCfgReturn pkt) s

/-- CFG_CONFIRM (R676). -/
def execCfgConfirm (pkt : CplPacket) (s : State) : Out' := onMiller (cmdCfgConfirm pkt) s

/-- ATTEST (R683). -/
def execAttest (pkt : CplPacket) (s : State) : Out' := onMiller (cmdAttest pkt) s

/-- ID_GET (R681). -/
def execIdGet (pkt : CplPacket) (s : State) : Out' := onMiller (cmdIdGet pkt) s

/-- CONFIG_STORE_CHECK (R675). -/
def execConfigStoreCheck (place : Nat) (s : State) : Out' := onDev (cmdConfigStoreCheck place) s

/-- RESERVED_COMMAND (R658). -/
def execReservedCommand (pkt : CplPacket) (s : State) : Out' := onMiller (cmdReservedCommand pkt) s

end Sys2Proof.Machine
end

