-- ==== Sys2Proof/Machine/ExecMemory.lean ====
section
/-!
DEFINITION. Machine/ExecMemory.lean: the meanings of the commands of the Granary and HBM (R316 to R386).
-/
namespace Sys2Proof.Machine

/-- SLICE_READ (R330). -/
def execSliceRead (id : Nat) (part : Nat) (slice : Nat) (line : Nat) (lo : Nat) (n : Nat) (hint : Nat) (s : State) : Out' := onDev (cmdSliceRead id part slice line lo n hint) s

/-- SLICE_WRITE (R329). -/
def execSliceWrite (id : Nat) (part : Nat) (slice : Nat) (line : Nat) (lo : Nat) (bytes : List MByte) (hint : Nat) (s : State) : Out' := onDev (cmdSliceWrite id part slice line lo bytes hint) s

/-- SLICE_REDUCTION (R341). -/
def execSliceReduction (id : Nat) (part : Nat) (slice : Nat) (line : Nat) (elems : List RedElem) (hint : Nat) (s : State) : Out' := onDev (cmdSliceReduction id part slice line elems hint) s

/-- RANGE_REQUEST (R333). -/
def execRangeRequest (id : Nat) (slice : Nat) (op : RangeOp) (base : Nat) (count : Nat) (hint : Nat) (s : State) : Out' := onDev (cmdRangeRequest id slice op base count hint) s

/-- LINE_FILL (R326). -/
def execLineFill (slice : Nat) (line : Nat) (errs : List HalfErr) (lost : Bool) (s : State) : Out' := onDev (cmdLineFill slice line errs lost) s

/-- WRITE_BACK_DONE (R344). -/
def execWriteBackDone (slice : Nat) (line : Nat) (s : State) : Out' := onDev (cmdWriteBackDone slice line) s

/-- SCRUB (R371). -/
def execScrub (stack : Nat) (errs : List HalfErr) (s : State) : Out' := onDev (cmdScrub stack errs) s

/-- REFRESH (R374). -/
def execRefresh (ch : Nat) (temp : Nat) (s : State) : Out' := onDev (cmdRefresh ch temp) s

/-- HBM_RETRAIN (R382). -/
def execHbmRetrain (ch : Nat) (temp : Nat) (s : State) : Out' := onDev (cmdHbmRetrain ch temp) s

/-- HBM_RETRAIN_DONE (R382). -/
def execHbmRetrainDone (ch : Nat) (ok : Bool) (s : State) : Out' := onDev (cmdHbmRetrainDone ch ok) s

/-- REFETCH (R472). -/
def execRefetch (slice : Nat) (line : Nat) (s : State) : Out' := onDev (cmdRefetch slice line) s

/-- REFETCH_LINE_ARRIVAL (R472). -/
def execRefetchLineArrival (slice : Nat) (line : Nat) (s : State) : Out' := onDev (cmdRefetchLineArrival slice line) s

/-- REFETCH_TIMEOUT (R473). -/
def execRefetchTimeout (slice : Nat) (line : Nat) (s : State) : Out' := onDev (cmdRefetchTimeout slice line) s

/-- HBM_TRAINING_DONE (R380). -/
def execHbmTrainingDone (stack : Nat) (ifaceOk : Bool) (badChans : Nat) (marks : List (Nat × List Nat)) (s : State) : Out' := onDev (cmdHbmTrainingDone stack ifaceOk badChans marks) s

end Sys2Proof.Machine
end

