-- ==== Sys2Proof/Machine/ExecMovement.lean ====
section
/-!
DEFINITION. Machine/ExecMovement.lean: the meanings of the commands of Sluices and Bolter (R406 to R420).
-/
namespace Sys2Proof.Machine

/-- COPY (R408). -/
def execCopy (item : Nat) (n : Nat) (s : State) : Out' := onDev (cmdCopy item n) s

/-- FILL (R408). -/
def execFill (item : Nat) (n : Nat) (s : State) : Out' := onDev (cmdFill item n) s

/-- PREFETCH (R412). -/
def execPrefetch (item : Nat) (n : Nat) (s : State) : Out' := onDev (cmdPrefetch item n) s

/-- SLUICE_FLUSH (R412). -/
def execSluiceFlush (item : Nat) (n : Nat) (s : State) : Out' := onDev (cmdSluiceFlush item n) s

/-- SLUICE_INVAL (R412). -/
def execSluiceInval (item : Nat) (n : Nat) (s : State) : Out' := onDev (cmdSluiceInval item n) s

/-- SLUICE_DEAD (R412). -/
def execSluiceDead (item : Nat) (n : Nat) (s : State) : Out' := onDev (cmdSluiceDead item n) s

/-- SLUICE_COMPLETION (R409). -/
def execSluiceCompletion (item : Nat) (s : State) : Out' := onDev (cmdSluiceCompletion item) s

/-- GATHER (R416). -/
def execGather (item : Nat) (n : Nat) (s : State) : Out' := onDev (cmdGather item n) s

/-- SCATTER (R417). -/
def execScatter (item : Nat) (n : Nat) (s : State) : Out' := onDev (cmdScatter item n) s

/-- SORT (R419). -/
def execSort (item : Nat) (n : Nat) (s : State) : Out' := onDev (cmdSort item n) s

/-- DEDUP (R420). -/
def execDedup (item : Nat) (n : Nat) (s : State) : Out' := onDev (cmdDedup item n) s

/-- BOLTER_COMPLETION (R413). -/
def execBolterCompletion (item : Nat) (s : State) : Out' := onDev (cmdBolterCompletion item) s

end Sys2Proof.Machine
end

