-- ==== Sys2Proof/Machine/ExecPress.lean ====
section
/-!
DEFINITION. Machine/ExecPress.lean: the meanings of the commands of the Press (R190 to R227).
-/
namespace Sys2Proof.Machine

/-- MANGLE (R204). -/
def execMangle (item : Nat) (n : Nat) (s : State) : Out' := onDev (cmdMangle item n) s

/-- LANE (R214). -/
def execLane (item : Nat) (n : Nat) (s : State) : Out' := onDev (cmdLane item n) s

/-- PRESS_COMPLETION (R194). -/
def execPressCompletion (item : Nat) (s : State) : Out' := onDev (cmdPressCompletion item) s

end Sys2Proof.Machine
end

