-- ==== Sys2Proof/Machine/ExecQueue.lean ====
section
/-!
DEFINITION. Machine/ExecQueue.lean: the meanings of the commands of queues, doorbells, service operations and faults (R397 to R459).
-/
namespace Sys2Proof.Machine

/-- CONTEXT_SAVE_DONE (R38). -/
def execContextSaveDone (item : Nat) (s : State) : Out' := onDev (cmdContextSaveDone item) s

/-- DOORBELL (R438). -/
def execDoorbell (part : Nat) (ring : Nat) (which : Nat) (word : Nat) (bad : Bool) (s : State) : Out' := onDev (cmdDoorbell part ring which word bad) s

/-- DESCRIPTOR_FETCH (R440). -/
def execDescriptorFetch (part : Nat) (ring : Nat) (desc : Desc) (bad : Bool) (s : State) : Out' := onDev (cmdDescriptorFetch part ring desc bad) s

/-- DEFERRED_ENTRY (R449). -/
def execDeferredEntry (part : Nat) (s : State) : Out' := onDev (cmdDeferredEntry part) s

/-- TLB_INVAL (R397). -/
def execTlbInval (item : Nat) (s : State) : Out' := onDev (cmdTlbInval item) s

/-- PREEMPT (R421). -/
def execPreempt (item : Nat) (s : State) : Out' := onDev (cmdPreempt item) s

/-- RESUME (R421). -/
def execResume (item : Nat) (s : State) : Out' := onDev (cmdResume item) s

/-- RESTART (R457). -/
def execRestart (item : Nat) (s : State) : Out' := onDev (cmdRestart item) s

/-- DRAIN (R457). -/
def execDrain (item : Nat) (s : State) : Out' := onDev (cmdDrain item) s

/-- TRANSLATION_FAULT (R400). -/
def execTranslationFault (who : Waiter) (va : Nat) (site : Nat) (acc : Acc) (s : State) : Out' := onDev (cmdTranslationFault who va site acc) s

/-- FAULT_ANSWER (R401). -/
def execFaultAnswer (part : Nat) (id : Nat) (word : Nat) (s : State) : Out' := onDev (cmdFaultAnswer part id word) s

/-- FAULT_TIMEOUT (R405). -/
def execFaultTimeout (part : Nat) (id : Nat) (s : State) : Out' := onDev (cmdFaultTimeout part id) s

end Sys2Proof.Machine
end

