-- ==== Sys2Proof/Machine/ExecResilience.lean ====
section
/-!
DEFINITION. Machine/ExecResilience.lean: the meanings of the commands of error logs, checkpoints, digests, tests and resets (R460 to R470, R567 to R613).
-/
namespace Sys2Proof.Machine

/-- CKPT (R592). -/
def execCkpt (item : Nat) (n : Nat) (s : State) : Out' := onDev (cmdCkpt item n) s

/-- CKPT_SLICE_DONE (R593). -/
def execCkptSliceDone (s : State) : Out' := onDev cmdCkptSliceDone s

/-- DIGEST_RECORD (R597). -/
def execDigestRecord (port : Nat) (pkt : Packet) (s : State) : Out' := onDev (cmdDigestRecord port pkt) s

/-- PARTITION_RESET_DONE (R464). -/
def execPartitionResetDone (part : Nat) (result : TestResult) (s : State) : Out' := onDev (cmdPartitionResetDone part result) s

/-- LOG_WRITE (R577). -/
def execLogWrite (s : State) : Out' := onMiller cmdLogWrite s

/-- ERROR_RING_COPY (R580). -/
def execErrorRingCopy (word : Nat) (bad : Bool) (s : State) : Out' := onDev (cmdErrorRingCopy word bad) s

/-- SCAN_SLOT_RESULT (R602). -/
def execScanSlotResult (bad : Nat) (s : State) : Out' := onDev (cmdScanSlotResult bad) s

/-- STARTUP_TEST_DONE (R662). -/
def execStartupTestDone (result : TestResult) (s : State) : Out' := onDev (cmdStartupTestDone result) s

end Sys2Proof.Machine
end

