-- ==== Sys2Proof/Machine/ExecServing.lean ====
section
/-!
DEFINITION. Machine/ExecServing.lean: the meanings of the commands of the serving service (R614 to R634).
-/
namespace Sys2Proof.Machine

/-- SERVING_REQUEST_FETCH (R622). -/
def execServingRequestFetch (part : Nat) (rec : Desc) (toks : List Nat) (bad : Bool) (s : State) : Out' := onDev (cmdServingRequestFetch part rec toks bad) s

/-- SERVING_STEP (R621). -/
def execServingStep (part : Nat) (s : State) : Out' := onDev (cmdServingStep part) s

/-- SERVING_STEP_DONE (R619). -/
def execServingStepDone (part : Nat) (poisoned : List Nat) (halted : Bool) (s : State) : Out' := onDev (cmdServingStepDone part poisoned halted) s

end Sys2Proof.Machine
end

