-- ==== Sys2Proof/Machine/ExecSetup.lean ====
section
/-!
DEFINITION. Machine/ExecSetup.lean: the meanings of the commands of the set-up space (R707 to R723).
-/
namespace Sys2Proof.Machine

/-- SETUP_RD (R708). -/
def execSetupRd (pkt : CplPacket) (s : State) : Out' := onMiller (cmdSetupRd pkt) s

/-- ERR_LOG_WORD0 (R716). -/
def execErrLogWord0 (pkt : CplPacket) (s : State) : Out' := onMiller (cmdErrLogWord0 pkt) s

/-- SETUP_WR (R709). -/
def execSetupWr (pkt : CplPacket) (s : State) : Out' := onMiller (cmdSetupWr pkt) s

/-- PRT_RESET (R463). -/
def execPrtReset (pkt : CplPacket) (s : State) : Out' := onMiller (cmdPrtReset pkt) s

/-- ERR_FLOG_CLEAR (R579). -/
def execErrFlogClear (pkt : CplPacket) (s : State) : Out' := onMiller (cmdErrFlogClear pkt) s

/-- ERR_LOG_SEL (R716). -/
def execErrLogSel (pkt : CplPacket) (s : State) : Out' := onMiller (cmdErrLogSel pkt) s

/-- DIGEST_SNAP (R596). -/
def execDigestSnap (pkt : CplPacket) (s : State) : Out' := onMiller (cmdDigestSnap pkt) s

/-- DIGEST_CLEAR (R596). -/
def execDigestClear (pkt : CplPacket) (s : State) : Out' := onMiller (cmdDigestClear pkt) s

/-- SAMPLING_RESTART (R704). -/
def execSamplingRestart (pkt : CplPacket) (s : State) : Out' := onMiller (cmdSamplingRestart pkt) s

/-- PMU_COUNT_WRITE (R693). -/
def execPmuCountWrite (pkt : CplPacket) (s : State) : Out' := onMiller (cmdPmuCountWrite pkt) s

/-- PMU_SELECT (R692). -/
def execPmuSelect (pkt : CplPacket) (s : State) : Out' := onMiller (cmdPmuSelect pkt) s

/-- LOOPBACK_MODE (R384). -/
def execLoopbackMode (pkt : CplPacket) (s : State) : Out' := onMiller (cmdLoopbackMode pkt) s

/-- THERM_LEVEL (R735). -/
def execThermLevel (pkt : CplPacket) (s : State) : Out' := onMiller (cmdThermLevel pkt) s

end Sys2Proof.Machine
end

