-- ==== Sys2Proof/Machine/ExecSpool.lean ====
section
/-!
DEFINITION. Machine/ExecSpool.lean: the meanings of the commands of the Spools (R228 to R315).
-/
namespace Sys2Proof.Machine

/-- SPL_LAUNCH (R228). -/
def execSplLaunch (item : Nat) (s : State) : Out' := onDev (cmdSplLaunch item) s

/-- BUNDLE_DISPATCH (R230). -/
def execBundleDispatch (part : Nat) (spool : Nat) (s : State) : Out' := onDev (cmdBundleDispatch part spool) s

/-- LAUNCH_COMPLETION (R232). -/
def execLaunchCompletion (item : Nat) (s : State) : Out' := onDev (cmdLaunchCompletion item) s

/-- BARRIER_STALL (R255). -/
def execBarrierStall (k : Nat) (s : State) : Out' := onDev (cmdBarrierStall k) s

/-- NOP_INSTR (R283). -/
def execNopInstr (k : Nat) (s : State) : Out' := onDev (cmdNopInstr k) s

/-- IADD (R283). -/
def execIadd (k : Nat) (s : State) : Out' := onDev (cmdIadd k) s

/-- ISUB (R283). -/
def execIsub (k : Nat) (s : State) : Out' := onDev (cmdIsub k) s

/-- IMUL (R283). -/
def execImul (k : Nat) (s : State) : Out' := onDev (cmdImul k) s

/-- IMULHI (R283). -/
def execImulhi (k : Nat) (s : State) : Out' := onDev (cmdImulhi k) s

/-- IMAD (R283). -/
def execImad (k : Nat) (s : State) : Out' := onDev (cmdImad k) s

/-- IMIN (R283). -/
def execImin (k : Nat) (s : State) : Out' := onDev (cmdImin k) s

/-- IMAX (R283). -/
def execImax (k : Nat) (s : State) : Out' := onDev (cmdImax k) s

/-- AND (R283). -/
def execAnd (k : Nat) (s : State) : Out' := onDev (cmdAnd k) s

/-- OR (R283). -/
def execOr (k : Nat) (s : State) : Out' := onDev (cmdOr k) s

/-- XOR (R283). -/
def execXor (k : Nat) (s : State) : Out' := onDev (cmdXor k) s

/-- NOT (R283). -/
def execNot (k : Nat) (s : State) : Out' := onDev (cmdNot k) s

/-- SHL (R283). -/
def execShl (k : Nat) (s : State) : Out' := onDev (cmdShl k) s

/-- SHR (R283). -/
def execShr (k : Nat) (s : State) : Out' := onDev (cmdShr k) s

/-- POPC (R283). -/
def execPopc (k : Nat) (s : State) : Out' := onDev (cmdPopc k) s

/-- CLZ (R283). -/
def execClz (k : Nat) (s : State) : Out' := onDev (cmdClz k) s

/-- MOV (R283). -/
def execMov (k : Nat) (s : State) : Out' := onDev (cmdMov k) s

/-- MOVI (R283). -/
def execMovi (k : Nat) (s : State) : Out' := onDev (cmdMovi k) s

/-- IADDI (R283). -/
def execIaddi (k : Nat) (s : State) : Out' := onDev (cmdIaddi k) s

/-- SEL (R283). -/
def execSel (k : Nat) (s : State) : Out' := onDev (cmdSel k) s

/-- ISETP (R283). -/
def execIsetp (k : Nat) (s : State) : Out' := onDev (cmdIsetp k) s

/-- SHFL (R283). -/
def execShfl (k : Nat) (s : State) : Out' := onDev (cmdShfl k) s

/-- VOTE (R283). -/
def execVote (k : Nat) (s : State) : Out' := onDev (cmdVote k) s

/-- V2S (R283). -/
def execV2s (k : Nat) (s : State) : Out' := onDev (cmdV2s k) s

/-- S2V (R283). -/
def execS2v (k : Nat) (s : State) : Out' := onDev (cmdS2v k) s

/-- FADD (R283). -/
def execFadd (k : Nat) (s : State) : Out' := onDev (cmdFadd k) s

/-- FSUB (R283). -/
def execFsub (k : Nat) (s : State) : Out' := onDev (cmdFsub k) s

/-- FMUL (R283). -/
def execFmul (k : Nat) (s : State) : Out' := onDev (cmdFmul k) s

/-- FMA (R283). -/
def execFma (k : Nat) (s : State) : Out' := onDev (cmdFma k) s

/-- FMIN (R283). -/
def execFmin (k : Nat) (s : State) : Out' := onDev (cmdFmin k) s

/-- FMAX (R283). -/
def execFmax (k : Nat) (s : State) : Out' := onDev (cmdFmax k) s

/-- FABS (R283). -/
def execFabs (k : Nat) (s : State) : Out' := onDev (cmdFabs k) s

/-- FNEG (R283). -/
def execFneg (k : Nat) (s : State) : Out' := onDev (cmdFneg k) s

/-- FSETP (R283). -/
def execFsetp (k : Nat) (s : State) : Out' := onDev (cmdFsetp k) s

/-- CVT (R282). -/
def execCvt (k : Nat) (s : State) : Out' := onDev (cmdCvt k) s

/-- FRND (R283). -/
def execFrnd (k : Nat) (s : State) : Out' := onDev (cmdFrnd k) s

/-- HFMA (R283). -/
def execHfma (k : Nat) (s : State) : Out' := onDev (cmdHfma k) s

/-- HADD (R283). -/
def execHadd (k : Nat) (s : State) : Out' := onDev (cmdHadd k) s

/-- HMUL (R283). -/
def execHmul (k : Nat) (s : State) : Out' := onDev (cmdHmul k) s

/-- FRCP (R284). -/
def execFrcp (k : Nat) (s : State) : Out' := onDev (cmdFrcp k) s

/-- FSQRT (R284). -/
def execFsqrt (k : Nat) (s : State) : Out' := onDev (cmdFsqrt k) s

/-- FRSQRT (R284). -/
def execFrsqrt (k : Nat) (s : State) : Out' := onDev (cmdFrsqrt k) s

/-- FEXP2 (R284). -/
def execFexp2 (k : Nat) (s : State) : Out' := onDev (cmdFexp2 k) s

/-- FLOG2 (R284). -/
def execFlog2 (k : Nat) (s : State) : Out' := onDev (cmdFlog2 k) s

/-- FSIN (R284). -/
def execFsin (k : Nat) (s : State) : Out' := onDev (cmdFsin k) s

/-- FCOS (R284). -/
def execFcos (k : Nat) (s : State) : Out' := onDev (cmdFcos k) s

/-- LD (R279). -/
def execLd (k : Nat) (s : State) : Out' := onDev (cmdLd k) s

/-- ST (R281). -/
def execSt (k : Nat) (s : State) : Out' := onDev (cmdSt k) s

/-- LDS (R283). -/
def execLds (k : Nat) (s : State) : Out' := onDev (cmdLds k) s

/-- STS (R283). -/
def execSts (k : Nat) (s : State) : Out' := onDev (cmdSts k) s

/-- ATOM (R297). -/
def execAtom (k : Nat) (sub : Nat) (typ : Nat) (s : State) : Out' := onDev (cmdAtom k sub typ) s

/-- CAS (R297). -/
def execCas (k : Nat) (s : State) : Out' := onDev (cmdCas k) s

/-- RED (R297). -/
def execRed (k : Nat) (sub : Nat) (typ : Nat) (s : State) : Out' := onDev (cmdRed k sub typ) s

/-- LOAD_RETURN (R266). -/
def execLoadReturn (k : Nat) (req : Nat) (arg : Nat) (s : State) : Out' := onDev (cmdLoadReturn k req arg) s

/-- STORE_ACK (R266). -/
def execStoreAck (k : Nat) (req : Nat) (line : Nat) (s : State) : Out' := onDev (cmdStoreAck k req line) s

/-- PF_S (R301). -/
def execPfS (k : Nat) (s : State) : Out' := onDev (cmdPfS k) s

/-- PF_G (R301). -/
def execPfG (k : Nat) (s : State) : Out' := onDev (cmdPfG k) s

/-- FLUSH (R301). -/
def execFlush (k : Nat) (s : State) : Out' := onDev (cmdFlush k) s

/-- INVAL_S (R303). -/
def execInvalS (k : Nat) (s : State) : Out' := onDev (cmdInvalS k) s

/-- INVAL_G (R301). -/
def execInvalG (k : Nat) (s : State) : Out' := onDev (cmdInvalG k) s

/-- DEAD (R305). -/
def execDead (k : Nat) (s : State) : Out' := onDev (cmdDead k) s

/-- SADD (R283). -/
def execSadd (k : Nat) (s : State) : Out' := onDev (cmdSadd k) s

/-- SSUB (R283). -/
def execSsub (k : Nat) (s : State) : Out' := onDev (cmdSsub k) s

/-- SMUL (R283). -/
def execSmul (k : Nat) (s : State) : Out' := onDev (cmdSmul k) s

/-- SAND (R283). -/
def execSand (k : Nat) (s : State) : Out' := onDev (cmdSand k) s

/-- SOR (R283). -/
def execSor (k : Nat) (s : State) : Out' := onDev (cmdSor k) s

/-- SXOR (R283). -/
def execSxor (k : Nat) (s : State) : Out' := onDev (cmdSxor k) s

/-- SSHL (R283). -/
def execSshl (k : Nat) (s : State) : Out' := onDev (cmdSshl k) s

/-- SSHR (R283). -/
def execSshr (k : Nat) (s : State) : Out' := onDev (cmdSshr k) s

/-- SMOVI (R283). -/
def execSmovi (k : Nat) (s : State) : Out' := onDev (cmdSmovi k) s

/-- SMOVHI (R283). -/
def execSmovhi (k : Nat) (s : State) : Out' := onDev (cmdSmovhi k) s

/-- SADDI (R283). -/
def execSaddi (k : Nat) (s : State) : Out' := onDev (cmdSaddi k) s

/-- SSETP (R283). -/
def execSsetp (k : Nat) (s : State) : Out' := onDev (cmdSsetp k) s

/-- PAND (R283). -/
def execPand (k : Nat) (s : State) : Out' := onDev (cmdPand k) s

/-- POR (R283). -/
def execPor (k : Nat) (s : State) : Out' := onDev (cmdPor k) s

/-- PXOR (R283). -/
def execPxor (k : Nat) (s : State) : Out' := onDev (cmdPxor k) s

/-- PNOT (R283). -/
def execPnot (k : Nat) (s : State) : Out' := onDev (cmdPnot k) s

/-- BRA (R241). -/
def execBra (k : Nat) (s : State) : Out' := onDev (cmdBra k) s

/-- BRA_ANY (R241). -/
def execBraAny (k : Nat) (s : State) : Out' := onDev (cmdBraAny k) s

/-- BRA_NONE (R241). -/
def execBraNone (k : Nat) (s : State) : Out' := onDev (cmdBraNone k) s

/-- FORK (R241). -/
def execFork (k : Nat) (s : State) : Out' := onDev (cmdFork k) s

/-- SEAM (R241). -/
def execSeam (k : Nat) (s : State) : Out' := onDev (cmdSeam k) s

/-- BRK (R241). -/
def execBrk (k : Nat) (s : State) : Out' := onDev (cmdBrk k) s

/-- EXIT (R241). -/
def execExit (k : Nat) (s : State) : Out' := onDev (cmdExit k) s

/-- BAR (R253). -/
def execBar (k : Nat) (s : State) : Out' := onDev (cmdBar k) s

/-- FENCE (R295). -/
def execFence (k : Nat) (s : State) : Out' := onDev (cmdFence k) s

/-- MTX_ENTER (R246). -/
def execMtxEnter (k : Nat) (s : State) : Out' := onDev (cmdMtxEnter k) s

/-- MTX_LEAVE (R246). -/
def execMtxLeave (k : Nat) (s : State) : Out' := onDev (cmdMtxLeave k) s

/-- STN_ISSUE (R247). -/
def execStnIssue (k : Nat) (s : State) : Out' := onDev (cmdStnIssue k) s

/-- STN_ISSUE_LEAD (R248). -/
def execStnIssueLead (k : Nat) (s : State) : Out' := onDev (cmdStnIssueLead k) s

/-- STN_WAIT (R251). -/
def execStnWait (k : Nat) (s : State) : Out' := onDev (cmdStnWait k) s

/-- SKS_RD (R285). -/
def execSksRd (k : Nat) (s : State) : Out' := onDev (cmdSksRd k) s

/-- SKS_WR (R285). -/
def execSksWr (k : Nat) (s : State) : Out' := onDev (cmdSksWr k) s

/-- RDTIME (R283). -/
def execRdtime (k : Nat) (s : State) : Out' := onDev (cmdRdtime k) s

/-- RDTURN (R283). -/
def execRdturn (k : Nat) (s : State) : Out' := onDev (cmdRdturn k) s

/-- RESERVED_ENCODING (R235). -/
def execReservedEncoding (k : Nat) (s : State) : Out' := onDev (cmdReservedEncoding k) s

end Sys2Proof.Machine
end

