-- ==== Sys2Proof/Machine/ExecStones.lean ====
section
/-!
DEFINITION. Machine/ExecStones.lean: the meanings of the commands of the Stones (R46 to R189).
-/
namespace Sys2Proof.Machine

/-- MATMUL (R117). -/
def execMatmul (item : Nat) (n : Nat) (k : Nat) (s : State) : Out' := onDev (cmdMatmul item n k) s

/-- MATMUL_ACC (R110). -/
def execMatmulAcc (item : Nat) (n : Nat) (k : Nat) (s : State) : Out' := onDev (cmdMatmulAcc item n k) s

/-- PACKED (R124). -/
def execPacked (item : Nat) (n : Nat) (k : Nat) (s : State) : Out' := onDev (cmdPacked item n k) s

/-- SLICE64 (R175). -/
def execSlice64 (item : Nat) (n : Nat) (k : Nat) (s : State) : Out' := onDev (cmdSlice64 item n k) s

/-- DRESSING (R104). -/
def execDressing (item : Nat) (n : Nat) (s : State) : Out' := onDev (cmdDressing item n) s

/-- STONES_COMPLETION (R135). -/
def execStonesCompletion (item : Nat) (s : State) : Out' := onDev (cmdStonesCompletion item) s

end Sys2Proof.Machine
end

