-- ==== Sys2Proof/Machine/Turn.lean ====
section
/-!
DEFINITION. Machine/Turn.lean: the Turn boundary (R16 to R45): its ordered steps (R33), the period and the number of the Turn (R19, R23,
R24, R28, R29), overruns (R38, R39), staged writes (R714), level, releases, resumption and admission.
-/
namespace Sys2Proof.Machine

/-! ### Before the boundary: the Turn ends -/

/-- What is counted by the Turn ends with it: failures of companion requests, timeouts of ports, violations, quiet runs (R518, R554, R645,
R659). -/
def Dev.endTurn (d : Dev) : Dev :=
  let d := d.postCplFails
  let ls := d.fab.links.map (fun (l : LinkSt) => ({ l with timeoutPosted := false } : LinkSt))
  let d : Dev := { d with fab := { d.fab with links := ls }, cpl := { d.cpl with violReq := 0, violSnp := 0 } }
  d.countQuiet

/-! ### Step 1: number and period -/

/-- The module runs on its own period: it is the master, or in holdover (R20, R30, R31). -/
def Dev.ownPeriod (d : Dev) : Bool := d.rb F.TRN_CTRL_MASTER || d.rb F.TRN_STATUS_HOLDOVER || d.upstream.isNone

/-- The period announced for a Turn (R24). -/
def Dev.announcedFor (d : Dev) (n : Nat) : Nat :=
  match d.ctl.announced.find? (fun e => decide (e.1 = n)) with
  | some e => e.2
  | none => d.rf F.TRN_PERIOD_ACTIVE_NS

/-- The Turn's length in ns: its period, with at most 1 µs of the phase error taken out (R28). -/
def turnLength (period : Nat) (phase : Int) : Nat := ((period : Int) - max (-1000) (min 1000 phase)).toNat

/-- Step 1 of R33: the number, the timestamp, and the period of the Turn that begins. -/
def Dev.stepNumber (d : Dev) : Dev :=
  let d := { d with time := max d.time d.ctl.boundaryAt }
  let n := (d.turn + 1) % 2 ^ 32
  let due := d.ctl.due.getD n
  let period := if d.ownPeriod then d.ctl.masterNext else d.announcedFor due
  let adj : Int := if d.ownPeriod then 0 else max (-1000) (min 1000 d.ctl.phaseLeft)
  let d := ((d.wf F.TRN_COUNT_COUNT due).wf F.TRN_LAST_BOUNDARY_TIMESTAMP_NS d.time).wf F.TRN_PERIOD_ACTIVE_NS period
  let d := if due = n then d else d.wb F.TRN_STATUS_RENUMBERED true
  { d with ctl := { d.ctl with due := none, phaseLeft := if d.ownPeriod then 0 else d.ctl.phaseLeft - adj,
                               boundaryAt := d.time + turnLength period adj, sinceSymbol := d.ctl.sinceSymbol + 1 } }

/-! ### Step 3: overruns and what counts boundaries -/

/-- A turn-bound item still running is pre-empted; at its fourth boundary it is halted and its ring stops (R38, R39). Messages are never
saved and run on (R421, R523). -/
def Dev.overrunItem (d : Dev) (it : Item) : Dev :=
  let it := { it with overruns := it.overruns + 1 }
  let d := d.setItem it
  if 4 ≤ it.overruns then
    let d := d.killItem it 0x40 0
    if it.posted.isSome then d else d.stopRing (ringIndex it.part it.ring) 0x40
  else if it.engine = .collective then d
  else d.preemptItem it .overrun it.held

/-- The item is held to its Turn and still runs: service rings ignore TURN_BOUND (R457). -/
def Item.overruns? (it : Item) : Bool :=
  it.desc.turnBound && decide (it.place = .running) && decide (it.engine ≠ .service) && it.early.isNone

/-- Step 3 of R33. -/
def Dev.stepOverruns (d : Dev) : Dev :=
  (d.ctl.items.filter (·.overruns?)).foldl (fun d x => match d.item x.id with
    | some it => if it.overruns? then d.overrunItem it else d
    | none => d) d

/-- Barriers and open fault records count a boundary (R255, R405). -/
def Dev.countBoundary (d : Dev) : Dev :=
  { d with spl := { d.spl with bundles := d.spl.bundles.map (fun b => { b with barTurns := b.barTurns.map (· + 1) }) },
           mem := { d.mem with faults := d.mem.faults.map (fun f => { f with bounds := f.bounds + 1 }) } }

/-! ### Step 4: what is staged takes effect (R12, R714) -/

/-- Enables in force after the writes of this boundary, among those just written: rings and services. -/
def Dev.writtenEnables (d : Dev) (offs : List Nat) : List Fld :=
  ((List.range 256).filterMap (fun n => if offs.contains (Reg.QUE_RCTL n) then some (F.QUE_RCTL_ENABLE n) else none)
    ++ (List.range 4).filterMap (fun p => if offs.contains (Reg.MIL_SRV_CTL p) then some (F.MIL_SRV_CTL_ENABLE p) else none)).filter d.rb

/-- The staged set-up writes, in the order of their last writes. -/
def Dev.applyStaged (d : Dev) : Dev :=
  let st := d.staged
  let d := { d with staged := [], cfg := { d.cfg with applied := st.map (·.1) } }
  st.foldl (fun d e => d.applyReg e.1 e.2.toNat) d

/-- A ring enabled before this boundary admits at it (R466). -/
def Dev.ringsJoin (d : Dev) : Dev :=
  (d.ctl.rings.filter (fun e => e.2.joining)).foldl (fun d e => d.setRing e.1 { e.2 with joining := false }) d

/-- Step 4 of R33: staged writes, a commit or a return, a layout change, partition resets; then ring enables, regions and complement
pairs, which look at every value of the boundary. An enable that a reset clears again is a lost write (R714). -/
def Dev.stepStaged (d : Dev) : Dev :=
  let d := d.ringsJoin.applyStaged.cfgBoundary
  let offs := d.cfg.applied
  let enables := d.writtenEnables offs
  let d := (d.layoutBoundary).beginResets
  let d := d.bump F.CFG_STATUS_STAGE_LOST (enables.filter (fun f => !d.rb f)).length
  let d := ((d.settle' offs).checkPairs).packBoundary
  { d with cfg := { d.cfg with applied := [] }, ctl := { d.ctl with masterNext := d.rf F.TRN_PERIOD_PERIOD_NS } }

/-! ### Steps 5 and 6 -/

/-- Step 5 of R33: the level, and whether the Turn is withheld (R41, R43); the Turn's class-0 event WITHHELD. -/
def Dev.stepLevel (d : Dev) (staged : Nat) : Dev :=
  let d := d.levelBoundary staged
  let d := d.bump F.TRN_WITHHELD_COUNT (d.rf F.TRN_STATUS_WITHHELD)
  d.eventAll 2 (partBits d.partWithheld) 1

/-- Step 6 of R33: the scan slot, the checkpoint slice and the digest exchange of this Turn. -/
def Dev.stepRelease (d : Dev) : Dev := d.scanStep.ckptRelease.digStart.digTurn

/-! ### Step 7: resumption and admission -/

/-- The head words of rings whose head changed (R435). -/
def Dev.headWords (d : Dev) : Dev :=
  (d.ctl.rings.filter (fun e => e.2.headMoved)).foldl (fun d e =>
    let n := e.1
    let d := d.setRing n { d.ring n with headMoved := false }
    let a := d.rf (F.QUE_HEADW_ADDR n) * 8
    if a = 0 then d else d.toCompanion a (leBytes 8 (doorbellWord (d.rf (F.QUE_RSTAT_HEAD n))))) d

/-- Step 7 of R33: saved items that are due resume, late ranks start, then services join and rings admit; head words follow. -/
def Dev.stepAdmit (d : Dev) : Dev :=
  let d := if d.ctl.changing then d else (d.resumeAll (fun _ => true)).csaFollow d
  let d := d.startLate
  let d := (List.range 4).foldl (fun d p => (d.srvBoundary p).admitPart p) d
  d.headWords

/-! ### What follows the steps -/

/-- The Turn symbol, lane groups that return, refused SENDs, the firmware's estimates, bandwidth windows and user counter areas (R22, R490,
R523, R589, R640, R696, R699). -/
def Dev.afterSteps (d : Dev) : Dev :=
  let next := if d.ownPeriod then d.ctl.masterNext else d.announcedFor ((d.turn + 1) % 2 ^ 32)
  let d := d.sendTurn d.turn next
  let d := ((List.range 6).foldl (fun d n => d.groupsReturn n) d).cplGroupsReturn
  d.resendRefused.showRates.bwBoundary.userArea

/-- TURN_BOUNDARY (R33): the Turn's period expires. `t` is what the sensors read in the Turn that ends. -/
def cmdTurnBoundary (t : Telemetry) (d : Dev) : Dev :=
  if d.rf F.SEC_STATUS_STAGE < 4 then d
  else
    let d := { d with time := max d.time d.ctl.boundaryAt }
    let staged := d.ctl.levelStaged
    let d := (d.endTurn).policy t (d.rb F.TRN_STATUS_WITHHELD)
    let d := (d.stepNumber.eventAll 1 16 1).pmuSnap.digLatch.pmuNotices
    let d := (d.stepOverruns.countBoundary.stepStaged).stepLevel staged
    d.stepRelease.stepAdmit.afterSteps

end Sys2Proof.Machine
end

