-- ==== Sys2Proof/Machine/ExecTurn.lean ====
section
/-!
DEFINITION. Machine/ExecTurn.lean: the meanings of the commands of the Turn (R16 to R45).
-/
namespace Sys2Proof.Machine

/-- TURN_BOUNDARY (R33). -/
def execTurnBoundary (tel : Telemetry) (s : State) : Out' := onDev (cmdTurnBoundary tel) s

/-- HOLDOVER (R30). -/
def execHoldover (s : State) : Out' := onDev cmdHoldover s

/-- TURN_SYMBOL (R28). -/
def execTurnSymbol (port : Nat) (arrival : Nat) (rpl : Bool) (pkt : Packet) (s : State) : Out' := onDev (cmdTurnSymbol port arrival rpl pkt) s

end Sys2Proof.Machine
end

