-- ==== Sys2Proof/Machine/Dispatch.lean ====
section
/-!
DEFINITION. Machine/Dispatch.lean: the meaning of every command: one arm per constructor of Instr.
-/

namespace Sys2Proof.Machine

open Sys2Proof

/-- The effect of a command on everything but the queue. -/
def exec (i : Instr) (s : State) : Host.Outcome State Fault Refusal :=
  match i with
  | .turnBoundary tel => Sys2Proof.Machine.execTurnBoundary tel s
  | .holdover => Sys2Proof.Machine.execHoldover s
  | .turnSymbol port arrival rpl pkt => Sys2Proof.Machine.execTurnSymbol port arrival rpl pkt s
  | .contextSaveDone item => Sys2Proof.Machine.execContextSaveDone item s
  | .doorbell part ring which word bad => Sys2Proof.Machine.execDoorbell part ring which word bad s
  | .descriptorFetch part ring desc bad => Sys2Proof.Machine.execDescriptorFetch part ring desc bad s
  | .deferredEntry part => Sys2Proof.Machine.execDeferredEntry part s
  | .matmul item n k => Sys2Proof.Machine.execMatmul item n k s
  | .matmulAcc item n k => Sys2Proof.Machine.execMatmulAcc item n k s
  | .packed item n k => Sys2Proof.Machine.execPacked item n k s
  | .slice64 item n k => Sys2Proof.Machine.execSlice64 item n k s
  | .dressing item n => Sys2Proof.Machine.execDressing item n s
  | .stonesCompletion item => Sys2Proof.Machine.execStonesCompletion item s
  | .mangle item n => Sys2Proof.Machine.execMangle item n s
  | .lane item n => Sys2Proof.Machine.execLane item n s
  | .pressCompletion item => Sys2Proof.Machine.execPressCompletion item s
  | .splLaunch item => Sys2Proof.Machine.execSplLaunch item s
  | .bundleDispatch part spool => Sys2Proof.Machine.execBundleDispatch part spool s
  | .launchCompletion item => Sys2Proof.Machine.execLaunchCompletion item s
  | .copy item n => Sys2Proof.Machine.execCopy item n s
  | .fill item n => Sys2Proof.Machine.execFill item n s
  | .prefetch item n => Sys2Proof.Machine.execPrefetch item n s
  | .sluiceFlush item n => Sys2Proof.Machine.execSluiceFlush item n s
  | .sluiceInval item n => Sys2Proof.Machine.execSluiceInval item n s
  | .sluiceDead item n => Sys2Proof.Machine.execSluiceDead item n s
  | .sluiceCompletion item => Sys2Proof.Machine.execSluiceCompletion item s
  | .gather item n => Sys2Proof.Machine.execGather item n s
  | .scatter item n => Sys2Proof.Machine.execScatter item n s
  | .sort item n => Sys2Proof.Machine.execSort item n s
  | .dedup item n => Sys2Proof.Machine.execDedup item n s
  | .bolterCompletion item => Sys2Proof.Machine.execBolterCompletion item s
  | .tlbInval item => Sys2Proof.Machine.execTlbInval item s
  | .preempt item => Sys2Proof.Machine.execPreempt item s
  | .resume item => Sys2Proof.Machine.execResume item s
  | .restart item => Sys2Proof.Machine.execRestart item s
  | .drain item => Sys2Proof.Machine.execDrain item s
  | .ckpt item n => Sys2Proof.Machine.execCkpt item n s
  | .ckptSliceDone => Sys2Proof.Machine.execCkptSliceDone s
  | .put item n => Sys2Proof.Machine.execPut item n s
  | .get item n => Sys2Proof.Machine.execGet item n s
  | .send item n => Sys2Proof.Machine.execSend item n s
  | .messageCompletion item => Sys2Proof.Machine.execMessageCompletion item s
  | .messageTimeout item => Sys2Proof.Machine.execMessageTimeout item s
  | .reduceScatter item n => Sys2Proof.Machine.execReduceScatter item n s
  | .allGather item n => Sys2Proof.Machine.execAllGather item n s
  | .allReduce item n => Sys2Proof.Machine.execAllReduce item n s
  | .kvPass item n => Sys2Proof.Machine.execKvPass item n s
  | .norm2 item n => Sys2Proof.Machine.execNorm2 item n s
  | .collectiveCompletion item => Sys2Proof.Machine.execCollectiveCompletion item s
  | .collectiveStall item => Sys2Proof.Machine.execCollectiveStall item s
  | .gateWord item word bad => Sys2Proof.Machine.execGateWord item word bad s
  | .kvReleasePoll item => Sys2Proof.Machine.execKvReleasePoll item s
  | .translationFault who va site acc => Sys2Proof.Machine.execTranslationFault who va site acc s
  | .faultAnswer part id word => Sys2Proof.Machine.execFaultAnswer part id word s
  | .faultTimeout part id => Sys2Proof.Machine.execFaultTimeout part id s
  | .barrierStall k => Sys2Proof.Machine.execBarrierStall k s
  | .nopInstr k => Sys2Proof.Machine.execNopInstr k s
  | .iadd k => Sys2Proof.Machine.execIadd k s
  | .isub k => Sys2Proof.Machine.execIsub k s
  | .imul k => Sys2Proof.Machine.execImul k s
  | .imulhi k => Sys2Proof.Machine.execImulhi k s
  | .imad k => Sys2Proof.Machine.execImad k s
  | .imin k => Sys2Proof.Machine.execImin k s
  | .imax k => Sys2Proof.Machine.execImax k s
  | .and k => Sys2Proof.Machine.execAnd k s
  | .or k => Sys2Proof.Machine.execOr k s
  | .xor k => Sys2Proof.Machine.execXor k s
  | .not k => Sys2Proof.Machine.execNot k s
  | .shl k => Sys2Proof.Machine.execShl k s
  | .shr k => Sys2Proof.Machine.execShr k s
  | .popc k => Sys2Proof.Machine.execPopc k s
  | .clz k => Sys2Proof.Machine.execClz k s
  | .mov k => Sys2Proof.Machine.execMov k s
  | .movi k => Sys2Proof.Machine.execMovi k s
  | .iaddi k => Sys2Proof.Machine.execIaddi k s
  | .sel k => Sys2Proof.Machine.execSel k s
  | .isetp k => Sys2Proof.Machine.execIsetp k s
  | .shfl k => Sys2Proof.Machine.execShfl k s
  | .vote k => Sys2Proof.Machine.execVote k s
  | .v2s k => Sys2Proof.Machine.execV2s k s
  | .s2v k => Sys2Proof.Machine.execS2v k s
  | .fadd k => Sys2Proof.Machine.execFadd k s
  | .fsub k => Sys2Proof.Machine.execFsub k s
  | .fmul k => Sys2Proof.Machine.execFmul k s
  | .fma k => Sys2Proof.Machine.execFma k s
  | .fmin k => Sys2Proof.Machine.execFmin k s
  | .fmax k => Sys2Proof.Machine.execFmax k s
  | .fabs k => Sys2Proof.Machine.execFabs k s
  | .fneg k => Sys2Proof.Machine.execFneg k s
  | .fsetp k => Sys2Proof.Machine.execFsetp k s
  | .cvt k => Sys2Proof.Machine.execCvt k s
  | .frnd k => Sys2Proof.Machine.execFrnd k s
  | .hfma k => Sys2Proof.Machine.execHfma k s
  | .hadd k => Sys2Proof.Machine.execHadd k s
  | .hmul k => Sys2Proof.Machine.execHmul k s
  | .frcp k => Sys2Proof.Machine.execFrcp k s
  | .fsqrt k => Sys2Proof.Machine.execFsqrt k s
  | .frsqrt k => Sys2Proof.Machine.execFrsqrt k s
  | .fexp2 k => Sys2Proof.Machine.execFexp2 k s
  | .flog2 k => Sys2Proof.Machine.execFlog2 k s
  | .fsin k => Sys2Proof.Machine.execFsin k s
  | .fcos k => Sys2Proof.Machine.execFcos k s
  | .ld k => Sys2Proof.Machine.execLd k s
  | .st k => Sys2Proof.Machine.execSt k s
  | .lds k => Sys2Proof.Machine.execLds k s
  | .sts k => Sys2Proof.Machine.execSts k s
  | .atom k sub typ => Sys2Proof.Machine.execAtom k sub typ s
  | .cas k => Sys2Proof.Machine.execCas k s
  | .red k sub typ => Sys2Proof.Machine.execRed k sub typ s
  | .loadReturn k req arg => Sys2Proof.Machine.execLoadReturn k req arg s
  | .storeAck k req line => Sys2Proof.Machine.execStoreAck k req line s
  | .pfS k => Sys2Proof.Machine.execPfS k s
  | .pfG k => Sys2Proof.Machine.execPfG k s
  | .flush k => Sys2Proof.Machine.execFlush k s
  | .invalS k => Sys2Proof.Machine.execInvalS k s
  | .invalG k => Sys2Proof.Machine.execInvalG k s
  | .dead k => Sys2Proof.Machine.execDead k s
  | .sadd k => Sys2Proof.Machine.execSadd k s
  | .ssub k => Sys2Proof.Machine.execSsub k s
  | .smul k => Sys2Proof.Machine.execSmul k s
  | .sand k => Sys2Proof.Machine.execSand k s
  | .sor k => Sys2Proof.Machine.execSor k s
  | .sxor k => Sys2Proof.Machine.execSxor k s
  | .sshl k => Sys2Proof.Machine.execSshl k s
  | .sshr k => Sys2Proof.Machine.execSshr k s
  | .smovi k => Sys2Proof.Machine.execSmovi k s
  | .smovhi k => Sys2Proof.Machine.execSmovhi k s
  | .saddi k => Sys2Proof.Machine.execSaddi k s
  | .ssetp k => Sys2Proof.Machine.execSsetp k s
  | .pand k => Sys2Proof.Machine.execPand k s
  | .por k => Sys2Proof.Machine.execPor k s
  | .pxor k => Sys2Proof.Machine.execPxor k s
  | .pnot k => Sys2Proof.Machine.execPnot k s
  | .bra k => Sys2Proof.Machine.execBra k s
  | .braAny k => Sys2Proof.Machine.execBraAny k s
  | .braNone k => Sys2Proof.Machine.execBraNone k s
  | .fork k => Sys2Proof.Machine.execFork k s
  | .seam k => Sys2Proof.Machine.execSeam k s
  | .brk k => Sys2Proof.Machine.execBrk k s
  | .exit k => Sys2Proof.Machine.execExit k s
  | .bar k => Sys2Proof.Machine.execBar k s
  | .fence k => Sys2Proof.Machine.execFence k s
  | .mtxEnter k => Sys2Proof.Machine.execMtxEnter k s
  | .mtxLeave k => Sys2Proof.Machine.execMtxLeave k s
  | .stnIssue k => Sys2Proof.Machine.execStnIssue k s
  | .stnIssueLead k => Sys2Proof.Machine.execStnIssueLead k s
  | .stnWait k => Sys2Proof.Machine.execStnWait k s
  | .sksRd k => Sys2Proof.Machine.execSksRd k s
  | .sksWr k => Sys2Proof.Machine.execSksWr k s
  | .rdtime k => Sys2Proof.Machine.execRdtime k s
  | .rdturn k => Sys2Proof.Machine.execRdturn k s
  | .sliceRead id part slice line lo n hint => Sys2Proof.Machine.execSliceRead id part slice line lo n hint s
  | .sliceWrite id part slice line lo bytes hint => Sys2Proof.Machine.execSliceWrite id part slice line lo bytes hint s
  | .sliceReduction id part slice line elems hint => Sys2Proof.Machine.execSliceReduction id part slice line elems hint s
  | .rangeRequest id slice op base count hint => Sys2Proof.Machine.execRangeRequest id slice op base count hint s
  | .lineFill slice line errs lost => Sys2Proof.Machine.execLineFill slice line errs lost s
  | .writeBackDone slice line => Sys2Proof.Machine.execWriteBackDone slice line s
  | .scrub stack errs => Sys2Proof.Machine.execScrub stack errs s
  | .refresh ch temp => Sys2Proof.Machine.execRefresh ch temp s
  | .hbmRetrain ch temp => Sys2Proof.Machine.execHbmRetrain ch temp s
  | .hbmRetrainDone ch ok => Sys2Proof.Machine.execHbmRetrainDone ch ok s
  | .refetch slice line => Sys2Proof.Machine.execRefetch slice line s
  | .refetchLineArrival slice line => Sys2Proof.Machine.execRefetchLineArrival slice line s
  | .refetchTimeout slice line => Sys2Proof.Machine.execRefetchTimeout slice line s
  | .flitReceived port flit => Sys2Proof.Machine.execFlitReceived port flit s
  | .nakResend port => Sys2Proof.Machine.execNakResend port s
  | .laneRetrain port laneNum => Sys2Proof.Machine.execLaneRetrain port laneNum s
  | .laneRetrainDone port laneNum ok => Sys2Proof.Machine.execLaneRetrainDone port laneNum ok s
  | .linkTrainingDone port groups ok => Sys2Proof.Machine.execLinkTrainingDone port groups ok s
  | .delayRequest port t2 t3 pkt => Sys2Proof.Machine.execDelayRequest port t2 t3 pkt s
  | .delayResponse port t1 t4 pkt => Sys2Proof.Machine.execDelayResponse port t1 t4 pkt s
  | .identity port pkt => Sys2Proof.Machine.execIdentity port pkt s
  | .coordinate port pkt => Sys2Proof.Machine.execCoordinate port pkt s
  | .widthChange port pkt => Sys2Proof.Machine.execWidthChange port pkt s
  | .forwardPacket port atEdge pkt => Sys2Proof.Machine.execForwardPacket port atEdge pkt s
  | .wload port pkt => Sys2Proof.Machine.execWload port pkt s
  | .wstore port pkt => Sys2Proof.Machine.execWstore port pkt s
  | .watom port pkt => Sys2Proof.Machine.execWatom port pkt s
  | .putPacket port last pkt => Sys2Proof.Machine.execPutPacket port last pkt s
  | .getPacket port pkt => Sys2Proof.Machine.execGetPacket port pkt s
  | .sendPacket port pkt => Sys2Proof.Machine.execSendPacket port pkt s
  | .wdata port pkt => Sys2Proof.Machine.execWdata port pkt s
  | .wack port pkt => Sys2Proof.Machine.execWack port pkt s
  | .pack port pkt => Sys2Proof.Machine.execPack port pkt s
  | .gdata port pkt => Sys2Proof.Machine.execGdata port pkt s
  | .windowTimeout port tag => Sys2Proof.Machine.execWindowTimeout port tag s
  | .reducePartial port pkt => Sys2Proof.Machine.execReducePartial port pkt s
  | .deliveredResult port pkt => Sys2Proof.Machine.execDeliveredResult port pkt s
  | .grant port pkt => Sys2Proof.Machine.execGrant port pkt s
  | .kvBlock port pkt => Sys2Proof.Machine.execKvBlock port pkt s
  | .norm2Partial port pkt => Sys2Proof.Machine.execNorm2Partial port pkt s
  | .norm2Result port pkt => Sys2Proof.Machine.execNorm2Result port pkt s
  | .digestRecord port pkt => Sys2Proof.Machine.execDigestRecord port pkt s
  | .jobStop port pkt => Sys2Proof.Machine.execJobStop port pkt s
  | .fabJobstop pkt => Sys2Proof.Machine.execFabJobstop pkt s
  | .cplRd pkt => Sys2Proof.Machine.execCplRd pkt s
  | .cplWr pkt => Sys2Proof.Machine.execCplWr pkt s
  | .cplWrMask pkt => Sys2Proof.Machine.execCplWrMask pkt s
  | .snpInv pkt => Sys2Proof.Machine.execSnpInv pkt s
  | .cplData pkt => Sys2Proof.Machine.execCplData pkt s
  | .cplAck pkt => Sys2Proof.Machine.execCplAck pkt s
  | .cplNak pkt => Sys2Proof.Machine.execCplNak pkt s
  | .cplRequestTimeout tag => Sys2Proof.Machine.execCplRequestTimeout tag s
  | .pollLine line => Sys2Proof.Machine.execPollLine line s
  | .setupRd pkt => Sys2Proof.Machine.execSetupRd pkt s
  | .errLogWord0 pkt => Sys2Proof.Machine.execErrLogWord0 pkt s
  | .setupWr pkt => Sys2Proof.Machine.execSetupWr pkt s
  | .prtReset pkt => Sys2Proof.Machine.execPrtReset pkt s
  | .partitionResetDone part result => Sys2Proof.Machine.execPartitionResetDone part result s
  | .errFlogClear pkt => Sys2Proof.Machine.execErrFlogClear pkt s
  | .errLogSel pkt => Sys2Proof.Machine.execErrLogSel pkt s
  | .digestSnap pkt => Sys2Proof.Machine.execDigestSnap pkt s
  | .digestClear pkt => Sys2Proof.Machine.execDigestClear pkt s
  | .samplingRestart pkt => Sys2Proof.Machine.execSamplingRestart pkt s
  | .pmuCountWrite pkt => Sys2Proof.Machine.execPmuCountWrite pkt s
  | .pmuSelect pkt => Sys2Proof.Machine.execPmuSelect pkt s
  | .loopbackMode pkt => Sys2Proof.Machine.execLoopbackMode pkt s
  | .thermLevel pkt => Sys2Proof.Machine.execThermLevel pkt s
  | .i3cLimit value => Sys2Proof.Machine.execI3cLimit value s
  | .i3cEntdaa addr => Sys2Proof.Machine.execI3cEntdaa addr s
  | .block pkt => Sys2Proof.Machine.execBlock pkt s
  | .linkCoherent pkt => Sys2Proof.Machine.execLinkCoherent pkt s
  | .release pkt => Sys2Proof.Machine.execRelease pkt s
  | .imgBegin pkt => Sys2Proof.Machine.execImgBegin pkt s
  | .imgEnd pkt flashOk => Sys2Proof.Machine.execImgEnd pkt flashOk s
  | .packBegin pkt => Sys2Proof.Machine.execPackBegin pkt s
  | .packEnd pkt flashOk => Sys2Proof.Machine.execPackEnd pkt flashOk s
  | .cfgStage pkt blob bad => Sys2Proof.Machine.execCfgStage pkt blob bad s
  | .cfgReturn pkt => Sys2Proof.Machine.execCfgReturn pkt s
  | .cfgConfirm pkt => Sys2Proof.Machine.execCfgConfirm pkt s
  | .attest pkt => Sys2Proof.Machine.execAttest pkt s
  | .idGet pkt => Sys2Proof.Machine.execIdGet pkt s
  | .linkCtlGroups pkt => Sys2Proof.Machine.execLinkCtlGroups pkt s
  | .linkCtlWidthChange pkt => Sys2Proof.Machine.execLinkCtlWidthChange pkt s
  | .linkCtlWidthAnswer pkt => Sys2Proof.Machine.execLinkCtlWidthAnswer pkt s
  | .configStoreCheck place => Sys2Proof.Machine.execConfigStoreCheck place s
  | .logWrite => Sys2Proof.Machine.execLogWrite s
  | .errorRingCopy word bad => Sys2Proof.Machine.execErrorRingCopy word bad s
  | .scanSlotResult bad => Sys2Proof.Machine.execScanSlotResult bad s
  | .servingRequestFetch part rec toks bad => Sys2Proof.Machine.execServingRequestFetch part rec toks bad s
  | .servingStep part => Sys2Proof.Machine.execServingStep part s
  | .servingStepDone part poisoned halted => Sys2Proof.Machine.execServingStepDone part poisoned halted s
  | .bwWindowEnd => Sys2Proof.Machine.execBwWindowEnd s
  | .userCounterArea => Sys2Proof.Machine.execUserCounterArea s
  | .sample soon => Sys2Proof.Machine.execSample soon s
  | .pwrOk => Sys2Proof.Machine.execPwrOk s
  | .resetRelease sramOk => Sys2Proof.Machine.execResetRelease sramOk s
  | .startupTestDone result => Sys2Proof.Machine.execStartupTestDone result s
  | .hbmTrainingDone stack ifaceOk badChans marks => Sys2Proof.Machine.execHbmTrainingDone stack ifaceOk badChans marks s
  | .resetPulse sramOk => Sys2Proof.Machine.execResetPulse sramOk s
  | .trip causes inst => Sys2Proof.Machine.execTrip causes inst s
  | .powerDown => Sys2Proof.Machine.execPowerDown s
  | .reservedEncoding k => Sys2Proof.Machine.execReservedEncoding k s
  | .windowTagReuse port tag => Sys2Proof.Machine.execWindowTagReuse port tag s
  | .badOp pkt => Sys2Proof.Machine.execBadOp pkt s
  | .reservedCommand pkt => Sys2Proof.Machine.execReservedCommand pkt s

end Sys2Proof.Machine
end

