-- ==== Sys2Proof/Machine/Step.lean ====
section
/-!
DEFINITION. Machine/Step.lean: the step of the block: the command at the front of the queue, or a nanosecond of the timestamp.
-/
namespace Sys2Proof.Machine

open Sys2Proof

/-- What passes while no command waits: the timestamp of a running module counts a nanosecond (R719, log entry 1). -/
def State.idle (s : State) : State := if s.running then { s with dev := { s.dev with time := s.dev.time + 1 } } else s

/-- The first waiting command is carried out on the state with the rest of the queue; with none waiting the block idles. -/
def step (s : State) : Host.Outcome State Fault Refusal :=
  match s.pending with
  | [] => .next s.idle
  | c :: rest => exec c { s with pending := rest }

/-- `s` with the command a word of the table spells in front of its queue: the table gives its rows no bits, so no word spells one. -/
def State.withFetchWord (s : State) (nbits w : Nat) : State :=
  match decodeTableWord nbits w with
  | some c => { s with pending := c :: s.pending }
  | none => s

end Sys2Proof.Machine
end

