-- ==== Sys2Proof/Safety.lean ====
section
/-!
DEFINITION. Safety.lean: the terms the claims use: the state a command leaves, legal power states, canonical memory, the instruction a
skein executes next, and what stays the same.
-/
namespace Sys2Proof.Machine

open Sys2Proof

/-- `s` with the module as a command leaves it: the effect `d`, then the fencing of channels that failed in it (R376). -/
def State.after (s : State) (d : Dev) : State := { s with dev := d.fenceAll }

/-- The surroundings are legal (R725, R737, R738): PWR_OK and RESET_N stand on the rails, RESET_N is high only with PWR_OK or in a trip, and a
trip needs the rails and RESET_N. -/
def Board.legal (b : Board) : Bool :=
  (!b.pwrOk || b.power) && (!b.resetN || b.power) && (!b.resetN || b.pwrOk || b.tripped) && (!b.tripped || (b.power && b.resetN))

/-- What every step keeps: legal surroundings, and no channel that still has to be fenced (R376). -/
def State.inv (s : State) : Bool := s.board.legal && s.dev.mem.fenceDue.isEmpty

/-- Every memory and map of bytes and marks is in its canonical form. -/
def MemSt.wf (m : MemSt) : Bool :=
  SMap.wf zeroByte m.hbm && SMap.wf noPoison m.dramPoison && SMap.wf zeroByte m.spad && SMap.wf noPoison m.spadPoison
    && SMap.wf zeroByte m.hop && SMap.wf noPoison m.hopPoison

end Sys2Proof.Machine

namespace Sys2Proof

/-- Commands of the Miller, the board and the sideband: those that do not stop in a trip (R738). -/
def Instr.survivesTrip : Instr → Bool
  | .pwrOk | .resetRelease _ | .resetPulse _ | .trip _ _ | .powerDown | .i3cLimit _ | .i3cEntdaa _ => true
  | .setupRd _ | .errLogWord0 _ | .setupWr _ | .prtReset _ | .errFlogClear _ | .errLogSel _ | .digestSnap _ | .digestClear _ => true
  | .samplingRestart _ | .pmuCountWrite _ | .pmuSelect _ | .loopbackMode _ | .thermLevel _ | .fabJobstop _ => true
  | .block _ | .linkCoherent _ | .release _ | .imgBegin _ | .imgEnd _ _ | .packBegin _ | .packEnd _ _ | .cfgStage _ _ _ => true
  | .cfgReturn _ | .cfgConfirm _ | .attest _ | .idGet _ | .reservedCommand _ | .badOp _ => true
  | .linkCtlGroups _ | .linkCtlWidthChange _ | .linkCtlWidthAnswer _ | .logWrite => true
  | .flitReceived port _ | .nakResend port | .laneRetrain port _ | .laneRetrainDone port _ _ | .linkTrainingDone port _ _ => decide (port = 6)
  | _ => false

/-- The commands that change the surroundings. -/
def Instr.movesPower : Instr → Bool
  | .pwrOk | .resetRelease _ | .resetPulse _ | .trip _ _ | .powerDown => true
  | _ => false

end Sys2Proof

namespace Sys2Proof.Machine

/-- The instruction that skein `k` executes next (R238): the skein, the instruction its word decodes to, and the module after the fetch. None
where it may not issue, its fetch waits or faults, its word is reserved, or a register of it has a result pending. -/
def Dev.nextIns (d : Dev) (k : Nat) : Option (Skein × SIns × Dev) :=
  match d.skein k with
  | none => none
  | some s =>
    if !d.mayIssue s then none
    else match d.fetchIns k s with
      | (d', .word w) => (decodeSpool w).bind (fun i => if s.pending i then none else some (s, i, d'))
      | _ => none

/-- What two modules share when only their registers, counters and Spools may differ: every memory, queue, link and unit. -/
def Dev.sameElsewhere (a b : Dev) : Prop :=
  a.time = b.time ∧ a.staged = b.staged ∧ a.out = b.out ∧ a.ctl = b.ctl ∧ a.mem = b.mem ∧ a.err = b.err ∧ a.fab = b.fab ∧ a.col = b.col
    ∧ a.cpl = b.cpl ∧ a.stn = b.stn ∧ a.prs = b.prs ∧ a.tst = b.tst ∧ a.srv = b.srv ∧ a.boot = b.boot ∧ a.cfg = b.cfg ∧ a.pwr = b.pwr
    ∧ a.flash = b.flash

/-! ### What an instruction of a skein leaves -/

/-- A running module in which skein `k` executes `i` next: `sk` is the skein, `d` the module after the fetch of the word. -/
def State.executes (s : State) (k : Nat) (sk : Skein) (i : SIns) (d : Dev) : Prop := s.running = true ∧ k < 4096 ∧ s.dev.nextIns k = some (sk, i, d)

/-- The registers that count events: SPL_EVENTS and the counters of the PMU. -/
def countReg (off : Nat) : Bool := decide (off = Reg.SPL_EVENTS) || (decide (Reg.PMU_CNT 0 0 ≤ off) && decide (off < Reg.PMU_CNT 42 0))

/-- `e` is `d` with skein `k` at `sk`: beside the event counters and samples nothing else differs, no other skein, no bundle, no cached line. -/
def Dev.movesSkein (d e : Dev) (k : Nat) (sk : Option Skein) : Prop :=
  e.sameElsewhere d ∧ e.fresh = d.fresh ∧ e.spl = { d.spl with skeins := e.spl.skeins, clock := d.spl.clock + 1 }
    ∧ (∀ j, e.skein j = if j = k then sk.map (fun t => { t with lastIssue := d.spl.clock + 1 }) else d.skein j)
    ∧ ∀ off, countReg off = false → e.reg off = d.reg off

/-- Command `c` leaves the module `d` with skein `k` at `sk`. -/
def State.leavesSkein (s : State) (c : Instr) (d : Dev) (k : Nat) (sk : Option Skein) : Prop :=
  ∃ e, exec c s = .next (s.after e) ∧ d.movesSkein e k sk

/-- The skein at its next instruction, with the note of R233 when `i` has an effect and names a register numbered VREGS or above. -/
def Skein.stepped (a : Skein) (i : SIns) (acts : Bool) : Skein :=
  { a with pc := (a.pc + 8) % 2 ^ 52, sks := if acts && i.regs.1.any (fun r => decide (a.vregs ≤ r)) then a.sks ||| 2 ^ 11 else a.sks }

/-- `b` is the skein `a` after vector instruction `i` that computes `f` for each lane: the registers from D on of the effective lanes hold `f`
(32 bits each, the low register first), a register numbered VREGS or above stays unwritten, and nothing else changes. -/
def Skein.vecWritten (a b : Skein) (i : SIns) (f : Nat → Nat × Bool) : Prop :=
  b = { a.stepped i (decide (a.eff i ≠ 0)) with vreg := b.vreg }
    ∧ ∀ r l, l < 32 → b.vget r l =
        if bitAt (a.eff i) l = true ∧ i.d ≤ r ∧ r < i.d + i.dCount ∧ r < a.vregs
        then ((f l).1 / 2 ^ (32 * (r - i.d)) % 2 ^ 32, (f l).2 || a.guardPoison i l) else a.vget r l

/-- `b` is the skein `a` after an instruction that sets predicate D to `f` in the lanes of `m`; p0 stays all ones. -/
def Skein.predWritten (a b : Skein) (i : SIns) (m : Nat) (f : Nat → Bool × Bool) : Prop :=
  b = { a.stepped i (decide (m ≠ 0)) with preg := b.preg }
    ∧ ∀ p l, l < 32 → (bitAt (b.pget p).1 l, bitAt (b.pget p).2 l) =
        if p = i.d ∧ p ≠ 0 ∧ bitAt m l = true then f l else (bitAt (a.pget p).1 l, bitAt (a.pget p).2 l)

/-- `b` is the skein `a` after an instruction that writes scalar D with the value and mark `v`; none: it has no effect (R244). -/
def Skein.scalarWritten (a b : Skein) (i : SIns) (v : Option (Nat × Bool)) : Prop :=
  b = { a.stepped i v.isSome with sreg := b.sreg }
    ∧ ∀ r, b.sget r = match v with
        | some x => if r = i.d then (x.1 % 2 ^ 64, x.2) else a.sget r
        | none => a.sget r

/-- Integer arithmetic of R283 on `w`-bit words, by opcode 0x01 to 0x0F: `sg` for the signed types. -/
def intWord (op : Nat) (sg : Bool) {w : Nat} (x y z : BitVec w) : BitVec w :=
  let less : Bool := if sg then x.slt y else x.ult y
  match op with
  | 0x01 => x + y
  | 0x02 => x - y
  | 0x03 => x * y
  | 0x04 => if sg then ((x.signExtend (2 * w) * y.signExtend (2 * w)) >>> w).setWidth w else ((x.setWidth (2 * w) * y.setWidth (2 * w)) >>> w).setWidth w
  | 0x05 => x * y + z
  | 0x06 => if less then x else y
  | 0x07 => if less then y else x
  | 0x08 => x &&& y
  | 0x09 => x ||| y
  | 0x0A => x ^^^ y
  | 0x0B => ~~~x
  | 0x0C => x <<< (y.toNat % w)
  | 0x0D => if sg then x.sshiftRight (y.toNat % w) else x >>> (y.toNat % w)
  | 0x0E => BitVec.ofNat w ((List.range w).countP (fun j => x.getLsbD j))
  | _ => BitVec.ofNat w ((List.range w).takeWhile (fun j => !x.getMsbD j)).length

/-- Scalar arithmetic of R283 on 64-bit words, by opcode 0x60 to 0x67. -/
def scalarWord (op : Nat) (sg : Bool) (x y : BitVec 64) : BitVec 64 :=
  match op with
  | 0x60 => x + y
  | 0x61 => x - y
  | 0x62 => x * y
  | 0x63 => x &&& y
  | 0x64 => x ||| y
  | 0x65 => x ^^^ y
  | 0x66 => x <<< (y.toNat % 64)
  | _ => if sg then x.sshiftRight (y.toNat % 64) else x >>> (y.toNat % 64)

/-- The launch that SPL_LAUNCH begins (R228, R230): the item waits in its queue, every launch before it has dispatched its bundles, and it may
leave the queue (R38). -/
def Dev.launchNext (d : Dev) (item : Nat) : Option Item :=
  d.atWork item (fun it => decide (it.engine = .launch) && decide (it.place = .queued)
    && ((d.queueOf it.part .launch Place.inQueue).takeWhile (fun x => decide (x.id ≠ it.id))).all launchDispatched) (fun _ => some 0)

/-- A launch whose bundles may be dispatched: it has not halted, waits for no fault, is no no-op, and its arguments are read. -/
def Item.dispatches (it : Item) : Bool := it.early.isNone && it.fault.isNone && !launchNoop it.desc && decide (it.vals.length = 8)

/-- What two modules share when only their registers, their event counts, and answers that wait on the Companion Link or in the windows may
differ. -/
def Dev.alike (a b : Dev) : Prop :=
  a.time = b.time ∧ a.staged = b.staged ∧ a.out = b.out ∧ a.ctl = b.ctl ∧ a.mem = b.mem ∧ a.err = b.err ∧ a.col = b.col ∧ a.stn = b.stn
    ∧ a.prs = b.prs ∧ a.spl = b.spl ∧ a.tst = b.tst ∧ a.srv = b.srv ∧ a.boot = b.boot ∧ a.cfg = b.cfg ∧ a.pwr = b.pwr ∧ a.flash = b.flash
    ∧ a.fab.links = b.fab.links ∧ a.cpl.queue = b.cpl.queue ∧ a.cpl.reqs = b.cpl.reqs

end Sys2Proof.Machine
end

