-- ==== Sys2Proof/Certificates/Slice0/Obligations.lean ====
section
/-!
DEFINITION. Certificates/Slice0/Obligations.lean: the statements for the provers. In each, `s` is any state and `s.after d` is `s` with the
module as a command leaves it; a hypothesis names the state and the operands alone.
-/

open Sys2Proof Sys2Proof.Machine

/-! ### The queue, the surroundings, reset -/

/-- A step carries out the command at the front of the queue on the state with the queue's rest. -/
def Obligations.StepRunsFrontCommand : Prop :=
  ∀ (s : State) (c : Instr) (rest : List Instr), s.pending = c :: rest → step s = exec c { s with pending := rest }

/-- With no command waiting a step counts one nanosecond of the timestamp of a running module (the model's choice, log entry 1). -/
def Obligations.IdleStepCountsOneNanosecond : Prop :=
  ∀ s : State, s.pending = [] →
    (s.running = true → step s = .next { s with dev := { s.dev with time := s.dev.time + 1 } }) ∧ (s.running = false → step s = .next s)

/-- Right after reset no command waits, every set-up register reads its reset value, the module is its own Turn master with a period of 1,000,000 ns
(R23, R47), no ring, item, skein or line is held, and every memory is canonical. Rests on the model's choices of log entries 5, 10, 17 and 19. -/
def Obligations.ResetState : Prop :=
  State.reset.pending = [] ∧ (∀ off, State.reset.dev.reg off = regReset off) ∧ State.reset.dev.rb F.TRN_CTRL_MASTER = true
    ∧ State.reset.dev.rf F.TRN_PERIOD_PERIOD_NS = 1000000 ∧ State.reset.dev.rf F.TRN_COUNT_COUNT = 0 ∧ State.reset.dev.rf F.SEC_STATUS_STAGE = 0
    ∧ State.reset.dev.ctl.items = [] ∧ (∀ k, State.reset.dev.skein k = none) ∧ State.reset.dev.mem.wf = true ∧ State.reset.board.tripped = false

/-- The invariant of every step holds right after reset. -/
def Obligations.InvariantAtReset : Prop := State.reset.inv = true

/-- Every step from a state with legal surroundings and nothing left to fence gives such a state: PWR_OK and RESET_N stand only on the rails, a trip
holds only with power and RESET_N (R725, R737, R738), and channels that fail in a command are fenced within it (R376). -/
def Obligations.InvariantKeptByEveryStep : Prop := ∀ s t : State, s.inv = true → step s = .next t → t.inv = true

/-- No command changes the queue behind it, and only the five commands of the board change power, PWR_OK, RESET_N, the trip or the straps. -/
def Obligations.CommandsKeepQueueAndSurroundings : Prop :=
  ∀ (c : Instr) (s t : State), exec c s = .next t → t.pending = s.pending ∧ (c.movesPower = false → t.board = s.board)
    ∧ t.board.straps = s.board.straps

/-- R738: after a trip only a removal of power ends it. -/
def Obligations.OnlyPowerDownEndsTrip : Prop :=
  ∀ (c : Instr) (s t : State), s.board.legal = true → s.board.tripped = true → c ≠ .powerDown → exec c s = .next t → t.board.tripped = true

/-- R737: a trip stops the compute die, the link dies and the HBM base dies: every command but those of the Miller, the board and the sideband leaves
the state as it is. Rests on the model's choices of log entries 2 and 82. -/
def Obligations.TripStopsTheModule : Prop :=
  ∀ (c : Instr) (s : State), s.board.tripped = true → c.survivesTrip = false → exec c s = .next s

/-- What is lost and what stays in a trip (R737, R738): work, on-chip and HBM contents, links and waiting set-up writes are gone; the flash, the
timestamp and the fabric's route entries stay; THERMTRIP_N falls and an in-band interrupt follows. `causes`: bits 1 to 4. Rests on the model's choices
of log entry 82. -/
def Obligations.TripLosesWorkAndMemory : Prop :=
  ∀ (s : State) (causes inst : Nat), s.board.power = true → s.board.resetN = true → s.board.tripped = false → bitsAt causes 1 4 ≠ 0 →
    ∃ t, exec (.trip causes inst) s = .next t ∧ t.board.tripped = true ∧ (t.board.pwrOk = true ↔ s.board.pwrOk = true ∧ bitAt causes 4 = false)
      ∧ t.dev.ctl.items = [] ∧ t.dev.mem.hbm = [] ∧ t.dev.mem.spad = [] ∧ t.dev.mem.hop = [] ∧ t.dev.mem.lines = [] ∧ t.dev.spl.skeins = []
      ∧ t.dev.staged = [] ∧ t.dev.fab.wins = [] ∧ t.dev.flash = s.dev.flash ∧ t.dev.time = s.dev.time ∧ t.dev.fab.rte = s.dev.fab.rte
      ∧ t.dev.pwr.cause = (if bitAt causes 1 then 1 else if bitAt causes 2 then 2 else if bitAt causes 3 then 3 else 4)
      ∧ ∃ b, t.dev.out = s.dev.out ++ [.thermtrip false, .i3cIbi b]

/-- Power, reset and their loss: PWR_OK on a module without power; RESET_N released with PWR_OK (R725); a reset pulse of a running module (R666,
R726), which a trip ignores (R738); the removal of the rails (R727). A reset leaves every register at its reset value, and the card's flash as it was.
Rests on the model's choices of log entries 6, 11 and 17. -/
def Obligations.PowerAndReset : Prop :=
  ∀ (s : State) (ok : Bool),
    (s.board.power = false → exec .pwrOk s = .next { s with board := { s.board with power := true, pwrOk := true, resetN := false, tripped := false } })
    ∧ (s.board.power = true → s.board.pwrOk = true → s.board.resetN = false →
        ∃ t, exec (.resetRelease ok) s = .next t ∧ t.board = { s.board with resetN := true } ∧ (t.miller = true ↔ ok = true)
          ∧ (∀ off, t.dev.reg off = regReset off) ∧ t.dev.flash = s.dev.flash ∧ t.dev.mem.hbm = [] ∧ t.dev.ctl.items = [])
    ∧ (s.board.power = true → s.board.pwrOk = true → s.board.resetN = true → s.board.tripped = false →
        ∃ t, exec (.resetPulse ok) s = .next t ∧ t.board = s.board ∧ (t.running = true ↔ ok = true)
          ∧ (∀ off, t.dev.reg off = regReset off) ∧ t.dev.flash = s.dev.flash ∧ t.dev.mem.hbm = [] ∧ t.dev.ctl.items = [])
    ∧ (s.board.tripped = true → exec (.resetPulse ok) s = .next s)
    ∧ ∃ t, exec .powerDown s = .next t ∧ t.board = { s.board with power := false, pwrOk := false, resetN := false, tripped := false }
        ∧ t.running = false ∧ t.miller = false ∧ t.dev.flash = s.dev.flash ∧ t.dev.mem.hbm = [] ∧ t.dev.ctl.items = []

/-- The sideband (R733, R740): a write of I3C_LIMIT sets the power limit, kept within 1,000 and 2,000 W, and the level floor; ENTDAA gives the target
its address. Nothing else changes but the count of clamped values. -/
def Obligations.Sideband : Prop :=
  ∀ (s : State) (v : Nat), s.board.power = true → s.board.resetN = true → s.dev.mem.fenceDue = [] →
    (∃ t, exec (.i3cLimit v) s = .next t ∧ t.dev.pwr = { s.dev.pwr with limit := max 1000 (min 2000 (v % 65536)), floor := v / 65536 % 16 }
      ∧ t.dev.mem = s.dev.mem ∧ t.dev.ctl = s.dev.ctl ∧ t.dev.out = s.dev.out ∧ t.dev.err = s.dev.err
      ∧ ((1000 ≤ v % 65536 ∧ v % 65536 ≤ 2000) → t.dev.regs = s.dev.regs))
    ∧ exec (.i3cEntdaa v) s = .next { s with dev := { s.dev with pwr := { s.dev.pwr with addr := some (v % 128) }, out := s.dev.out ++ [.i3cAddr (v % 128)] } }

/-! ### Spool instruction words -/

/-- Every well-formed Spool instruction is what its word decodes to, with every operand at every value its encoding admits (R274 to R277). Rests on
the model's choices of log entries 32 and 37. -/
def Obligations.SpoolDecodeOfEncode : Prop :=
  ∀ i : SIns, i.wellFormed = true → encodeSpool i < 2 ^ 64 ∧ decodeSpool (encodeSpool i) = some i

/-- Every word that is not reserved decodes to a well-formed instruction and is that instruction's only word. Rests on the model's choices of log
entries 32 and 37. -/
def Obligations.SpoolEncodeOfDecode : Prop :=
  ∀ (w : Nat) (i : SIns), w < 2 ^ 64 → decodeSpool w = some i → i.wellFormed = true ∧ encodeSpool i = w

/-- Words written out from R274's formats: `iadd.s32 v3, v1, v2` under p1; `smovi s5, −1`; `ld` of 4 bytes at s4 + 16 to v7; `bra −2`; a reserved
opcode, and an `iadd` with a reserved bit. -/
def Obligations.SpoolWords : Prop :=
  decodeSpool 0x0000000002043101 = some { op := 0x01, pg := 1, d := 3, a := 1, b := 2 }
    ∧ decodeSpool 0xFFFFFFFF00005068 = some { op := 0x68, d := 5, imm := 0xFFFFFFFF }
    ∧ decodeSpool 0x0000810004007050 = some { op := 0x50, d := 7, sb := 4, size := 2, off := 16 }
    ∧ decodeSpool 0xFFFFFE0000000070 = some { op := 0x70, off := 0xFFFFFE }
    ∧ decodeSpool 0x19 = none ∧ decodeSpool 0x0001000002043101 = none

/-! ### Spool instructions -/

/-- An instruction command changes nothing where the skein is absent, may not issue, has a result of the instruction pending, or holds another
instruction next (R238, R253, R259). Rests on the model's choices of log entry 2. -/
def Obligations.SpoolCommandsThatWait : Prop :=
  ∀ (c : Nat → Instr) (op : Nat), (c, op) ∈
      [(Instr.nopInstr, 0x00), (Instr.iadd, 0x01), (Instr.isub, 0x02), (Instr.imul, 0x03), (Instr.imulhi, 0x04), (Instr.imad, 0x05),
       (Instr.imin, 0x06), (Instr.imax, 0x07), (Instr.and, 0x08), (Instr.or, 0x09), (Instr.xor, 0x0A), (Instr.not, 0x0B), (Instr.shl, 0x0C),
       (Instr.shr, 0x0D), (Instr.popc, 0x0E), (Instr.clz, 0x0F), (Instr.mov, 0x10), (Instr.movi, 0x11), (Instr.iaddi, 0x12), (Instr.sel, 0x13),
       (Instr.isetp, 0x14), (Instr.shfl, 0x15), (Instr.vote, 0x16), (Instr.v2s, 0x17), (Instr.s2v, 0x18), (Instr.fadd, 0x20)]
      ++ [(Instr.fsub, 0x21), (Instr.fmul, 0x22), (Instr.fma, 0x23), (Instr.fmin, 0x24), (Instr.fmax, 0x25), (Instr.fabs, 0x26),
       (Instr.fneg, 0x27), (Instr.fsetp, 0x28), (Instr.cvt, 0x29), (Instr.frnd, 0x2A), (Instr.hfma, 0x2B), (Instr.hadd, 0x2C), (Instr.hmul, 0x2D),
       (Instr.frcp, 0x40), (Instr.fsqrt, 0x41), (Instr.frsqrt, 0x42), (Instr.fexp2, 0x43), (Instr.flog2, 0x44), (Instr.fsin, 0x45),
       (Instr.fcos, 0x46), (Instr.ld, 0x50), (Instr.st, 0x51), (Instr.lds, 0x52), (Instr.sts, 0x53), (Instr.cas, 0x55), (Instr.pfS, 0x57)]
      ++ [(Instr.pfG, 0x58), (Instr.flush, 0x59), (Instr.invalS, 0x5A), (Instr.invalG, 0x5B), (Instr.dead, 0x5C), (Instr.sadd, 0x60),
       (Instr.ssub, 0x61), (Instr.smul, 0x62), (Instr.sand, 0x63), (Instr.sor, 0x64), (Instr.sxor, 0x65), (Instr.sshl, 0x66), (Instr.sshr, 0x67),
       (Instr.smovi, 0x68), (Instr.smovhi, 0x69), (Instr.saddi, 0x6A), (Instr.ssetp, 0x6B), (Instr.pand, 0x6C), (Instr.por, 0x6D),
       (Instr.pxor, 0x6E), (Instr.pnot, 0x6F), (Instr.bra, 0x70), (Instr.braAny, 0x71), (Instr.braNone, 0x72), (Instr.fork, 0x73)]
      ++ [(Instr.seam, 0x74), (Instr.brk, 0x75), (Instr.exit, 0x76), (Instr.bar, 0x77), (Instr.fence, 0x78), (Instr.mtxEnter, 0x79),
       (Instr.mtxLeave, 0x7A), (Instr.stnIssue, 0x7B), (Instr.stnIssueLead, 0x7C), (Instr.stnWait, 0x7D), (Instr.sksRd, 0x7E),
       (Instr.sksWr, 0x7F), (Instr.rdtime, 0x80), (Instr.rdturn, 0x81)] →
    ∀ (s : State) (k : Nat), s.running = true →
      (match s.dev.skein k with
        | none => True
        | some sk => s.dev.mayIssue sk = false ∨ ∃ d w, s.dev.fetchIns k sk = (d, .word w) ∧
            (match decodeSpool w with
              | none => True
              | some i => i.op ≠ op ∨ sk.pending i = true)) →
      exec (c k) s = .next (s.after s.dev)

/-- The integer instructions write, in every effective lane, R283's result in two's complement, modulo 2^32 or 2^64 by TYPE, and nothing else; with an
empty effective mask they only advance (R233, R244, R278, R283). Rests on the model's choices of log entries 16 and 33. -/
def Obligations.IntegerInstructions : Prop :=
  ∀ (c : Nat → Instr) (op n : Nat), (c, op, n) ∈
      [(Instr.iadd, 0x01, 2), (Instr.isub, 0x02, 2), (Instr.imul, 0x03, 2), (Instr.imulhi, 0x04, 2), (Instr.imad, 0x05, 3), (Instr.imin, 0x06, 2),
       (Instr.imax, 0x07, 2), (Instr.and, 0x08, 2), (Instr.or, 0x09, 2), (Instr.xor, 0x0A, 2), (Instr.not, 0x0B, 1), (Instr.shl, 0x0C, 2),
       (Instr.shr, 0x0D, 2), (Instr.popc, 0x0E, 1), (Instr.clz, 0x0F, 1)] →
    ∀ (s : State) (k : Nat) (sk : Skein) (i : SIns) (d : Dev), s.executes k sk i d → i.op = op → ∃ b, s.leavesSkein (c k) d k (some b) ∧ sk.vecWritten b i (fun l =>
      let x := sk.vval i.a l i.aCount
      let y := sk.vval i.b l i.bCount
      let z := sk.vval i.c l i.bCount
      ((intWord op i.signed (BitVec.ofNat i.width x.1) (BitVec.ofNat i.width y.1) (BitVec.ofNat i.width z.1)).toNat,
        x.2 || (decide (2 ≤ n) && y.2) || (decide (3 ≤ n) && z.2)))

/-- Moves: `mov` copies the bits, `movi` writes the immediate, `iaddi` adds it sign-extended, `sel` takes va where pC holds, else vb, `shfl` takes va
of the lane that SUB and vb name (the lane itself outside 0 to 31), `s2v` spreads a scalar (R283). Rests on the model's choices of log entry 33. -/
def Obligations.LaneMoves : Prop :=
  ∀ (s : State) (k : Nat) (sk : Skein) (i : SIns) (d : Dev), s.executes k sk i d →
    (i.op = 0x10 → ∃ b, s.leavesSkein (.mov k) d k (some b) ∧ sk.vecWritten b i (fun l => sk.vval i.a l i.aCount))
    ∧ (i.op = 0x11 → ∃ b, s.leavesSkein (.movi k) d k (some b) ∧ sk.vecWritten b i (fun _ => (i.imm, false)))
    ∧ (i.op = 0x12 → ∃ b, s.leavesSkein (.iaddi k) d k (some b) ∧ sk.vecWritten b i (fun l =>
        ((BitVec.ofNat i.width (sk.vval i.a l i.aCount).1 + (BitVec.ofNat 32 i.imm).signExtend i.width).toNat, (sk.vval i.a l i.aCount).2)))
    ∧ (i.op = 0x13 → ∃ b, s.leavesSkein (.sel k) d k (some b) ∧ sk.vecWritten b i (fun l =>
        let v := if bitAt (sk.pget i.c).1 l then sk.vval i.a l i.aCount else sk.vval i.b l i.bCount
        (v.1, v.2 || bitAt (sk.pget i.c).2 l)))
    ∧ (i.op = 0x15 → ∃ b, s.leavesSkein (.shfl k) d k (some b) ∧ sk.vecWritten b i (fun l =>
        let y := (sk.vget i.b l).1
        let v : Int := (BitVec.ofNat 32 y).toInt
        let src : Int := match i.sub with
          | 0 => v
          | 1 => l - v
          | 2 => l + v
          | _ => (BitVec.ofNat 32 l ^^^ BitVec.ofNat 32 y).toInt
        let x := sk.vget i.a (if 0 ≤ src ∧ src < 32 then src.toNat else l)
        (x.1, x.2 || (sk.vget i.b l).2)))
    ∧ (i.op = 0x18 → ∃ b, s.leavesSkein (.s2v k) d k (some b) ∧ sk.vecWritten b i (fun _ => sk.sget i.a))

/-- Floating point on lanes under SKS.RMODE: one rounding of the exact sum, product or fused product; MIN and MAX of R199; sign operations; rounding
to an integer; the paired 16-bit forms half by half; the function unit (R84, R199, R283, R284). Rests on the model's choices of log entries 29, 30 and
33. -/
def Obligations.FloatInstructions : Prop :=
  ∀ (s : State) (k : Nat) (sk : Skein) (i : SIns) (d : Dev), s.executes k sk i d →
    let md := spoolMode sk.sks
    let dn := decide (md = RMode.rdn)
    let hf : Fmt := if i.typ = 6 then .bf16 else .fp16
    (∀ (c : Nat → Instr) (op n : Nat) (f : Fmt → Nat → Nat → Nat → Nat), (c, op, n, f) ∈
        [(Instr.fadd, 0x20, 2, fun t x y _ => ieeeRound (Machine.Num.add dn (t.decode x) (t.decode y)) t md),
         (Instr.fsub, 0x21, 2, fun t x y _ => ieeeRound (Machine.Num.add dn (t.decode x) (t.decode y).negate) t md),
         (Instr.fmul, 0x22, 2, fun t x y _ => ieeeRound (Machine.Num.mul (t.decode x) (t.decode y)) t md),
         (Instr.fma, 0x23, 3, fun t x y z => ieeeRound (Machine.Num.add dn (Machine.Num.mul (t.decode x) (t.decode y)) (t.decode z)) t md),
         (Instr.fmin, 0x24, 2, fun t x y _ => fMinMax t false x y), (Instr.fmax, 0x25, 2, fun t x y _ => fMinMax t true x y),
         (Instr.fabs, 0x26, 1, fun t x _ _ => x % 2 ^ (t.bits - 1)), (Instr.fneg, 0x27, 1, fun t x _ _ => x ^^^ 2 ^ (t.bits - 1)),
         (Instr.frnd, 0x2A, 1, fun t x _ _ => ieeeRound (match t.decode x with
           | .fin s m e => Machine.Num.mk' s (roundUnits md 0 s m e 0) 0
           | v => v) t md)] →
      i.op = op → ∃ b, s.leavesSkein (c k) d k (some b) ∧ sk.vecWritten b i (fun l =>
        let x := sk.vval i.a l i.aCount
        let y := sk.vval i.b l i.bCount
        let z := sk.vval i.c l i.bCount
        (f i.fp x.1 y.1 z.1, x.2 || (decide (2 ≤ n) && y.2) || (decide (3 ≤ n) && z.2))))
    ∧ (∀ (c : Nat → Instr) (op n : Nat) (f : Machine.Num → Machine.Num → Machine.Num → Machine.Num), (c, op, n, f) ∈
        [(Instr.hfma, 0x2B, 3, fun x y z => Machine.Num.add dn (Machine.Num.mul x y) z), (Instr.hadd, 0x2C, 2, fun x y _ => Machine.Num.add dn x y),
         (Instr.hmul, 0x2D, 2, fun x y _ => Machine.Num.mul x y)] →
      i.op = op → ∃ b, s.leavesSkein (c k) d k (some b) ∧ sk.vecWritten b i (fun l =>
        let x := sk.vget i.a l
        let y := sk.vget i.b l
        let z := sk.vget i.c l
        let half (h : Nat) : Nat := ieeeRound (f (hf.decode (bitsAt x.1 (16 * h) 16)) (hf.decode (bitsAt y.1 (16 * h) 16)) (hf.decode (bitsAt z.1 (16 * h) 16))) hf md
        (half 0 + half 1 * 2 ^ 16, x.2 || y.2 || (decide (3 ≤ n) && z.2))))
    ∧ (∀ (c : Nat → Instr) (op fn : Nat), (c, op, fn) ∈
        [(Instr.frcp, 0x40, fnRcp), (Instr.fsqrt, 0x41, fnSqrt), (Instr.frsqrt, 0x42, fnRsqrt), (Instr.fexp2, 0x43, fnExp2),
         (Instr.flog2, 0x44, fnLog2), (Instr.fsin, 0x45, fnSin), (Instr.fcos, 0x46, fnCos)] →
      i.op = op → ∃ b, s.leavesSkein (c k) d k (some b) ∧ sk.vecWritten b i (fun l =>
        let x := sk.vval i.a l i.aCount
        (if i.typ = 5 then xOp op true md x.1 else fnBits fn x.1, x.2)))

/-- `cvt` writes the conversion of the source value (R84, R282): IEEE 754 rounding to FP32, FP64, BF16 and FP16; R83's rule to E4M3, E5M2, INT8 and
INT32, with saturation and NaN kept in SKS.SAT and SKS.NAN; to u32, i64 and u64 the rounded integer where it is in range, and a free value where it is
not, since no rule states that result (log entry 3). Rests on the model's choices of log entries 29 and 33. -/
def Obligations.ConversionInstruction : Prop :=
  ∀ (s : State) (k : Nat) (sk : Skein) (i : SIns) (d : Dev), s.executes k sk i d → i.op = 0x29 →
    let md := spoolMode sk.sks
    let src (l : Nat) : Machine.Num := cvtSource i.fmt (sk.vval i.a l i.aCount).1
    let res (l : Nat) : Nat × Bool × Bool :=
      match i.sub with
      | 4 => (ieeeRound (src l) .fp32 md, false, false)
      | 5 => (ieeeRound (src l) .fp64 md, false, false)
      | 6 => (ieeeRound (src l) .bf16 md, false, false)
      | 7 => (ieeeRound (src l) .fp16 md, false, false)
      | 1 => ((cvtWideInt 1 md (src l)).getD (Config.freeNat 5 (d.fresh + l) % 2 ^ 32), false, false)
      | 2 => ((cvtWideInt 2 md (src l)).getD (Config.freeNat 5 (d.fresh + l) % 2 ^ 64), false, false)
      | 3 => ((cvtWideInt 3 md (src l)).getD (Config.freeNat 5 (d.fresh + l) % 2 ^ 64), false, false)
      | n =>
        let c := convert (src l) (if n = 0 then .int32 else if n = 8 then .fp8e4m3 else if n = 9 then .fp8e5m2 else .int8) md false 0
        (c.bits, c.sat, c.nan)
    let lanes := (List.range 32).filter (fun l => bitAt (sk.eff i) l)
    let sticky (a : Skein) : Skein := (a.stick 8 (lanes.any (fun l => (res l).2.1))).stick 9 (lanes.any (fun l => (res l).2.2))
    ∃ b, s.leavesSkein (.cvt k) (if sk.eff i = 0 then d else { d with fresh := d.fresh + 32 }) k (some (sticky b))
      ∧ sk.vecWritten b i (fun l => ((res l).1, (sk.vval i.a l i.aCount).2))

/-- Comparisons, votes and predicate logic: the predicate (or mask) written, lane by lane, and nothing else; p0 stays all ones (R231, R283). An
unordered comparison holds only for `ne` and `unordered`. Rests on the model's choices of log entry 33. -/
def Obligations.PredicateInstructions : Prop :=
  ∀ (s : State) (k : Nat) (sk : Skein) (i : SIns) (d : Dev), s.executes k sk i d →
    (i.op = 0x14 → ∃ b, s.leavesSkein (.isetp k) d k (some b) ∧ sk.predWritten b i (sk.eff i) (fun l =>
      let x := sk.vval i.a l i.aCount
      let y := sk.vval i.b l i.bCount
      let u := BitVec.ofNat i.width x.1
      let v := BitVec.ofNat i.width y.1
      let less := if i.signed then u.slt v else u.ult v
      (match i.sub with
        | 0 => u == v
        | 1 => u != v
        | 2 => less
        | 3 => less || u == v
        | 4 => !less && u != v
        | _ => !less, x.2 || y.2 || sk.guardPoison i l)))
    ∧ (i.op = 0x28 → ∃ b, s.leavesSkein (.fsetp k) d k (some b) ∧ sk.predWritten b i (sk.eff i) (fun l =>
      let x := sk.vval i.a l i.aCount
      let y := sk.vval i.b l i.bCount
      (match Machine.Num.cmp (i.fp.decode x.1) (i.fp.decode y.1), i.sub with
        | none, n => decide (n = 1 ∨ n = 6)
        | some o, 0 => o == .eq
        | some o, 1 => o != .eq
        | some o, 2 => o == .lt
        | some o, 3 => o != .gt
        | some o, 4 => o == .gt
        | some o, 5 => o != .lt
        | some _, n => decide (n = 7), x.2 || y.2 || sk.guardPoison i l)))
    ∧ (i.op = 0x6B → ∃ b, s.leavesSkein (.ssetp k) d k (some b) ∧ sk.predWritten b i sk.active (fun _ =>
      let u := BitVec.ofNat 64 (sk.sget i.a).1
      let v := BitVec.ofNat 64 (sk.sget i.b).1
      let less := if i.typ = 2 then u.slt v else u.ult v
      (match i.sub with
        | 0 => u == v
        | 1 => u != v
        | 2 => less
        | 3 => less || u == v
        | 4 => !less && u != v
        | _ => !less, (sk.sget i.a).2 || (sk.sget i.b).2)))
    ∧ (∀ (c : Nat → Instr) (op : Nat) (f : Bool → Bool → Bool), (c, op, f) ∈
        [(Instr.pand, 0x6C, (· && ·)), (Instr.por, 0x6D, (· || ·)), (Instr.pxor, 0x6E, (· != ·)), (Instr.pnot, 0x6F, fun x _ => !x)] →
      i.op = op → ∃ b, s.leavesSkein (c k) d k (some b) ∧ sk.predWritten b i sk.active (fun l =>
        (f (bitAt (sk.pget i.a).1 l) (bitAt (sk.pget i.b).1 l), bitAt (sk.pget i.a).2 l || (decide (op ≠ 0x6F) && bitAt (sk.pget i.b).2 l))))
    ∧ (i.op = 0x16 → ∃ b, s.leavesSkein (.vote k) d k (some b) ∧ sk.scalarWritten b i (if sk.eff i = 0 then none else
        some ((sk.pget i.a).1 &&& sk.eff i, decide ((sk.pget i.a).2 &&& sk.eff i ≠ 0) || decide ((sk.pget i.pg).2 &&& sk.active ≠ 0))))

/-- The scalar instructions write one 64-bit scalar, modulo 2^64, and nothing else; with an empty active mask they only advance (R244, R283). `v2s`
takes va of the lowest effective lane. -/
def Obligations.ScalarInstructions : Prop :=
  ∀ (s : State) (k : Nat) (sk : Skein) (i : SIns) (d : Dev), s.executes k sk i d →
    let on (v : Nat × Bool) : Option (Nat × Bool) := if sk.active = 0 then none else some v
    let imm := (BitVec.ofNat 32 i.imm).signExtend 64
    (∀ (c : Nat → Instr) (op : Nat), (c, op) ∈
        [(Instr.sadd, 0x60), (Instr.ssub, 0x61), (Instr.smul, 0x62), (Instr.sand, 0x63), (Instr.sor, 0x64), (Instr.sxor, 0x65), (Instr.sshl, 0x66),
         (Instr.sshr, 0x67)] →
      i.op = op → ∃ b, s.leavesSkein (c k) d k (some b) ∧ sk.scalarWritten b i (on
        ((scalarWord op (decide (i.typ = 2)) (BitVec.ofNat 64 (sk.sget i.a).1) (BitVec.ofNat 64 (sk.sget i.b).1)).toNat,
          (sk.sget i.a).2 || (sk.sget i.b).2)))
    ∧ (i.op = 0x68 → ∃ b, s.leavesSkein (.smovi k) d k (some b) ∧ sk.scalarWritten b i (on (imm.toNat, false)))
    ∧ (i.op = 0x69 → ∃ b, s.leavesSkein (.smovhi k) d k (some b)
        ∧ sk.scalarWritten b i (on ((sk.sget i.d).1 % 2 ^ 32 + i.imm * 2 ^ 32, (sk.sget i.d).2)))
    ∧ (i.op = 0x6A → ∃ b, s.leavesSkein (.saddi k) d k (some b)
        ∧ sk.scalarWritten b i (on ((BitVec.ofNat 64 (sk.sget i.a).1 + imm).toNat, (sk.sget i.a).2)))
    ∧ (i.op = 0x17 → ∃ b, s.leavesSkein (.v2s k) d k (some b)
        ∧ sk.scalarWritten b i (((List.range 32).find? (fun l => bitAt (sk.eff i) l)).map (fun l =>
            ((sk.vval i.a l i.aCount).1, (sk.vval i.a l i.aCount).2 || sk.guardPoison i l))))

/-- Control flow (R235, R241 to R244): the program counter, the active mask and the divergence stack after each control instruction whose condition is
not poisoned; `seam` on an empty stack and a reserved encoding are no-ops that set ILLEGAL. -/
def Obligations.ControlFlow : Prop :=
  ∀ (s : State) (k : Nat) (sk : Skein) (i : SIns) (d : Dev), s.executes k sk i d →
    let next := (sk.pc + 8) % 2 ^ 52
    let L := (BitVec.ofNat 52 sk.pc + ((BitVec.ofNat 24 i.off).signExtend 52 <<< 3)).toNat
    let t := sk.active &&& sk.cond i
    let rest := sk.active &&& (2 ^ 32 - 1 - sk.cond i)
    let clean := (sk.pget i.pg).2 &&& sk.active = 0
    sk.active < 2 ^ 32 →
    (i.op = 0x00 → s.leavesSkein (.nopInstr k) d k (some { sk with pc := next }))
    ∧ (i.op = 0x70 → s.leavesSkein (.bra k) d k (some { sk with pc := L }))
    ∧ (i.op = 0x71 → clean → s.leavesSkein (.braAny k) d k (some { sk with pc := if t = 0 then next else L }))
    ∧ (i.op = 0x72 → clean → s.leavesSkein (.braNone k) d k (some { sk with pc := if t = 0 then L else next }))
    ∧ (i.op = 0x73 → clean → sk.stack.length < 16 → s.leavesSkein (.fork k) d k (some { sk with
        stack := sk.stack ++ [{ outer := sk.active, els := rest, taken := decide (t = 0), elsePc := L }],
        active := if t = 0 then rest else t, pc := if t = 0 then L else next }))
    ∧ (i.op = 0x74 → ∀ below e, sk.stack = below ++ [e] → s.leavesSkein (.seam k) d k (some
        (if e.taken = false ∧ e.els ≠ 0 then { sk with stack := below ++ [{ e with taken := true }], active := e.els, pc := e.elsePc }
          else { sk with stack := below, active := e.outer, pc := next })))
    ∧ (i.op = 0x74 → sk.stack = [] → s.leavesSkein (.seam k) d k (some { sk with sks := sk.sks ||| 2 ^ 10, pc := next }))
    ∧ (i.op = 0x75 → clean → s.leavesSkein (.brk k) d k (some { sk with active := rest, pc := next }))

/-- A word with a reserved encoding is a no-op that sets SKS.ILLEGAL and is counted in SPL_EVENTS.ILLEGAL (R235). -/
def Obligations.ReservedEncodingIsNoop : Prop :=
  ∀ (s : State) (k : Nat) (sk : Skein) (d : Dev) (w : Nat), s.running = true → k < 4096 → s.dev.skein k = some sk → s.dev.mayIssue sk = true →
    s.dev.fetchIns k sk = (d, .word w) → decodeSpool w = none →
    s.leavesSkein (.reservedEncoding k) d k (some { sk with pc := (sk.pc + 8) % 2 ^ 52, sks := sk.sks ||| 2 ^ 10 })
      ∧ ∃ e, exec (.reservedEncoding k) s = .next (s.after e) ∧ e.rf F.SPL_EVENTS_ILLEGAL = (d.rf F.SPL_EVENTS_ILLEGAL + 1) % 2 ^ 24

/-- The skein's own registers: the region of `mtx.enter` and `mtx.leave` (R246), the status register (R234, R285), the clocks (R283), and `fence`,
whose acquire part drops every line of the Spool's cache at partition scope and above (R263, R295). -/
def Obligations.SkeinRegisters : Prop :=
  ∀ (s : State) (k : Nat) (sk : Skein) (i : SIns) (d : Dev), s.executes k sk i d →
    let next := (sk.pc + 8) % 2 ^ 52
    let copied (v : Nat) (b : Skein) : Prop := b = { sk with pc := next, sreg := b.sreg } ∧ ∀ r, b.sget r = if r = i.d then (v % 2 ^ 64, false) else sk.sget r
    (i.op = 0x79 → s.leavesSkein (.mtxEnter k) d k (some { sk with pc := next, region := sk.active, regionOpen := true }))
    ∧ (i.op = 0x7A → s.leavesSkein (.mtxLeave k) d k (some { sk with pc := next, region := 0, regionOpen := false }))
    ∧ (i.op = 0x7E → ∃ b, s.leavesSkein (.sksRd k) d k (some b) ∧ copied sk.sks b)
    ∧ (i.op = 0x7F → s.leavesSkein (.sksWr k) d k (some { sk with pc := next, sks := (sk.sget i.a).1 &&& 0xF03 }))
    ∧ (i.op = 0x80 → ∃ b, s.leavesSkein (.rdtime k) d k (some b) ∧ copied d.time b)
    ∧ (i.op = 0x81 → ∃ b, s.leavesSkein (.rdturn k) d k (some b) ∧ copied (d.rf F.TRN_COUNT_COUNT) b)
    ∧ (i.op = 0x78 → i.sub = 1 ∨ sk.released i.scope = true → ∃ base, s.leavesSkein (.fence k) base k (some { sk with pc := next })
        ∧ base = { d with spl := { d.spl with cache := base.spl.cache } } ∧ (i.sub = 2 ∨ i.scope < 2 → base = d)
        ∧ (i.sub ≠ 2 → 2 ≤ i.scope → ∀ line, line < 2 ^ 45 →
            base.scLine (k / 16) line = none ∧ ∀ j, j ≠ k / 16 → base.scLine j line = d.scLine j line))
    ∧ (i.op = 0x78 → i.sub ≠ 1 → sk.released i.scope = false → exec (.fence k) s = .next (s.after s.dev))

/-- `exit` and the bundle barrier (R241, R245, R253 to R255, R260): threads that end leave the masks of the stack and of the region; a skein without
threads leaves once its requests have ended; a skein at `bar` waits until every thread of its bundle has arrived or ended, when all go on; a barrier
that has seen the end of the Turn after the one in which it began halts the launch with BARRIER_STALL. Rests on the model's choices of log entry
38. -/
def Obligations.ExitAndBarrier : Prop :=
  ∀ (s : State) (k : Nat) (sk : Skein),
    let next := (sk.pc + 8) % 2 ^ 52
    let gone (m : Nat) : Nat := m &&& (2 ^ 32 - 1 - sk.active)
    let left : Skein := { sk with ended := sk.ended ||| sk.active, active := 0, region := gone sk.region, pc := next,
                                  stack := sk.stack.map (fun e => { e with outer := gone e.outer, els := gone e.els }) }
    let waits : Skein := { sk with pc := next, atBar := true, arrived := sk.arrived ||| sk.active }
    (∀ i d, s.executes k sk i d → sk.active < 2 ^ 32 → sk.region < 2 ^ 32 → (∀ e ∈ sk.stack, e.outer < 2 ^ 32 ∧ e.els < 2 ^ 32) →
      (i.op = 0x76 → left.ended ≠ 2 ^ 32 - 1 → (∀ b, d.bundle sk.launch sk.bundle = some b → b.barTurns = none) →
        s.leavesSkein (.exit k) d k (some left))
      ∧ (i.op = 0x76 → left.ended = 2 ^ 32 - 1 → sk.reqs = [] → ∃ e, exec (.exit k) s = .next (s.after e) ∧ e.skein k = none
          ∧ (∀ it, d.item sk.launch = some it → ∃ it', e.item sk.launch = some it' ∧ it'.sat = (it.sat || bitAt sk.sks 8)
              ∧ it'.nan = (it.nan || bitAt sk.sks 9)
              ∧ ((∃ j t, j ≠ k ∧ d.skein j = some t ∧ t.launch = sk.launch ∧ t.bundle = sk.bundle) → it'.prog = it.prog)
              ∧ ((¬∃ j t, j ≠ k ∧ d.skein j = some t ∧ t.launch = sk.launch ∧ t.bundle = sk.bundle) → it'.prog = it.prog + 1)))
      ∧ (i.op = 0x77 → sk.active = 0 → s.leavesSkein (.bar k) d k (some { sk with pc := next }))
      ∧ (i.op = 0x77 → sk.active ≠ 0 → ∀ b, d.bundle sk.launch sk.bundle = some b → ∃ e, exec (.bar k) s = .next (s.after e)
          ∧ let all := waits.arrived ||| waits.ended = 2 ^ 32 - 1 ∧ ∀ j t, j ≠ k → d.skein j = some t → t.launch = sk.launch → t.bundle = sk.bundle →
                t.arrived ||| t.ended = 2 ^ 32 - 1
            e.sameElsewhere d ∧ e.spl.cache = d.spl.cache
            ∧ (¬all → (∃ b', e.bundle sk.launch sk.bundle = some b' ∧ b' = { b with barTurns := some (b.barTurns.getD 0) })
                ∧ e.skein k = some { waits with lastIssue := d.spl.clock + 1 } ∧ ∀ j, j ≠ k → e.skein j = d.skein j)
            ∧ (all → (∃ b', e.bundle sk.launch sk.bundle = some b' ∧ b' = { b with barTurns := none })
                ∧ e.skein k = some { waits with atBar := false, arrived := 0, lastIssue := d.spl.clock + 1 }
                ∧ ∀ j, j ≠ k → e.skein j = (d.skein j).map (fun t =>
                    if t.launch = sk.launch ∧ t.bundle = sk.bundle then { t with atBar := false, arrived := 0 } else t))))
    ∧ (s.running = true → s.dev.skein k = some sk → sk.atBar = true →
        ∀ b it n, s.dev.bundle sk.launch sk.bundle = some b → b.barTurns = some n → s.dev.item sk.launch = some it → it.early = none →
          ∃ e, exec (.barrierStall k) s = .next (s.after e)
            ∧ (n < 2 → e = s.dev)
            ∧ (2 ≤ n → e.item sk.launch = some { it with early := some 0x21, detail := k / 16 + k % 16 * 256 }
                ∧ (∀ id, id ≠ sk.launch → e.item id = s.dev.item id) ∧ e.spl = s.dev.spl ∧ e.mem = s.dev.mem))

/-- Matrix issue (R247 to R252, R290): `stn.issue` with the active mask equal to the region mask, and `stn.issue.lead` with a thread active, post one
operation of the eight scalars at the end of the partition's queue and write its ticket, which keeps the last eight; a header that fails writes a
ticket with HEADER_CHECK and posts nothing. `stn.wait` writes the completion of a ticket, or UNKNOWN, and is an acquire at partition scope; it waits
for an operation that has not completed. Rests on the model's choices of log entry 52. -/
def Obligations.MatrixIssue : Prop :=
  ∀ (s : State) (k : Nat) (sk : Skein) (i : SIns) (d : Dev), s.executes k sk i d →
    let next := (sk.pc + 8) % 2 ^ 52
    let wrote (b : Skein) (v : Nat) : Prop := ∀ r, b.sget r = if r = i.d then (v % 2 ^ 64, false) else sk.sget r
    let ticketed (b : Skein) (lane : Nat) (done : Option TicketDone) : Prop :=
      let all := sk.tickets ++ [{ num := sk.nextTicket, lane := lane, done := done }]
      b = { sk with pc := next, tickets := all.drop (all.length - 8), nextTicket := (sk.nextTicket + 1) % 2 ^ 32, sreg := b.sreg } ∧ wrote b sk.nextTicket
    (∀ (c : Nat → Instr) (op : Nat), (c, op) ∈ [(Instr.stnIssue, 0x7B), (Instr.stnIssueLead, 0x7C)] →
      i.op = op → (op = 0x7B → sk.regionOpen = true ∧ sk.active = sk.region) → (op = 0x7C → sk.active % 2 ^ 32 ≠ 0) →
      (∀ j, j < 8 → (sk.sget (i.a + j)).2 = false) → sk.released 2 = true →
      (sk.tickets.length = 8 → ∀ t, sk.tickets.head? = some t → t.done.isSome = true) → d.stnOccupied sk.part < 64 → d.stnClosed sk.part = false →
      ∀ it, d.item sk.launch = some it →
        let lane := ((List.range 32).find? (fun l => bitAt sk.active l)).getD 0
        (issueHeader sk i.a = false → ∃ b, s.leavesSkein (c k) d k (some b) ∧ ticketed b lane (some { status := 0x03 }))
        ∧ (issueHeader sk i.a = true → ∀ d' ext, d.stnCheck sk.part (skeinWaiter k fetchReq) (issueDesc sk i.a it.desc.turnBound) = (d', .pass, ext) →
            ∃ e b, exec (c k) s = .next (s.after e) ∧ ticketed b lane none ∧ e.skein k = some { b with lastIssue := d'.spl.clock + 1 }
              ∧ (∀ j, j ≠ k → e.skein j = d'.skein j) ∧ e.sameElsewhere { d' with ctl := e.ctl }
              ∧ e.ctl = { d'.ctl with nextId := d'.ctl.nextId + 1, items := d'.ctl.items ++
                  [{ id := d'.ctl.nextId, part := sk.part, ring := it.ring, seq := it.seq, desc := issueDesc sk i.a it.desc.turnBound, place := .queued,
                     ext := ext, posted := some { launch := sk.launch, spool := k / 16, slot := k % 16, ticket := sk.nextTicket } }] }))
    ∧ (i.op = 0x7C → sk.active = 0 → s.leavesSkein (.stnIssueLead k) d k (some { sk with pc := next }))
    ∧ (i.op = 0x7D → (sk.sget i.a).2 = false →
        (∀ v, (match sk.tickets.find? (fun t => t.num = (sk.sget i.a).1) with
            | none => v = 2 ^ 8
            | some t => ∃ c, t.done = some c ∧ v = c.status % 256 + b2n c.sat * 2 ^ 9 + b2n c.nan * 2 ^ 10 + b2n c.clamped * 2 ^ 11) →
          ∃ b, s.leavesSkein (.stnWait k) (d.scClear (k / 16)) k (some b) ∧ b = { sk with pc := next, sreg := b.sreg } ∧ wrote b v)
        ∧ (∀ t, sk.tickets.find? (fun t => t.num = (sk.sget i.a).1) = some t → t.done = none → exec (.stnWait k) s = .next (s.after s.dev)))

/-- A precise fault stops the skein at its instruction, which has no effect, and halts its launch with the fault's status; the first halt decides
(R242, R247, R257, R260): POISON for a poisoned condition, address, descriptor word or ticket, DIVSTACK_OVERFLOW, MATRIX_DIVERGENT. It is taken when
the skein's earlier requests have ended. Rests on the model's choices of log entries 33 and 34. -/
def Obligations.PreciseFaults : Prop :=
  ∀ (s : State) (k : Nat) (sk : Skein) (i : SIns) (d : Dev) (c : Nat → Instr) (op status sub typ : Nat), s.executes k sk i d → i.op = op →
    let cond := decide ((sk.pget i.pg).2 &&& sk.active ≠ 0)
    let lanes := (List.range 32).filter (fun l => bitAt (sk.eff i) l)
    let addr := lanes.any (fun l => (sk.laneAddr i l).2 || sk.guardPoison i l)
    let one := decide (sk.active ≠ 0) && (sk.laneAddr i 0).2
    let words := (List.range 8).any (fun j => (sk.sget (i.a + j)).2)
    let region := sk.regionOpen && decide (sk.active = sk.region)
    let range := decide (sk.active ≠ 0) && ((sk.sget i.sb).2 || (sk.sget i.a).2)
    (c, op, status) ∈ ([(Instr.braAny, 0x71, cond, 0x11), (Instr.braNone, 0x72, cond, 0x11), (Instr.fork, 0x73, cond, 0x11),
        (Instr.fork, 0x73, !cond && decide (16 ≤ sk.stack.length), 0x22), (Instr.brk, 0x75, cond, 0x11), (Instr.ld, 0x50, addr, 0x11),
        (Instr.st, 0x51, addr, 0x11), (fun k => Instr.atom k sub typ, 0x54, addr && atomPermitted sub typ i.size, 0x11),
        (fun k => Instr.red k sub typ, 0x56, addr && atomPermitted sub typ i.size, 0x11), (Instr.cas, 0x55, addr, 0x11), (Instr.lds, 0x52, one, 0x11), (Instr.sts, 0x53, one, 0x11),
        (Instr.pfS, 0x57, range, 0x11), (Instr.pfG, 0x58, range, 0x11), (Instr.flush, 0x59, range, 0x11), (Instr.invalS, 0x5A, range, 0x11),
        (Instr.invalG, 0x5B, range, 0x11), (Instr.dead, 0x5C, range, 0x11), (Instr.stnIssue, 0x7B, !region, 0x20),
        (Instr.stnIssue, 0x7B, region && words, 0x11), (Instr.stnIssueLead, 0x7C, decide (sk.active % 2 ^ 32 ≠ 0) && words, 0x11),
        (Instr.stnWait, 0x7D, (sk.sget i.a).2, 0x11)].filter (fun e => e.2.2.1)).map (fun e => (e.1, e.2.1, e.2.2.2)) →
    (sk.reqs = [] → ∃ e, exec (c k) s = .next (s.after e) ∧ e.skein k = some { sk with lastIssue := d.spl.clock + 1 }
      ∧ (∀ j, j ≠ k → e.skein j = d.skein j) ∧ e.sameElsewhere { d with ctl := e.ctl }
      ∧ e.ctl = { d.ctl with items := e.ctl.items } ∧ (∀ id, id ≠ sk.launch → e.item id = d.item id)
      ∧ ∀ it, d.item sk.launch = some it →
          e.item sk.launch = some (if it.early.isSome then it else { it with early := some status, detail := k / 16 + k % 16 * 256 }))
    ∧ (sk.reqs ≠ [] → exec (c k) s = .next (s.after s.dev))

/-- Loads, stores and atomics issue (R257, R261, R266, R267, R279 to R281, R292 to R294, R297 to R299): with unpoisoned addresses, no acquire
outstanding, its own release passed and its slots free, the instruction leaves one request for the lines it has still to access, a store with its
bytes, an atomic with its elements; a load whose lines all hit the Spool cache writes its registers at once. A form of R297's table that is not
permitted is a no-op that sets ILLEGAL. With an empty mask they only advance. Rests on the model's choices of log entries 35, 36 and 37. -/
def Obligations.MemoryIssue : Prop :=
  ∀ (s : State) (k : Nat) (sk : Skein) (i : SIns) (d : Dev), s.executes k sk i d →
    let next := (sk.pc + 8) % 2 ^ 52
    let lanes := (List.range 32).filter (fun l => bitAt (sk.eff i) l)
    let at' := lanes.map (fun l => (l, (sk.laneAddr i l).1))
    let one := [(0, (sk.laneAddr i 0).1)]
    let clean := ¬lanes.any (fun l => (sk.laneAddr i l).2 || sk.guardPoison i l)
    let inside (as : List (Nat × Nat)) := as.filter (fun e => !(i.sp && decide (d.spadSize ≤ e.2)))
    let lines (as : List (Nat × Nat)) : List Nat := ((as.flatMap (fun e => i.span e.2)).map i.lineOf).eraseDups
    let noted (as : List (Nat × Nat)) : Bool := as.any (fun e => i.sp && decide (d.spadSize ≤ e.2))
    let moved (e : Dev) (b : Skein) : Prop := e.sameElsewhere d ∧ e.skein k = some b ∧ (∀ j, j ≠ k → e.skein j = d.skein j) ∧ e.spl.bundles = d.spl.bundles
      ∧ b = { sk with pc := next, sks := b.sks, vreg := b.vreg, sreg := b.sreg, reqs := b.reqs, nextReq := b.nextReq, lastIssue := b.lastIssue }
    let stuck (as : List (Nat × Nat)) : Prop := sk.memReady i = true ∧ d.slotsFree k sk (lines as).length = true
    let blocked (l : Nat) : Bool := sk.reqs.any (fun q => q.isStore && decide (q.ins.sp = i.sp) && q.parts.any (fun x => x.line = l))
    let missed (as : List (Nat × Nat)) : List Nat := (lines (inside as)).filter (fun l => i.sp || decide (i.ord ≠ 0) || blocked l || (d.scLine (k / 16) l).isNone)
    (∀ (c : Nat → Instr) (op : Nat) (kind : SKind) (as : List (Nat × Nat)), (c, op, kind, as) ∈ [(Instr.ld, 0x50, .ld, at'), (Instr.lds, 0x52, .lds, one)] →
      i.op = op → (if op = 0x50 then sk.eff i ≠ 0 ∧ clean else sk.active ≠ 0 ∧ (sk.laneAddr i 0).2 = false) → stuck (inside as) →
      ∃ e b, exec (c k) s = .next (s.after e) ∧ moved e b ∧ (bitAt b.sks 10 = (bitAt sk.sks 10 || noted as))
        ∧ (missed as ≠ [] → b.vreg = sk.vreg ∧ b.sreg = sk.sreg ∧ b.nextReq = sk.nextReq + 1
            ∧ ∃ q, b.reqs = sk.reqs ++ [q] ∧ q.id = sk.nextReq ∧ q.kind = kind ∧ q.ins = i ∧ q.lanes = as ∧ q.parts.map (·.line) = missed as
              ∧ ∀ x ∈ q.parts, x.fault = none)
        ∧ (missed as = [] → b.reqs = sk.reqs ∧ b.nextReq = sk.nextReq
            ∧ (∀ r l, l < 32 → ¬(kind = .ld ∧ l ∈ lanes ∧ i.d ≤ r ∧ r < i.d + i.dCount) → b.vget r l = sk.vget r l)
            ∧ (∀ r, ¬(kind = .lds ∧ i.d ≤ r ∧ r < i.d + i.dCount) → b.sget r = sk.sget r)
            ∧ ∃ q, q.kind = kind ∧ q.ins = i ∧ q.lanes = as ∧ b.vreg = (sk.finishLoad q).vreg ∧ b.sreg = (sk.finishLoad q).sreg
              ∧ q.got = (lines (inside as)).flatMap (fun l =>
                  ((d.scLine (k / 16) l).map (fun c => c.bytes.zipIdx.map (fun e => (l * 128 + e.2, e.1)))).getD [])))
    ∧ (∀ (c : Nat → Instr) (op : Nat) (kind : SKind) (as : List (Nat × Nat)), (c, op, kind, as) ∈ [(Instr.st, 0x51, .st, at'), (Instr.sts, 0x53, .sts, one)] →
      i.op = op → (if op = 0x51 then sk.eff i ≠ 0 ∧ clean else sk.active ≠ 0 ∧ (sk.laneAddr i 0).2 = false) → stuck (inside as) →
      ∃ e b, exec (c k) s = .next (s.after e) ∧ moved e b ∧ (bitAt b.sks 10 = (bitAt sk.sks 10 || noted as)) ∧ b.vreg = sk.vreg ∧ b.sreg = sk.sreg
        ∧ (lines (inside as) = [] → b.reqs = sk.reqs)
        ∧ (lines (inside as) ≠ [] → b.nextReq = sk.nextReq + 1 ∧ ∃ q, b.reqs = sk.reqs ++ [q] ∧ q.id = sk.nextReq ∧ q.kind = kind ∧ q.ins = i ∧ q.lanes = inside as
        ∧ q.parts.map (·.line) = lines (inside as)
        ∧ q.bytes = (inside as).flatMap (fun e => (List.range i.bytes).map (fun j =>
            let v := if op = 0x51 then sk.vget (i.d + j / 4) e.1 else sk.sget (i.d + j / 8)
            (e.1, (if i.sp then e.2 + j else (e.2 + j) % 2 ^ 52),
              { b := BitVec.ofNat 8 (v.1 / 256 ^ (if op = 0x51 then j % 4 else j % 8)), p := v.2 })))))
    ∧ (∀ (c : Nat → Instr) (op : Nat) (kind : SKind) (what : RedKind) (ty : RedType) (sub typ : Nat), (c, op, kind, what, ty) ∈
        [(Instr.cas, 0x55, .atom, .cas, if i.size = 3 then RedType.i64 else .i32),
         (fun k => Instr.atom k sub typ, 0x54, .atom, (atomKind sub).getD .add, (atomType typ).getD .i32),
         (fun k => Instr.red k sub typ, 0x56, .red, (atomKind sub).getD .add, (atomType typ).getD .i32)] →
      i.op = op → (op ≠ 0x55 → atomPermitted sub typ i.size = true) → sk.eff i ≠ 0 → clean →
      let aligned := at'.filter (fun e => decide (e.2 % i.bytes = 0))
      let ls := ((aligned.map (·.2)).map i.lineOf).eraseDups
      sk.memReady i = true → d.slotsFree k sk ls.length = true →
      ∃ e b, exec (c k) s = .next (s.after e) ∧ moved e b ∧ (bitAt b.sks 10 = (bitAt sk.sks 10 || at'.any (fun e => decide (e.2 % i.bytes ≠ 0))))
        ∧ b.sreg = sk.sreg
        ∧ (ls = [] → b.reqs = sk.reqs ∧ ∀ r l, l < 32 → b.vget r l =
            if kind = .atom ∧ l ∈ lanes ∧ i.d ≤ r ∧ r < i.d + i.dCount ∧ r < sk.vregs then (0, false) else sk.vget r l)
        ∧ (ls ≠ [] → b.vreg = sk.vreg ∧ b.nextReq = sk.nextReq + 1 ∧ ∃ q, b.reqs = sk.reqs ++ [q] ∧ q.id = sk.nextReq ∧ q.kind = kind ∧ q.ins = i
        ∧ q.lanes = at' ∧ q.parts.map (·.line) = ls ∧ q.elems.map (fun x => (x.1, x.2.off)) = aligned
        ∧ (∀ x ∈ q.elems, x.2.op = what ∧ x.2.ty = ty ∧ x.2.ret = decide (kind = .atom)
            ∧ x.2.val = (sk.vval i.b x.1 (if i.size = 3 then 2 else 1)).1 % 2 ^ (8 * i.bytes))
        ∧ ∀ l ∈ ls, e.scLine (k / 16) l = none))
    ∧ (∀ (c : Nat → Instr) (op sub typ : Nat), (c, op) ∈ [(fun k => Instr.atom k sub typ, 0x54), (fun k => Instr.red k sub typ, 0x56)] →
      i.op = op → atomPermitted sub typ i.size = false → s.leavesSkein (c k) d k (some { sk with pc := next, sks := sk.sks ||| 2 ^ 10 }))
    ∧ (∀ (c : Nat → Instr) (op sub typ : Nat), (c, op) ∈ [(Instr.ld, 0x50), (Instr.st, 0x51), (Instr.cas, 0x55)] ++
          (if atomPermitted sub typ i.size then [(fun k => Instr.atom k sub typ, 0x54), (fun k => Instr.red k sub typ, 0x56)] else []) →
        i.op = op → sk.eff i = 0 → s.leavesSkein (c k) d k (some { sk with pc := next }))
    ∧ (∀ (c : Nat → Instr) (op : Nat), (c, op) ∈ [(Instr.lds, 0x52), (Instr.sts, 0x53)] → i.op = op → sk.active = 0 →
        s.leavesSkein (c k) d k (some { sk with pc := next }))

/-- Range instructions (R301 to R303): the base is s[SB] + OFF modulo 2^52, the length is cut at 4 KiB (pf.s) or 1 GiB and at 2^52; length 0 writes sd
← 0; `inval.s` drops the Spool's copies of every line the range touches and writes sd at once; `pf.s` requests the lines that miss the Spool cache;
the others send one request to the Granary for the whole range. Rests on the model's choices of log entry 29. -/
def Obligations.RangeIssue : Prop :=
  ∀ (s : State) (k : Nat) (sk : Skein) (i : SIns) (d : Dev), s.executes k sk i d → sk.active ≠ 0 → (sk.sget i.sb).2 = false → (sk.sget i.a).2 = false →
    let next := (sk.pc + 8) % 2 ^ 52
    let a := ((sk.sget i.sb).1 + (BitVec.ofNat 21 i.off).toInt) % (2 ^ 52 : Nat) |>.toNat
    let n := min (min (sk.sget i.a).1 (if i.op = 0x57 then 4096 else 2 ^ 30)) (2 ^ 52 - a)
    let last := (a + n - 1) / 128
    let touched : List Nat := if n = 0 then [] else (List.range (last - a / 128 + 1)).map (a / 128 + ·)
    let moved (e : Dev) (b : Skein) : Prop := e.sameElsewhere d ∧ e.skein k = some b ∧ (∀ j, j ≠ k → e.skein j = d.skein j) ∧ e.spl.bundles = d.spl.bundles
      ∧ b = { sk with pc := next, sreg := b.sreg, reqs := b.reqs, nextReq := b.nextReq, lastIssue := d.spl.clock + 1 }
    let wrote (b : Skein) (v : Nat) : Prop := b.reqs = sk.reqs ∧ b.nextReq = sk.nextReq ∧ ∀ r, b.sget r = if r = i.d then (v, false) else sk.sget r
    let asks (b : Skein) (kind : SKind) (parts : List Nat) (from' to' : Nat) : Prop := b.sreg = sk.sreg ∧ b.nextReq = sk.nextReq + 1
      ∧ ∃ q, b.reqs = sk.reqs ++ [q] ∧ q.id = sk.nextReq ∧ q.kind = kind ∧ q.ins = i ∧ q.parts.map (·.line) = parts ∧ q.next = from' ∧ q.stop = to' ∧ q.acted = n
    (∀ (c : Nat → Instr) (op r : Nat), (c, op, r) ∈ [(Instr.pfG, 0x58, 0), (Instr.flush, 0x59, 1), (Instr.invalG, 0x5B, 2), (Instr.dead, 0x5C, 3)] →
      i.op = op →
      (n = 0 → ∃ e b, exec (c k) s = .next (s.after e) ∧ moved e b ∧ e.spl.cache = d.spl.cache ∧ wrote b 0)
      ∧ (n ≠ 0 → sk.memReady i = true → d.slotsFree k sk 1 = true → ∃ e b, exec (c k) s = .next (s.after e) ∧ moved e b ∧ e.spl.cache = d.spl.cache
          ∧ asks b (.range r) [a / 128] a (a + n)))
    ∧ (i.op = 0x5A → sk.memReady i = true → ∃ e b, exec (.invalS k) s = .next (s.after e) ∧ moved e b ∧ wrote b n
        ∧ ∀ line, line < 2 ^ 45 → e.scLine (k / 16) line = if line ∈ touched then none else d.scLine (k / 16) line)
    ∧ (i.op = 0x57 →
        let miss := touched.filter (fun l => (d.scLine (k / 16) l).isNone)
        (n = 0 → ∃ e b, exec (.pfS k) s = .next (s.after e) ∧ moved e b ∧ wrote b 0)
        ∧ (n ≠ 0 → sk.memReady i = true → d.slotsFree k sk miss.length = true → ∃ e b, exec (.pfS k) s = .next (s.after e) ∧ moved e b
            ∧ e.spl.cache = d.spl.cache ∧ (miss = [] → wrote b n) ∧ (miss ≠ [] → asks b .pfs miss 0 0)))

/-- Data returns and stores are acknowledged (R262, R266, R281, R293): a line of a load is kept until the last, which writes the registers of the
lanes (little-endian, extended by SIGN when 1 or 2 bytes), frees the slots and lets an acquire drop the Spool's lines; a line of a store is written
and its slot freed; on the scratchpad the highest lane's byte wins. Rests on the model's choices of log entry 36. -/
def Obligations.ReturnsAndAcknowledgements : Prop :=
  ∀ (s : State) (k req line : Nat) (sk : Skein) (q : SReq) (x : SPart), s.running = true → s.dev.skein k = some sk →
    sk.reqs.find? (fun r => r.id = req) = some q → q.parts.find? (fun y => decide (y.line = line) && y.fault.isNone) = some x →
    sk.earlierDone q = true →
    let rest := q.parts.filter (fun y => y.line ≠ line)
    let kept (b : Skein) (q' : SReq) : Prop := b = { sk with reqs := sk.reqs.map (fun r => if r.id = q.id then q' else r) }
    let freed : List SReq := sk.reqs.filter (fun r => decide (r.id ≠ q.id))
    (∀ d' bs, (q.kind = .ld ∨ q.kind = .lds) → s.dev.loadPart k sk q x = (d', .ok bs) →
      (rest ≠ [] → ∃ e b, exec (.loadReturn k req line) s = .next (s.after e) ∧ e.skein k = some b ∧ kept b { q with parts := rest, got := q.got ++ bs }
        ∧ (∀ j, j ≠ k → e.skein j = d'.skein j) ∧ e.sameElsewhere d')
      ∧ (rest = [] → ∃ e b, exec (.loadReturn k req line) s = .next (s.after e) ∧ e.skein k = some b
          ∧ b = { (sk.finishLoad { q with parts := rest, got := q.got ++ bs }) with reqs := freed }
          ∧ (∀ j, j ≠ k → e.skein j = d'.skein j) ∧ e.sameElsewhere (d'.sweep (skeinWaiter k q.id))
          ∧ (q.ins.ord % 2 = 1 → 2 ≤ q.ins.scope → ∀ l, l < 2 ^ 45 → e.scLine (k / 16) l = none)
          ∧ (q.ins.ord % 2 = 0 ∨ q.ins.scope < 2 → e.spl.cache = d'.spl.cache)))
    ∧ ((q.kind = .st ∨ q.kind = .sts) → q.ins.sp = true → ∃ e b, exec (.storeAck k req line) s = .next (s.after e) ∧ e.skein k = some b
        ∧ (rest ≠ [] → kept b { q with parts := rest }) ∧ (rest = [] → b = { sk with reqs := freed })
        ∧ (∀ j, j ≠ k → e.skein j = s.dev.skein j)
        ∧ e.sameElsewhere { (if rest = [] then s.dev.sweep (skeinWaiter k q.id) else s.dev) with mem := e.mem } ∧ e.mem.hbm = s.dev.mem.hbm ∧ e.mem.hop = s.dev.mem.hop ∧ e.mem.lines = s.dev.mem.lines
        ∧ ∀ o, o < s.dev.spadSize → (e.spadByte sk.part o).b =
            match (q.bytes.filter (fun y => y.2.1 = o ∧ o / 64 = line)).getLast? with
            | some y => y.2.2.b
            | none => (s.dev.spadByte sk.part o).b)
    ∧ (∀ d' key c o d'', (q.kind = .st ∨ q.kind = .sts) → q.ins.sp = false → s.dev.translate sk.part (line * 128) .write = (d', .line key c o) →
        d'.lineWrite (some sk.part) key q.ins.hint ((q.lineBytes line).map (fun e => (e.1 % 128, e.2))) = (d'', true) →
        ∃ e b, exec (.storeAck k req line) s = .next (s.after e) ∧ e.skein k = some b
          ∧ (rest ≠ [] → kept b { q with parts := rest }) ∧ (rest = [] → b = { sk with reqs := freed })
          ∧ (∀ j, j ≠ k → e.skein j = d''.skein j) ∧ e.sameElsewhere (if rest = [] then d''.sweep (skeinWaiter k q.id) else d''))

/-- What a finished load puts in a register (R258, R279, R283): for `ld`, register r of the destination of a lane holds bytes 4 r to 4 r + 3 of the
lane's access, an access of 1 or 2 bytes sign-extended with SIGN; each register carries the poison of its bytes. Rests on the model's choices of log
entry 33. -/
def Obligations.LoadedValue : Prop :=
  ∀ (sk : Skein) (q : SReq) (l a r : Nat), q.kind = .ld → q.ins.op = 0x50 → q.ins.size ≤ 4 → l < 32 → (l, a) ∈ q.lanes →
    (q.lanes.map (·.1)).Nodup → (∀ e ∈ q.lanes, e.1 < 32) → r < q.ins.dCount → q.ins.d + r < sk.vregs →
    let i := q.ins
    let at' (j : Nat) : MByte := ((q.got.find? (fun e => e.1 = if i.sp then a + 4 * r + j else (a + 4 * r + j) % 2 ^ 52)).map (·.2)).getD { b := 0 }
    let n := min 4 i.bytes
    let v := (List.range n).foldr (fun j x => (at' j).b.toNat + 256 * x) 0
    ((sk.finishLoad q).vget (i.d + r) l).1 = (if i.sign = true ∧ n ≤ 2 then ((BitVec.ofNat (8 * n) v).signExtend 32).toNat else v)
      ∧ ((sk.finishLoad q).vget (i.d + r) l).2 = ((List.range n).any (fun j => (at' j).p) || sk.guardPoison i l)

/-- Launches and bundles (R228, R230, R231, R271): a launch begins with its argument block read, clamping SKEINS and VREGS; the next bundle goes whole
to the free slots of a Spool that may take it, each skein with R231's registers; a saved bundle of a running launch goes first. Rests on the model's
choices of log entry 7. -/
def Obligations.LaunchesAndBundles : Prop :=
  ∀ (s : State) (p spool item : Nat) (it : Item), s.running = true →
    let d := s.dev
    let c := it.desc
    let running := d.ctl.items.filter (fun x => decide (x.part = p) && decide (x.engine = .launch) && decide (x.place = .running))
    let begun (vals : List Nat) : Item := { it with clamped := it.clamped || decide (16 < c.fld 1 32 5) || decide (64 < c.fld 1 37 7), vals := vals }
    (d.launchNext item = some it →
      ((c.fld 3 0 52 = 0 ∨ launchNoop c = true) → ∃ e, exec (.splLaunch item) s = .next (s.after e) ∧ e.item item = some (begun (List.replicate 8 0))
        ∧ (∀ id, id ≠ item → e.item id = d.item id) ∧ e.sameElsewhere { d with ctl := e.ctl } ∧ e.spl = d.spl)
      ∧ (∀ d' bs, c.fld 3 0 52 ≠ 0 → launchNoop c = false → d.vread it.part (.item item) (c.fld 3 0 52) 64 = (d', .ok bs) → bs.length = 64 →
          ∃ e, exec (.splLaunch item) s = .next (s.after e) ∧ e.sameElsewhere { d'.sweep (.item item) with ctl := e.ctl } ∧ e.spl = d'.spl
            ∧ (∀ i, d'.item item = some i → e.item item = some (begun ((List.range 8).map (fun j => leNat (((bs.drop (8 * j)).take 8).map (·.b))
                + if ((bs.drop (8 * j)).take 8).any (·.p) then 2 ^ 64 else 0))))))
    ∧ ((∀ b ∈ d.spl.bundles, b.spool.isNone = true → ∀ x ∈ running, x.id = b.launch → x.dispatches = false) →
      running.find? (fun x => !launchDispatched x) = some it → it.dispatches = true → d.spoolOpen p spool it.id (launchSkeins c) = true →
      ∃ e, exec (.bundleDispatch p spool) s = .next (s.after e)
        ∧ e.spl.bundles = d.spl.bundles ++ [{ launch := it.id, ordinal := it.pos.1, spool := some spool }]
        ∧ (∀ (j t : Nat), j < launchSkeins c → ((List.range 16).filter (fun t => (d.skein (16 * spool + t)).isNone))[j]? = some t →
            e.skein (16 * spool + t) = some (startSkein it it.pos.1 j))
        ∧ (∀ k, (∀ j t, j < launchSkeins c → ((List.range 16).filter (fun t => (d.skein (16 * spool + t)).isNone))[j]? = some t → k ≠ 16 * spool + t) →
            e.skein k = d.skein k)
        ∧ (∀ i, d.item it.id = some i → e.item it.id = some { it with pos := (it.pos.1 + 1, it.pos.2) }) ∧ e.sameElsewhere { d with ctl := e.ctl }
        ∧ e.spl.cache = d.spl.cache)
    ∧ (∀ b, d.spl.bundles.find? (fun b => b.spool.isNone && running.any (fun x => decide (x.id = b.launch) && x.dispatches)) = some b →
      d.spoolOpen p spool b.launch b.saved.length = true →
      ∃ e, exec (.bundleDispatch p spool) s = .next (s.after e)
        ∧ e.spl.bundles = d.spl.bundles.map (fun x => if x.launch = b.launch ∧ x.ordinal = b.ordinal then { b with spool := some spool, saved := [] } else x)
        ∧ (∀ (j t : Nat) (x : Skein), ((List.range 16).filter (fun t => (d.skein (16 * spool + t)).isNone))[j]? = some t → b.saved[j]? = some x →
            e.skein (16 * spool + t) = some x)
        ∧ e.ctl = d.ctl ∧ e.sameElsewhere d)
    ∧ (∀ o j, 0 < launchVregs c → let t := startSkein it o j
        t.pc = c.fld 2 0 52 ∧ t.active = 2 ^ 32 - 1 ∧ t.ended = 0 ∧ t.stack = [] ∧ t.sks = 0 ∧ t.launch = it.id ∧ t.bundle = o ∧ t.reqs = [] ∧ t.tickets = []
        ∧ t.sget 0 = ((c.fld 4 0 32 + o) % 2 ^ 64, false) ∧ t.sget 1 = (j % 2 ^ 64, false) ∧ t.sget 2 = (min 16 (c.fld 1 32 5), false)
        ∧ t.sget 3 = (c.tag % 2 ^ 64, false) ∧ (∀ w, w < 8 → t.sget (8 + w) = (it.vals.getD w 0 % 2 ^ 64, decide (2 ^ 64 ≤ it.vals.getD w 0)))
        ∧ (∀ r, (4 ≤ r ∧ r < 8) ∨ 16 ≤ r → t.sget r = (0, false)) ∧ (∀ q, q ≠ 0 → t.pget q = (0, 0)) ∧ t.pget 0 = (2 ^ 32 - 1, 0)
        ∧ ∀ l, l < 32 → t.vget 0 l = (l, false) ∧ (1 < launchVregs c → t.vget 1 l = ((j * 32 + l) % 2 ^ 32, false)) ∧ ∀ r, 2 ≤ r → t.vget r l = (0, false))

/-- The end of an item (R452, R453, R456): its final record, with the status of R456 and PROGRESS, is written at CBASE + 32 × (count mod size) and
then the producer word; the item leaves the module. Rests on the model's choices of log entry 7. -/
def Obligations.CompletionRecord : Prop :=
  ∀ (d : Dev) (it : Item), it.part < 4 → it.ring < 64 →
    let n := 64 * it.part + it.ring
    let status := match it.early with
      | some c => c
      | none => if it.poison then 0x11 else if it.clamped then 0x01 else if it.sat then 0x50 else 0x00
    let d0 := (if status = 0x11 then d.poisonRecord it else d).noteLinks it
    let count := (d.ring n).prod
    let word0 := status % 256 + it.desc.opcode % 256 * 2 ^ 8 + it.desc.tag % 2 ^ 16 * 2 ^ 16 + it.ring % 64 * 2 ^ 32 + it.part % 4 * 2 ^ 38
      + b2n it.sat * 2 ^ 40 + b2n it.nan * 2 ^ 41 + b2n it.clamped * 2 ^ 42 + b2n it.poison * 2 ^ 43 + it.overruns % 8 * 2 ^ 44
      + b2n it.deferred * 2 ^ 47 + it.detail % 2 ^ 16 * 2 ^ 48
    let record := leBytes 8 word0 ++ leBytes 8 (it.seq % 2 ^ 32 + d.rf F.TRN_COUNT_COUNT % 2 ^ 32 * 2 ^ 32) ++ leBytes 8 ((it.prog - it.short) % 2 ^ 64)
      ++ leBytes 8 (d.time % 2 ^ 64)
    let w := (d0.toCompanion (d.rf (F.QUE_CBASE_BASE n) * 64 + 32 * (count % 2 ^ d.rf (F.QUE_RCTL_CLOG2SIZE n))) record).toCompanion
      (d.rf (F.QUE_CPROD_ADDR n) * 8) (leBytes 8 (doorbellWord ((count + 1) % 2 ^ 32)))
    let e := d.finishItem it
    record.length = 32 ∧ e.cpl = w.cpl ∧ e.out = w.out ∧ e.fab = w.fab ∧ (e.ring n).prod = (count + 1) % 2 ^ 32 ∧ (∀ m, m ≠ n → e.ring m = d.ring m)
      ∧ e.item it.id = none ∧ (∀ id, id ≠ it.id → e.item id = d.item id) ∧ e.spl = d.spl ∧ e.time = d.time

/-! ### Queues, service operations, faults -/

/-- A doorbell or consumer word of an active ring (R436, R438, R454): the new count is taken when its halves are complements and it moves forward
within the ring; any other word leaves the ring as it was and is counted in BAD_DB or BAD_CONSUMER; a failed read is counted once until a good read.
No other ring and no item changes. Rests on the model's choices of log entries 8 and 69. -/
def Obligations.RingWords : Prop :=
  ∀ (s : State) (p r word : Nat), s.running = true → p < 4 → r < 64 → s.dev.rb (F.QUE_RSTAT_ACTIVE (64 * p + r)) = true →
    let n := 64 * p + r
    let x := s.dev.ring n
    let c := word % 2 ^ 32
    let ahead (t : Nat) : Nat := (t + 2 ^ 32 - s.dev.rf (F.QUE_RSTAT_HEAD n)) % 2 ^ 32
    let comp := word / 2 ^ 32 % 2 ^ 32 + c = 2 ^ 32 - 1
    let others (e : Dev) : Prop := (∀ m, m ≠ n → e.ring m = s.dev.ring m) ∧ e.ctl.items = s.dev.ctl.items ∧ e.mem = s.dev.mem ∧ e.spl = s.dev.spl
    let bumped (e : Dev) (f : Fld) (k : Nat) : Prop := e.rf f = (s.dev.rf f + k) % 2 ^ f.w
    (∃ e, exec (.doorbell p r 0 word false) s = .next (s.after e) ∧ others e
      ∧ (comp ∧ ahead c ≤ 2 ^ s.dev.rf (F.QUE_RCTL_LOG2SIZE n) ∧ ahead x.tail ≤ ahead c →
          e.ring n = { x with badDb := false, tail := c } ∧ bumped e (F.QUE_RSTAT_BAD_DB n) 0)
      ∧ (¬(comp ∧ ahead c ≤ 2 ^ s.dev.rf (F.QUE_RCTL_LOG2SIZE n) ∧ ahead x.tail ≤ ahead c) →
          e.ring n = { x with badDb := false } ∧ bumped e (F.QUE_RSTAT_BAD_DB n) 1))
    ∧ (∃ e, exec (.doorbell p r 1 word false) s = .next (s.after e) ∧ others e
      ∧ (comp ∧ (c + 2 ^ 32 - x.cons) % 2 ^ 32 ≤ (x.prod + 2 ^ 32 - x.cons) % 2 ^ 32 →
          e.ring n = { x with badCons := false, cons := c } ∧ bumped e F.QUE_EVENTS_BAD_CONSUMER 0)
      ∧ (¬(comp ∧ (c + 2 ^ 32 - x.cons) % 2 ^ 32 ≤ (x.prod + 2 ^ 32 - x.cons) % 2 ^ 32) →
          e.ring n = { x with badCons := false } ∧ bumped e F.QUE_EVENTS_BAD_CONSUMER 1))
    ∧ (∃ e, exec (.doorbell p r 0 word true) s = .next (s.after e) ∧ others e ∧ e.ring n = { x with badDb := true }
      ∧ bumped e (F.QUE_RSTAT_BAD_DB n) (if x.badDb then 0 else 1))
    ∧ (∃ e, exec (.doorbell p r 1 word true) s = .next (s.after e) ∧ others e ∧ e.ring n = { x with badCons := true }
      ∧ bumped e F.QUE_EVENTS_BAD_CONSUMER (if x.badCons then 0 else 1))

/-- A descriptor arrives (R440, R442 to R444): within 32 descriptors ahead of the head it joins the ring's fetched ones with its count, marked
HEADER_CHECK when its header or its code fails, or a check of its chapter does, and POISON when its fetch or its tables did. A deferred one enters its
engine queue (R421, R449, R450): the oldest pool entry of an admitting partition whose queue is empty and whose ring is not held becomes the last in
the order of entry, queued, noting the saved items of its engine (R451); nothing else moves; a copy that a Sluice has taken and a launch without
bundles left have left theirs. Rests on the model's choices of log entries 7, 8 and 97. -/
def Obligations.DescriptorFetches : Prop :=
  (∀ (s : State) (p r : Nat) (c : Desc), s.running = true → p < 4 → r < 64 → s.dev.rb (F.QUE_RSTAT_ACTIVE (64 * p + r)) = true →
      let n := 64 * p + r
      let x := s.dev.ring n
      let k := x.fetched.length
      k < 32 → k < (x.tail + 2 ^ 32 - s.dev.rf (F.QUE_RSTAT_HEAD n)) % 2 ^ 32 →
      let joined (e base : Dev) (bad : Option Nat) (ext : List Nat) : Prop :=
        e.ring n = { base.ring n with fetched := (base.ring n).fetched ++
            [{ seq := (s.dev.rf (F.QUE_RSTAT_HEAD n) + k) % 2 ^ 32, desc := c, bad := bad, ext := ext }] }
          ∧ (∀ m, m ≠ n → e.ring m = base.ring m) ∧ e.ctl.items = base.ctl.items ∧ e.mem = base.mem ∧ e.spl = base.spl
      (∃ e, exec (.descriptorFetch p r c true) s = .next (s.after e) ∧ joined e s.dev (some 0x11) [])
      ∧ ((c.w7 ≠ ~~~c.w0 ∨ classAccepts (s.dev.rf (F.QUE_RCTL_CLASS n)) (engineOf c.opcode) = false) →
          ∃ e, exec (.descriptorFetch p r c false) s = .next (s.after e) ∧ joined e s.dev (some 0x03) [])
      ∧ (∀ d' ext, s.dev.checkDesc p n c x.fetched.getLast? = (d', .pass, ext) →
          ∃ e, exec (.descriptorFetch p r c false) s = .next (s.after e) ∧ joined e d' none ext)
      ∧ (∀ d' ext, s.dev.checkDesc p n c x.fetched.getLast? = (d', .fail, ext) →
          ∃ e, exec (.descriptorFetch p r c false) s = .next (s.after e) ∧ joined e d' (some 0x03) [])
      ∧ (∀ d' a ext, s.dev.checkDesc p n c x.fetched.getLast? = (d', .poison a, ext) →
          ∃ e, exec (.descriptorFetch p r c false) s = .next (s.after e) ∧ joined e d' (some 0x11) []))
  ∧ ∀ (s : State) (p : Nat) (it : Item), s.running = true → s.dev.partAdmits p = true →
      s.dev.ctl.items.find? (fun x => decide (x.part = p) && decide (x.place = .pool) && !(s.dev.ring (64 * x.part + x.ring)).held
        && s.dev.engineOpen p x.engine
        && !s.dev.ctl.items.any (fun y => decide (y.part = p) && decide (y.engine = x.engine)
          && (if x.engine = .sluice then decide (y.place = .queued) else y.place.inQueue && (decide (x.engine ≠ .launch) || !launchDispatched y)))) = some it →
      let apart := (s.dev.ctl.items.filter (fun y => decide (y.part = p) && decide (y.engine = it.engine) && decide (y.place = .saved))).map (·.id)
      ∃ e, exec (.deferredEntry p) s = .next (s.after e) ∧ e.sameElsewhere { s.dev with ctl := e.ctl } ∧ e.spl = s.dev.spl
        ∧ e.ctl = { s.dev.ctl with items := s.dev.ctl.items.filter (fun x => decide (x.id ≠ it.id)) ++ [{ it with place := .queued, apart := apart }] }

/-- Service operations (R397, R421, R457, R458): at the head of its ring TLB_INVAL drops every cached entry that overlaps the range from the base
aligned down to 64 KiB and reports the bytes; RESTART clears STOPPED; DRAIN ends when its items are gone and stores VALUE; RESUME clears the holds;
PREEMPT ends when none of its items still drains. Each ends with its final record. Rests on the model's choices of log entry 7. -/
def Obligations.ServiceOperations : Prop :=
  ∀ (s : State) (item : Nat) (it : Item), s.running = true → it.part < 4 → it.ring < 64 →
    let d := s.dev
    let c := it.desc
    let base := c.fld 1 0 52
    let len := c.word 2
    let lo := if len = 2 ^ 64 - 1 then 0 else base / 65536 * 65536
    let hi := if len = 2 ^ 64 - 1 then 2 ^ 52 else min (base + len) (2 ^ 52)
    (d.serviceWork 0x60 item = some it → len = 0 → exec (.tlbInval item) s = .next (s.after (d.finishItem it)))
    ∧ (d.serviceWork 0x60 item = some it → len ≠ 0 → ∃ b : Dev, exec (.tlbInval item) s = .next (s.after
          (b.finishItem { it with prog := hi - lo, clamped := decide (len ≠ 2 ^ 64 - 1) && decide (2 ^ 52 < base + len) }))
        ∧ b = { d with mem := { d.mem with tlb := b.mem.tlb } }
        ∧ ∀ t, t ∈ b.mem.tlb ↔ t ∈ d.mem.tlb ∧ ¬(t.part = it.part ∧ ∃ va, lo ≤ va ∧ va < hi ∧ va / 2 ^ levelShift t.level = t.pre))
    ∧ (d.serviceWork 0x63 item = some it → ∃ b : Dev, exec (.restart item) s = .next (s.after (b.finishItem it)) ∧ b = { d with regs := b.regs }
        ∧ b.rb (F.QUE_RSTAT_STOPPED (64 * it.part + c.fld 1 0 6)) = false
        ∧ ∀ f : Fld, f.off ≠ (F.QUE_RSTAT_STOPPED (64 * it.part + c.fld 1 0 6)).off → b.rf f = d.rf f)
    ∧ (d.serviceWork 0x64 item = some it → (∀ i ∈ it.aux, d.item i = none) → exec (.drain item) s = .next (s.after
        ((if c.fld 2 0 52 = 0 then d else d.toCompanion (c.fld 2 0 52) (leBytes 8 (c.word 3))).finishItem it)))
    ∧ (d.serviceWork 0x64 item = some it → (∃ i ∈ it.aux, d.item i ≠ none) → exec (.drain item) s = .next (s.after d))
    ∧ (d.serviceWork 0x62 item = some it → ∃ b : Dev, exec (.resume item) s = .next (s.after (b.finishItem it))
        ∧ (∀ r, r < 64 → d.namedRing it.part c r = true → (b.ring (64 * it.part + r)).held = false)
        ∧ b.ctl.items = d.ctl.items.map (fun x => if x.part = it.part ∧ d.namedRing it.part c x.ring then { x with held := false } else x)
        ∧ b.regs = d.regs ∧ b.mem = d.mem ∧ b.spl = d.spl)
    ∧ (d.serviceWork 0x61 item = some it → it.place ≠ .queued →
        ((∀ i ∈ it.aux, ∀ x, d.item i = some x → x.place ≠ .draining) → exec (.preempt item) s = .next (s.after (d.finishItem it)))
        ∧ ((∃ i ∈ it.aux, ∃ x, d.item i = some x ∧ x.place = .draining) → exec (.preempt item) s = .next (s.after d)))
    ∧ (d.serviceWork 0x61 item = some it → it.place = .queued → (∃ x ∈ d.ctl.items, d.item x.id = some x ∧ x.part = it.part ∧
          d.namedRing it.part c x.ring = true ∧ x.engine ≠ .collective ∧ x.engine ≠ .service ∧ x.early = none ∧ x.place = .running) →
        ∃ e, exec (.preempt item) s = .next (s.after e)
          ∧ (∃ it', e.item item = some it' ∧ it'.place = .running)
          ∧ ∀ x ∈ d.ctl.items, d.item x.id = some x → x.part = it.part → d.namedRing it.part c x.ring = true → x.engine ≠ .collective →
              x.engine ≠ .service → x.early = none → x.place = .running →
              e.item x.id = some { x with place := .draining, cause := .preempt, held := decide (c.fld 1 7 1 = 1) })

/-- A fault record and its answer (R400 to R402, R404, R405): a fault on a walk makes a record, or attaches to the open one of its page and cause;
RETRY lets every attached access walk again, ABORT ends the attached operations with PAGE_FAULT, and the record is closed; an answer that is not one
is counted in BAD_REPLY; a record unanswered for FAULT_TURNS boundaries is aborted. Rests on the model's choices of log entries 7 and 39. -/
def Obligations.FaultRecords : Prop :=
  ∀ (s : State) (p id word : Nat) (r : FaultRec), s.running = true →
    let d := s.dev
    let good := word % 2 ^ 16 = id ∧ word / 2 ^ 16 % 2 ^ 16 = 2 ^ 16 - 1 - id
    let action := word / 2 ^ 32 % 4
    let closed (e b : Dev) : Prop := e = b.closeFault r ∧ ∀ f ∈ e.mem.faults, f.key ≠ r.key
    (d.postedFault p id = some r →
      (good → action = 1 → ∃ (e b : Dev), exec (.faultAnswer p id word) s = .next (s.after e) ∧ closed e b ∧ b.regs = d.regs ∧ b.mem = d.mem
        ∧ b.ctl.items = d.ctl.items.map (fun x => if x.fault = some r.key then { x with fault := none } else x)
        ∧ (∀ k t, b.skein k = some t → t.fetchFault ≠ some r.key ∧ ∀ q ∈ t.reqs, ∀ x ∈ q.parts, x.fault ≠ some r.key))
      ∧ (good → action = 2 → ∃ (e b : Dev), exec (.faultAnswer p id word) s = .next (s.after e) ∧ closed e b ∧ b = d.abortFault r.key id)
      ∧ (word % 2 ^ 64 ≠ 0 → (¬good ∨ action = 0 ∨ action = 3) → ∃ e, exec (.faultAnswer p id word) s = .next (s.after e)
          ∧ e = { d with regs := e.regs } ∧ e.rf F.MMU_STATUS_BAD_REPLY = (d.rf F.MMU_STATUS_BAD_REPLY + 1) % 2 ^ F.MMU_STATUS_BAD_REPLY.w)
      ∧ (max 1 (d.rf F.MMU_CTRL_FAULT_TURNS) ≤ r.bounds → ∃ (e b : Dev), exec (.faultTimeout p id) s = .next (s.after e) ∧ closed e b
          ∧ ∃ b0 : Dev, b = b0.abortFault r.key id ∧ b0 = { d with regs := b0.regs }
            ∧ b0.rf F.MMU_STATUS_TIMEOUTS = (d.rf F.MMU_STATUS_TIMEOUTS + 1) % 2 ^ F.MMU_STATUS_TIMEOUTS.w)
      ∧ (r.bounds < max 1 (d.rf F.MMU_CTRL_FAULT_TURNS) → exec (.faultTimeout p id) s = .next (s.after d)))
    ∧ (∀ item va site acc it d' f, d.item item = some it → it.place = .running → it.fault = none → it.early = none →
        (it.engine = .stones ∨ it.engine = .press ∨ it.engine = .sluice ∨ it.engine = .bolter) → d.translate it.part va acc = (d', .fault f) →
        ∃ e key it', exec (.translationFault (.item item) va site acc) s = .next (s.after e) ∧ e.item item = some it' ∧ it'.fault = some key
          ∧ (∀ g, d'.mem.faults.find? (fun g => decide (g.part = it.part) && decide (g.cause = f.cause) && decide (g.va / 65536 = f.va / 65536)) = some g →
              key = g.key ∧ e.mem.faults = d'.mem.faults.map (fun h => if h.key = g.key then { h with waiters := h.waiters ++ [.item item] } else h))
          ∧ (d'.mem.faults.find? (fun g => decide (g.part = it.part) && decide (g.cause = f.cause) && decide (g.va / 65536 = f.va / 65536)) = none →
              key = d'.mem.nextFault ∧ ∃ g : FaultRec, g.key = key ∧ g.part = it.part ∧ g.cause = f.cause ∧ g.va = f.va ∧ g.access = f.access
                ∧ g.level = f.level ∧ g.tag = it.desc.tag ∧ g.ring = it.ring ∧ g.position = it.position ∧ g.waiters = [.item item]
                ∧ e.mem = ({ d' with mem := { d'.mem with nextFault := key + 1, faults := d'.mem.faults ++ [g] } }.postFaults it.part).mem))

/-! ### Numbers and the Stones -/

/-- Rounding and formats (R50 to R53, R78, R84): a magnitude m × 2^e rounded to units of 2^u is the nearest integer, ties to even, or the one the
direction names; every code of a binary format of the Spools that is no NaN is the rounding of its own value. -/
def Obligations.RoundingAndFormats : Prop :=
  (∀ (r m : Nat) (neg : Bool) (e u : Int), e ≤ u →
    let one : Int := (2 ^ (u - e).toNat : Nat)
    let q (md : RMode) : Int := roundUnits md r neg m e u
    2 * (q .rne * one - m).natAbs ≤ one.natAbs ∧ (2 * (q .rne * one - m).natAbs = one.natAbs → q .rne % 2 = 0)
      ∧ (q .rtz * one ≤ m ∧ m < (q .rtz + 1) * one)
      ∧ (if neg then (m : Int) ≤ q .rdn * one ∧ (q .rdn - 1) * one < m else q .rdn * one ≤ m ∧ m < (q .rdn + 1) * one)
      ∧ (if neg then q .rup * one ≤ m ∧ m < (q .rup + 1) * one else (m : Int) ≤ q .rup * one ∧ (q .rup - 1) * one < m)
      ∧ (r < 2 ^ 16 → q .sr = q .rtz ∨ q .sr = q .rtz + 1))
    ∧ (∀ (f : Fmt) (md : RMode) (x : Nat), f ∈ [Fmt.bf16, .fp16, .fp32, .fp64] → x < 2 ^ f.bits → f.decode x ≠ .nan → ieeeRound (f.decode x) f md = x)

/-- Column sums of the Stones (R77, R143 to R147): an INT8 pass is the exact dot product, and its INT32 output that sum, saturated; a floating-point
pass adds every product cut down to a multiple of 2^W, with W = the largest runner exponent + the largest bed exponent + 1 − 82. -/
def Obligations.ColumnSums : Prop :=
  (∀ (xs : List (Int × Int)) (md : RMode) (ftz : Bool) (r : Nat),
      let el (v : Int) : Option Elem := some { v := Machine.Num.ofInt v, p := false }
      let dot := (xs.map (fun e => e.1 * e.2)).sum
      let c := columnSum true 0 (xs.map (fun e => el e.1)) (xs.map (fun e => el e.2))
      c.acc = dot ∧ c.anchor = 0 ∧ c.p = false
        ∧ (c.convert .int32 md ftz r).bits = ofSigned 32 (max (-(2 ^ 31)) (min (2 ^ 31 - 1) dot))
        ∧ ((c.convert .int32 md ftz r).sat = true ↔ dot < -(2 ^ 31) ∨ 2 ^ 31 - 1 < dot))
    ∧ (∀ (row col : List Elem), row.length = col.length → (∀ e ∈ row ++ col, e.v ≠ .nan ∧ e.v ≠ .inf false ∧ e.v ≠ .inf true) →
      let pairs := (row.zip col).map (fun e => Machine.Num.mul e.1.v e.2.v)
      let top (l : List Elem) : Option Int := (l.filterMap (fun e => exponent? e.v)).max?
      let c := columnSum false 0 (row.map some) (col.map some)
      (∀ a b, top row = some a → top col = some b → c.anchor = a + b + 1 - 82
        ∧ c.acc = (pairs.map (fun v => match v with
            | .fin s m e => if a + b + 1 - 82 ≤ e then signedOf s m * (2 ^ (e - (a + b + 1 - 82)).toNat : Nat)
                else signedOf s m / (2 ^ (a + b + 1 - 82 - e).toNat : Nat)
            | _ => 0)).sum)
        ∧ (top row = none ∨ top col = none → c.acc = 0)
        ∧ (c.p = true ↔ ∃ e ∈ row ++ col, e.p = true))

/-- The Stones at work (R95, R99 to R104, R110, R117, R124 to R128, R135, R175 to R177): a bed row joins the shadow bed; a complete bed becomes active
once earlier operations have issued; a vector's column sums enter the pipeline behind the others; the first vector of the pipeline writes its outputs
and counts as progress; a SLICE64 phase issues a row whose sum is the weighted sum of its slices' products. Rests on the model's choices of log
entries 9 and 84. -/
def Obligations.StonesWork : Prop :=
  ∀ (s : State) (item : Nat) (it : Item), s.running = true → s.dev.stnWork item = some it →
    let d := s.dev
    let p := it.part
    let begun : Item := d.stnStart it
    let active := d.stnActiveBed it && !d.stn.parkedRec.any (fun e => e.1 = item)
    (it.dressedBit = false → d.stnNoop it = false → (it.desc.opcode = 0x13 → it.sliceStage = 3) → active = false → d.stnHeld p = false →
      (∀ b d' it' row, (sortBlks (d.fillSource it).blocks)[((d.sub p).fillOf item).done.length]? = some b → ((d.sub p).fillOf item).rows.length < b.k →
        b.n ≠ 0 → d.bedRow it (d.fillSource it).fmt b ((d.sub p).fillOf item).rows.length = (d', it', .ok row) →
        fillDone (d'.fillSource it') ((d.sub p).fillOf item) = false →
        ∃ e, exec (.dressing item 1) s = .next (s.after e)
          ∧ (e.sub p).fillOf item = { (d.sub p).fillOf item with rows := ((d.sub p).fillOf item).rows ++ [row] }
          ∧ (e.sub p).bed = (d'.sub p).bed ∧ (e.sub p).flight = (d'.sub p).flight ∧ (∀ q, q ≠ p → e.sub q = d'.sub q) ∧ e.mem = d'.mem ∧ e.spl = d'.spl)
      ∧ (fillDone (d.fillSource it) ((d.sub p).fillOf item) = true → d.earlierIssued it = true →
        ∃ e, exec (.dressing item 0) s = .next (s.after e) ∧ (e.sub p).bed = ((d.sub p).fillOf item).done ∧ (e.sub p).dressed = some (d.fillSource it)
          ∧ (e.sub p).flight = (d.sub p).flight ∧ (∀ q, q ≠ p → e.sub q = d.sub q)
          ∧ e.item item = some { it with place := .running, unit := p, aux := 1 :: it.aux.drop 1 } ∧ e.mem = d.mem ∧ e.spl = d.spl))
    ∧ (∀ (c : Nat → Nat → Nat → Instr) (op : Nat), (c, op) ∈ [(Instr.matmul, 0x10), (Instr.matmulAcc, 0x11), (Instr.packed, 0x12)] →
      it.desc.opcode = op → d.earlierIssued it = true → d.stnNoBed it = false → (it.dressedBit = true ∨ active = true) → d.stnHeld p = false →
      (d.stnIssued it = false → ∀ d' it' sums,
        issueBlks it.pos.1 ((d.stnBlks p it.desc it.ext).zipIdx.map (fun e => (e.2, e.1))) (d.setItem begun) begun = (d', it', .ok sums) →
        ∃ e, exec (c item 1 0) s = .next (s.after e)
          ∧ (e.sub p).flight = (d'.sub p).flight ++ [{ item := it'.id, vec := it.pos.1, sums := sums }] ∧ (e.sub p).bed = (d'.sub p).bed
          ∧ (∀ q, q ≠ p → e.sub q = d'.sub q) ∧ (∀ x, d'.item it'.id = some x → e.item it'.id = some { it' with pos := (it.pos.1 + 1, 0, 0) })
          ∧ e.mem = d'.mem ∧ e.spl = d'.spl)
      ∧ (∀ f fs jt d' jt' lost, (d.sub p).flight = f :: fs → (d.setItem begun).item f.item = some jt → jt.desc.opcode ≠ 0x13 →
        epiBlks ((d.setItem begun).stnBlks p jt.desc jt.ext) f.vec f.sums (d.setItem begun) jt = (d', jt', .ok lost) → d'.stn = d.stn →
        ∃ e, exec (c item 0 1) s = .next (s.after e) ∧ (e.sub p).flight = fs ∧ (∀ q, q ≠ p → e.sub q = d.sub q) ∧ e.mem = d'.mem ∧ e.spl = d'.spl
          ∧ (∀ x, d'.item jt'.id = some x → e.item jt'.id = some { jt' with poison := jt'.poison || lost, prog := jt'.prog + 1, short := jt'.short + b2n (d'.vecCut jt f) })))
    ∧ (it.desc.opcode = 0x13 → d.earlierIssued it = true → d.stnHeld p = false → it.sliceStage = 3 → it.dressedBit = true → d.stnNoop it = false →
      let n := (d.stnKN p it.desc).2.1
      let k := (d.stnKN p it.desc).1
      let sl := (stnSlices it.desc).1
      let mm := d.sliceM p it.desc it.ext
      let at1 := (refOf (extWord it.ext 4)).base + (sliceRegions sl mm k n).2.1
      let j := it.slicePhase
      let row := it.pos.1
      ∃ e sums, exec (.slice64 item 1 0) s = .next (s.after e) ∧ (e.sub p).flight = (d.sub p).flight ++ [{ item := item, vec := row, phase := j, sums := [(0, sums)] }]
        ∧ sums.length = n ∧ (∀ q, q ≠ p → e.sub q = d.sub q) ∧ e.mem = d.mem ∧ e.spl = d.spl
        ∧ (∀ col x, sums[col]? = some x → x.acc = ((List.range (sl + 1 - j)).map (fun i =>
            (columnSum true 0 ((d.spadRead p (at1 + i * mm * k + row * k) k).map (fun b => some ({ v := Machine.Num.ofInt (toSigned 8 b.b.toNat), p := b.p } : Elem)))
              (bedColumn (d.sub p).bed 0 k col)).acc * (2 ^ (7 * (sl - i - j)) : Nat))).sum)
        ∧ e.item item = some { begun with
            pos := if row + 1 < mm then (row + 1, 0, 0) else if 1 < j then (0, 0, 0) else (mm, 0, 0),
            aux := if row + 1 < mm then it.aux else if 1 < j then [0, 3, j - 1] else [0, 4, 0] })

/-! ### The Turn -/

/-- TURN_BOUNDARY (R16, R19, R23, R24, R28, R29, R33, R41, R43, R734): after start-up the steps of R33 in their order. Step 1 gives the Turn its
number, the next one or the one due, latches the timestamp, and sets the period in force and the next boundary; step 5 the level and whether the Turn
is withheld, L of every 16. Rests on the model's choices of log entries 1, 43 and 81. -/
def Obligations.TurnBoundary : Prop :=
  (∀ (s : State) (t : Telemetry), s.running = true →
    (s.dev.rf F.SEC_STATUS_STAGE < 4 → exec (.turnBoundary t) s = .next (s.after s.dev))
    ∧ (4 ≤ s.dev.rf F.SEC_STATUS_STAGE →
        let ends := ({ s.dev with time := max s.dev.time s.dev.ctl.boundaryAt }).endTurn.policy t (s.dev.rb F.TRN_STATUS_WITHHELD)
        let counted := (ends.stepNumber.eventAll 1 16 1).pmuSnap.digLatch.pmuNotices
        exec (.turnBoundary t) s = .next (s.after
          ((counted.stepOverruns.countBoundary.stepStaged.stepLevel s.dev.ctl.levelStaged).stepRelease.stepAdmit.afterSteps))))
    ∧ (∀ d : Dev,
        let n := d.ctl.due.getD ((d.turn + 1) % 2 ^ 32) % 2 ^ 32
        let own := d.rb F.TRN_CTRL_MASTER || d.rb F.TRN_STATUS_HOLDOVER || d.upstream.isNone
        let period := if own then d.ctl.masterNext else d.announcedFor (d.ctl.due.getD ((d.turn + 1) % 2 ^ 32))
        let adj : Int := if own then 0 else max (-1000) (min 1000 d.ctl.phaseLeft)
        let e := d.stepNumber
        e.turn = n ∧ e.time = max d.time d.ctl.boundaryAt ∧ e.rf F.TRN_LAST_BOUNDARY_TIMESTAMP_NS = e.time % 2 ^ 64
          ∧ e.rf F.TRN_PERIOD_ACTIVE_NS = period % 2 ^ F.TRN_PERIOD_ACTIVE_NS.w
          ∧ (e.rb F.TRN_STATUS_RENUMBERED = true ↔ d.rb F.TRN_STATUS_RENUMBERED = true ∨ d.ctl.due.getD ((d.turn + 1) % 2 ^ 32) ≠ (d.turn + 1) % 2 ^ 32)
          ∧ ((e.ctl.boundaryAt : Nat) : Int) = max (e.time : Int) ((e.time : Int) + (period : Int) - adj) ∧ e.ctl.due = none ∧ e.mem = d.mem ∧ e.out = d.out)
    ∧ (∀ (d : Dev) (staged : Nat),
        let e := d.levelBoundary staged
        e.rf F.TRN_CTRL_THERM_LEVEL = min 15 (max staged d.ctl.floorSetup)
          ∧ (e.rb F.TRN_STATUS_WITHHELD = true ↔
              let m := d.turn % 16
              m * min 15 (max staged d.ctl.floorSetup) / 16 < (m + 1) * min 15 (max staged d.ctl.floorSetup) / 16))
    ∧ ∀ q l, l ≤ 15 → (List.range 16).countP (fun j => withheldAt (16 * q + j) l) = l

/-- TURN_SYMBOL and HOLDOVER (R22, R28 to R31): a symbol of another port than UPSTREAM, and every symbol of a master, is counted in FOREIGN_SYMBOLS;
one of the UPSTREAM port ends holdover, gives the phase error of the paired boundary, the number due and the period of the Turn after. A disciplined
module without symbols for two boundaries, or without UPSTREAM, enters holdover, runs on its own period from its last boundary and posts a record.
Rests on the model's choices of log entry 43. -/
def Obligations.TurnSymbols : Prop :=
  ∀ s : State, s.running = true →
    (∀ (port arrival : Nat) (rpl : Bool) (p : Packet), port < 6 → p.kind = 0xD → s.dev.linkUp port = true →
      let d := s.dev.takePacket port p
      (d.upstream ≠ some port → exec (.turnSymbol port arrival rpl p) s = .next (s.after (d.bump F.TRN_STATUS_FOREIGN_SYMBOLS 1)))
      ∧ (d.upstream = some port → rpl = false → ∃ e, exec (.turnSymbol port arrival rpl p) s = .next (s.after e)
          ∧ e.rb F.TRN_STATUS_HOLDOVER = false ∧ e.mem = d.mem ∧ e.fab = d.fab ∧ e.out = d.out
          ∧ let up : Int := (arrival : Int) - (bitsAt p.addr 32 16 : Nat) - (d.linkOf port).hopDelay
            let past : Int := (16 * d.rf F.TRN_LAST_BOUNDARY_TIMESTAMP_NS : Nat)
            let next : Int := (16 * d.ctl.boundaryAt : Nat)
            let paired := if (past - up).natAbs ≤ (next - up).natAbs then past else next
            e.ctl.phaseLeft = (paired - up) / 16 ∧ e.rf F.TRN_PHASE_ERR_ERR_NS = ofSigned 32 ((paired - up) / 16)
              ∧ (250 < ((paired - up) / 16).natAbs → e.rb F.TRN_STATUS_SKEW_ALARM = true)
              ∧ e.ctl.due = some ((if (past - up).natAbs ≤ (next - up).natAbs then p.aux + 1 else p.aux) % 2 ^ 32)
              ∧ ((p.aux + 1) % 2 ^ 32, p.addr % 2 ^ 30) ∈ e.ctl.announced ∧ e.ctl.items = d.ctl.items))
    ∧ (s.dev.rb F.TRN_CTRL_MASTER = false → s.dev.rb F.TRN_STATUS_HOLDOVER = false →
        s.dev.rf F.TRN_CTRL_UPSTREAM = 0 ∨ s.dev.rf F.TRN_CTRL_UPSTREAM = 7 ∨ 2 ≤ s.dev.ctl.sinceSymbol →
        let own := s.dev.rf F.TRN_PERIOD_PERIOD_NS
        ∃ d : Dev, exec .holdover s = .next (s.after (d.postError { cls := 0, source := 0x01, event := 0x01 })) ∧ d.rb F.TRN_STATUS_HOLDOVER = true
          ∧ d.rf F.TRN_PERIOD_ACTIVE_NS = own ∧ d.ctl = { s.dev.ctl with boundaryAt := s.dev.rf F.TRN_LAST_BOUNDARY_TIMESTAMP_NS + own, phaseLeft := 0 }
          ∧ d.mem = s.dev.mem ∧ d.err = s.dev.err ∧ d.out = s.dev.out)
    ∧ (s.dev.rb F.TRN_CTRL_MASTER = true → exec .holdover s = .next (s.after s.dev))

/-! ### The ends of items -/

/-- CONTEXT_SAVE_DONE (R38, R40, R139, R424, R425): an item whose drain has ended is saved; one saved for an overrun goes back to its queue at once,
and the area's records follow; every other stays saved. Rests on the model's choices of log entries 26, 41 and 42. -/
def Obligations.ContextSave : Prop :=
  ∀ (s : State) (item : Nat), s.running = true →
    (∀ it, s.dev.item item = some it → it.place ≠ .draining → exec (.contextSaveDone item) s = .next (s.after s.dev))
    ∧ (∀ it, s.dev.item item = some it → it.place = .draining → it.engine ≠ .stones → (it.engine = .launch → s.dev.launchQuiet item = true) →
        s.dev.winPending (.item item) = false →
        ∀ x, (s.dev.saveItem it).item item = some x →
          (x.cause = .overrun ∧ (s.dev.saveItem it).resumable x = true →
            exec (.contextSaveDone item) s = .next (s.after (((s.dev.saveItem it).resumeItem x).csaFollow (s.dev.saveItem it))))
          ∧ (¬(x.cause = .overrun ∧ (s.dev.saveItem it).resumable x = true) → exec (.contextSaveDone item) s = .next (s.after (s.dev.saveItem it))))
    ∧ (∀ (d : Dev) (it : Item), d.item it.id = some it → it.engine ≠ .stones →
        let e := d.resumeItem it
        e.item it.id = some { it with place := if it.engine = .launch ∧ it.vals.length = 8 then .running else .queued, cause := .none }
          ∧ ∀ id, id ≠ it.id → e.item id = d.item id)

/-- The completions of the engines (R132, R194, R220, R232, R260, R409, R413, R526, R556, R566): an item whose work is done, whose requests are
answered and which waits on no fault ends with its final record; an operation posted by a Spool gives its ticket; a halted launch leaves its skeins
for inspection and stops its ring; a message gives its bytes, one of no bytes ends while it waits, a collective gives its bytes, carry and lateness.
Rests on the model's choices of log entries 7, 9 and 96. -/
def Obligations.EngineCompletions : Prop :=
  ∀ (s : State) (item : Nat) (it : Item), s.running = true → s.dev.item item = some it →
    let d := s.dev
    let quiet := it.place = .running ∧ it.fault = none ∧ d.winPending (.item item) = false
    (it.engine = .launch → it.place = .running → it.early = none → d.postedBy item = false →
      launchNoop it.desc = true ∨ (launchDispatched it = true ∧ it.prog = launchBundles it.desc) →
      exec (.launchCompletion item) s = .next (s.after (d.finishItem it)))
    ∧ (∀ st, it.engine = .launch → it.place = .running → it.early = some st → d.postedBy item = false → d.launchQuiet item = true → d.allSkeins item = [] →
        exec (.launchCompletion item) s = .next (s.after (((d.clearLaunch item).finishItem it).stopRing (ringIndex it.part it.ring) st)))
    ∧ (it.engine = .stones → it.place = .running → it.fault = none → it.early.isSome = true ∨ d.stnWritten it = true →
        let c := (d.event it.part 0x104 (some it.part) 0 1).event it.part 0x105 (some it.part) 0 (b2n it.sat)
        (it.posted = none → it.status ≠ 0x03 → exec (.stonesCompletion item) s = .next (s.after (c.finishItem it)))
        ∧ (∀ q, it.posted = some q → exec (.stonesCompletion item) s = .next (s.after (c.ticketDone it q))))
    ∧ (it.engine = .press → quiet → d.pressTurn it = true → d.pressDone it = true →
        let it' : Item := if it.early = none ∧ it.desc.opcode = 0x20 ∧ mngPlen it.desc ≠ 0 then { it with early := d.producerEnd it } else it
        exec (.pressCompletion item) s = .next (s.after ((d.finishItem it').event (4 + it.part) 0x203 (some it.part) 0 1)))
    ∧ (it.engine = .sluice → quiet → it.sluiceDone = true → exec (.sluiceCompletion item) s = .next (s.after (d.finishItem it)))
    ∧ (it.engine = .bolter → quiet → it.bolterDone = true → exec (.bolterCompletion item) s = .next (s.after (d.finishItem it)))
    ∧ (∀ m, d.msgOf item = some m → it.place = .running → m.complete = true →
        exec (.messageCompletion item) s = .next (s.after ((d.dropMsg item).finishItem { it with prog := if m.kind = 1 then it.prog else m.len })))
    ∧ (it.engine = .collective → it.place = .queued → it.early = none → 0x70 ≤ it.desc.opcode → it.desc.opcode ≤ 0x72 → it.desc.fld 2 0 40 = 0 →
        d.msgOf item = none → exec (.messageCompletion item) s = .next (s.after (d.finishItem it)))
    ∧ (∀ r, d.colRun item = some r → it.place = .running → d.colDone it r = true → d.winPending (.item item) = false →
        ¬(it.desc.opcode = 0x73 ∨ it.desc.opcode = 0x75) ∨ extWord it.ext 0 = 0 →
        exec (.collectiveCompletion item) s = .next (s.after (((r.groups.foldl (fun d g => d.bump (F.COL_GRP_STAT_OPSEQ g) 1) d).dropRun item).finishItem
          { it with prog := r.written % 2 ^ 40 + b2n r.carry.isSome * 2 ^ 62 + b2n r.late * 2 ^ 63 })))

/-! ### The Press, the Sluices, the Bolter -/

/-- The Press at work (R196 to R198, R206, R211, R214 to R217, R223): a chunk of MANGLE runs the element program over the inputs it names and writes
the converted elements as one row; a lane instruction acts on elements 0 to COUNT − 1 of its destination; an instruction with a reserved field ends
the program. Rests on the model's choices of log entries 9, 27 and 31. -/
def Obligations.PressWork : Prop :=
  ∀ (s : State) (item : Nat) (it : Item), s.running = true →
    (s.dev.pressWork 0x20 item = some it →
      let begins := decide ((s.dev.item item).map (·.place) = some .queued) && decide (64 < it.desc.fld 2 28 7) && it.pos == (0, 0, 0)
      let it0 : Item := if begins then { it with clamped := true } else it
      let d := (if begins then s.dev.bump F.PRS_CLAMPS_COUNT 1 else s.dev).setItem it0
      let c := it.desc
      let (d1, d2, ch) := it.pos
      let x : PCtx := { dbl := mngDbl c, cvtc := mngCvtc c, seed := extWord it.ext 7 }
      let D0 := (d.mngDims it).1
      let D1 := (d.mngDims it).2.1
      let n := min 2048 (D0 - 2048 * ch)
      let i0 := D0 * (d1 + D1 * d2) + 2048 * ch
      let out := fmtOf (mngOutFmt c)
      let o := refOf (c.word 5)
      let a := o.base + d2 * mngPlane it 3 D1 (o.rowStride (rowBytes out.bits D0)) + d1 * o.rowStride (rowBytes out.bits D0) + 2048 * ch * out.bits / 8
      exec (.mangle item 0) s = .next (s.after (d.setItem it0))
      ∧ (d.mngDone it0 = true → exec (.mangle item 1) s = .next (s.after (d.setItem it0)))
      ∧ (d.mngDone it0 = false → d.linkOfItem it = none → mngReduce c = 0 → out.isMx = false →
          ∀ e1 it1 ins e2 it2 lost, d.mngInputs it0 x d1 d2 (2048 * ch) n [0, 1, 2] = (e1, it1, .ok ins) →
          let ks : List PVal := (List.range 7).map (fun k => (if x.dbl then extWord it.ext (9 + k) else extWord it.ext (9 + k) % 2 ^ 32, false))
          let es := (List.range n).map (fun e =>
            x.run (ins.map (fun l => (l.getD e ((0, false), false, false)).1)) ks (2048 * ch + e) (i0 + e) (mngProg it.ext))
          let codes := es.zipIdx.map (fun e => (x.conv (x.fmt.decode e.1.1.1) out (i0 + e.2), e.1.1.2))
          let it' : Item := { it1 with
            sat := it1.sat || codes.any (·.1.sat) || ins.any (fun l => l.any (·.2.1)) || es.any (·.2.1),
            nan := it1.nan || codes.any (·.1.nan) || ins.any (fun l => l.any (·.2.2)) || es.any (·.2.2),
            poison := it1.poison || codes.any (·.2) }
          e1.boundWrite it' o.space a (packRow out (codes.map (fun e => (e.1.bits, e.2)))) o.hint = (e2, it2, .ok lost) →
          ∃ e, exec (.mangle item 1) s = .next (s.after e) ∧ e.mem = e2.mem ∧ e.stn = e2.stn ∧ e.spl = e2.spl ∧ e.prs = e2.prs
            ∧ ∃ x : Item, e.ctl = (e2.setItem x).ctl ∧ x.id = it2.id ∧ x.prog = it2.prog + min n ((e2.spaceEnd o.space a - a) * 8 / out.bits) ∧ x.sat = it2.sat ∧ x.nan = it2.nan
              ∧ x.poison = (it2.poison || lost)
              ∧ x.pos = (if 2048 * ch + 2048 < D0 then (d1, d2, ch + 1) else if d1 + 1 < D1 then (d1 + 1, d2, 0) else (0, d2 + 1, 0))))
    ∧ (s.dev.pressWork 0x21 item = some it → laneDone it = false → it.early = none →
      let d := s.dev.setItem it
      ∀ d' it0 bs, d.boundRead it 0 (it.desc.fld 1 0 52 + 8 * it.pos.1) 8 0 = (d', it0, .ok bs) → bs.any (·.p) = false →
      let w := leNat (bs.map (·.b))
      let op := bitsAt w 0 8
      let reg (dbl : Bool) (k e : Nat) : PVal := d'.lane dbl (bitsAt w (13 + 5 * k) 5) e
      let x : PCtx := { dbl := bitAt w 45, cvtc := it.desc.fld 2 16 8, seed := it.desc.word 6 }
      (laneFails it.desc w = true → exec (.lane item 1) s = .next (s.after (d'.setItem { it with early := some 0x03 })))
      ∧ (laneFails it.desc w = false → op ≠ 0x30 → op ≠ 0x31 → ∃ e x', exec (.lane item 1) s = .next (s.after e) ∧ e.ctl = (d'.setItem x').ctl
          ∧ x'.id = it.id ∧ x'.pos = (it.pos.1 + 1, 0, 0) ∧ x'.prog = it.prog ∧ x'.clamped = (it.clamped || (laneCount w).2) ∧ e.mem = d'.mem
          ∧ let vs : List PVal :=
              if op = 0x32 then List.replicate (laneCount w).1 (reg x.dbl 0 0)
              else if op = 0x33 then (List.range (laneCount w).1).map (fun e => (ieeeRound (Machine.Num.ofInt (e : Nat)) x.fmt .rne, false))
              else if 0x34 ≤ op then List.replicate (laneCount w).1 (redChunk (op - 0x33) ((List.range (laneCount w).1).map (reg false 0)))
              else (List.range (laneCount w).1).map (fun e =>
                (x.apply op (bitsAt w 40 5) (bitsAt w 48 16 * 2048 + e) (reg x.dbl 0 e) (reg x.dbl 1 e) (reg x.dbl 2 e)).1)
            e.prs = (d'.setLanes (x.dbl && decide (op < 0x34)) (bitsAt w 8 5) vs).prs))
    ∧ (∀ (d : Dev) (r : Nat) (vs : List PVal) (q e : Nat), vs.length ≤ 2048 → e < 2048 →
        (d.setLanes false r vs).lane false q e = if q = r ∧ e < vs.length then ((vs.getD e (0, false)).1 % 2 ^ 32, (vs.getD e (0, false)).2) else d.lane false q e)
    ∧ ∀ (x : PCtx) (a b : PVal) (i : Nat), x.dbl = false →
        (x.apply 0x01 0 i a b b).1 = (ieeeRound (Machine.Num.add false (Fmt.fp32.decode a.1) (Fmt.fp32.decode b.1)) .fp32 .rne, a.2 || b.2)
        ∧ (x.apply 0x03 0 i a b b).1 = (ieeeRound (Machine.Num.mul (Fmt.fp32.decode a.1) (Fmt.fp32.decode b.1)) .fp32 .rne, a.2 || b.2)
        ∧ (x.apply 0x1C 0 i a b b).1.2 = false

/-- The Sluices at work (R302, R394, R406 to R412): a COPY moves the bytes of its row that one line of the destination takes, a FILL its pattern; at a
row's end the next row follows, and a stream destination gains a row; the range operations act line by line on what the translation gives, DEAD only
on whole lines; what lies past the bound is clamped; an earlier COPY reads bytes kept for it as they were before a later operation's write. Rests on
the model's choices of log entries 9, 15, 84, 93 and 95. -/
def Obligations.SluiceWork : Prop :=
  ∀ (s : State) (item : Nat) (it : Item), s.running = true → it.part < 4 →
    let d := s.dev.setItem it
    let c := it.desc
    (∀ (k : Nat → Nat → Instr) (op : Nat), (k, op) ∈ [(Instr.copy, 0x40), (Instr.fill, 0x41), (Instr.prefetch, 0x42), (Instr.sluiceFlush, 0x43),
        (Instr.sluiceInval, 0x44), (Instr.sluiceDead, 0x45)] → s.dev.atWork item (fun x => decide (x.desc.opcode = op)) (fun x => s.dev.freeSluice x) = some it →
      it.sluiceDone = true → ∀ n, exec (k item n) s = .next (s.after d))
    ∧ (∀ (k : Nat → Nat → Instr) (op : Nat), (k, op) ∈ [(Instr.copy, 0x40), (Instr.fill, 0x41)] →
      s.dev.atWork item (fun x => decide (x.desc.opcode = op)) (fun x => s.dev.freeSluice x) = some it → it.sluiceDone = false →
      let (p, r, o) := it.pos
      let row := d.sluiceRow it p r
      let ss := c.fld 2 20 3
      let ds := c.fld 2 23 3
      let sn := streamIndex it.part (c.fld 4 0 4)
      (ds = 4 ∧ d.streamFull sn = true → exec (k item 1) s = .next (s.after d))
      ∧ (¬(ds = 4 ∧ d.streamFull sn = true) → row.len ≤ o → ∃ e, exec (k item 1) s = .next (s.after e)
          ∧ e.ctl = (d.setItem { it with pos := if r + 1 < c.fld 1 32 24 then (p, r + 1, 0) else (p + 1, 0, 0), clamped := it.clamped || row.clamped }).ctl
          ∧ (ds ≠ 4 → e.mem = d.mem) ∧ (ds = 4 → e.streamTail sn = (d.streamTail sn + 1) % 2 ^ 32 ∧ e.streamHead sn = d.streamHead sn) ∧ e.out = d.out)
      ∧ (¬(ds = 4 ∧ d.streamFull sn = true) → o < row.len →
          let n := sluicePiece c row o
          ∀ d1 bs0 d1' d2 lost,
            (if op = 0x41 then (d, VRes.ok (fillBytes (c.word 3) o n)) else d.sread it.part (.item it.id) ss (row.src + o) n (c.fld 2 16 2)) = (d1, .ok bs0) →
            d1.sluiceOverlaps it = false →
            (if ds = 4 then (d1, true) else d1.keepFor it ds (row.dst + o) n) = (d1', true) →
            let bs := it.before (row.src + o) bs0
            (if ds = 4 then (d1'.streamWrite it.part sn o bs, VRes.ok false) else d1'.swrite it.part (.item it.id) ds (row.dst + o) bs (c.fld 2 18 2))
              = (d2, .ok lost) →
            ∃ e x, exec (k item 1) s = .next (s.after e) ∧ e.alike (d2.setItem x) ∧ x.id = it.id ∧ x.place = it.place ∧ x.pos = (p, r, o + n)
              ∧ x.prog = it.prog + n ∧ x.poison = (it.poison || lost || bs.any (·.p)) ∧ x.clamped = it.clamped))
    ∧ (∀ (k : Nat → Nat → Instr) (op : Nat) (rop : RangeOp), (k, op, rop) ∈ [(Instr.prefetch, 0x42, RangeOp.prefetch), (Instr.sluiceFlush, 0x43, .flush),
        (Instr.sluiceInval, 0x44, .inval), (Instr.sluiceDead, 0x45, .dead)] →
      s.dev.atWork item (fun x => decide (x.desc.opcode = op)) (fun x => s.dev.freeSluice x) = some it → it.sluiceDone = false →
      let base := c.fld 4 0 52
      let len := min (c.fld 1 0 56) (2 ^ 52)
      let o := it.pos.2.2
      let stop := min len (d.spaceEnd 0 base - base)
      let n := min (128 - (base + o) % 128) (stop - o)
      let acc : Acc := if rop = .dead then .dead else .read
      (stop ≤ o → ∃ e, exec (k item 1) s = .next (s.after e) ∧ e.alike (d.setItem { it with pos := (0, 0, len), clamped := true }))
      ∧ (o < stop → ∀ d' key off ord, d.translate it.part (base + o) acc = (d', .line key off ord) →
          let dead := decide (rop = .dead) && decide (n < 128)
          ∃ e, exec (k item 1) s = .next (s.after e)
            ∧ e.alike ((if dead then d' else d'.rangeLine rop key (c.fld 2 18 2)).setItem { it with pos := (0, 0, o + n), prog := it.prog + if dead then 0 else n }))
      ∧ (o < stop → ∀ d', d.translate it.part (base + o) acc = (d', .poison) → ∃ e x, exec (k item 1) s = .next (s.after e) ∧ e.alike (d'.setItem x)
          ∧ x.id = it.id ∧ x.poison = true)
      ∧ (o < stop → ∀ d' f, d.translate it.part (base + o) acc = (d', .fault f) →
          exec (k item 1) s = .next (s.after (d'.itemFault it f 6 it.unit))))
    ∧ (∀ (x : Item) (a i : Nat) (old : List MByte) (b : MByte), i < old.length → (∀ e ∈ x.kept, e.1 ≠ a + i) →
        (x.keep a old).before (a + i) [b] = [old.getD i b] ∧ x.before (a + i) [b] = [b])
    ∧ ∀ (pattern o n i : Nat), i < n → (fillBytes pattern o n)[i]? = some { b := BitVec.ofNat 8 (pattern / 2 ^ (8 * ((o + i) % 8))) }

/-- The Bolter at work (R413 to R420): a row of GATHER holds the table rows its indices name, zeros for a null or an index beyond the table; SCATTER
writes or reduces one source row; a segment of SORT is the stable sort of its pairs by key; DEDUP leaves each run's key once, with the run of every
position. Rests on the model's choices of log entries 9, 23, 66 and 84. -/
def Obligations.BolterWork : Prop :=
  (∀ (s : State) (item : Nat) (it : Item) (k : Nat → Nat → Instr) (op : Nat), s.running = true →
    (k, op) ∈ [(Instr.gather, 0x50), (Instr.scatter, 0x51), (Instr.sort, 0x52), (Instr.dedup, 0x53)] →
    s.dev.atWork item (fun x => decide (x.desc.opcode = op) && s.dev.bolterTurn x) (fun x => some x.part) = some it →
    let c := it.desc
    let amount := if (s.dev.item item).map (·.place) = some .queued then bolClamps c else 0
    let it0 : Item := { it with clamped := it.clamped || decide (0 < amount) }
    let d := (s.dev.slcClamp amount).setItem it0
    let w := bolIW c
    let i := it.pos.1
    let r2 := refOf (c.word 2)
    let r3 := refOf (c.word 3)
    let r4 := refOf (c.word 4)
    (it.bolterDone = true → ∀ n, exec (k item n) s = .next (s.after (d.setItem it0)))
    ∧ (op = 0x50 → it.bolterDone = false → r4.space ≠ 4 → ∀ d1 it1 is raw d2 it2 bs d3 it3 lost,
        let cc := bolConcat c
        let len := cc * bolRowBytes c
        let n := min cc (bolCount c - i)
        let a := r4.base + i / cc * r4.rowStride len
        d.readNums it0 r2 w i n = (d1, it1, .ok (is, raw)) → gatherRows c r3 is d1 it1 = (d2, it2, .ok bs) →
        d2.boundWrite it2 r4.space a (bs ++ List.replicate (len - bs.length) { b := 0 }) r4.hint = (d3, it3, .ok lost) →
        ∃ e, exec (k item 1) s = .next (s.after e)
          ∧ e.alike (d3.setItem { it3.outPoison (lost || bs.any (·.p)) with pos := (i + n, 0, 0), prog := it3.prog + b2n (decide (a + len ≤ d2.spaceEnd r4.space a)) }))
    ∧ (op = 0x51 → it.bolterDone = false → ∀ d1 it1 x raw, d.readNums it0 r2 w i 1 = (d1, it1, .ok ([(x, false)], raw)) →
        (x = 2 ^ (8 * w) - 1 → ∃ e, exec (k item 1) s = .next (s.after e) ∧ e.alike (d1.setItem { it1 with pos := (i + 1, 0, 0) }))
        ∧ (x ≠ 2 ^ (8 * w) - 1 → bolTrows c ≤ x → ∃ e, exec (k item 1) s = .next (s.after e)
            ∧ e.alike (d1.setItem { it1 with clamped := true, pos := (i + 1, 0, 0) }))
        ∧ (x ≠ 2 ^ (8 * w) - 1 → x < bolTrows c → bolRop c = 0 → ∀ d2 it2 bs d3 lost,
            let src := r4.base + i * r4.rowStride (bolRowBytes c)
            d1.boundRead it1 r4.space src (bolRowBytes c) r4.hint = (d2, it2, .ok bs) →
            d2.vwrite it2.part (.item it.id) (r3.base + x * bolTstride c) bs r3.hint = (d3, .ok lost) →
            ∃ e, exec (k item 1) s = .next (s.after e)
              ∧ e.alike (d3.setItem { it2.outPoison (lost || bs.any (·.p)) with pos := (i + 1, 0, 0), prog := it2.prog + 1 })))
    ∧ ((op = 0x52 ∧ c.word 3 = 0) ∨ op = 0x53 → it.bolterDone = false → c.word 6 = 0 → it.pos.2.1 = 0 → it.aux = [] → bolCount c ≤ 4096 →
        ∀ d1 it1 ks raw d2 it2 lost, d.readNums it0 r2 w 0 (bolCount c) = (d1, it1, .ok (ks, raw)) →
        let keys := ks.map (·.1)
        let pz := raw.any (·.p)
        d1.writeAll it1
          (if op = 0x52 then [(r4, r4.base, numBytes w pz ((sortPairs (bolKord c) w (bolDesc c) (keys.map (fun k => (k, 0)))).map (·.1)))]
           else [(r4, r4.base, numBytes w pz (keyRuns none 0 keys).1), (r3, r3.base, numBytes 4 pz [(keyRuns none 0 keys).1.length])]
             ++ if c.word 5 ≠ 0 then [(refOf (c.word 5), (refOf (c.word 5)).base, numBytes w pz (keyRuns none 0 keys).2)] else []) = (d2, it2, .ok lost) →
        let it3 : Item := { it2 with pos := (bolCount c, 1, 0), aux := [bolCount c], prog := it2.prog + bolCount c, poison := it2.poison || lost || pz }
        ∃ e, exec (k item 1) s = .next (s.after e) ∧ e.alike (d2.setItem it3)))
  ∧ (∀ (c : Desc) (tab : Ref) (d : Dev) (it : Item) (x : Nat),
      (x = 2 ^ (8 * bolIW c) - 1 → gatherRows c tab [(x, false)] d it = (d, it, .ok (List.replicate (bolRowBytes c) { b := 0 })))
      ∧ (x ≠ 2 ^ (8 * bolIW c) - 1 → bolTrows c ≤ x → gatherRows c tab [(x, false)] d it =
          (d.bump F.SLC_EVENTS_IDX_RANGE 1, { it with clamped := true }, .ok (List.replicate (bolRowBytes c) { b := 0 })))
      ∧ ∀ d' it' bs, x ≠ 2 ^ (8 * bolIW c) - 1 → x < bolTrows c →
          d.boundRead it tab.space (tab.base + x * bolTstride c) (bolRowBytes c) tab.hint = (d', it', .ok bs) →
          gatherRows c tab [(x, false)] d it = (d', it', .ok bs))
  ∧ (∀ (kord w : Nat) (down : Bool) (l : List (Nat × Nat)),
      let rank (x : Nat × Nat) : Nat := keyRank kord w x.1
      (sortPairs kord w down l).Perm l ∧ (∀ r, (sortPairs kord w down l).filter (fun x => rank x = r) = l.filter (fun x => rank x = r))
        ∧ (sortPairs kord w down l).Pairwise (fun x y => if down then rank y ≤ rank x else rank x ≤ rank y))
  ∧ (∀ (w a b : Nat), 0 < w → a < 2 ^ (8 * w) → b < 2 ^ (8 * w) → (keyRank 1 w a < keyRank 1 w b ↔ toSigned (8 * w) a < toSigned (8 * w) b)
      ∧ (keyRank 0 w a < keyRank 0 w b ↔ a < b))
  ∧ ∀ ks : List Nat, let u := (keyRuns none 0 ks).1
      let inv := (keyRuns none 0 ks).2
      inv.length = ks.length ∧ (∀ (i : Nat) (k : Nat), ks[i]? = some k → ∃ r, inv[i]? = some r ∧ u[r]? = some k)
        ∧ ∀ (i : Nat) (a b : Nat), u[i]? = some a → u[i + 1]? = some b → a ≠ b

/-! ### The fabric -/

/-- Requests that reach the module on a running port (R504, R511, R514 to R517, R520 to R523): the checks in their order; a request that fails them
gets zeros or an acknowledgement with STATUS OK and has no effect; one that passes is performed and answered, with STATUS POISON for poison read. A
PUT is acknowledged after every 64 packets and after the last, a GET answered by GDATA of its index, a SEND by its acceptance or FULL. A packet for
another node goes on in dimension order. Rests on the model's choices of log entries 47, 48, 84 and 86. -/
def Obligations.FabricRequests : Prop :=
  (∀ (s : State) (port : Nat) (p : Packet), s.running = true → port < 6 → s.dev.portRunning port = true →
    let d0 := s.dev.takePacket port p
    let counted (d : Dev) : Dev := d.event (34 + port) 0x704 none 0 1
    (s.dev.forMe p = true →
      (p.kind = 0x1 →
        (∀ d1, d0.ingress (some port) 24 p = (d1, none) → exec (.wload port p) s = .next (s.after ((counted d1).respond port 0x8 0 p (List.replicate p.len 0))))
        ∧ (∀ d1 q d2, d0.ingress (some port) 24 p = (d1, some q) → d1.ingressXlat (some port) q .read p.addr p.len = (d2, false) →
            exec (.wload port p) s = .next (s.after ((counted d2).respond port 0x8 0 p (List.replicate p.len 0))))
        ∧ (∀ d1 q d2 d3 bs, d0.ingress (some port) 24 p = (d1, some q) → d1.ingressXlat (some port) q .read p.addr p.len = (d2, true) →
            d2.vread q (fabUnit port p.tag) p.addr p.len = (d3, .ok bs) →
            exec (.wload port p) s = .next (s.after ((counted (d3.sweep (fabUnit port p.tag))).respond port 0x8 (b2n (bs.any (·.p))) p (bs.map (·.b))))))
      ∧ (p.kind = 0x2 →
        (∀ d1, d0.ingress (some port) 25 p = (d1, none) → exec (.wstore port p) s = .next (s.after ((counted d1).respond port 0x9 0 p [])))
        ∧ (∀ d1 q d2, d0.ingress (some port) 25 p = (d1, some q) → d1.ingressXlat (some port) q .write p.addr p.payload.length = (d2, false) →
            exec (.wstore port p) s = .next (s.after ((counted d2).respond port 0x9 0 p [])))
        ∧ (∀ d1 q d2 d3 x, d0.ingress (some port) 25 p = (d1, some q) → d1.ingressXlat (some port) q .write p.addr p.payload.length = (d2, true) →
            d2.vwrite q (fabUnit port p.tag) p.addr (p.payload.map (fun b => { b := b })) = (d3, .ok x) →
            exec (.wstore port p) s = .next (s.after ((counted (d3.sweep (fabUnit port p.tag))).respond port 0x9 0 p []))))
      ∧ (p.kind = 0x3 →
        let n := ((watomElem p).map (fun e => e.ty.bytes)).getD 8
        let answer (d : Dev) (status v : Nat) : Dev :=
          (counted d).respond port (if p.noret then 0x9 else 0x8) status p (if p.noret then [] else leBytes n v)
        (∀ d1, d0.ingress (some port) 26 p = (d1, none) → exec (.watom port p) s = .next (s.after (answer d1 0 0)))
        ∧ (∀ d1 q d2 el d3 old pz, d0.ingress (some port) 26 p = (d1, some q) → watomElem p = some el →
            d1.ingressXlat (some port) q .atomic p.addr n = (d2, true) → d2.vreducePart q p.addr [el] = (d3, .ok [(old, pz)]) →
            exec (.watom port p) s = .next (s.after (answer d3 (b2n pz) old))))
      ∧ (p.kind = 0x4 → ∀ last d1, d0.putArrives (some port) p = some d1 → ∃ e, exec (.putPacket port last p) s = .next (s.after e) ∧ e.mem = d1.mem
          ∧ let n := ((d1.fab.putRx.find? (fun r => decide (r.src = p.src) && decide (r.tag = p.tag))).map (·.count)).getD 0 + 1
            (last = false → n % 64 ≠ 0 → e.out = d1.out)
            ∧ (last = true ∨ n % 64 = 0 → ∃ f : FabSt, f.putRx = e.fab.putRx
                ∧ e = ({ d1 with fab := f } : Dev).sendOn { kind := 0xA, dst := p.src, src := d1.ownNode, job := p.job, tag := p.tag, aux := n } none))
      ∧ (p.kind = 0x5 → ∀ d1 bs pz, d0.getArrives (some port) p = (d1, some (bs, pz)) →
          exec (.getPacket port p) s = .next (s.after (d1.sendOn { kind := 0xB, dst := p.src, src := d1.ownNode, job := p.job, len := bs.length, tag := p.tag,
                                                                   status := b2n pz, aux := p.aux, addr := 256 * p.aux, payload := bs } none)))
      ∧ (p.kind = 0x6 → ∀ d1 st, d0.sendArrives (some port) p = (d1, some st) →
          exec (.sendPacket port p) s = .next (s.after (d1.sendOn { kind := 0xA, dst := p.src, src := d1.ownNode, job := p.job, tag := p.tag, status := st } none))))
    ∧ (s.dev.coordValid = true → p.dst ≠ s.dev.ownNode → ∀ c b, kindClass p.kind = some c → c < 3 →
        exec (.forwardPacket port b p) s = .next (s.after (d0.sendOn p (some (port / 2, b))))))
  ∧ (∀ (d : Dev) (n bit : Nat) (p : Packet), 24 ≤ bit → bit ≤ 27 →
      let r := d.ingress (some n) bit p
      (∀ q, r.2 = some q ↔ ∃ a, d.ingressEntry p.job = some a ∧ (bit = 27 ∨ bitAt a (18 + n) = true) ∧ bitAt a bit = true ∧ q = bitsAt a 16 2
          ∧ d.jobOf q = p.job ∧ d.ready q = true)
      ∧ (r.2 ≠ none → r.1 = d) ∧ r.1.mem = d.mem ∧ r.1.ctl = d.ctl ∧ r.1.err = d.err ∧ r.1.out = d.out)
  ∧ (∀ (d : Dev) (job a : Nat), d.ingressEntry job = some a →
      ∃ i, i < 64 ∧ a = SMap.get (fun _ => 0) d.fab.ing i ∧ bitAt a 28 = true ∧ d.rbit F.FAB_ING_STOP_STOPPED i = false ∧ bitsAt a 0 16 = job)
  ∧ (∀ (dims own dst q : Nat), dimensionPort dims own dst = some q → q < 6 ∧ coordOf own (q / 2) ≠ coordOf dst (q / 2)
      ∧ (∀ ax, ax < q / 2 → coordOf own ax = coordOf dst ax)
      ∧ (q % 2 = 0 ↔ (coordOf dst (q / 2) + axisSize dims (q / 2) - coordOf own (q / 2)) % axisSize dims (q / 2) ≤ axisSize dims (q / 2) / 2))
  ∧ ∀ (dims own dst : Nat), own < 2 ^ 18 → dst < 2 ^ 18 → (dimensionPort dims own dst = none ↔ own = dst)

/-- Answers and timeouts of the module's own requests (R512, R518 to R520, R523, R525, R526): data and acknowledgements end the request of their tag;
a request without an answer for a Turn period times out, a load with poison, and its tag is free a period later; the transfers of messages send their
packets in order and count what is answered. Rests on the model's choices of log entries 40, 48 and 49. -/
def Obligations.FabricMessages : Prop :=
  ∀ (s : State) (port : Nat), s.running = true →
    (∀ p : Packet, port < 6 → s.dev.portRunning port = true → s.dev.forMe p = true →
      let d := s.dev.takePacket port p
      (p.kind = 0x8 → ∃ e, exec (.wdata port p) s = .next (s.after e) ∧ e.mem = d.mem ∧ e.ctl = d.ctl ∧ e.fab.links = d.fab.links
        ∧ e.fab.wins = d.fab.wins.map (fun w =>
            if w.port = port ∧ w.tag = p.tag ∧ w.state = 0 ∧ (w.kind = .load ∨ w.kind = .atomicRet)
            then { w with state := 1, data := (List.range w.len).map (fun i => { b := p.payload.getD i 0, p := decide (p.status = 1) }) } else w))
      ∧ (p.kind = 0x9 → ∃ e, exec (.wack port p) s = .next (s.after e) ∧ e.mem = d.mem ∧ e.ctl = d.ctl ∧ e.fab.links = d.fab.links
        ∧ e.fab.wins = d.fab.wins.filterMap (fun w =>
            if w.port = port ∧ w.tag = p.tag ∧ w.state = 0 ∧ (w.kind = .store ∨ w.kind = .atomicNoret)
            then (if w.taken then none else some { w with state := 1 }) else some w))
      ∧ (p.kind = 0xA → ∀ m it, d.msgTagged p = some (m, it) →
          let acked := max m.acked (min p.aux m.sent)
          (m.kind = 0 → exec (.pack port p) s = .next (s.after ((d.setMsg { m with acked := acked, times := m.times.filter (fun t => decide (acked ≤ t.1)) }).setItem
            { it with prog := min m.len (256 * acked) })))
          ∧ (m.kind = 2 → p.status = 2 → exec (.pack port p) s = .next (s.after (d.setMsg { m with refused := true, times := [] })))
          ∧ (m.kind = 2 → p.status ≠ 2 → exec (.pack port p) s = .next (s.after ((d.setMsg { m with acked := 1, times := [] }).setItem { it with prog := m.len }))))
      ∧ (p.kind = 0xB → ∀ m it e, s.dev.msgTagged p = some (m, it) → m.kind = 1 → d.gdataWrite it m p.aux p.payload (decide (p.status = 1)) = some e →
          exec (.gdata port p) s = .next (s.after e)))
    ∧ (∀ tag, ∃ e, exec (.windowTimeout port tag) s = .next (s.after e) ∧ e.mem = s.dev.mem ∧ e.ctl = s.dev.ctl ∧ e.out = s.dev.out
        ∧ e.fab.wins = s.dev.fab.wins.map (fun w =>
            if w.port = port ∧ w.state = 0 ∧ w.tag = tag ∧ s.dev.periodPast w.sentAt = true then
              { w with state := 2, sentAt := s.dev.time,
                       data := if w.kind = .load ∨ w.kind = .atomicRet then List.replicate w.len { b := 0, p := true } else [] }
            else w))
    ∧ (∀ tag, exec (.windowTagReuse port tag) s = .next (s.after { s.dev with fab := { s.dev.fab with wins := s.dev.fab.wins.filterMap (fun w =>
        if w.port = port ∧ w.tag = tag ∧ w.state = 2 ∧ s.dev.periodPast w.sentAt then (if w.taken then none else some { w with state := 1 }) else some w) } }))
    ∧ (∀ (k : Nat → Nat → Instr) (op item : Nat) (d : Dev) (it : Item) (m : MsgOp), (k, op) ∈ [(Instr.put, 0x70), (Instr.get, 0x71), (Instr.send, 0x72)] →
        s.dev.msgWork op item = some (d, it, m) →
        exec (k item 0) s = .next (s.after (d.setItem it))
        ∧ (d.msgOf it.id = some m → m.kind ≤ 2 → m.port < 7 → m.sent < m.packets → m.len ≠ 0 → (if m.kind = 1 then m.sent - m.got.length else m.sent - m.acked) < 8192 →
            let c := it.desc
            let r := refOf (c.word 3)
            let n := min 256 (m.len - 256 * m.sent)
            ∀ d' bs, (if m.kind = 1 then (d, some []) else d.localRead it r (r.base + 256 * m.sent) n) = (d', some bs) →
            let pkt : Packet := { kind := 4 + m.kind, dst := c.fld 1 0 18, src := d.ownNode, job := d.jobOf it.part, tag := m.tag, len := n,
                                  aux := if m.kind = 2 then c.word 5 % 2 ^ 32 else m.sent,
                                  addr := if m.kind = 2 then c.word 5 / 2 ^ 32 % 2 ^ 32 else (c.fld 4 0 52 + 256 * m.sent) % 2 ^ 52,
                                  payload := if m.kind = 1 then [] else bs.map (·.b) }
            ∃ x, exec (k item 1) s = .next (s.after ((((d'.setMsg { m with sent := m.sent + 1, times := m.times ++ [(m.sent, d.time)] }).setItem x).sendOn pkt none
                |>.sweep (.item it.id)).setItem x)) ∧ x.id = it.id ∧ x.place = it.place ∧ x.prog = it.prog ∧ x.poison = (it.poison || bs.any (·.p))))
    ∧ ∀ item it m, s.dev.item item = some it → s.dev.msgOf item = some m → it.place = .running → m.times.any (fun t => s.dev.periodPast t.2) = true →
        m.kind ≠ 1 → exec (.messageTimeout item) s = .next (s.after (((s.dev.bump F.FAB_TIMEOUTS_TIMEOUTS 1).dropMsg item).finishItem { it with poison := true }))

/-! ### Collectives -/

/-- Collective items at work (R546 to R548, R550, R554, R557, R562 to R564): rank 0 of a group begins the chain with its contribution; ALL_GATHER
keeps its own chunk and streams it; KV_PASS sends the block of its step; NORM2 sends its vector. A grant lets no packet pass that NEXT has not
allowed. A release word moves the grants, a gate word opens the gate, a stall ends the item. Rests on the model's choices of log entries 49, 50 and
84. -/
def Obligations.CollectiveOperations : Prop :=
  ∀ (s : State) (item : Nat), s.running = true →
    (∀ (k : Nat → Nat → Instr) (op : Nat) (d : Dev) (it : Item) (r : ColRun), (k, op) ∈ [(Instr.reduceScatter, 0x73), (Instr.allGather, 0x74),
        (Instr.allReduce, 0x75), (Instr.kvPass, 0x76), (Instr.norm2, 0x77)] → s.dev.colWork op item = some (d, it, r) → d.colRun item = some r → it.id = item →
      let c := it.desc
      let g := r.group
      let G := d.grpSize g
      let rank := d.grpRank g
      let left (d' : Dev) (it' : Item) (r' : ColRun) : Dev := (((d'.setRun r').setItem it').sweep (.item item)).setItem it'
      exec (k item 0) s = .next (s.after (d.setItem it))
      ∧ (op = 0x73 ∨ op = 0x75 → rank = 0 → 1 < G → r.sent < colPackets c → r.sent < r.granted.getD r.stage 0 → r.late = false →
          ∀ d' xs b, d.contribution it r r.sent = (d', some (xs, b)) → ∃ it' r',
            exec (k item 1) s = .next (s.after (left (d'.toNext g 0 r.sent 4 (xs.flatMap (fun x => leBytes 4 x.1))) it' r')) ∧ r'.sent = r.sent + 1
            ∧ r'.got = r.got ∧ r'.granted = r.granted ∧ it'.id = item ∧ it'.poison = (it.poison || xs.any (·.2)) ∧ it'.place = it.place)
      ∧ (op = 0x73 ∨ op = 0x75 ∨ op = 0x76 → r.granted.getD r.stage 0 ≤ r.sent → r.stage = 0 → (op = 0x76 ∨ 1 < G) → (op ≠ 0x76 → rank = 0) →
          exec (k item 1) s = .next (s.after (d.setItem it)))
      ∧ (op = 0x74 →
          let lo := chunkLo c G rank
          let i := lo / colPer c + r.sent
          let e0 := (packetElems c i).1
          let n := (packetElems c i).2
          let w := colSize (colInFmt c)
          e0 < chunkHi c G rank → lo ≠ chunkHi c G rank → 1 < G → i < r.granted.getD 0 0 →
          ∀ d1 bs d2 lost, d.localRead it (colIn c) ((colIn c).base + (e0 - lo) * w) (n * w) = (d1, some bs) →
            d1.localWrite it (colOut c) ((colOut c).base + e0 * w) bs = (d2, some lost) →
            exec (k item 1) s = .next (s.after
              (let it' : Item := { it with poison := it.poison || lost || bs.any (·.p) }
               (((((d2.setRun { r with sent := r.sent + 1, written := r.written + n }).toNext g 1 i 0 (bs.map (·.b))).setItem it').sweep (.item item)).setItem it'))))
      ∧ (op = 0x76 →
          let per := ceilDiv (colCount c) 256
          let b := if r.sent / per % 2 = 0 then colIn c else colOut c
          let i := r.sent % per
          per ≠ 0 → r.sent < min (c.fld 1 50 6) (d.grpSize (colGroup c) - 1) * per → r.sent / per ≤ r.written → r.sent < r.granted.getD 0 0 →
          ∀ d1 bs, d.localRead it b (b.base + 256 * i) (min 256 (colCount c - 256 * i)) = (d1, some bs) →
            let it' : Item := { it with poison := it.poison || bs.any (·.p) }
            exec (k item 1) s = .next (s.after
              (((((d1.setRun { r with sent := r.sent + 1 }).toNext g 3 r.sent 0 (bs.map (·.b))).setItem it').sweep (.item item)).setItem it')))
      ∧ (op = 0x77 → r.stage = 0 → 0 < r.groups.length → colCount c ≠ 0 → rank = 0 → r.sent = 0 → 1 < G → 0 < r.granted.getD 0 0 → r.late = false →
          ∀ d' bs, d.localRead it (colIn c) (colIn c).base (4 * colCount c) = (d', some bs) →
            let xs := numsOf 4 bs
            let it' : Item := { it with poison := it.poison || xs.any (·.2) }
            exec (k item 1) s = .next (s.after (left (d'.toNext g 4 0 4 (xs.flatMap (fun x => leBytes 4 x.1))) it' { r with sent := 1 }))))
    ∧ (∀ it r, s.dev.item item = some it → s.dev.colRun item = some r →
        (it.desc.opcode = 0x76 → ∀ d bs, s.dev.vread it.part (.item item) (extWord it.ext 4 % 2 ^ 52) 8 = (d, .ok bs) →
          let v := leNat (bs.map (·.b))
          let r' : ColRun := if bs.any (·.p) || !doorbellOk v then r else { r with release := v % 2 ^ 32 }
          let g := (d.sweep (.item item)).grantAll it r'
          exec (.kvReleasePoll item) s = .next (s.after (g.1.setRun g.2)))
        ∧ (it.place = .running → max 1 (s.dev.rf F.COL_CTRL_STALL_TURNS) ≤ r.quiet →
          exec (.collectiveStall item) s = .next (s.after (((s.dev.postError
            { cls := 1, source := 0x09, event := 0x01, inst := r.group, parts := 2 ^ it.part, tag := it.desc.tag, ring := it.ring }).bump
              F.COL_EVENTS_TIMEOUTS 1).endCol it 0x31)))
        ∧ (r.quiet < max 1 (s.dev.rf F.COL_CTRL_STALL_TURNS) → exec (.collectiveStall item) s = .next (s.after s.dev)))
    ∧ ∀ it w, s.dev.item item = some it → it.engine = .collective → it.place = .queued → 0x73 ≤ it.desc.opcode → colGate it.ext ≠ 0 →
        let met := decide ((w / 2 ^ 32) % 2 ^ 32 = 2 ^ 32 - 1 - w % 2 ^ 32) && decide ((w % 2 ^ 32 + 2 ^ 32 - extWord it.ext 2 % 2 ^ 32) % 2 ^ 32 < 2 ^ 31)
        exec (.gateWord item w true) s = .next (s.after (((s.dev.unfollow (colGate it.ext / 64)).dropRun item).finishItem { it with poison := true }))
        ∧ (met = true → ∃ e, exec (.gateWord item w false) s = .next (s.after e) ∧ e.gateMet { it with id := item } = true ∧ e.mem = s.dev.mem ∧ e.ctl = s.dev.ctl)
        ∧ (met = false → exec (.gateWord item w false) s = .next (s.after { s.dev with col := { s.dev.col with gatesMet := s.dev.col.gatesMet.erase item } }))

/-- Packets of a collective (R547, R548, R550, R553, R562 to R565): one for a group that is invalid, stopped or of another job, or from the wrong
neighbour, is dropped and counted, one of another generation counted as stale; the others do their part: a partial gains this rank's contribution and
goes on, results and gathered elements are kept and passed on, a grant widens what may be sent. Rests on the model's choices of log entries 50 and
67. -/
def Obligations.CollectivePackets : Prop :=
  (∀ (s : State) (port : Nat) (p : Packet), s.running = true → port < 6 → s.dev.portRunning port = true → s.dev.forMe p = true → p.kind = 0xC →
    let g := p.addr % 256
    let i := p.addr / 2 ^ 16 % 2 ^ 36
    let d1 := s.dev.takePacket port p
    (∀ (k : Nat → Packet → Instr) (sub : Nat) (nx : Bool), (k, sub, nx) ∈ [(Instr.reducePartial, 0, false),
        (Instr.deliveredResult, 1, !s.dev.gathering g), (Instr.grant, 2, true), (Instr.kvBlock, 3, false), (Instr.norm2Partial, 4, false),
        (Instr.norm2Result, 5, true)] → p.sub = sub →
      (s.dev.colHead p = some false → exec (k port p) s = .next (s.after (d1.bump F.COL_EVENTS_DROP 1)))
      ∧ (s.dev.colHead p = some true → exec (k port p) s = .next (s.after (d1.bump F.COL_EVENTS_STALE 1)))
      ∧ (s.dev.colHead p = none → p.src ≠ (if nx then s.dev.grpNext g else s.dev.grpPrev g) →
          exec (k port p) s = .next (s.after (d1.bump F.COL_EVENTS_DROP 1))))
    ∧ (∀ r0 it, s.dev.colHead p = none → p.addr / 2 ^ 8 % 256 = s.dev.opseq g % 256 → s.dev.col.runs.find? (fun r => r.groups.contains g) = some r0 →
      s.dev.item r0.item = some it →
      let r : ColRun := { r0 with heard := true }
      let d := d1.setRun r
      let words (w : Nat) : List Nat := (chunks w p.payload.length p.payload).map leNat
      (p.sub = 2 → p.src = s.dev.grpNext g →
        let k := (r.groups.findIdx? (fun x => decide (x = g))).getD 0
        exec (.grant port p) s = .next (s.after (d.setRun { r with granted := r.granted.set k (max (r.granted.getD k 0) (i + 1)) })))
      ∧ (p.sub = 0 → p.src = s.dev.grpPrev g → it.desc.opcode = 0x73 ∨ it.desc.opcode = 0x75 → i = r.got → i < r.gave.getD 0 0 →
        ∀ d' it' r', d.reduceOne it r i (some (words 4)) = (d', some (it', r')) →
          let x := (d'.setItem it').grantAll it' { r' with got := r'.got + 1 }
          exec (.reducePartial port p) s = .next (s.after ((x.1.setRun x.2).sweep (.item it'.id))))
      ∧ (p.sub = 1 → s.dev.gathering g = true → p.src = s.dev.grpPrev g → it.desc.opcode = 0x74 → r.delivered.contains i = false → i < r.gave.getD 0 0 →
        ∀ e, d.gatherArrive it r i p.payload = some e → exec (.deliveredResult port p) s = .next (s.after e))
      ∧ (p.sub = 1 → s.dev.gathering g = false → p.src = s.dev.grpNext g → it.desc.opcode = 0x73 ∨ it.desc.opcode = 0x75 → r.delivered.contains i = false →
        i < colPackets it.desc → ∀ d' it' r',
          d.resultWrite it { r with delivered := r.delivered ++ [i] } i (words (colSize (colOutFmt it.desc))) = (d', some (it', r')) →
          let e := (d'.setRun r').setItem it'
          let rank := d.grpRank r.group
          let owner := (packetElems it.desc i).1 / max 1 (colChunk it.desc (d.grpSize r.group))
          exec (.deliveredResult port p) s = .next (s.after
            ((if 0 < rank ∧ (it.desc.opcode = 0x75 ∨ owner < rank) then e.toPrev r.group 1 i 0 p.payload else e).sweep (.item it'.id))))
      ∧ (p.sub = 3 → p.src = s.dev.grpPrev g → it.desc.opcode = 0x76 → i = r.got → i < r.gave.getD 0 0 →
        let per := ceilDiv (colCount it.desc) 256
        let b := if (i / per + 1) % 2 = 0 then colIn it.desc else colOut it.desc
        i % per + 1 ≠ per → ∀ d' lost, d.localWrite it b (b.base + 256 * (i % per)) (p.payload.map (fun x => { b := x })) = (d', some lost) →
          let it' : Item := { it with poison := it.poison || lost }
          let x := (d'.setItem it').grantAll it' { r with got := r.got + 1 }
          exec (.kvBlock port p) s = .next (s.after ((x.1.setRun x.2).sweep (.item it.id))))
      ∧ (p.sub = 4 → p.src = s.dev.grpPrev g → it.desc.opcode = 0x77 → i = 0 → r.group = g → r.got = 0 → ∀ d' it' r',
          d.normAdd it { r with got := 1 } (some (words 4)) = (d', some (it', r')) →
          exec (.norm2Partial port p) s = .next (s.after (((d'.setRun r').setItem it').sweep (.item it'.id))))
      ∧ (p.sub = 5 → p.src = s.dev.grpNext g → it.desc.opcode = 0x77 → r.group = g → r.sent = 1 → ∀ d' it' r',
          d.normResult it r (words 4) = (d', some (it', r')) →
          let e := (d'.setRun r').setItem it'
          exec (.norm2Result port p) s = .next (s.after ((if 0 < d.grpRank r.group then e.toPrev r.group 5 0 0 p.payload else e).sweep (.item it'.id))))))
  ∧ (∀ (d : Dev) (it : Item) (r : ColRun) (i : Nat) (ps : List Nat) (d' : Dev) (xs : List (Nat × Bool)) (b : Bool),
      d.grpRank r.group + 1 ≠ d.grpSize r.group → i < r.granted.getD r.stage 0 → r.late = false → d.contribution it r i = (d', some (xs, b)) →
      let sums := (xs.zip ps).map (fun e => addF32 e.2 e.1.1)
      ∃ e it' r', d.reduceOne it r i (some ps) = (e, some (it', r')) ∧ it'.id = it.id ∧ r'.item = r.item ∧ r'.got = r.got
        ∧ it'.sat = (it.sat || sums.any (·.2.1)) ∧ it'.poison = (it.poison || xs.any (·.2))
        ∧ e = (match d'.firstHop (d'.grpNext r.group) with
            | some n => d'.event (34 + n) 0x706 (some it.part) 0 1
            | none => d').toNext r.group 0 i 4 (sums.flatMap (fun (x : Nat × Bool × Bool) => leBytes 4 x.1)))
  ∧ ∀ a b : Nat, a < 2 ^ 32 → b < 2 ^ 32 → (addF32 a b).1 = (addF32 b a).1

/-! ### The Granary and HBM -/

/-- Requests at a slice (R325, R326, R329 to R333, R341, R344, R352): a Clean line answers a read, takes a write as Dirty bytes, and is reduced in
place; a write to an absent line makes a Dirty way without a fill, a read makes a fill that it waits for; a dead channel gives poison and discards
writes. Reads see the bytes last written, whether they are in the tag, in a write-back or in HBM. Rests on the model's choices of log entries 5 and
84. -/
def Obligations.SliceAccess : Prop :=
  (∀ (s : State) (id part slice line hint : Nat), s.running = true → slice < 256 → line < 2 ^ 24 → s.dev.mem.retraining.contains slice = false →
    let k := slice * 2 ^ 24 + line
    let who : Option Nat := if part < 4 then some part else none
    let d := s.dev
    (d.chanDead slice = true →
      (∀ lo n, n ≠ 0 → lo + n ≤ 128 →
        exec (.sliceRead id part slice line lo n hint) s = .next (s.after (d.emit (.sliceData id (d.viewLine k lo n)))) ∧ ∀ b ∈ d.viewLine k lo n, b.p = true)
      ∧ (∀ lo bs, bs ≠ [] → lo + bs.length ≤ 128 → exec (.sliceWrite id part slice line lo bs hint) s =
          .next (s.after ((d.bump (F.GRN_SLICE_STATUS_DISCARDED slice) 1).emit (.sliceDone id)))))
    ∧ (d.chanDead slice = false → d.mem.refetches.any (fun x => x.key = k) = false → d.wbOf k = none →
      let hit := d.event (chanBlock slice) 0x500 who (slice % 32) 1
      let miss := d.event (chanBlock slice) 0x501 who (slice % 32) 1
      (∀ l, d.line k = some l → l.st = .clean → l.waits = [] → l.pf = 0 → l.held = [] →
        (∀ lo n, n ≠ 0 → lo + n ≤ 128 → (hit.viewLine k lo n).any (·.p) = false →
          exec (.sliceRead id part slice line lo n hint) s = .next (s.after ((hit.touch k hint false).emit (.sliceData id (hit.viewLine k lo n)))))
        ∧ (∀ lo bs, bs ≠ [] → lo + bs.length ≤ 128 →
            let ws := bs.zipIdx.map (fun e => (lo + e.2, e.1))
            exec (.sliceWrite id part slice line lo bs hint) s =
              .next (s.after ((((hit.setLine k (some (l.write ws))).touch k hint false).foldWrite k ws).emit (.sliceDone id))))
        ∧ (∀ es : List RedElem, es ≠ [] → es.all (·.fits) = true →
            let r := hit.redElems k who es
            exec (.sliceReduction id part slice line es hint) s = .next (s.after
              ((r.1.touch k hint false).emit (if es.any (·.ret) then .sliceOld id r.2 else .sliceDone id)))))
      ∧ (d.line k = none → ∀ d', miss.makeRoom k = some d' →
        (∀ lo n, n ≠ 0 → lo + n ≤ 128 →
          let q : SliceReq := { id := id, part := who, op := .read lo n, hint := hint }
          exec (.sliceRead id part slice line lo n hint) s = .next (s.after ((d'.install k { st := .fill, waits := [q] } hint).hwPrefetch k hint)))
        ∧ (∀ lo bs, bs ≠ [] → lo + bs.length ≤ 128 →
            let ws := bs.zipIdx.map (fun e => (lo + e.2, e.1))
            exec (.sliceWrite id part slice line lo bs hint) s =
              .next (s.after (((d'.install k (Line.fresh ws) hint).foldWrite k ws).emit (.sliceDone id)))))))
  ∧ (∀ (s : State) (id slice base count hint : Nat) (op : RangeOp), s.running = true → slice < 256 → base + count ≤ 2 ^ 24 →
      exec (.rangeRequest id slice op base count hint) s = .next (s.after
        (((List.range count).foldl (fun d i => d.rangeLine op (slice * 2 ^ 24 + (base + i)) hint) s.dev).emit (.sliceDone id))))
  ∧ (∀ (d : Dev) (k i : Nat) (l : Line) (bs : List (Nat × MByte)), d.line k = some l → i < 128 →
      (d.setLine k (some (l.write bs))).viewByte k i = (match bs.reverse.find? (fun e => decide (e.1 = i)) with
        | some e => e.2.b
        | none => d.viewByte k i)
      ∧ ∀ j, j ≠ k → (d.setLine k (some (l.write bs))).viewByte j i = d.viewByte j i)
  ∧ (∀ (d : Dev) (k : Nat) (w : WriteBack), d.wbOf k = some w → k < 2 ^ 32 → ∀ j i, i < 128 → ((d.setWb k none).wbToDram k w).viewByte j i = d.viewByte j i)
  ∧ ∀ (d : Dev) (k : Nat) (l : Line), d.line k = some l → l.held = [] → d.wbOf k = none → k < 2 ^ 32 → ∀ j i, i < 128 → (d.flushLine k).viewByte j i = d.viewByte j i

/-- HBM and its lines (R326, R330, R331, R344, R371 to R376, R380 to R382, R471 to R473): data and the ends of write-backs arrive on a channel that
serves; a command that fails for good, and a retraining that fails, fail the channel; scrub visits the next line of every healthy channel and leaves
clean memory as it is; refresh and retraining follow the temperature; a shared-weight line is read again from its source; a stack that trained holds
zeros. Rests on the model's choices of log entries 19, 51 and 63. -/
def Obligations.HbmAndLines : Prop :=
  ∀ s : State, s.running = true →
    let d := s.dev
    (∀ slice line, line < 2 ^ 24 →
      let k := slice * 2 ^ 24 + line
      (d.chanServes slice = true → d.awaitsData k = true →
        exec (.lineFill slice line [] true) s = .next (s.after (d.failChannel slice))
        ∧ exec (.lineFill slice line [] false) s = .next (s.after (d.arrive k)))
      ∧ (d.chanServes slice = false ∨ d.awaitsData k = false → ∀ errs lost, exec (.lineFill slice line errs lost) s = .next (s.after d))
      ∧ (d.chanServes slice = true → exec (.writeBackDone slice line) s = .next (s.after (d.wbDone k)))
      ∧ (∀ r, d.mem.refetches.find? (fun r => !r.started) = some r → r.key = k → (d.mem.refetches.filter (·.started)).length < 64 →
          let r' : Refetch := { r with started := true, startedAt := d.time }
          exec (.refetch slice line) s = .next (s.after ((d.setRefetch r').refetchRead r').1))
      ∧ (∀ r, d.refetchOf k = some r → r.started = true → ∀ d' bs, d.refetchRead r = (d', some bs) →
          (bs.any (·.p) = true → exec (.refetchLineArrival slice line) s = .next (s.after (d'.refetchFail r)))
          ∧ (bs.any (·.p) = false → ∀ e,
              let free : Dev := { d' with mem := { d'.mem with refetches := d'.mem.refetches.filter (fun x => decide (x.key ≠ k)) } }
              free.lineWrite none k 0 (bs.zipIdx.map (fun e => (e.2, e.1))) = (e, true) →
              let e' := e.sweep (millerUnit k)
              exec (.refetchLineArrival slice line) s = .next (s.after
                (((e'.bump (F.PRT_SWR_STAT_REFETCHED r.region) 1).postError (e'.swrRec k r.region 0 0x05)).serveHeld r))))
      ∧ (∀ r, d.refetchOf k = some r →
          (r.started = true → r.startedAt + d.rf F.TRN_PERIOD_ACTIVE_NS ≤ d.time → exec (.refetchTimeout slice line) s = .next (s.after (d.refetchFail r)))
          ∧ (d.time < r.startedAt + d.rf F.TRN_PERIOD_ACTIVE_NS → exec (.refetchTimeout slice line) s = .next (s.after d))))
    ∧ (∀ stack, stack < 8 → d.rb (F.HBM_CTRL_SCRUB_EN stack) = true → d.rf (F.HBM_STATUS_STATE stack) = 2 →
        ∃ e, exec (.scrub stack []) s = .next (s.after e) ∧ e.mem = d.mem ∧ e.err = d.err ∧ e.out = d.out ∧ e.ctl = d.ctl
          ∧ e.rf (F.HBM_SCRUB_LINE stack) = (d.rf (F.HBM_SCRUB_LINE stack) + 1) % 2 ^ 24)
    ∧ (∀ ch temp, ch < 256 → d.rf (F.HBM_STATUS_STATE (ch / 32)) ≠ 0 → d.rf (F.HBM_CHAN_STATE (ch / 32) (ch % 32)) ≠ 3 →
        exec (.refresh ch temp) s = .next (s.after ((d.setTemp ch temp).event (chanBlock ch) 0x602 none (ch % 32) 1))
          ∧ SMap.get (fun _ => 0) (d.setTemp ch temp).mem.temps ch = temp % 256)
    ∧ (∀ ch temp, ch < 256 → d.rb (F.HBM_CTRL_RETRAIN_EN (ch / 32)) = true → d.rf (F.HBM_STATUS_STATE (ch / 32)) = 2 → d.chanServes ch = true →
        let last := SMap.get (fun _ => 0) d.mem.trainedAt ch
        let moved := (temp % 256 - last) + (last - temp % 256)
        (moved < max 1 (d.rf (F.HBM_CTRL_RETRAIN_DELTA (ch / 32))) → exec (.hbmRetrain ch temp) s = .next (s.after (d.setTemp ch (temp % 256))))
        ∧ (max 1 (d.rf (F.HBM_CTRL_RETRAIN_DELTA (ch / 32))) ≤ moved → ∃ e, exec (.hbmRetrain ch temp) s = .next (s.after e)
            ∧ e.mem.retraining = d.mem.retraining ++ [ch] ∧ e.chanServes ch = false
            ∧ e.rf (F.HBM_STATUS_RETRAINS (ch / 32)) = (d.rf (F.HBM_STATUS_RETRAINS (ch / 32)) + 1) % 2 ^ 16))
    ∧ (∀ ch ok, d.mem.retraining.contains ch = true →
        let e : Dev := { d with mem := { d.mem with
          retraining := d.mem.retraining.erase ch,
          trainedAt := SMap.set (fun _ => 0) d.mem.trainedAt ch (SMap.get (fun _ => 0) d.mem.temps ch) } }
        exec (.hbmRetrainDone ch ok) s = .next (s.after (if ok then e.retrySlice ch else e.failChannel ch)))
    ∧ ∀ stack, stack < 8 → d.rf (F.HBM_STATUS_STATE stack) = 1 → bitAt d.boot.trained stack = false →
        d.mem.lines = [] → d.mem.wbs = [] → d.mem.refetches = [] →
        ∃ e : Dev, exec (.hbmTrainingDone stack true 0 []) s = .next (s.after (((e.wf (F.HBM_STATUS_STATE stack) 2).showHealthy stack).startReady))
          ∧ e.boot.trained = d.boot.trained ||| 2 ^ stack ∧ (∀ ch j, ch / 32 = stack → j < 2 ^ 31 → SMap.get zeroByte e.mem.hbm (ch * 2 ^ 31 + j) = 0)
          ∧ (∀ ch j, ch / 32 ≠ stack → j < 2 ^ 31 → SMap.get zeroByte e.mem.hbm (ch * 2 ^ 31 + j) = SMap.get zeroByte d.mem.hbm (ch * 2 ^ 31 + j))

/-! ### Links and packets -/

/-- The link layer (R490 to R500, R532): a bad flit and a flit out of sequence are discarded and answered with NAK; a flit in sequence is acknowledged
data; a NAK makes every unacknowledged flit go again. Training goes through its steps and sets the hop delay to the mean of sixteen exchanges; a
lane's group leaves and returns; too few groups take the port down; identity and coordinate make it identified, running or miswired. Rests on the
model's choices of log entries 20 and 45. -/
def Obligations.LinkWork : Prop :=
  (∀ (s : State) (port : Nat), s.running = true → port < 6 →
    let d := s.dev
    let l := d.linkOf port
    (∀ flit : Flit, d.linkUp port = true →
      let h := flitHeader flit
      let vc := bitsAt h 27 3
      let len := bitsAt h 30 8
      (flitBad flit = true → ∃ e : Dev, e = d.bump (F.FAB_PORT_ERR_BAD_FLITS port) 1
        ∧ exec (.flitReceived port flit) s = .next (s.after (if l.naking then e else e.sendNak port)))
      ∧ (flitBad flit = false → l.txWait = [] →
        let l1 : LinkSt := if bitAt h 24 then l.acked (bitsAt h 12 12) else l
        let l2 : LinkSt := { l1 with credits := l1.credits.modify (bitsAt h 38 3) (· + bitsAt h 41 12) }
        let d2 := d.setLink port l2
        (bitAt h 25 = true → len = 0 → exec (.flitReceived port flit) s = .next (s.after (d2.replayAll port)))
        ∧ (bitAt h 25 = false → len = 0 → exec (.flitReceived port flit) s = .next (s.after d2))
        ∧ (bitAt h 25 = false → len ≠ 0 → bitsAt h 0 12 ≠ l.rxNext ∨ (l.naking = true ∧ bitAt h 26 = false) →
            exec (.flitReceived port flit) s = .next (s.after (if l.naking then d2 else d2.sendNak port)))
        ∧ (bitAt h 25 = false → len ≠ 0 → bitsAt h 0 12 = l.rxNext → l.naking = false ∨ bitAt h 26 = true →
            (2048 ≤ l.rxUsed.getD vc 0 → exec (.flitReceived port flit) s = .next (s.after (d2.bump (F.FAB_PORT_ERR_NO_CREDIT port) 1)))
            ∧ (l.rxUsed.getD vc 0 < 2048 → exec (.flitReceived port flit) s = .next (s.after
                ((((d2.setLink port { l2 with rxNext := (l.rxNext + 1) % 4096, rxAny := true, naking := false, rxUsed := l.rxUsed.modify vc (· + 1) }).bwCount
                  (32 + port) false len).event (34 + port) 0x701 none 0 1).reassemble port vc ((flit.drop 8).take len)))))))
    ∧ exec (.nakResend port) s = .next (s.after (if d.linkUp port && l.naking then d.sendNak port else d))
    ∧ (∀ lane, lane < 32 → d.rb (F.FAB_PORT_CTL_RETRAIN_EN port) = true → 2 ≤ d.rf (F.FAB_PORT_STAT_STATE port) → l.retraining.contains lane = false →
        let g := lane / 8
        let l' : LinkSt := { l with groupsOut := l.groupsOut ||| 2 ^ g, retraining := l.retraining ++ [lane], groupsBack := l.groupsBack &&& (15 ^^^ 2 ^ g) }
        let d' := (d.setLink port l').bump (F.FAB_PORT_STAT_RETRAINS port) 1
        (popcount 4 l'.groups < d.rf (F.FAB_PORT_CTL_MIN_WIDTH port) + 1 → exec (.laneRetrain port lane) s = .next (s.after (d'.portDown port)))
        ∧ (d.rf (F.FAB_PORT_CTL_MIN_WIDTH port) + 1 ≤ popcount 4 l'.groups → ∃ e, exec (.laneRetrain port lane) s = .next (s.after e)
            ∧ (e.linkOf port).groups = l'.groups ∧ bitAt (e.linkOf port).groups g = false
            ∧ e.rf (F.FAB_PORT_STAT_GROUPS port) = l'.groups ∧ e.rf (F.FAB_PORT_STAT_WIDTH port) = 8 * popcount 4 l'.groups
            ∧ Out.fabric port { kind := 0xE, sub := 4, src := d.ownNode, dst := l.peerNode.getD 0, aux := l.txNext, addr := l'.groups } ∈ e.out
            ∧ e.mem = d.mem ∧ e.ctl = d.ctl))
    ∧ (∀ lane, l.retraining.contains lane = true →
        (∃ x : LinkSt, exec (.laneRetrainDone port lane true) s = .next (s.after (d.setLink port x)) ∧ x.retraining = l.retraining.erase lane
          ∧ SMap.get (fun _ => 0) x.laneFails lane = 0 ∧ x.groupsOut = l.groupsOut ∧ x.replay = l.replay
          ∧ x.groupsBack = if (∀ m ∈ x.retraining, m / 8 ≠ lane / 8) ∧ (∀ m < 8, SMap.get (fun _ => 0) x.laneFails (8 * (lane / 8) + m) < 3)
              then l.groupsBack ||| 2 ^ (lane / 8) else l.groupsBack)
        ∧ ∃ x : LinkSt, exec (.laneRetrainDone port lane false) s = .next (s.after (d.setLink port x)) ∧ x.groupsOut = l.groupsOut ∧ x.groupsBack = l.groupsBack
          ∧ let n := SMap.get (fun _ => 0) l.laneFails lane + 1
            SMap.get (fun _ => 0) x.laneFails lane = n ∧ x.retraining = if 3 ≤ n then l.retraining.erase lane else l.retraining)
    ∧ (∀ groups, d.rb (F.FAB_PORT_CTL_ENABLE port) = true → bitAt d.tst.colDead port = false →
        (d.rf (F.FAB_PORT_STAT_STATE port) < 3 → exec (.linkTrainingDone port groups false) s =
          .next (s.after ((d.setLink port { l with step := 0, delays := [] }).wf (F.FAB_PORT_STAT_STATE port) 1)))
        ∧ (3 ≤ d.rf (F.FAB_PORT_STAT_STATE port) → exec (.linkTrainingDone port groups false) s = .next (s.after d))
        ∧ (l.step = 0 → exec (.linkTrainingDone port groups true) s = .next (s.after ((d.setLink port { l with step := 1 }).wf (F.FAB_PORT_STAT_STATE port) 1)))
        ∧ (l.step = 1 → ∃ e, exec (.linkTrainingDone port groups true) s = .next (s.after e)
            ∧ e.fab = (d.setLink port { l with step := 2, groupsPeer := groups % 16, groupsOut := 0, delays := [] }).fab ∧ e.out = d.out ∧ e.mem = d.mem
            ∧ e.rf (F.FAB_PORT_STAT_GROUPS port) = (l.groupsOwn &&& groups) % 16
            ∧ e.rf (F.FAB_PORT_STAT_WIDTH port) = 8 * popcount 4 (l.groupsOwn &&& groups)
            ∧ e.rf (F.FAB_PORT_STAT_STATE port) = d.rf (F.FAB_PORT_STAT_STATE port))
        ∧ (l.step = 2 → l.delays.length < 16 → exec (.linkTrainingDone port groups true) s = .next (s.after d))
        ∧ (l.step = 2 → l.delays.length = 16 → ∃ e : Dev, e = (d.setLink port { l with step := 3, hopDelay := l.delays.sum / 32 }).showDelay port
            ∧ exec (.linkTrainingDone port groups true) s = .next (s.after (e.sendLink port 1 { kind := 0xE, len := 96, payload := e.identityBlock port }))))
    ∧ (∀ p : Packet, p.kind = 0xE →
        let d' := d.takePacket port p
        (d.linkUp port = true → p.sub = 0 → ∀ t2 t3, exec (.delayRequest port t2 t3 p) s = .next (s.after
          (d'.sendLink port 2 { kind := 0xE, len := 16, tag := p.tag, payload := leBytes 8 t2 ++ leBytes 8 t3 })))
        ∧ (d.linkUp port = true → p.sub = 2 → ∀ t1 t2 t3 t4 : Nat, t2 < 2 ^ 64 → t3 < 2 ^ 64 → p.payload = leBytes 8 t2 ++ leBytes 8 t3 →
            let ds := l.delays ++ [((t4 : Int) - (t1 : Int)) - ((t3 : Int) - (t2 : Int))]
            (l.step < 3 → l.delays.length < 16 → ∃ e : Dev, exec (.delayResponse port t1 t4 p) s = .next (s.after e) ∧ (e.linkOf port).delays = ds
              ∧ (e.linkOf port).hopDelay = l.hopDelay ∧ e.regs = d.regs)
            ∧ (3 ≤ l.step → l.delays.length = 15 → ∃ e : Dev, exec (.delayResponse port t1 t4 p) s = .next (s.after e) ∧ (e.linkOf port).delays = []
              ∧ (e.linkOf port).hopDelay = ds.sum / 32))
        ∧ (p.sub = 1 → 3 ≤ l.step → d.rf (F.FAB_PORT_STAT_STATE port) < 2 → ∃ e : Dev,
            exec (.identity port p) s = .next (s.after ((e.postError { cls := 0, source := 0x08, event := 0x01, inst := port }).announce port))
            ∧ (∀ k, k < 12 → (e.reg (Reg.FAB_PEER port k)).toNat = leNat ((p.payload.drop (8 * k)).take 8))
            ∧ e.rf (F.FAB_PORT_STAT_STATE port) = 2 ∧ (e.linkOf port).step = 4
            ∧ e.rf (F.FAB_PORT_STAT_LINKUPS port) = (d.rf (F.FAB_PORT_STAT_LINKUPS port) + 1) % 2 ^ 16)
        ∧ (p.sub = 3 → 2 ≤ d.rf (F.FAB_PORT_STAT_STATE port) → ∃ e, exec (.coordinate port p) s = .next (s.after e)
            ∧ (e.linkOf port).peerNode = some (p.addr % 2 ^ 18) ∧ e.mem = d.mem ∧ e.ctl = d.ctl
            ∧ e.rf (F.FAB_PORT_STAT_STATE port) =
                if d.coordValid then (if d.expectedPeer port = some (p.addr % 2 ^ 18) then 3 else 4) else d.rf (F.FAB_PORT_STAT_STATE port))
        ∧ (p.sub = 4 → 2 ≤ d.rf (F.FAB_PORT_STAT_STATE port) →
            let lt := d'.linkOf port
            let l' : LinkSt := { lt with groupsPeer := p.addr % 16 ||| l.groupsOut, widthAtRx := some (p.aux % 4096, p.addr % 16) }
            (popcount 4 l'.groups < d.rf (F.FAB_PORT_CTL_MIN_WIDTH port) + 1 → exec (.widthChange port p) s = .next (s.after ((d'.setLink port l').portDown port)))
            ∧ (d.rf (F.FAB_PORT_CTL_MIN_WIDTH port) + 1 ≤ popcount 4 l'.groups → exec (.widthChange port p) s = .next (s.after ((d'.setLink port l').showWidth port))))))
  ∧ (∀ (d : Dev) (port : Nat), port < 6 →
      let l := d.linkOf port
      (d.replayAll port).out = d.out ++ l.replay.map (fun e => Out.flit port (l.again e.1 e.2))
      ∧ (d.replayAll port).fab = d.fab
      ∧ (d.portDown port).rf (F.FAB_PORT_STAT_STATE port) = 0 ∧ (d.portDown port).rf (F.FAB_PORT_STAT_WIDTH port) = 0
      ∧ ((d.portDown port).linkOf port).replay = [] ∧ ((d.portDown port).linkOf port).step = 0
      ∧ ∀ w ∈ (d.portDown port).fab.wins, w.port = port → w.state ≠ 0)
  ∧ ∀ (d : Dev) (port n : Nat), port < 6 → d.expectedPeer port = some n →
      let ax := port / 2
      let size := axisSize (d.fab.dims.getD 0) ax
      1 < size ∧ ∀ x, x < 3 → coordOf n x = if x = ax then (if port % 2 = 0 then (coordOf d.ownNode ax + 1) % size else (coordOf d.ownNode ax + size - 1) % size)
        else coordOf d.ownNode x

/-- Packets as bytes (R492, R509, R510, R641, R642): a packet read from its own bytes is that packet, whatever follows it; a flit with its own check
is no bad flit; a check that differs, or a length above 244, makes one. -/
def Obligations.PacketBytes : Prop :=
  (∀ (p : Packet) (rest : List Byte), p.kind < 16 → p.dst < 2 ^ 18 → p.src < 2 ^ 18 → p.job < 2 ^ 16 → p.len < 512 → p.tag < 1024 → p.sub < 16 → p.typ < 8 →
    p.status < 4 → p.aux < 2 ^ 32 → p.addr < 2 ^ 52 → p.payload.length = (if p.kind ∈ [0x1, 0x5, 0x9, 0xA, 0xD] then 0 else p.len) →
    Packet.parse (p.bytes ++ rest) = some (p, rest))
  ∧ (∀ (p : CplPacket) (rest : List Byte), p.op < 256 → p.tag < 4096 → p.len < 512 → p.code < 256 → p.arg < 2 ^ 24 → p.addr < 2 ^ 52 → p.resv < 2 ^ 14 →
    p.payload.length = (if cplHasPayload p.op then p.len else 0) → CplPacket.parse (p.bytes ++ rest) = some (p, rest))
  ∧ (∀ (h : Nat) (pay : List Byte), h < 2 ^ 64 → (flitHeader (flitBytes h pay) = h) ∧ (flitBad (flitBytes h pay) = decide (244 < bitsAt h 30 8))
      ∧ (pay.length ≤ 244 → ((flitBytes h pay).drop 8).take pay.length = pay))
  ∧ (∀ (f : Flit) (c : List Byte), f.length = 256 → c.length = 4 → c ≠ (f.drop 252).take 4 → flitBad f = false → flitBad (f.take 252 ++ c) = true)
  ∧ ∀ (l : LinkSt) (seq vc len cvc credits : Nat) (nak rpl : Bool), seq < 4096 → vc < 8 → len ≤ 244 → cvc < 8 → credits < 4096 → l.rxNext < 4096 →
      let h := l.header seq vc len nak rpl cvc credits
      h < 2 ^ 64 ∧ bitsAt h 0 12 = seq ∧ (bitsAt h 12 12 + 1) % 4096 = l.rxNext ∧ bitAt h 24 = l.rxAny ∧ bitAt h 25 = nak ∧ bitAt h 26 = rpl ∧ bitsAt h 27 3 = vc
        ∧ bitsAt h 30 8 = len ∧ bitsAt h 38 3 = cvc ∧ bitsAt h 41 12 = credits ∧ h / 2 ^ 53 = 0

/-! ### The Companion Link -/

/-- Packets of the companion (R638, R640, R642 to R645, R647, R650 to R652, R658 to R661): one that fails a check is dropped, answered by NAK, counted
and recorded, and too many in a Turn quarantine the class; requests read and write device memory and are answered; a snoop is acknowledged, drops the
copy and reads a Pinned line again; answers end the module's requests, a NAK or a Turn period without one fails them; the link's width follows
LINK_CTL. Rests on the model's choices of log entries 54, 55, 56, 70 and 71. -/
def Obligations.CompanionPackets : Prop :=
  (∀ (s : State) (p : CplPacket), s.running = true → s.dev.cplHears p = true →
    let d := s.dev
    let d1 := d.takeCpl p
    let n := p.addr / 64
    (∀ (k : CplPacket → Instr) (op : Nat), (k, op) ∈ [(Instr.cplRd, 1), (Instr.cplWr, 3), (Instr.cplWrMask, 4), (Instr.snpInv, 0x10), (Instr.cplData, 0x30),
        (Instr.cplAck, 0x20), (Instr.cplNak, 0x21)] → p.op = op → d.cplCode p ≠ 0 → exec (k p) s = .next (s.after (d.violate p (d.cplCode p))))
    ∧ (cplCarries (d.cplVc p) p.op = false → exec (.badOp p) s = .next (s.after (d.violate p (d.cplCode p)))
        ∧ (d.coherent = true → d.rbit F.CPL_STATUS_QUAR (d.cplVc p) = false → d.cplCode p = 1))
    ∧ (p.op = 0x42 → knownCommand (p.arg % 256) = false → d.cmdFirst p = true → d.cplCode p = 0 →
        exec (.reservedCommand p) s = .next (s.after ((d1.cplResult p 8 0).countViolation 4 1)))
    ∧ (d.cplCode p = 0 →
      (p.op = 1 → ∀ e bs, d1.devRead (linesOf p.addr (p.arg % 512)) = (e, some bs) → exec (.cplRd p) s =
          .next (s.after (e.sendCpl { op := 0x30, tag := p.tag, len := p.arg % 512, poison := bs.any (·.p), payload := bs.map (·.b) })))
      ∧ (p.op = 3 → ∀ e, d1.devWrite p.addr (p.payload.zipIdx.map (fun x => (x.2, { b := x.1, p := p.poison }))) (linesOf p.addr p.len) = some e →
          exec (.cplWr p) s = .next (s.after (e.sendCpl { op := 0x20, tag := p.tag })))
      ∧ (p.op = 4 → ∀ ws e, (∀ x : Nat × MByte, x ∈ ws ↔ x.1 < 64 ∧ x.1 + 8 < p.payload.length ∧ bitAt (leNat (p.payload.take 8)) x.1 = true
            ∧ x.2 = { b := p.payload.getD (8 + x.1) 0, p := p.poison }) → ws.Pairwise (fun x y => x.1 < y.1) →
          d1.devWrite p.addr ws (linesOf p.addr 64) = some e → exec (.cplWrMask p) s = .next (s.after (e.sendCpl { op := 0x20, tag := p.tag })))
      ∧ (p.op = 0x10 → ∃ e, exec (.snpInv p) s = .next (s.after e) ∧ Out.link { op := 0x20, tag := p.tag } ∈ e.out ∧ e.cplLine n = none
          ∧ (∀ m, m ≠ n → e.cplLine m = d.cplLine m) ∧ e.mem = d.mem ∧ e.ctl = d.ctl ∧ e.cpl.followed = d.cpl.followed
          ∧ (∀ r ∈ d.cpl.reqs, r.op = 2 → r.addr / 64 = n → { r with snooped := true } ∈ e.cpl.reqs)
          ∧ ((d.cplLine n).isSome = true → d.pinnedLine n = true → d.reading n = false → d.cpl.reqs.length < 1024 →
              ∃ r ∈ e.cpl.reqs, r.op = 2 ∧ r.addr = 64 * n ∧ r.snooped = false))
      ∧ (∀ r, p.op = 0x30 → d.cplNamed p = some r →
          let m := r.addr / 64
          let e := (d1.cplFree r).cplDeliver r p.payload p.poison
          (r.snooped = false → d.snoopQuarantined = false → exec (.cplData p) s =
              .next (s.after ((if r.op = 2 then e.keepLine m p.payload p.poison else e).pumpCpl.srvTryAll)))
          ∧ (d.snoopQuarantined = true → exec (.cplData p) s = .next (s.after e.pumpCpl.srvTryAll))
          ∧ (r.snooped = true → d.snoopQuarantined = false → exec (.cplData p) s =
              .next (s.after ((if d.pinnedLine m then e.sendRead m true else e).pumpCpl.srvTryAll))))
      ∧ (∀ r, d.cplNamed p = some r → (p.op = 0x20 → exec (.cplAck p) s = .next (s.after (d1.cplFree r).pumpCpl.srvTryAll))
          ∧ (p.op = 0x21 → exec (.cplNak p) s = .next (s.after (d1.cplFail r))))
      ∧ (d.cplNamed p = none → ∀ (k : CplPacket → Instr) (op : Nat), (k, op) ∈ [(Instr.cplData, 0x30), (Instr.cplAck, 0x20), (Instr.cplNak, 0x21)] → p.op = op →
          ∃ e : Dev, exec (k p) s = .next (s.after e) ∧ e.mem = d.mem ∧ e.ctl = d.ctl ∧ e.cpl.got = d.cpl.got ∧ e.cpl.cache = d.cpl.cache ∧ e.cpl.reqs = d.cpl.reqs
            ∧ e.rf F.CPL_EVENTS_LATE = (d.rf F.CPL_EVENTS_LATE + 1) % 2 ^ 16)
      ∧ (p.op = 0x4C →
        let g := bitsAt p.arg 8 4
        let l := d1.linkOf 6
        (p.arg % 256 = 0 → l.step = 0 → exec (.linkCtlGroups p) s = .next (s.after d1))
        ∧ (p.arg % 256 = 0 → l.step ≠ 0 →
          let l' : LinkSt := { l with groupsPeer := g }
          (l'.groups = 0 → exec (.linkCtlGroups p) s = .next (s.after (d1.setLink 6 l').cplDown))
          ∧ (l'.groups ≠ 0 → 2 ≤ d.rf F.CPL_STATUS_STATE → exec (.linkCtlGroups p) s = .next (s.after (d1.setLink 6 l').cplShowWidth))
          ∧ (l'.groups ≠ 0 → d.rf F.CPL_STATUS_STATE = 1 → d.rf F.SEC_STATUS_STAGE ≠ 0 → ∃ e, exec (.linkCtlGroups p) s = .next (s.after e) ∧ e.linkOf 6 = l'
              ∧ e.rf F.CPL_STATUS_STATE = 2 ∧ e.rf F.CPL_STATUS_GROUPS = l'.groups ∧ e.rf F.CPL_STATUS_WIDTH = 4 * popcount 4 l'.groups
              ∧ e.rf F.CPL_STATUS_QUAR = 0 ∧ e.rf F.CPL_STATUS_LINKUPS = (d.rf F.CPL_STATUS_LINKUPS + 1) % 2 ^ 16))
        ∧ (p.arg % 256 = 1 → 2 ≤ d.rf F.CPL_STATUS_STATE →
          let d2 := d1.sendCpl { op := 0x4C, arg := 2 + g * 2 ^ 8, addr := l.txNext % 4096 }
          let l' : LinkSt := { d2.linkOf 6 with groupsPeer := g, widthAtTx := some (l.txNext, g), widthAtRx := some (p.addr % 4096, g) }
          exec (.linkCtlWidthChange p) s = .next (s.after (if l'.groups = 0 then (d2.setLink 6 l').cplDown else (d2.setLink 6 l').cplShowWidth)))
        ∧ (p.arg % 256 = 2 → d.cpl.widthAsked = some g → exec (.linkCtlWidthAnswer p) s = .next (s.after (({ d1.setLink 6 { l with widthAtRx := some (p.addr % 4096, g) } with
            cpl := { d1.cpl with widthAsked := none } } : Dev).cplShowWidth)))
        ∧ (p.arg % 256 = 2 → d.cpl.widthAsked ≠ some g → exec (.linkCtlWidthAnswer p) s = .next (s.after d1)))))
  ∧ (∀ (s : State) (tag line : Nat), s.running = true →
    let d := s.dev
    (∀ r, d.cpl.reqs.find? (fun r => decide (r.tag = tag)) = some r → exec (.cplRequestTimeout tag) s = .next (s.after (if d.periodPast r.sentAt then d.cplFail r else d)))
    ∧ (d.cpl.followed.contains line = false ∨ d.reading line = true → exec (.pollLine line) s = .next (s.after d))
    ∧ (d.cpl.followed.contains line = true → d.reading line = false →
      (d.snoopQuarantined = true → exec (.pollLine line) s = .next (s.after (d.sendRead line false)))
      ∧ (d.snoopQuarantined = false → d.cpl.polled.contains line = true → d.badLine line = true → exec (.pollLine line) s = .next (s.after (d.sendRead line false)))
      ∧ (d.snoopQuarantined = false → d.cpl.polled.contains line = false →
          exec (.pollLine line) s = .next (s.after (if (d.cplLine line).isNone then d.sendRead line true else d)))
      ∧ (d.snoopQuarantined = false → d.cpl.polled.contains line = true → d.badLine line = false →
          let pins := (d.cpl.followed.eraseDups.filter (fun m => decide (m % 4096 = line % 4096) && decide (m ≠ line) && d.pinnedLine m)).length
          (8 ≤ pins → exec (.pollLine line) s = .next (s.after (d.sendRead line false)))
          ∧ (pins < 8 → ∃ e : Dev, exec (.pollLine line) s = .next (s.after (e.sendRead line true)) ∧ e.pinnedLine line = true
              ∧ (∀ m, m ≠ line → e.pinnedLine m = d.pinnedLine m) ∧ e.mem = d.mem ∧ e.regs = d.regs ∧ e.cpl.cache = d.cpl.cache))))
  ∧ (∀ (d : Dev) (p : CplPacket) (code : Nat), 0 < code → code < 7 → p.tag < 4096 →
    let c := d.cplVc p
    let e := d.violate p code
    e.rf (violField c) = (d.rf (violField c) + 1) % 2 ^ 12 ∧ e.mem = d.mem ∧ e.ctl = d.ctl
    ∧ (p.op ≠ 0x21 → Out.link { op := 0x21, tag := p.tag, code := code, arg := c } ∈ e.out
        ∧ (c < 8 → e.rf F.CPL_NAK_LAST_CODE = code ∧ e.rf F.CPL_NAK_LAST_CLASS = c ∧ e.rf F.CPL_NAK_LAST_TAG = p.tag))
    ∧ (2 ≤ c → e.rf F.CPL_STATUS_QUAR = d.rf F.CPL_STATUS_QUAR)
    ∧ (c < 2 → 5 ≤ code → e.rf F.CPL_STATUS_QUAR = d.rf F.CPL_STATUS_QUAR ∧ e.cpl.violReq = d.cpl.violReq ∧ e.cpl.violSnp = d.cpl.violSnp)
    ∧ (c < 2 → code < 5 →
        let n := if c = 0 then d.cpl.violReq + 1 else d.cpl.violSnp + 1
        (if c = 0 then e.cpl.violReq else e.cpl.violSnp) = n
        ∧ (e.rbit F.CPL_STATUS_QUAR c = true ↔ d.rbit F.CPL_STATUS_QUAR c = true ∨ d.rf F.CPL_CTL_VIOL_LIMIT < n)
        ∧ (d.rbit F.CPL_STATUS_QUAR c = false → d.rf F.CPL_CTL_VIOL_LIMIT < n → c = 1 → e.cpl.cache = [])))
  ∧ (∀ (d : Dev) (r : CplReq), ∃ e : Dev, d.cplFail r = e.pumpCpl.srvTryAll ∧ e.cpl.reqs = d.cpl.reqs.filter (fun x => decide (x.tag ≠ r.tag))
      ∧ e.cpl.got = d.cpl.got ++ (if r.op ≤ 2 then r.who.map (fun w => { line := r.addr / 64, who := w, bytes := List.replicate 64 0, poison := true }) else [])
      ∧ e.rf F.CPL_EVENTS_FAILED = (d.rf F.CPL_EVENTS_FAILED + 1) % 2 ^ 16 ∧ e.cpl.failTurn = d.cpl.failTurn + 1 ∧ e.cpl.cache = d.cpl.cache ∧ e.mem = d.mem)
  ∧ ∀ (d : Dev) (a : Nat), ((d.devFind d.devRegions a).isSome = true ↔ a < d.devBytes) ∧ ∀ r o, d.devFind d.devRegions a = some (r, o) → o < d.regionSize r

/-! ### The set-up space -/

/-- Set-up accesses (R384, R463, R501, R527, R579, R596, R654, R692, R693, R704, R706 to R709, R711 to R713, R716): one packet reads or writes one
register and is answered; an access that breaks a rule is counted and has no effect; a read shows the register with its staged bits; a write changes
only the RW, W1C and WO fields, clamped, staged after the first commit or in force at once; the write-only bits start what their chapters say. Rests
on the model's choices of log entries 57 and 68. -/
def Obligations.SetUpAccess : Prop :=
  (∀ (s : State) (p : CplPacket), s.running = true → s.dev.cplHears p = true →
    let d := s.dev
    let d1 := d.takeCpl p
    let v := leNat (p.payload.take 8)
    let rows : List (Instr × Bool) := [(.setupWr p, true), (.prtReset p, decide (p.addr = Reg.PRT_RESET)), (.errFlogClear p, decide (p.addr = Reg.ERR_FLOG_CLEAR)),
      (.errLogSel p, decide (p.addr = Reg.ERR_LOG_SEL)), (.digestSnap p, decide (p.addr = Reg.TST_DIG_CTL) && bitAt v 11),
      (.digestClear p, decide (p.addr = Reg.TST_DIG_CTL) && bitAt v 12), (.thermLevel p, decide (p.addr = Reg.TRN_CTRL)),
      (.fabJobstop p, decide (p.addr = Reg.FAB_JOBSTOP)), (.loopbackMode p, (List.range 8).any (fun k => decide (p.addr = Reg.HBM_LOOP k))),
      (.samplingRestart p, (List.range 4).any (fun q => decide (p.addr = Reg.PMU_SAMP_CTL q)) && bitAt v 37),
      (.pmuCountWrite p, (List.range 42).any (fun b => (List.range 16).any (fun k => decide (p.addr = Reg.PMU_CNT b k)))),
      (.pmuSelect p, (List.range 42).any (fun b => (List.range 16).any (fun k => decide (p.addr = Reg.PMU_SEL b k))))]
    (∀ k ok, (k, ok) ∈ rows → ok = true → p.op = 0x41 →
      (d.cplCode p ≠ 0 → exec k s = .next (s.after (d.violate p (d.cplCode p))))
      ∧ (d.cplCode p = 0 → d.rf F.SEC_STATUS_STAGE < 4 → exec k s = .next (s.after (d1.sendCpl { op := 0x49, tag := p.tag, code := 2 })))
      ∧ (d.cplCode p = 0 → 4 ≤ d.rf F.SEC_STATUS_STAGE → ∀ e st, d1.setupWrite p.addr p.len v = (e, st) →
          exec k s = .next (s.after (e.sendCpl { op := 0x49, tag := p.tag, code := st }))))
    ∧ (∀ k ok, (k, ok) ∈ [(Instr.setupRd p, true), (Instr.errLogWord0 p, decide (p.addr = Reg.ERR_LOG_WORD 0))] → ok = true → p.op = 0x40 →
      (d.cplCode p ≠ 0 → exec k s = .next (s.after (d.violate p (d.cplCode p))))
      ∧ (d.cplCode p = 0 → ∀ e x, d1.setupRead p.addr = (e, x) →
          exec k s = .next (s.after (e.sendCpl { op := 0x48, tag := p.tag, len := 8, addr := p.addr, payload := leBytes 8 x })))))
  ∧ (∀ (off len : Nat) (w : Bool), setupBad off w len = true ↔ off % 8 ≠ 0 ∨ 0x4000000 ≤ off ∨ (w = true ∧ len ≠ 8) ∨ regFind (off / 8 * 8) = none)
  ∧ (∀ (d : Dev) (off len v : Nat) (w : Bool), setupBad off w len = true →
      let e := d.noteViolation off w len
      (w = true → d.setupWrite off len v = (e, 0)) ∧ (w = false → len = 8 → d.setupRead off = (e, 0))
      ∧ e.rf F.CFG_VIOL_MISALIGNED = (d.rf F.CFG_VIOL_MISALIGNED + (if off % 8 ≠ 0 then 1 else 0)) % 2 ^ F.CFG_VIOL_MISALIGNED.w
      ∧ e.rf F.CFG_VIOL_WIDTH = (d.rf F.CFG_VIOL_WIDTH + (if w = true ∧ len ≠ 8 then 1 else 0)) % 2 ^ F.CFG_VIOL_WIDTH.w
      ∧ e.rf F.CFG_VIOL_OUTSIDE = (d.rf F.CFG_VIOL_OUTSIDE + (if 0x4000000 ≤ off ∨ regFind (off / 8 * 8) = none then 1 else 0)) % 2 ^ F.CFG_VIOL_OUTSIDE.w
      ∧ e.rf F.CFG_VIOL_LAST_OFFSET = off % 2 ^ 26 ∧ e.rb F.CFG_VIOL_LAST_WRITE = w
      ∧ (∀ o, o ≠ Reg.CFG_VIOL → o ≠ Reg.CFG_VIOL_LAST → e.reg o = d.reg o) ∧ e.mem = d.mem ∧ e.staged = d.staged)
  ∧ (∀ (d : Dev) (off : Nat) (r : RegSpec) (idx : List Nat), setupBad off false 8 = false → regFind off = some (r, idx) →
      (off = Reg.ERR_LOG_WORD 0 → d.setupRead off = ({ d with err := { d.err with readBuf := some d.logEntry } }, d.logEntry.getD 0 0))
      ∧ (∀ k, k < 8 → off = Reg.ERR_LOG_WORD k → k ≠ 0 → d.setupRead off = (d, (d.err.readBuf.getD []).getD k 0))
      ∧ (r.base ≠ Reg.ERR_LOG_WORD 0 → ∃ x, d.setupRead off = (d, x)
          ∧ (d.staged.all (fun e => decide (e.1 ≠ off)) = true → x = d.liveWord r idx off)
          ∧ ∀ y, d.staged.find? (fun e => decide (e.1 = off)) = some (off, y) → r.base ≠ Reg.TRN_CTRL → ∀ i,
              bitAt x i = if bitAt (r.mask .rw) i then bitAt y.toNat i else bitAt (d.liveWord r idx off) i))
  ∧ (∀ (d : Dev) (off v : Nat) (r : RegSpec) (idx : List Nat), setupBad off true 8 = false → regFind off = some (r, idx) →
      let val := r.clamp v
      let d2 := (d.clearBits r off v).writeOnly r idx v
      (d.stages r = true → 1024 ≤ d.staged.length → d.staged.any (fun e => decide (e.1 = off)) = false → ∃ e, d.setupWrite off 8 v = (e, 2)
        ∧ e = d.bump F.CFG_STATUS_STAGE_BUSY 1)
      ∧ (d.stages r = true → d.staged.length < 1024 ∨ d.staged.any (fun e => decide (e.1 = off)) = true → ∃ e, d.setupWrite off 8 v = (e, 0)
        ∧ (∃ y : Word, e.staged = d.staged.filter (fun e => decide (e.1 ≠ off)) ++ [(off, y)]
            ∧ ∀ i, i < 64 → bitAt y.toNat i = (bitAt (r.mask .rw) i && bitAt val.1 i))
        ∧ (∀ i, i < 64 → bitAt (e.reg off).toNat i = (bitAt (d.reg off).toNat i && !(bitAt (r.mask .w1c) i && bitAt v i)))
        ∧ e.mem = d.mem)
      ∧ (d.stages r = false → r.mask .rw ≠ 0 → d.setupWrite off 8 v = ((((d2.clamped val.2).applyReg off val.1).settle' [off]), 0)
        ∧ ((∀ n, n < 256 → d.rb (F.QUE_RCTL_ENABLE n) = d.rb (F.QUE_RSTAT_ACTIVE n)) → lockMask r = 0 →
            r.base ∉ [Reg.HBM_LOOP 0, Reg.TRN_CTRL, Reg.PRT_SWR_A 0, Reg.PRT_SWR_B 0, Reg.SCP_HSTREAM 0] →
            let e := (d.setupWrite off 8 v).1
            (∀ i, i < 64 → bitAt (e.reg off).toNat i = if bitAt (r.mask .rw) i then bitAt val.1 i
                else (bitAt (d.reg off).toNat i && !(bitAt (r.mask .w1c) i && bitAt v i)))
            ∧ e.staged = d.staged ∧ e.mem = d.mem))
      ∧ (r.mask .rw = 0 → d.setupWrite off 8 v = (d2, 0))
      ∧ (off = Reg.PRT_RESET → ∀ q, q < 4 → bitAt d2.ctl.resetReq q = (bitAt d.ctl.resetReq q || bitAt v q))
      ∧ (off = Reg.FAB_JOBSTOP → d2 = d.jobStop (v % 2 ^ 16) (bitsAt v 16 32) none)
      ∧ (off = Reg.ERR_FLOG_CLEAR → d2.err.flog = (if bitAt v 0 then [] else d.err.flog) ∧ (bitAt v 0 = true → d2.rf F.ERR_FLOG_STAT_ENTRIES = 0))
      ∧ (off = Reg.TST_DIG_CTL → d2.tst.snapDue = (d.tst.snapDue || bitAt v 11) ∧ d2.tst.clearDue = (d.tst.clearDue || bitAt v 12))
      ∧ (∀ q, q < 4 → off = Reg.PMU_SAMP_CTL q → bitAt v 37 = true → d2.rf (F.PMU_SAMP_STAT_INDEX q) = 0 ∧ d2.rb (F.PMU_SAMP_STAT_FULL q) = false)
      ∧ (off = Reg.ERR_LOG_SEL → (d.setupWrite off 8 v).1.err.readBuf = none)
      ∧ ∀ f ∈ r.fields, f.acc = .rw → bitsAt val.1 f.lo f.w = (f.clamp.apply (bitsAt v f.lo f.w)).1)
  ∧ ∀ (d : Dev) (k v : Nat), k < 8 →
      let mode := v % 4
      let st := d.rf (F.HBM_STATUS_STATE k)
      let e := d.writeLoop k (Reg.HBM_LOOP k) v
      (mode ≠ 0 → st = 0 ∨ st = 2 → e = d.bump (F.HBM_STATUS_LOOP_REFUSED k) 1)
      ∧ (mode ≠ 0 → st = 1 ∨ st = 3 → e.rf (F.HBM_STATUS_STATE k) = 4 ∧ e.rf (F.HBM_LOOP_MODE k) = mode)
      ∧ (mode = 0 → st = 4 → e.rf (F.HBM_STATUS_STATE k) = if bitAt d.boot.trained k then 3 else 1)

/-! ### The management channel -/

/-- Commands of the management channel and what they change (R604, R653 to R657, R659, R664, R669 to R678, R681 to R683): each is answered by RESULT;
the coherent classes open; quarantine ends; an image or a pack is received whole, checked and run or written; a blob is checked and staged, committed
at a boundary, tried, returned from; the attestation report and the identity record leave. Before stage 0x04 the answer to most commands is open (log
entry 58). Rests on the model's choices of log entries 11, 58, 72, 73 and 74. -/
def Obligations.ManagementCommands : Prop :=
  (∀ (s : State) (p : CplPacket), s.running = true → s.dev.cplHears p = true → p.op = 0x42 → s.dev.cmdFirst p = true →
    let d := s.dev
    let d1 := d.takeCpl p
    let stage := d.rf F.SEC_STATUS_STAGE
    let answer (e : Dev) (status addr : Nat) : Dev := e.sendCpl { op := 0x49, tag := p.tag, code := status, arg := p.arg % 256, addr := addr }
    let open' := [(Instr.release p, 0x02), (.packBegin p, 0x18), (.cfgReturn p, 0x21), (.cfgConfirm p, 0x22), (.attest p, 0x30), (.idGet p, 0x31)]
    (∀ k c, (k, c) ∈ open' ++ [(Instr.linkCoherent p, 0x01), (.imgBegin p, 0x10)] → p.arg % 256 = c → d.cplCode p ≠ 0 → exec k s = .next (s.after (d.violate p (d.cplCode p))))
    ∧ (d.cplCode p = 0 →
      (∀ k c, (k, c) ∈ open' → p.arg % 256 = c → stage < 4 → ∃ st, exec k s = .next (s.after (answer d1.tick st 0)))
      ∧ (p.arg % 256 = 0x01 → stage < 5 ∨ d.pwr.cause ≠ 0 → ∃ st, exec (.linkCoherent p) s = .next (s.after (answer d1.tick st 0)))
      ∧ (p.arg % 256 = 0x02 → d.pwr.cause ≠ 0 → ∃ st, exec (.release p) s = .next (s.after (answer d1.tick st 0)))
      ∧ (p.arg % 256 = 0x01 → 5 ≤ stage → d.pwr.cause = 0 → ∃ e : Dev, e.coherent = true ∧ e = answer (d1.wf F.CPL_STATUS_STATE 3) 0 0
          ∧ exec (.linkCoherent p) s = .next (s.after e.refollow.pumpCpl.srvTryAll))
      ∧ (p.arg % 256 = 0x02 → 4 ≤ stage → d.pwr.cause = 0 → ∃ e : Dev, exec (.release p) s = .next (s.after (answer e 0 0).refollow)
          ∧ (∀ c, c < 2 → e.rbit F.CPL_STATUS_QUAR c = (d.rbit F.CPL_STATUS_QUAR c && !bitAt p.addr c)) ∧ e.cpl = d1.cpl ∧ e.fab = d1.fab)
      ∧ (p.arg % 256 = 0x10 → exec (.imgBegin p) s = .next (s.after (if 0x200000 < p.addr then answer d1 1 0
          else answer { d1 with boot := { d1.boot with image := some { len := p.addr }, pack := none } } 0 0)))
      ∧ (p.arg % 256 = 0x11 → ∀ ok u, d.boot.image = some u →
          let d2 : Dev := { d1 with boot := { d1.boot with image := none } }
          let again (e : Dev) : Dev := if stage < 4 then e.bootStage 3 else e
          (u.whole = false ∨ checkImage u.bytes = .format → exec (.imgEnd p ok) s = .next (s.after (again (answer d2 1 0))))
          ∧ (u.whole = true → checkImage u.bytes = .signature → exec (.imgEnd p ok) s = .next (s.after (again (answer d2 3 0))))
          ∧ (∀ n, u.whole = true → checkImage u.bytes = .ok n →
            (p.addr % 2 = 0 → exec (.imgEnd p ok) s = .next (s.after (if stage < 4 then (answer d2 0 0).firmwareStart u.bytes n true else answer d2 0 0)))
            ∧ (p.addr % 2 = 1 →
              let d3 := if stage < 4 then d2.firmwareStart u.bytes n true else d2
              (ok = true → exec (.imgEnd p ok) s = .next (s.after (answer (({ d3 with flash := { d3.flash with image := some u.bytes } } : Dev).postError
                { cls := 0, source := 0x11, event := 0x03, detail0 := leNat ((u.bytes.drop 8).take 4) }) 0 0)))
              ∧ (ok = false → ∃ e : Dev, exec (.imgEnd p ok) s = .next (s.after (answer (e.postError { cls := 1, source := 0x11, event := 0x04 }) 7 0))
                ∧ e.boot = d3.boot ∧ e.regs = d3.regs))))
      ∧ (p.arg % 256 = 0x18 → 4 ≤ stage → ∃ e : Dev, exec (.packBegin p) s = .next (s.after (answer e 0 0)) ∧ e.boot.pack = some { len := p.addr } ∧ e.boot.image = none
          ∧ e.boot.packActive = d.boot.packActive ∧ e.packBytes d.inactiveSlot = [] ∧ (∀ k, k < 2 → k ≠ d.inactiveSlot → e.packBytes k = d.packBytes k))
      ∧ (p.arg % 256 = 0x19 → 4 ≤ stage → ∀ ok u, d.boot.pack = some u →
          let d2 : Dev := { d1 with boot := { d1.boot with pack := none } }
          let k := d.inactiveSlot
          let fails (e : Dev) (status : Nat) : Dev := answer (e.postError { cls := 1, source := 0x0B, event := 0x03 }) status 0
          let whole := u.whole && decide (u.len ≤ 0x400000)
          let newer := d.boot.packActive.all (fun a => decide (d.packVer a < d.packVer k))
          (whole = false → exec (.packEnd p ok) s = .next (s.after (fails d2 1)))
          ∧ (whole = true → d.packOk k = false → exec (.packEnd p ok) s = .next (s.after (fails d2 3)))
          ∧ (whole = true → d.packOk k = true → newer = false → exec (.packEnd p ok) s = .next (s.after (fails d2 6)))
          ∧ (whole = true → d.packOk k = true → newer = true → ok = true →
              exec (.packEnd p ok) s = .next (s.after (answer { d2 with boot := { d2.boot with packDue := some k } } 0 0)))
          ∧ (whole = true → d.packOk k = true → newer = true → ok = false → ∃ e : Dev, exec (.packEnd p ok) s = .next (s.after (fails e 7)) ∧ e.boot = d2.boot))
      ∧ (p.arg % 256 = 0x20 → 4 ≤ stage → ∀ blob bad,
          let busy := !d.coherent || d.rb F.SEC_CFG_STAT_TRIAL || d.rb F.SEC_CFG_STAT_RETURN_STAGED
          let g := leNat ((blob.drop 8).take 4)
          (busy = true → exec (.cfgStage p blob bad) s = .next (s.after (answer d1 2 0)))
          ∧ (busy = false → bad = true → exec (.cfgStage p blob bad) s = .next (s.after (answer d1 1 0)))
          ∧ (busy = false → bad = false → (∀ b, parseBlob blob = some b → d.newGeneration b.gen = false) → exec (.cfgStage p blob bad) s = .next (s.after (answer d1 1 g)))
          ∧ (∀ b, busy = false → bad = false → parseBlob blob = some b → d.newGeneration b.gen = true → ∃ e : Dev, exec (.cfgStage p blob bad) s = .next (s.after (answer e 0 g))
              ∧ e.cfg = { d.cfg with staged := some b } ∧ e.rf F.SEC_CFG_STAT_STAGED = g ∧ e.rb F.SEC_CFG_STAT_STAGED_VALID = true
              ∧ (e.rb F.TRN_STATUS_COMMIT_REPLACED = true ↔ d.rb F.TRN_STATUS_COMMIT_REPLACED = true ∨ d.cfg.staged.isSome = true) ∧ e.mem = d.mem))
      ∧ (p.arg % 256 = 0x21 → 4 ≤ stage →
          (d.rb F.SEC_CFG_STAT_PREV_VALID = false → exec (.cfgReturn p) s = .next (s.after (answer d1 4 0)))
          ∧ (d.rb F.SEC_CFG_STAT_PREV_VALID = true → ∃ e : Dev, exec (.cfgReturn p) s = .next (s.after (answer e 0 (d.rf F.SEC_CFG_GEN_PREVIOUS))) ∧ e.cfg.staged = none
              ∧ e.rb F.SEC_CFG_STAT_STAGED_VALID = false ∧ e.rb F.SEC_CFG_STAT_RETURN_STAGED = true ∧ e.cfg.current = d.cfg.current ∧ e.cfg.previous = d.cfg.previous))
      ∧ (p.arg % 256 = 0x22 → 4 ≤ stage → exec (.cfgConfirm p) s =
          .next (s.after (answer (if d.rb F.SEC_CFG_STAT_TRIAL then d1.wb F.SEC_CFG_STAT_CONFIRMED true else d1) 0 0)))
      ∧ (p.arg % 256 = 0x30 → 4 ≤ stage → (d.boot.seed = none → exec (.attest p) s = .next (s.after (answer d1 5 0)))
          ∧ ∀ x, d.boot.seed = some x → exec (.attest p) s = .next (s.after ((answer d1 0 7539).blockOut p (d1.signedReport x p.payload))))
      ∧ (p.arg % 256 = 0x31 → 4 ≤ stage → (d.boot.seed = none → exec (.idGet p) s = .next (s.after (answer d1 5 0)))
          ∧ ∀ x, d.boot.seed = some x → exec (.idGet p) s = .next (s.after ((answer d1 0 7227).blockOut p (identityRecord x))))))
  ∧ (∀ (s : State) (p : CplPacket), s.running = true → s.dev.cplHears p = true → p.op = 0x43 →
    let d := s.dev
    let d1 := d.takeCpl p
    (d.cplCode p ≠ 0 → exec (.block p) s = .next (s.after (d.violate p (d.cplCode p))))
    ∧ (d.cplCode p = 0 →
      (∀ u, d.boot.image = some u → exec (.block p) s = .next (s.after { d1 with boot := { d1.boot with image := some (u.put p.addr p.payload) } }))
      ∧ (∀ u, d.boot.image = none → d.boot.pack = some u → ∃ e, exec (.block p) s = .next (s.after e) ∧ e.boot = { d1.boot with pack := some (u.put p.addr p.payload) }
          ∧ (∀ k, k < 2 → k ≠ d.inactiveSlot → e.packBytes k = d.packBytes k) ∧ e.regs = d.regs)
      ∧ (d.boot.image = none → d.boot.pack = none → exec (.block p) s = .next (s.after d1))))
  ∧ (∀ (u : Upload) (o : Nat) (bs : List Byte),
      ((u.put o bs).beyond = true ↔ u.beyond = true ∨ u.len < o + bs.length)
      ∧ ∀ i, SMap.get (fun _ => none) (u.put o bs).got i = if o ≤ i ∧ i < o + bs.length ∧ i < u.len then bs[i - o]? else SMap.get (fun _ => none) u.got i)
  ∧ (∀ s : State, s.running = true → 4 ≤ s.dev.rf F.SEC_STATUS_STAGE →
      exec (.configStoreCheck 0) s = .next (s.after s.dev)
      ∧ (∃ e, exec (.configStoreCheck 1) s = .next (s.after e) ∧ e.rb F.SEC_STATUS_STORE_FAULT = true ∧ e.cfg.previous = none ∧ e.cfg.current = s.dev.cfg.current
          ∧ e.rb F.SEC_CFG_STAT_PREV_VALID = false ∧ e.rb F.SEC_CFG_STAT_RETURN_STAGED = false)
      ∧ ∃ e, exec (.configStoreCheck 2) s = .next (s.after e) ∧ e.rb F.SEC_STATUS_STORE_FAULT = true ∧ e.cfg.current = none ∧ e.cfg.lost = true
          ∧ e.cfg.previous = s.dev.cfg.previous ∧ e.rf F.SEC_CFG_GEN_CURRENT = s.dev.rf F.SEC_CFG_GEN_CURRENT)
  ∧ (∀ (d : Dev) (b : Blob), b.gen < 2 ^ 32 → b.health < 16 → d.rb F.SEC_CFG_STAT_RETURN_STAGED = false → d.cfg.staged = some b →
      let e := d.cfgBoundary
      e.cfg.staged = none ∧ e.cfg.current = some b ∧ e.cfg.previous = (if d.cfg.lost then none else d.cfg.current)
      ∧ e.rb F.SEC_CFG_STAT_PREV_VALID = !d.cfg.lost ∧ e.rf F.SEC_CFG_GEN_CURRENT = b.gen ∧ e.rf F.SEC_CFG_GEN_PREVIOUS = d.rf F.SEC_CFG_GEN_CURRENT
      ∧ e.rb F.SEC_CFG_STAT_TRIAL = true ∧ e.rf F.SEC_CFG_STAT_TRIAL_LEFT = 64 ∧ e.rf F.SEC_CFG_STAT_HEALTH = b.health ∧ e.rb F.CFG_STATUS_FIRST_COMMIT = true)
  ∧ (∀ d : Dev, d.rb F.SEC_CFG_STAT_RETURN_STAGED = true →
      let e := d.cfgBoundary
      e.cfg.current = d.cfg.previous ∧ e.cfg.previous = none ∧ e.rf F.SEC_CFG_GEN_CURRENT = d.rf F.SEC_CFG_GEN_PREVIOUS
      ∧ e.rb F.SEC_CFG_STAT_PREV_VALID = false ∧ e.rb F.SEC_CFG_STAT_TRIAL = false
      ∧ Out.link { op := 0x4B, arg := 3, addr := d.rf F.SEC_CFG_GEN_PREVIOUS } ∈ e.out)
  ∧ (∀ d : Dev, d.rb F.SEC_CFG_STAT_RETURN_STAGED = false → d.cfg.staged = none → d.rb F.SEC_CFG_STAT_TRIAL = true → 1 ≤ d.rf F.SEC_CFG_STAT_TRIAL_LEFT →
      let e := d.cfgBoundary
      let left := d.rf F.SEC_CFG_STAT_TRIAL_LEFT - 1
      let fails := d.healthFails (decide (left = 0))
      (fails = none → left ≠ 0 → d.rb F.SEC_CFG_STAT_CONFIRMED = false → e.rb F.SEC_CFG_STAT_TRIAL = true ∧ e.rf F.SEC_CFG_STAT_TRIAL_LEFT = left ∧ e.cfg = d.cfg)
      ∧ (fails = none → left = 0 ∨ d.rb F.SEC_CFG_STAT_CONFIRMED = true → e.rb F.SEC_CFG_STAT_TRIAL = false ∧ e.cfg = d.cfg ∧ e.rb F.SEC_CFG_STAT_RETURN_STAGED = false)
      ∧ (fails ≠ none → e.rb F.SEC_CFG_STAT_TRIAL = false ∧ e.rb F.SEC_CFG_STAT_RETURN_STAGED = d.rb F.SEC_CFG_STAT_PREV_VALID)
      ∧ (d.rf F.SEC_CFG_STAT_HEALTH = 0 → fails = none))
  ∧ (∀ (d : Dev) (x : Nat) (nonce : List Byte), (d.report x nonce).length = 2912 ∧ (d.signedReport x nonce).length = 7539 ∧ (identityRecord x).length = 7227
      ∧ ((d.report x nonce).drop 64).take 64 = fit 64 nonce)
  ∧ ∀ bs : List Byte, (chunks 256 bs.length bs).flatten = bs ∧ ∀ c ∈ chunks 256 bs.length bs, c.length ≤ 256

/-! ### Resilience, serving, counters -/

/-- Logs, checkpoints, digests, scan, tests, job stops and partition resets (R464, R528, R576 to R580, R592, R593, R596 to R598, R601, R602, R662):
the record at the head of the intake is logged, merged or left out; the next record is copied to the error ring; a CKPT runs alone, a slice at a time;
a digest record enters its table and goes on, and a complete pass is compared; a scan slot's result, the start-up test and a partition reset leave
what their rules say; a new job stop is recorded, sent on and stops its partitions. Rests on the model's choices of log entries 9, 53, 67, 75 and
76. -/
def Obligations.ResilienceWork : Prop :=
  (∀ s : State, s.running = true →
    let d := s.dev
    (d.err.intake = [] → exec .logWrite s = .next (s.after d))
    ∧ (∀ r rest, d.err.intake = r :: rest →
      let copy := if d.rb F.ERR_CTRL_RING_EN = true ∧ d.rf F.ERR_CTRL_RING_MIN ≤ r.cls then d.err.toCopy ++ [r] else d.err.toCopy
      (3 ≤ r.cls → 64 ≤ d.err.flog.length → exec .logWrite s =
          .next (s.after (({ d with err := { d.err with intake := rest } } : Dev).bump F.ERR_FLOG_STAT_OVERFLOW 1)))
      ∧ (3 ≤ r.cls → d.err.flog.length < 64 → ∃ e, exec .logWrite s = .next (s.after e)
          ∧ e.err = { d.err with intake := rest, flog := d.err.flog ++ [r], toCopy := copy } ∧ e.rf F.ERR_FLOG_STAT_ENTRIES = d.err.flog.length + 1)
      ∧ (r.cls < 3 → (∀ x ∈ d.err.clog.getLast?, r.repeats x = false) →
          (d.err.clog.length < 4096 → ∃ e, exec .logWrite s = .next (s.after e)
            ∧ e.err = { d.err with intake := rest, clog := d.err.clog ++ [r], toCopy := copy } ∧ e.rf F.ERR_CLOG_STAT_ENTRIES = d.err.clog.length + 1)
          ∧ (4096 ≤ d.err.clog.length → ∃ e, exec .logWrite s = .next (s.after e)
            ∧ e.err = { d.err with intake := rest, clog := d.err.clog.drop 1 ++ [r], toCopy := copy }
            ∧ e.rf F.ERR_CLOG_STAT_OVERFLOW = (d.rf F.ERR_CLOG_STAT_OVERFLOW + 1) % 2 ^ 32))
      ∧ (∀ x, r.cls < 3 → d.err.clog.getLast? = some x → r.repeats x = true → exec .logWrite s = .next (s.after
          { d with err := { d.err with intake := rest, clog := d.err.clog.dropLast ++ [{ x with count := min (x.count + 1) 0xFFFF }] } })))
    ∧ (∀ r rest word bad, d.err.toCopy = r :: rest →
      let size := 2 ^ d.rf F.ERR_RING_CTL_LOG2SIZE
      let c := word % 2 ^ 32
      let ok := !bad && doorbellOk word && decide ((c + 2 ^ 32 - d.err.ringCons) % 2 ^ 32 ≤ (d.err.ringProd + 2 ^ 32 - d.err.ringCons) % 2 ^ 32)
      let cons := if ok then c else d.err.ringCons
      let d1 : Dev := if ok then d else d.bump F.ERR_STATUS_BAD_CONSUMER 1
      let d2 : Dev := { d1 with err := { d.err with toCopy := rest, ringCons := cons } }
      let full := decide (size ≤ (d.err.ringProd + 2 ^ 32 - cons) % 2 ^ 32)
      (full = true → exec (.errorRingCopy word bad) s = .next (s.after (d2.bump F.ERR_STATUS_RING_DROPPED 1)))
      ∧ (full = false →
        let prod := (d.err.ringProd + 1) % 2 ^ 32
        let d3 := d2.toCompanion (d.rf F.ERR_RING_BASE_BASE * 64 + 64 * (d.err.ringProd % size)) r.bytes
        let d4 : Dev := { d3 with err := { d3.err with ringProd := prod } }
        let a := d.rf F.ERR_RING_CTL_PRODUCER * 32
        exec (.errorRingCopy word bad) s = .next (s.after ((d4.toCompanion a (leBytes 8 (doorbellWord prod))).sendCpl { op := 0x4B, arg := 2, addr := prod }))))
    ∧ (d.err.toCopy = [] → ∀ word bad, exec (.errorRingCopy word bad) s = .next (s.after d))
    ∧ (∀ item n it, d.serviceWork 0x65 item = some it →
      (d.tst.ckpt = none → (d.ctl.items.takeWhile (fun x => decide (x.id ≠ item))).any (fun x => decide (x.desc.opcode = 0x65)) = false →
        let b := min (it.desc.fld 3 0 40) (min (2 ^ 52 - it.desc.fld 1 0 52) (2 ^ 52 - it.desc.fld 2 0 52))
        let it' : Item := { it with place := .running, clamped := decide (b < it.desc.fld 3 0 40) }
        exec (.ckpt item n) s = .next (s.after (if b = 0 then d.finishItem it' else (d.setItem it').setCkpt (some { item := item, total := b }))))
      ∧ (∀ c, d.tst.ckpt = some c → c.item ≠ item → exec (.ckpt item n) s = .next (s.after d))
      ∧ (∀ c, d.tst.ckpt = some c → c.item = item → c.lost = true → exec (.ckpt item n) s = .next (s.after (d.endCkpt { it with poison := true })))
      ∧ (∀ c d' it' c', d.tst.ckpt = some c → c.item = item → c.lost = false → it.poison = false → d.ckptRound it c = (d', it', c') →
          let e := (d'.sweep (.item item)).setItem it'
          exec (.ckpt item 1) s = .next (s.after (if it'.poison then e.endCkpt it' else e.setCkpt (some c')))))
    ∧ (∀ c it, d.tst.ckpt = some c → d.item c.item = some it →
      let waits := decide (c.parts = []) || !c.parts.all (fun x => decide (x.len ≤ x.pos)) || d.cplWriting (.item c.item) || d.winPending (.item c.item)
      (waits = true → exec .ckptSliceDone s = .next (s.after d))
      ∧ (waits = false → c.lost = true → exec .ckptSliceDone s = .next (s.after (d.endCkpt { it with poison := true })))
      ∧ (waits = false → c.lost = false → exec .ckptSliceDone s =
          .next (s.after (if c.total ≤ c.released then d.endCkpt it else d.setCkpt (some { c with parts := [] })))))
    ∧ (∀ port (p : Packet), port < 6 → d.portRunning port = true → d.forMe p = true → p.kind = 0xC → p.sub = 6 →
      let g := p.addr % 256
      let r := p.addr / 2 ^ 16 % 2 ^ 36
      let d1 := d.takePacket port p
      (d.colHead p = some true → exec (.digestRecord port p) s = .next (s.after (d1.bump F.COL_EVENTS_STALE 1)))
      ∧ (d.colHead p = some false ∨ (d.colHead p = none ∧ (p.src ≠ d.grpPrev g ∨ d.grpSize g ≤ r)) →
          exec (.digestRecord port p) s = .next (s.after (d1.bump F.COL_EVENTS_DROP 1)))
      ∧ (d.colHead p = none → p.src = d.grpPrev g → r < d.grpSize g →
          let d2 := d1.digNote g r (leNat (p.payload.take 32)) (leNat ((p.payload.drop 32).take 4))
          exec (.digestRecord port p) s = .next (s.after ((if r = (d.grpRank g + 1) % d.grpSize g then d2
            else d2.sendOn { p with dst := d.grpNext g, src := d.ownNode } none).digFinish g))))
    ∧ (∀ port (p : Packet), port < 6 → p.kind = 0xF → exec (.jobStop port p) s = .next (s.after ((d.takePacket port p).jobStop p.job p.aux (some port))))
    ∧ (∀ bad, (∀ x ∈ d.tst.slot, x.left ≠ 0) → exec (.scanSlotResult bad) s = .next (s.after d))
    ∧ (∀ bad x, d.tst.slot = some x → x.left = 0 → x.group < 43 → ∃ e : Dev, e.tst.slot = none ∧ e.spl.scanning = [] ∧ e.rb F.TST_SCAN_STAT_OPEN = false
        ∧ e.rbit F.TST_SCAN_FAIL_GROUPS x.group = decide (bad ≠ 0) ∧ (∀ g, g < 43 → g ≠ x.group → e.rbit F.TST_SCAN_FAIL_GROUPS g = d.rbit F.TST_SCAN_FAIL_GROUPS g)
        ∧ e.rf F.TST_SCAN_STAT_PASSES = (d.rf F.TST_SCAN_STAT_PASSES + (if bad = 0 then 1 else 0)) % 2 ^ 16
        ∧ e.rf F.TST_SCAN_STAT_FAILS = (d.rf F.TST_SCAN_STAT_FAILS + (if bad = 0 then 0 else 1)) % 2 ^ 16
        ∧ exec (.scanSlotResult bad) s = .next (s.after (if bad = 0 then e else e.scanFail x.group bad)))
    ∧ (∀ r, d.rf F.SEC_STATUS_STAGE ≠ 4 ∨ d.boot.tested = true → exec (.startupTestDone r) s = .next (s.after d))
    ∧ (∀ r, d.rf F.SEC_STATUS_STAGE = 4 → d.boot.tested = false → ∃ e : Dev, exec (.startupTestDone r) s = .next (s.after e.startReady) ∧ e.boot.tested = true
        ∧ e.tst.badStones = r.stones % 2 ^ 128 ∧ e.tst.badSpools = r.spools % 2 ^ 256 ∧ e.tst.badBanks = r.banks % 2 ^ 512 ∧ e.tst.pressDead = r.press % 16
        ∧ e.tst.copyDead = r.copy ∧ e.tst.colDead = r.col % 64 ∧ e.mem = d.mem ∧ ∀ n, n < 6 → bitAt r.col n = true → e.rf (F.FAB_PORT_STAT_STATE n) = 0)
    ∧ (∀ p r, p < 4 → (d.ctl.resets.all (fun x => decide (x.part ≠ p)) = true → exec (.partitionResetDone p r) s = .next (s.after d))
        ∧ (d.ctl.resets.any (fun x => decide (x.part = p)) = true → ∃ e, exec (.partitionResetDone p r) s = .next (s.after e)
            ∧ e.rbit F.PRT_STATUS_READY p = true ∧ e.rbit F.PRT_STATUS_RESETTING p = false ∧ (∀ y ∈ e.ctl.resets, y.part ≠ p)
            ∧ (∀ t ∈ e.mem.tlb, t.part ≠ p) ∧ (∀ k, k / Config.spadBankBytes / e.spadB = p → SMap.get zeroByte e.mem.spad k = 0)
            ∧ (∀ q, q < 64 → e.rf (F.QUE_RSTAT_HEAD (64 * p + q)) = 0 ∧ e.ring (64 * p + q) = {})
            ∧ e.rf (F.MMU_FRING_STAT_POSTED p) = 0 ∧ e.rf (F.MMU_FRING_STAT_FREED p) = 0)))
  ∧ (∀ (d : Dev) (c : CkptRun) (it : Item), d.tst.ckpt = some c → c.parts = [] → c.released < c.total → d.item c.item = some it →
      let k := min (min (d.rf F.TRN_CKPT_SLICE_SLICE_BYTES) 0x40000000) (c.total - c.released)
      ∃ ps : List CkptPart, d.ckptRelease = d.setCkpt (some { c with parts := ps, released := c.released + k }) ∧ ps.length = max 1 d.sluiceCount
        ∧ (ps.map (·.len)).sum = k ∧ ∀ i x, ps[i]? = some x → x.src = it.desc.fld 1 0 52 + c.released + ((ps.take i).map (·.len)).sum
          ∧ x.dst = it.desc.fld 2 0 52 + c.released + ((ps.take i).map (·.len)).sum ∧ x.pos = 0 ∧ x.fault = none ∧ (i + 1 < ps.length → x.len % 128 = 0))
  ∧ (∀ (d : Dev) (x : DigPass),
      let gen := d.rf F.TST_DIG_STAT_SNAP_GEN
      let entries := x.table.filterMap (fun e => e.2.map (fun v => (e.1, v)))
      let mine := entries.filter (fun e => decide (e.2 / 2 ^ 256 = gen))
      let own := mine.find? (fun e => decide (e.1 = d.grpRank x.group))
      let d1 := d.bump F.TST_DIG_STAT_SKEW (entries.length - mine.length)
      let d2 := d1.bump F.TST_DIG_STAT_MISMATCH 1
      ∀ o, own = some o →
        ((∀ e ∈ mine, e.2 = o.2) → d.digCompare x = d1.bump F.TST_DIG_STAT_AGREED 1)
        ∧ ((∃ e ∈ mine, e.2 ≠ o.2) → d.grpSize x.group < 3 → d.digCompare x = d2.oddMember x.group gen)
        ∧ (∀ v, (∃ e ∈ mine, e.2 ≠ o.2) → 3 ≤ d.grpSize x.group → mine.length < 2 * (mine.filter (fun e => decide (e.2 = v))).length →
            let odd := mine.filter (fun e => decide (e.2 ≠ v))
            let d3 := d2.postError { cls := 1, source := 0x0C, event := 0x01, inst := x.group, parts := 2 ^ d.grpPart x.group, detail0 := odd.length,
                                     detail1 := ((odd.map (·.1)).min?).getD 0 }
            d.digCompare x = if o.2 = v then d3 else d3.oddMember x.group gen)
        ∧ ((∃ e ∈ mine, e.2 ≠ o.2) → (∀ v, 2 * (mine.filter (fun e => decide (e.2 = v))).length ≤ mine.length) → d.digCompare x = d2.oddMember x.group gen))
  ∧ (∀ (d : Dev) (g bad : Nat), bad ≠ 0 → g < 43 →
      let e := d.scanFail g bad
      (g < 16 → ∀ i, i < 8 → e.rbit (F.STN_PENDING_GROUPS ((8 * g + i) / 64)) ((8 * g + i) % 64) =
          (d.rbit (F.STN_PENDING_GROUPS ((8 * g + i) / 64)) ((8 * g + i) % 64) || bitAt bad i))
      ∧ (16 ≤ g → g < 32 → ∀ i, i < 16 → e.rbit (F.SPL_PENDING_SPOOLS ((16 * (g - 16) + i) / 64)) ((16 * (g - 16) + i) % 64) =
          (d.rbit (F.SPL_PENDING_SPOOLS ((16 * (g - 16) + i) / 64)) ((16 * (g - 16) + i) % 64) || bitAt bad i))
      ∧ (32 ≤ g → g < 36 → bitAt e.tst.pressDead (g - 32) = true) ∧ (g = 36 → e.tst.copyDead = true)
      ∧ (37 ≤ g → bitAt e.tst.colDead (g - 37) = true ∧ e.rf (F.FAB_PORT_STAT_STATE (g - 37)) = 0) ∧ e.mem = d.mem)
  ∧ ∀ (d : Dev) (job id : Nat) (port : Option Nat),
      let e := d.jobStop job id port
      (d.fab.jobStops.contains (job, id) = true → e = d)
      ∧ (d.fab.jobStops.contains (job, id) = false → e.fab.jobStops.getLast? = some (job, id) ∧ e.fab.jobStops.length ≤ 16
        ∧ (d.fab.jobStops.length < 16 → e.fab.jobStops = d.fab.jobStops ++ [(job, id)])
        ∧ e.rf F.FAB_EVENTS_STOPS = (d.rf F.FAB_EVENTS_STOPS + 1) % 2 ^ 8
        ∧ (∀ n, n < 6 → d.portRunning n = true → port ≠ some n → Out.fabric n { kind := 0xF, src := d.ownNode, job := job, aux := id } ∈ e.out)
        ∧ (∀ i, i < 64 → e.rbit F.FAB_ING_STOP_STOPPED i = (d.rbit F.FAB_ING_STOP_STOPPED i
            || decide (bitsAt (SMap.get (fun _ => 0) d.fab.ing i) 0 16 = job)))
        ∧ ∀ q r, q < d.parts → q < 4 → r < 64 → d.rf (F.PRT_PART_JOB q) = job → d.rb (F.QUE_RSTAT_ACTIVE (64 * q + r)) = true → d.ringClass (64 * q + r) ≠ 3 →
            e.rb (F.QUE_RSTAT_STOPPED (64 * q + r)) = true)

/-- The serving firmware and the performance monitor (R436, R437, R611, R615, R617 to R621, R625, R626, R629, R630, R634, R696, R698 to R704): the
words of a service are judged as a ring's are; a request joins the waiting list, is cancelled or ends at once; a step begins on the batch, within its
prefill positions and pages, when the token ring has room; at its end each sequence gains a token or ends; windows, areas and samples are written.
Rests on the model's choices of log entries 78, 79, 80 and 85. -/
def Obligations.ServingAndCounters : Prop :=
  (∀ (s : State) (p : Nat), s.running = true → p < 4 →
    let d := s.dev
    let v := d.srvOf p
    (∀ word, v.following = true →
      let c := word % 2 ^ 32
      let pend (t : Nat) : Nat := (t + 2 ^ 32 - v.head) % 2 ^ 32
      let good2 := doorbellOk word && decide (pend c ≤ 2 ^ v.cfg.reqLog2) && decide (pend v.tail ≤ pend c)
      let good3 := doorbellOk word && decide ((c + 2 ^ 32 - v.cons) % 2 ^ 32 ≤ v.unconsumed)
      let counted (e : Dev) (k : Nat) : Prop := e.rf (F.MIL_SRV_EVENTS_BAD p) = (d.rf (F.MIL_SRV_EVENTS_BAD p) + k) % 2 ^ 12 ∧ ∀ q, q ≠ p → e.srvOf q = d.srvOf q
      (∀ ring, ∃ e, exec (.doorbell p ring 2 word false) s = .next (s.after e) ∧ counted e (if good2 then 0 else 1)
          ∧ e.srvOf p = { v with badDb := false, tail := if good2 then c else v.tail })
      ∧ (∀ ring, ∃ e, exec (.doorbell p ring 2 word true) s = .next (s.after e) ∧ counted e (if v.badDb then 0 else 1) ∧ e.srvOf p = { v with badDb := true })
      ∧ (∀ ring, good3 = false → ∃ e, exec (.doorbell p ring 3 word false) s = .next (s.after e) ∧ counted e 1 ∧ e.srvOf p = { v with badCons := false })
      ∧ (∀ ring, ∃ e, exec (.doorbell p ring 3 word true) s = .next (s.after e) ∧ counted e (if v.badCons then 0 else 1) ∧ e.srvOf p = { v with badCons := true })
      ∧ (∀ ring, good3 = true → ∃ e : Dev, exec (.doorbell p ring 3 word false) s = .next (s.after ((Dev.srvPump p v.toWrite.length e).srvRelease p))
          ∧ e.srvOf p = { v with badCons := false, cons := c } ∧ e.regs = d.regs ∧ e.mem = d.mem))
    ∧ (∀ ring which word bad, 2 ≤ which → v.following = false ∨ 4 ≤ which → exec (.doorbell p ring which word bad) s = .next (s.after d))
    ∧ (∀ (rec : Desc) toks, d.srvActive p = true → v.head ≠ v.tail → v.waiting.length < v.cfg.batchMax →
      let len := rec.fld 1 0 32
      let mx := rec.fld 1 32 32
      let k := rec.fld 3 4 12
      let req : SrvReq := { id := rec.fld 0 0 32, prompt := (toks.take len).map (· % 2 ^ 32), maxNew := mx, mode := rec.fld 3 0 2,
                            topK := if k = 0 then 1 else min k 2048, temp := rec.fld 3 32 32, topP := rec.fld 4 0 32,
                            stop := rec.fld 4 32 32, seed := rec.word 5 }
      let took (e : Dev) : Dev := ((e.setSrv p { e.srvOf p with head := (v.head + 1) % 2 ^ 32 }).toCompanion (v.cfg.reqDb + 8)
        (leBytes 8 (doorbellWord ((v.head + 1) % 2 ^ 32)))).srvShow p
      let final (st : Nat) : Dev := took (d.srvRecord p req 0xFFFFFFFF len st)
      let check := rec.w7 = ~~~rec.w0
      let cancel := rec.fld 0 32 1 = 1
      let known := req.prompt.all (fun t => decide (t < v.vocab)) = true
      let fits := len < v.cfg.maxContext ∧ v.pagesFor len ≤ v.cfg.kvPages
      exec (.servingRequestFetch p rec toks true) s = .next (s.after d)
      ∧ (¬check ∨ (¬cancel ∧ ¬known) → exec (.servingRequestFetch p rec toks false) s = .next (s.after (final 0x05)))
      ∧ (check → cancel → ∃ e : Dev, exec (.servingRequestFetch p rec toks false) s = .next (s.after (took e)) ∧ e = d.srvCancel p req.id)
      ∧ (check → ¬cancel → known → ¬fits → exec (.servingRequestFetch p rec toks false) s = .next (s.after (final 0x06)))
      ∧ (check → ¬cancel → known → fits → len = 0 ∨ mx = 0 → exec (.servingRequestFetch p rec toks false) s = .next (s.after (final 0x02)))
      ∧ (check → ¬cancel → known → fits → len ≠ 0 → mx ≠ 0 → len ≤ toks.length → ∃ e : Dev, exec (.servingRequestFetch p rec toks false) s = .next (s.after (took e))
          ∧ e.srvOf p = { v with waiting := v.waiting ++ [req] } ∧ e.mem = d.mem
          ∧ e.rf F.CFG_CLAMP_COUNT_COUNT = (d.rf F.CFG_CLAMP_COUNT_COUNT + (if k = 0 ∨ 2048 < k then 1 else 0)) % 2 ^ F.CFG_CLAMP_COUNT_COUNT.w))
    ∧ (d.srvState p = 1 → v.stepping = false → v.batch ≠ [] → d.partAdmits p = true →
      (v.room < v.batch.length → exec (.servingStep p) s =
          .next (s.after (if v.stalled then d else (d.setSrv p { v with stalled := true }).bump (F.MIL_SRV_EVENTS_TOKSTALL p) 1)))
      ∧ (v.batch.length ≤ v.room → ∃ (b : List SrvSeq) (ev : List SrvReq) (ended : Option SrvReq),
          let e := (d.setSrv p { v with batch := b, waiting := ev ++ v.waiting, stepping := !b.isEmpty, stalled := false }).bump (F.MIL_SRV_EVENTS_EVICTIONS p) ev.length
          exec (.servingStep p) s = .next (s.after ((match ended with | some r => e.srvEndReq p r 0x03 | none => e).srvShow p))
          ∧ b.map (·.req) ++ ended.toList ++ ev = v.batch.map (·.req) ∧ v.pagesOf b ≤ v.cfg.kvPages
          ∧ ((b.filter (·.pre)).map (·.step)).sum ≤ v.cfg.prefillMax ∧ (∀ x ∈ b, x.pre = false → x.step = x.req.prefill - x.done)
          ∧ (∀ x ∈ b, x.step ≤ x.req.prefill - x.done) ∧ (ended ≠ none → b = [])))
    ∧ (d.srvState p ≠ 1 ∨ v.stepping = true ∨ v.batch = [] ∨ d.partAdmits p = false → exec (.servingStep p) s = .next (s.after d))
    ∧ (v.stepping = false → ∀ hit halted, exec (.servingStepDone p hit halted) s = .next (s.after d))
    ∧ (v.stepping = true → (∀ hit, exec (.servingStepDone p hit true) s = .next (s.after (d.srvKill p)))
      ∧ ∀ hit,
        let bad (i : Nat) (x : SrvSeq) : Bool := hit.contains i && decide (x.step ≠ 0)
        ∀ d1 b, v.batch.zipIdx.foldl (fun (x : Dev × List SrvSeq) y => let r := x.1.srvSeqDone p y.1 (bad y.2 y.1)
            (r.1, x.2 ++ r.2.toList)) (d, []) = (d1, b) →
          let d2 := if v.batch.zipIdx.any (fun y => bad y.2 y.1) then d1.postError { cls := 2, source := 0x04, event := 0xF0, parts := 2 ^ p } else d1
          let e := (d2.setSrv p { d2.srvOf p with batch := b, stepping := false }).bump (F.MIL_SRV_EVENTS_STEPS p) 1
          exec (.servingStepDone p hit false) s = .next (s.after (if v.stopping then e.srvStop p
            else (if v.pause.isSome then e.wf (F.MIL_SRV_STAT_STATE p) 3 else e).srvShow p))))
  ∧ (∀ (d : Dev) (p : Nat) (x : SrvSeq), x.step ≠ 0 →
      let v := d.srvOf p
      let pos := x.req.prefill
      d.srvSeqDone p x true = (d.srvEndReq p x.req 0x07, none)
      ∧ (x.done + x.step < pos → d.srvSeqDone p x false = (d, some { x with done := x.done + x.step, step := 0 }))
      ∧ (pos ≤ x.done + x.step → ∃ tok,
          let req : SrvReq := { x.req with toks := x.req.toks ++ [tok] }
          let st := if tok = req.stop ∧ req.stop ≠ 0xFFFFFFFF then 1 else if req.maxNew ≤ req.toks.length then 2 else if v.cfg.maxContext ≤ pos + 1 then 3 else 0
          d.srvSeqDone p x false = (d.srvRecord p req tok pos st, if st = 0 then some { x with req := req, done := x.done + x.step, step := 0, pre := false } else none)))
  ∧ (∀ (req : SrvReq) (vocab pos : Nat) (l : Nat → Nat), req.mode = 0 → 0 < vocab →
      sampleToken req vocab pos l < vocab ∧ ∀ i, i < vocab → rankBefore (l i, i) (l (sampleToken req vocab pos l), sampleToken req vocab pos l) = false)
  ∧ (∀ (p n : Nat) (d : Dev), (d.srvOf p).toWrite.length ≤ n →
      let w := (Dev.srvPump p n d).srvOf p
      (w.toWrite = [] ∨ 2 ^ w.cfg.tokLog2 ≤ w.unconsumed) ∧ ∃ k, w.toWrite = (d.srvOf p).toWrite.drop k ∧ (k = 0 ∨ w.prod = ((d.srvOf p).prod + k) % 2 ^ 32))
  ∧ ∀ s : State, s.running = true →
    let d := s.dev
    (d.pmu.bwDone = none → exec .bwWindowEnd s = .next (s.after d))
    ∧ (∀ m ns, d.pmu.bwDone = some (m, ns) → ∃ e, exec .bwWindowEnd s = .next (s.after e) ∧ e.pmu = { d.pmu with bwDone := none } ∧ e.rf F.PMU_BW_TIME_NS = ns % 2 ^ 64
        ∧ e.rf F.PMU_BW_SEQ_WINDOWS = (d.rf F.PMU_BW_SEQ_WINDOWS + 1) % 2 ^ 32
        ∧ ∀ n, n < 39 → e.rf (F.PMU_BW_IN_BYTES n) = SMap.get (fun _ => 0) m (2 * n) % 2 ^ 48 ∧ e.rf (F.PMU_BW_OUT_BYTES n) = SMap.get (fun _ => 0) m (2 * n + 1) % 2 ^ 48)
    ∧ exec .userCounterArea s = .next (s.after ((List.range 4).foldl (fun d p => if bitAt s.dev.pmu.userDue p then d.writeUser p else d)
        { d with pmu := { d.pmu with userDue := 0 } }))
    ∧ (∀ soon, d.pmu.samples = [] → exec (.sample soon) s = .next (s.after d))
    ∧ (∀ soon x rest, d.pmu.samples = x :: rest → x.part < 4 →
      let d1 : Dev := { d with pmu := { d.pmu with samples := rest } }
      let base := d.rf (F.PMU_SAMP_BASE_BASE x.part) * 2 ^ 20
      let out := decide (d.regionSize (.part x.part) < base + 2 ^ 20)
      let i := d.rf (F.PMU_SAMP_STAT_INDEX x.part)
      (out = true → exec (.sample soon) s = .next (s.after d1))
      ∧ (out = false → soon = true ∨ d.rb (F.PMU_SAMP_STAT_FULL x.part) = true → exec (.sample soon) s = .next (s.after (d1.bump (F.PMU_SAMP_STAT_DROPPED x.part) 1)))
      ∧ (out = false → soon = false → d.rb (F.PMU_SAMP_STAT_FULL x.part) = false → ∃ e, exec (.sample soon) s = .next (s.after e)
          ∧ e.rf (F.PMU_SAMP_STAT_INDEX x.part) = (i + 1) % 2 ^ 16 ∧ e.rb (F.PMU_SAMP_STAT_FULL x.part) = decide (32768 ≤ i + 1)
          ∧ e.mem = (d1.physWords x.part (base + 32 * i) (d1.sampleWords x)).mem ∧ e.pmu.samples = rest))
end

