-- ==== Sys2Proof/Laws/Exec.lean ====
section
/-!
SUPPORT. Laws/Exec.lean: said once, what a command can do to a state: nothing, an effect on the module followed by fencing, or, for the five
commands of the board, a change of the surroundings.
-/
namespace Sys2Proof.Machine

open Sys2Proof

theorem onDev_next {f : Dev → Dev} {s t : State} (h : onDev f s = .next t) : t = s ∨ ∃ d, t = s.after d := by
  unfold onDev at h
  split at h
  · exact .inr ⟨_, (Host.Outcome.next.inj h).symm⟩
  · exact .inl (Host.Outcome.next.inj h).symm

theorem onMiller_next {f : Dev → Dev} {s t : State} (h : onMiller f s = .next t) : t = s ∨ ∃ d, t = s.after d := by
  unfold onMiller at h
  split at h
  · exact .inr ⟨_, (Host.Outcome.next.inj h).symm⟩
  · exact .inl (Host.Outcome.next.inj h).symm

theorem onI3c_next {f : Dev → Dev} {s t : State} (h : onI3c f s = .next t) : t = s ∨ ∃ d, t = s.after d := by
  unfold onI3c at h
  split at h
  · exact .inr ⟨_, (Host.Outcome.next.inj h).symm⟩
  · exact .inl (Host.Outcome.next.inj h).symm

theorem onPort_next {p : Nat} {f : Dev → Dev} {s t : State} (h : onPort p f s = .next t) : t = s ∨ ∃ d, t = s.after d := by
  unfold onPort at h
  split at h
  · exact onMiller_next h
  · exact onDev_next h

/-- Every answer of `exec` is of one of three shapes. -/
theorem exec_shape {c : Instr} {s t : State} (h : exec c s = .next t) : c.movesPower = true ∨ t = s ∨ ∃ d, t = s.after d := by
  cases c <;> first
    | exact .inl rfl
    | exact .inr (onDev_next h)
    | exact .inr (onMiller_next h)
    | exact .inr (onI3c_next h)
    | exact .inr (onPort_next h)

end Sys2Proof.Machine
end

