-- ==== Sys2Proof/Laws/SMap.lean ====
section
/-!
SUPPORT. Laws/SMap.lean: a read after a write of a sparse map, and that every operation keeps its canonical form.
-/
namespace Sys2Proof.Machine

variable {β : Type} {d : Nat → β}

theorem SMap.get_erase (m : SMap β) (k j : Nat) :
    SMap.get d (SMap.erase m k) j = if j = k then d k else SMap.get d m j := by
  induction m with
  | nil => by_cases hj : j = k <;> simp [SMap.erase, SMap.get, hj]
  | cons e m ih =>
    obtain ⟨k', v'⟩ := e
    by_cases hk : k' = k
    · subst hk
      simp only [SMap.erase] at ih
      simp only [SMap.erase, ne_eq, not_true_eq_false, decide_false, Bool.false_eq_true, not_false_eq_true, List.filter_cons_of_neg, ih, SMap.get]
      by_cases hj : j = k' <;> simp [hj]
    · have hf : SMap.erase ((k', v') :: m) k = (k', v') :: SMap.erase m k := by simp [SMap.erase, hk]
      rw [hf]
      simp only [SMap.get, ih]
      by_cases hj : j = k'
      · subst hj; simp [hk]
      · simp [hj]

variable [DecidableEq β]

/-- A read after a write: the value written at its key, and what was there at every other. -/
theorem SMap.get_set (m : SMap β) (k j : Nat) (v : β) : SMap.get d (SMap.set d m k v) j = if j = k then v else SMap.get d m j := by
  induction m with
  | nil =>
    simp only [SMap.set]
    by_cases h : v = d k <;> by_cases hj : j = k <;> simp [SMap.get, h, hj]
  | cons e m ih =>
    obtain ⟨k', v'⟩ := e
    simp only [SMap.set]
    by_cases h1 : k < k'
    · have hk : k ≠ k' := Nat.ne_of_lt h1
      by_cases h : v = d k
      · by_cases hj : j = k'
        · subst hj; simp [h1, h, SMap.get, Ne.symm hk]
        · by_cases hjk : j = k <;> simp [h1, h, SMap.get, SMap.get_erase, hj, hjk, hk]
      · by_cases hjk : j = k <;> simp [h1, h, SMap.get, hjk]
    · by_cases h2 : k = k'
      · subst h2
        by_cases h : v = d k <;> by_cases hj : j = k <;> simp [h, SMap.get, SMap.get_erase, hj]
      · by_cases hj : j = k'
        · subst hj; simp [h1, h2, SMap.get, Ne.symm h2]
        · simp [h1, h2, SMap.get, ih, hj]

@[simp] theorem SMap.get_set_same (m : SMap β) (k : Nat) (v : β) : SMap.get d (SMap.set d m k v) k = v := by simp [SMap.get_set]

theorem SMap.get_set_other (m : SMap β) {k j : Nat} (v : β) (h : j ≠ k) : SMap.get d (SMap.set d m k v) j = SMap.get d m j := by
  simp [SMap.get_set, h]

/-- A wider bound admits what a narrower one does. -/
theorem SMap.wfFrom_mono {m : SMap β} {lo lo' : Nat} (h : lo' ≤ lo) (w : SMap.wfFrom d lo m = true) : SMap.wfFrom d lo' m = true := by
  cases m with
  | nil => rfl
  | cons e m => simp only [SMap.wfFrom, Bool.and_eq_true, decide_eq_true_eq] at *; exact ⟨⟨Nat.le_trans h w.1.1, w.1.2⟩, w.2⟩

theorem SMap.wfFrom_filter (p : Nat × β → Bool) {m : SMap β} {lo : Nat} (w : SMap.wfFrom d lo m = true) :
    SMap.wfFrom d lo (m.filter p) = true := by
  induction m generalizing lo with
  | nil => rfl
  | cons e m ih =>
    simp only [SMap.wfFrom, Bool.and_eq_true, decide_eq_true_eq] at w
    by_cases hp : p e = true
    · simp [hp, SMap.wfFrom, w.1.1, w.1.2, ih w.2]
    · simp only [hp, Bool.false_eq_true, not_false_eq_true, List.filter_cons_of_neg]
      exact ih (SMap.wfFrom_mono (Nat.le_trans w.1.1 (Nat.le_succ _)) w.2)

theorem SMap.wfFrom_set {m : SMap β} {lo k : Nat} (v : β) (hl : lo ≤ k) (w : SMap.wfFrom d lo m = true) :
    SMap.wfFrom d lo (SMap.set d m k v) = true := by
  induction m generalizing lo with
  | nil => by_cases hv : v = d k <;> simp [SMap.set, SMap.wfFrom, hl, hv]
  | cons e m ih =>
    obtain ⟨k', v'⟩ := e
    simp only [SMap.wfFrom, Bool.and_eq_true, decide_eq_true_eq] at w
    obtain ⟨⟨w1, w2⟩, w3⟩ := w
    simp only [SMap.set]
    by_cases h1 : k < k'
    · by_cases hv : v = d k
      · simp only [h1, hv, ↓reduceIte, SMap.wfFrom, Bool.and_eq_true, decide_eq_true_eq]; exact ⟨⟨w1, w2⟩, SMap.wfFrom_filter _ w3⟩
      · simp only [h1, hv, ↓reduceIte, SMap.wfFrom, Bool.and_eq_true, decide_eq_true_eq]; exact ⟨⟨hl, hv⟩, ⟨h1, w2⟩, w3⟩
    · by_cases h2 : k = k'
      · subst h2
        by_cases hv : v = d k
        · simp only [Nat.lt_irrefl, hv, ↓reduceIte]; exact SMap.wfFrom_mono (Nat.le_trans hl (Nat.le_succ _)) (SMap.wfFrom_filter _ w3)
        · simp only [Nat.lt_irrefl, hv, ↓reduceIte, SMap.wfFrom, Bool.and_eq_true, decide_eq_true_eq]; exact ⟨⟨hl, hv⟩, w3⟩
      · simp only [h1, h2, ↓reduceIte, SMap.wfFrom, Bool.and_eq_true, decide_eq_true_eq]
        exact ⟨⟨w1, w2⟩, ih (by omega) w3⟩

/-- A write keeps the canonical form. -/
theorem SMap.wf_set {m : SMap β} (w : SMap.wf d m = true) (k : Nat) (v : β) : SMap.wf d (SMap.set d m k v) = true :=
  SMap.wfFrom_set v (Nat.zero_le _) w

/-- Dropping entries keeps it. -/
theorem SMap.wf_clearIf {m : SMap β} (w : SMap.wf d m = true) (p : Nat → Bool) : SMap.wf d (SMap.clearIf p m) = true := SMap.wfFrom_filter _ w

/-- Writing a list keeps it. -/
theorem SMap.wf_setRange {m : SMap β} (w : SMap.wf d m = true) (a : Nat) (vs : List β) : SMap.wf d (SMap.setRange d m a vs) = true := by
  induction vs generalizing m a with
  | nil => exact w
  | cons v vs ih => exact ih (SMap.wf_set w _ _) _

/-- A list written at consecutive keys is read back, and the rest stays. -/
theorem SMap.get_setRange (m : SMap β) (a j : Nat) (vs : List β) :
    SMap.get d (SMap.setRange d m a vs) j = if a ≤ j then (vs[j - a]?).getD (SMap.get d m j) else SMap.get d m j := by
  induction vs generalizing m a with
  | nil => simp [SMap.setRange]
  | cons v vs ih =>
    simp only [SMap.setRange, ih, SMap.get_set]
    by_cases h : j = a
    · subst h
      have h2 : ¬ j + 1 ≤ j := by omega
      simp [h2]
    · by_cases h1 : a ≤ j
      · have h2 : a + 1 ≤ j := by omega
        have : j - a = (j - (a + 1)) + 1 := by omega
        simp [h, h1, h2, this]
      · have h2 : ¬ a + 1 ≤ j := by omega
        simp [h, h1, h2]

/-- Two canonical maps that read alike everywhere are the same list. -/
theorem SMap.ext_of_wf {m n : SMap β} (hm : SMap.wf d m = true) (hn : SMap.wf d n = true)
    (h : ∀ k, SMap.get d m k = SMap.get d n k) : m = n := by
  have low : ∀ {m : SMap β} {lo k : Nat}, SMap.wfFrom d lo m = true → k < lo → SMap.get d m k = d k := by
    intro m
    induction m with
    | nil => intros; rfl
    | cons e m ih =>
      intro lo k w hk
      simp only [SMap.wfFrom, Bool.and_eq_true, decide_eq_true_eq] at w
      have : k ≠ e.1 := by omega
      simp only [SMap.get, this, ↓reduceIte]
      exact ih w.2 (by omega)
  have main : ∀ (m n : SMap β) (lo : Nat), SMap.wfFrom d lo m = true → SMap.wfFrom d lo n = true →
      (∀ k, SMap.get d m k = SMap.get d n k) → m = n := by
    intro m
    induction m with
    | nil =>
      intro n lo _ wn h
      cases n with
      | nil => rfl
      | cons e n =>
        simp only [SMap.wfFrom, Bool.and_eq_true, decide_eq_true_eq] at wn
        have := h e.1
        simp only [SMap.get, ↓reduceIte] at this
        exact absurd this.symm wn.1.2
    | cons e m ih =>
      intro n lo wm wn h
      cases n with
      | nil =>
        simp only [SMap.wfFrom, Bool.and_eq_true, decide_eq_true_eq] at wm
        have := h e.1
        simp only [SMap.get, ↓reduceIte] at this
        exact absurd this wm.1.2
      | cons f n =>
        simp only [SMap.wfFrom, Bool.and_eq_true, decide_eq_true_eq] at wm wn
        have key : e.1 = f.1 := by
          rcases Nat.lt_trichotomy e.1 f.1 with hlt | heq | hgt
          · have := h e.1
            have hne : e.1 ≠ f.1 := by omega
            simp only [SMap.get, ↓reduceIte, hne, low wn.2 (by omega : e.1 < f.1 + 1)] at this
            exact absurd this wm.1.2
          · exact heq
          · have := h f.1
            have hne : f.1 ≠ e.1 := by omega
            simp only [SMap.get, ↓reduceIte, hne, low wm.2 (by omega : f.1 < e.1 + 1)] at this
            exact absurd this.symm wn.1.2
        have val : e.2 = f.2 := by have := h e.1; simpa [SMap.get, key] using this
        obtain ⟨k1, v1⟩ := e
        obtain ⟨k2, v2⟩ := f
        simp only at key val
        subst key val
        congr 1
        refine ih n (k1 + 1) wm.2 wn.2 (fun k => ?_)
        have := h k
        by_cases hk : k = k1
        · subst hk; rw [low wm.2 (Nat.lt_succ_self _), low wn.2 (Nat.lt_succ_self _)]
        · simpa [SMap.get, hk] using this
  exact main m n 0 hm hn h

end Sys2Proof.Machine
end

