-- ==== Sys2Proof/Laws/State.lean ====
section
/-!
SUPPORT. Laws/State.lean: beside the state: what each update of the module leaves as it is, one lemma for each update and field, so that no
proof unfolds a record update; reading back a register, an item and a skein.
-/
namespace Sys2Proof.Machine

/-- A step that keeps `g` keeps it through a fold. -/
theorem foldl_keep {α β γ : Type} (g : α → β) (f : α → γ → α) (h : ∀ a c, g (f a c) = g a) (l : List γ) (a : α) :
    g (l.foldl f a) = g a := by
  induction l generalizing a with
  | nil => rfl
  | cons x xs ih => simp [ih, h]

@[simp] theorem Dev.setReg_time (d : Dev) (off : Nat) (v : Word) : (d.setReg off v).time = d.time := rfl
@[simp] theorem Dev.setReg_staged (d : Dev) (off : Nat) (v : Word) : (d.setReg off v).staged = d.staged := rfl
@[simp] theorem Dev.setReg_out (d : Dev) (off : Nat) (v : Word) : (d.setReg off v).out = d.out := rfl
@[simp] theorem Dev.setReg_fresh (d : Dev) (off : Nat) (v : Word) : (d.setReg off v).fresh = d.fresh := rfl
@[simp] theorem Dev.setReg_ctl (d : Dev) (off : Nat) (v : Word) : (d.setReg off v).ctl = d.ctl := rfl
@[simp] theorem Dev.setReg_mem (d : Dev) (off : Nat) (v : Word) : (d.setReg off v).mem = d.mem := rfl
@[simp] theorem Dev.setReg_err (d : Dev) (off : Nat) (v : Word) : (d.setReg off v).err = d.err := rfl
@[simp] theorem Dev.setReg_pmu (d : Dev) (off : Nat) (v : Word) : (d.setReg off v).pmu = d.pmu := rfl
@[simp] theorem Dev.setReg_fab (d : Dev) (off : Nat) (v : Word) : (d.setReg off v).fab = d.fab := rfl
@[simp] theorem Dev.setReg_col (d : Dev) (off : Nat) (v : Word) : (d.setReg off v).col = d.col := rfl
@[simp] theorem Dev.setReg_cpl (d : Dev) (off : Nat) (v : Word) : (d.setReg off v).cpl = d.cpl := rfl
@[simp] theorem Dev.setReg_stn (d : Dev) (off : Nat) (v : Word) : (d.setReg off v).stn = d.stn := rfl
@[simp] theorem Dev.setReg_prs (d : Dev) (off : Nat) (v : Word) : (d.setReg off v).prs = d.prs := rfl
@[simp] theorem Dev.setReg_spl (d : Dev) (off : Nat) (v : Word) : (d.setReg off v).spl = d.spl := rfl
@[simp] theorem Dev.setReg_tst (d : Dev) (off : Nat) (v : Word) : (d.setReg off v).tst = d.tst := rfl
@[simp] theorem Dev.setReg_srv (d : Dev) (off : Nat) (v : Word) : (d.setReg off v).srv = d.srv := rfl
@[simp] theorem Dev.setReg_boot (d : Dev) (off : Nat) (v : Word) : (d.setReg off v).boot = d.boot := rfl
@[simp] theorem Dev.setReg_cfg (d : Dev) (off : Nat) (v : Word) : (d.setReg off v).cfg = d.cfg := rfl
@[simp] theorem Dev.setReg_pwr (d : Dev) (off : Nat) (v : Word) : (d.setReg off v).pwr = d.pwr := rfl
@[simp] theorem Dev.setReg_flash (d : Dev) (off : Nat) (v : Word) : (d.setReg off v).flash = d.flash := rfl

@[simp] theorem Dev.wf_time (d : Dev) (f : Fld) (v : Nat) : (d.wf f v).time = d.time := rfl
@[simp] theorem Dev.wf_staged (d : Dev) (f : Fld) (v : Nat) : (d.wf f v).staged = d.staged := rfl
@[simp] theorem Dev.wf_out (d : Dev) (f : Fld) (v : Nat) : (d.wf f v).out = d.out := rfl
@[simp] theorem Dev.wf_fresh (d : Dev) (f : Fld) (v : Nat) : (d.wf f v).fresh = d.fresh := rfl
@[simp] theorem Dev.wf_ctl (d : Dev) (f : Fld) (v : Nat) : (d.wf f v).ctl = d.ctl := rfl
@[simp] theorem Dev.wf_mem (d : Dev) (f : Fld) (v : Nat) : (d.wf f v).mem = d.mem := rfl
@[simp] theorem Dev.wf_err (d : Dev) (f : Fld) (v : Nat) : (d.wf f v).err = d.err := rfl
@[simp] theorem Dev.wf_pmu (d : Dev) (f : Fld) (v : Nat) : (d.wf f v).pmu = d.pmu := rfl
@[simp] theorem Dev.wf_fab (d : Dev) (f : Fld) (v : Nat) : (d.wf f v).fab = d.fab := rfl
@[simp] theorem Dev.wf_col (d : Dev) (f : Fld) (v : Nat) : (d.wf f v).col = d.col := rfl
@[simp] theorem Dev.wf_cpl (d : Dev) (f : Fld) (v : Nat) : (d.wf f v).cpl = d.cpl := rfl
@[simp] theorem Dev.wf_stn (d : Dev) (f : Fld) (v : Nat) : (d.wf f v).stn = d.stn := rfl
@[simp] theorem Dev.wf_prs (d : Dev) (f : Fld) (v : Nat) : (d.wf f v).prs = d.prs := rfl
@[simp] theorem Dev.wf_spl (d : Dev) (f : Fld) (v : Nat) : (d.wf f v).spl = d.spl := rfl
@[simp] theorem Dev.wf_tst (d : Dev) (f : Fld) (v : Nat) : (d.wf f v).tst = d.tst := rfl
@[simp] theorem Dev.wf_srv (d : Dev) (f : Fld) (v : Nat) : (d.wf f v).srv = d.srv := rfl
@[simp] theorem Dev.wf_boot (d : Dev) (f : Fld) (v : Nat) : (d.wf f v).boot = d.boot := rfl
@[simp] theorem Dev.wf_cfg (d : Dev) (f : Fld) (v : Nat) : (d.wf f v).cfg = d.cfg := rfl
@[simp] theorem Dev.wf_pwr (d : Dev) (f : Fld) (v : Nat) : (d.wf f v).pwr = d.pwr := rfl
@[simp] theorem Dev.wf_flash (d : Dev) (f : Fld) (v : Nat) : (d.wf f v).flash = d.flash := rfl

@[simp] theorem Dev.wb_time (d : Dev) (f : Fld) (v : Bool) : (d.wb f v).time = d.time := rfl
@[simp] theorem Dev.wb_staged (d : Dev) (f : Fld) (v : Bool) : (d.wb f v).staged = d.staged := rfl
@[simp] theorem Dev.wb_out (d : Dev) (f : Fld) (v : Bool) : (d.wb f v).out = d.out := rfl
@[simp] theorem Dev.wb_fresh (d : Dev) (f : Fld) (v : Bool) : (d.wb f v).fresh = d.fresh := rfl
@[simp] theorem Dev.wb_ctl (d : Dev) (f : Fld) (v : Bool) : (d.wb f v).ctl = d.ctl := rfl
@[simp] theorem Dev.wb_mem (d : Dev) (f : Fld) (v : Bool) : (d.wb f v).mem = d.mem := rfl
@[simp] theorem Dev.wb_err (d : Dev) (f : Fld) (v : Bool) : (d.wb f v).err = d.err := rfl
@[simp] theorem Dev.wb_pmu (d : Dev) (f : Fld) (v : Bool) : (d.wb f v).pmu = d.pmu := rfl
@[simp] theorem Dev.wb_fab (d : Dev) (f : Fld) (v : Bool) : (d.wb f v).fab = d.fab := rfl
@[simp] theorem Dev.wb_col (d : Dev) (f : Fld) (v : Bool) : (d.wb f v).col = d.col := rfl
@[simp] theorem Dev.wb_cpl (d : Dev) (f : Fld) (v : Bool) : (d.wb f v).cpl = d.cpl := rfl
@[simp] theorem Dev.wb_stn (d : Dev) (f : Fld) (v : Bool) : (d.wb f v).stn = d.stn := rfl
@[simp] theorem Dev.wb_prs (d : Dev) (f : Fld) (v : Bool) : (d.wb f v).prs = d.prs := rfl
@[simp] theorem Dev.wb_spl (d : Dev) (f : Fld) (v : Bool) : (d.wb f v).spl = d.spl := rfl
@[simp] theorem Dev.wb_tst (d : Dev) (f : Fld) (v : Bool) : (d.wb f v).tst = d.tst := rfl
@[simp] theorem Dev.wb_srv (d : Dev) (f : Fld) (v : Bool) : (d.wb f v).srv = d.srv := rfl
@[simp] theorem Dev.wb_boot (d : Dev) (f : Fld) (v : Bool) : (d.wb f v).boot = d.boot := rfl
@[simp] theorem Dev.wb_cfg (d : Dev) (f : Fld) (v : Bool) : (d.wb f v).cfg = d.cfg := rfl
@[simp] theorem Dev.wb_pwr (d : Dev) (f : Fld) (v : Bool) : (d.wb f v).pwr = d.pwr := rfl
@[simp] theorem Dev.wb_flash (d : Dev) (f : Fld) (v : Bool) : (d.wb f v).flash = d.flash := rfl

@[simp] theorem Dev.wbit_time (d : Dev) (f : Fld) (i : Nat) (v : Bool) : (d.wbit f i v).time = d.time := rfl
@[simp] theorem Dev.wbit_staged (d : Dev) (f : Fld) (i : Nat) (v : Bool) : (d.wbit f i v).staged = d.staged := rfl
@[simp] theorem Dev.wbit_out (d : Dev) (f : Fld) (i : Nat) (v : Bool) : (d.wbit f i v).out = d.out := rfl
@[simp] theorem Dev.wbit_fresh (d : Dev) (f : Fld) (i : Nat) (v : Bool) : (d.wbit f i v).fresh = d.fresh := rfl
@[simp] theorem Dev.wbit_ctl (d : Dev) (f : Fld) (i : Nat) (v : Bool) : (d.wbit f i v).ctl = d.ctl := rfl
@[simp] theorem Dev.wbit_mem (d : Dev) (f : Fld) (i : Nat) (v : Bool) : (d.wbit f i v).mem = d.mem := rfl
@[simp] theorem Dev.wbit_err (d : Dev) (f : Fld) (i : Nat) (v : Bool) : (d.wbit f i v).err = d.err := rfl
@[simp] theorem Dev.wbit_pmu (d : Dev) (f : Fld) (i : Nat) (v : Bool) : (d.wbit f i v).pmu = d.pmu := rfl
@[simp] theorem Dev.wbit_fab (d : Dev) (f : Fld) (i : Nat) (v : Bool) : (d.wbit f i v).fab = d.fab := rfl
@[simp] theorem Dev.wbit_col (d : Dev) (f : Fld) (i : Nat) (v : Bool) : (d.wbit f i v).col = d.col := rfl
@[simp] theorem Dev.wbit_cpl (d : Dev) (f : Fld) (i : Nat) (v : Bool) : (d.wbit f i v).cpl = d.cpl := rfl
@[simp] theorem Dev.wbit_stn (d : Dev) (f : Fld) (i : Nat) (v : Bool) : (d.wbit f i v).stn = d.stn := rfl
@[simp] theorem Dev.wbit_prs (d : Dev) (f : Fld) (i : Nat) (v : Bool) : (d.wbit f i v).prs = d.prs := rfl
@[simp] theorem Dev.wbit_spl (d : Dev) (f : Fld) (i : Nat) (v : Bool) : (d.wbit f i v).spl = d.spl := rfl
@[simp] theorem Dev.wbit_tst (d : Dev) (f : Fld) (i : Nat) (v : Bool) : (d.wbit f i v).tst = d.tst := rfl
@[simp] theorem Dev.wbit_srv (d : Dev) (f : Fld) (i : Nat) (v : Bool) : (d.wbit f i v).srv = d.srv := rfl
@[simp] theorem Dev.wbit_boot (d : Dev) (f : Fld) (i : Nat) (v : Bool) : (d.wbit f i v).boot = d.boot := rfl
@[simp] theorem Dev.wbit_cfg (d : Dev) (f : Fld) (i : Nat) (v : Bool) : (d.wbit f i v).cfg = d.cfg := rfl
@[simp] theorem Dev.wbit_pwr (d : Dev) (f : Fld) (i : Nat) (v : Bool) : (d.wbit f i v).pwr = d.pwr := rfl
@[simp] theorem Dev.wbit_flash (d : Dev) (f : Fld) (i : Nat) (v : Bool) : (d.wbit f i v).flash = d.flash := rfl

@[simp] theorem Dev.bump_time (d : Dev) (f : Fld) (n : Nat) : (d.bump f n).time = d.time := by unfold Dev.bump; split <;> rfl
@[simp] theorem Dev.bump_staged (d : Dev) (f : Fld) (n : Nat) : (d.bump f n).staged = d.staged := by unfold Dev.bump; split <;> rfl
@[simp] theorem Dev.bump_out (d : Dev) (f : Fld) (n : Nat) : (d.bump f n).out = d.out := by unfold Dev.bump; split <;> rfl
@[simp] theorem Dev.bump_fresh (d : Dev) (f : Fld) (n : Nat) : (d.bump f n).fresh = d.fresh := by unfold Dev.bump; split <;> rfl
@[simp] theorem Dev.bump_ctl (d : Dev) (f : Fld) (n : Nat) : (d.bump f n).ctl = d.ctl := by unfold Dev.bump; split <;> rfl
@[simp] theorem Dev.bump_mem (d : Dev) (f : Fld) (n : Nat) : (d.bump f n).mem = d.mem := by unfold Dev.bump; split <;> rfl
@[simp] theorem Dev.bump_err (d : Dev) (f : Fld) (n : Nat) : (d.bump f n).err = d.err := by unfold Dev.bump; split <;> rfl
@[simp] theorem Dev.bump_pmu (d : Dev) (f : Fld) (n : Nat) : (d.bump f n).pmu = d.pmu := by unfold Dev.bump; split <;> rfl
@[simp] theorem Dev.bump_fab (d : Dev) (f : Fld) (n : Nat) : (d.bump f n).fab = d.fab := by unfold Dev.bump; split <;> rfl
@[simp] theorem Dev.bump_col (d : Dev) (f : Fld) (n : Nat) : (d.bump f n).col = d.col := by unfold Dev.bump; split <;> rfl
@[simp] theorem Dev.bump_cpl (d : Dev) (f : Fld) (n : Nat) : (d.bump f n).cpl = d.cpl := by unfold Dev.bump; split <;> rfl
@[simp] theorem Dev.bump_stn (d : Dev) (f : Fld) (n : Nat) : (d.bump f n).stn = d.stn := by unfold Dev.bump; split <;> rfl
@[simp] theorem Dev.bump_prs (d : Dev) (f : Fld) (n : Nat) : (d.bump f n).prs = d.prs := by unfold Dev.bump; split <;> rfl
@[simp] theorem Dev.bump_spl (d : Dev) (f : Fld) (n : Nat) : (d.bump f n).spl = d.spl := by unfold Dev.bump; split <;> rfl
@[simp] theorem Dev.bump_tst (d : Dev) (f : Fld) (n : Nat) : (d.bump f n).tst = d.tst := by unfold Dev.bump; split <;> rfl
@[simp] theorem Dev.bump_srv (d : Dev) (f : Fld) (n : Nat) : (d.bump f n).srv = d.srv := by unfold Dev.bump; split <;> rfl
@[simp] theorem Dev.bump_boot (d : Dev) (f : Fld) (n : Nat) : (d.bump f n).boot = d.boot := by unfold Dev.bump; split <;> rfl
@[simp] theorem Dev.bump_cfg (d : Dev) (f : Fld) (n : Nat) : (d.bump f n).cfg = d.cfg := by unfold Dev.bump; split <;> rfl
@[simp] theorem Dev.bump_pwr (d : Dev) (f : Fld) (n : Nat) : (d.bump f n).pwr = d.pwr := by unfold Dev.bump; split <;> rfl
@[simp] theorem Dev.bump_flash (d : Dev) (f : Fld) (n : Nat) : (d.bump f n).flash = d.flash := by unfold Dev.bump; split <;> rfl

@[simp] theorem Dev.bumpSat_time (d : Dev) (f : Fld) (n : Nat) : (d.bumpSat f n).time = d.time := rfl
@[simp] theorem Dev.bumpSat_staged (d : Dev) (f : Fld) (n : Nat) : (d.bumpSat f n).staged = d.staged := rfl
@[simp] theorem Dev.bumpSat_out (d : Dev) (f : Fld) (n : Nat) : (d.bumpSat f n).out = d.out := rfl
@[simp] theorem Dev.bumpSat_fresh (d : Dev) (f : Fld) (n : Nat) : (d.bumpSat f n).fresh = d.fresh := rfl
@[simp] theorem Dev.bumpSat_ctl (d : Dev) (f : Fld) (n : Nat) : (d.bumpSat f n).ctl = d.ctl := rfl
@[simp] theorem Dev.bumpSat_mem (d : Dev) (f : Fld) (n : Nat) : (d.bumpSat f n).mem = d.mem := rfl
@[simp] theorem Dev.bumpSat_err (d : Dev) (f : Fld) (n : Nat) : (d.bumpSat f n).err = d.err := rfl
@[simp] theorem Dev.bumpSat_pmu (d : Dev) (f : Fld) (n : Nat) : (d.bumpSat f n).pmu = d.pmu := rfl
@[simp] theorem Dev.bumpSat_fab (d : Dev) (f : Fld) (n : Nat) : (d.bumpSat f n).fab = d.fab := rfl
@[simp] theorem Dev.bumpSat_col (d : Dev) (f : Fld) (n : Nat) : (d.bumpSat f n).col = d.col := rfl
@[simp] theorem Dev.bumpSat_cpl (d : Dev) (f : Fld) (n : Nat) : (d.bumpSat f n).cpl = d.cpl := rfl
@[simp] theorem Dev.bumpSat_stn (d : Dev) (f : Fld) (n : Nat) : (d.bumpSat f n).stn = d.stn := rfl
@[simp] theorem Dev.bumpSat_prs (d : Dev) (f : Fld) (n : Nat) : (d.bumpSat f n).prs = d.prs := rfl
@[simp] theorem Dev.bumpSat_spl (d : Dev) (f : Fld) (n : Nat) : (d.bumpSat f n).spl = d.spl := rfl
@[simp] theorem Dev.bumpSat_tst (d : Dev) (f : Fld) (n : Nat) : (d.bumpSat f n).tst = d.tst := rfl
@[simp] theorem Dev.bumpSat_srv (d : Dev) (f : Fld) (n : Nat) : (d.bumpSat f n).srv = d.srv := rfl
@[simp] theorem Dev.bumpSat_boot (d : Dev) (f : Fld) (n : Nat) : (d.bumpSat f n).boot = d.boot := rfl
@[simp] theorem Dev.bumpSat_cfg (d : Dev) (f : Fld) (n : Nat) : (d.bumpSat f n).cfg = d.cfg := rfl
@[simp] theorem Dev.bumpSat_pwr (d : Dev) (f : Fld) (n : Nat) : (d.bumpSat f n).pwr = d.pwr := rfl
@[simp] theorem Dev.bumpSat_flash (d : Dev) (f : Fld) (n : Nat) : (d.bumpSat f n).flash = d.flash := rfl

@[simp] theorem Dev.clamped_time (d : Dev) (n : Nat) : (d.clamped n).time = d.time := by unfold Dev.clamped; simp
@[simp] theorem Dev.clamped_staged (d : Dev) (n : Nat) : (d.clamped n).staged = d.staged := by unfold Dev.clamped; simp
@[simp] theorem Dev.clamped_out (d : Dev) (n : Nat) : (d.clamped n).out = d.out := by unfold Dev.clamped; simp
@[simp] theorem Dev.clamped_fresh (d : Dev) (n : Nat) : (d.clamped n).fresh = d.fresh := by unfold Dev.clamped; simp
@[simp] theorem Dev.clamped_ctl (d : Dev) (n : Nat) : (d.clamped n).ctl = d.ctl := by unfold Dev.clamped; simp
@[simp] theorem Dev.clamped_mem (d : Dev) (n : Nat) : (d.clamped n).mem = d.mem := by unfold Dev.clamped; simp
@[simp] theorem Dev.clamped_err (d : Dev) (n : Nat) : (d.clamped n).err = d.err := by unfold Dev.clamped; simp
@[simp] theorem Dev.clamped_pmu (d : Dev) (n : Nat) : (d.clamped n).pmu = d.pmu := by unfold Dev.clamped; simp
@[simp] theorem Dev.clamped_fab (d : Dev) (n : Nat) : (d.clamped n).fab = d.fab := by unfold Dev.clamped; simp
@[simp] theorem Dev.clamped_col (d : Dev) (n : Nat) : (d.clamped n).col = d.col := by unfold Dev.clamped; simp
@[simp] theorem Dev.clamped_cpl (d : Dev) (n : Nat) : (d.clamped n).cpl = d.cpl := by unfold Dev.clamped; simp
@[simp] theorem Dev.clamped_stn (d : Dev) (n : Nat) : (d.clamped n).stn = d.stn := by unfold Dev.clamped; simp
@[simp] theorem Dev.clamped_prs (d : Dev) (n : Nat) : (d.clamped n).prs = d.prs := by unfold Dev.clamped; simp
@[simp] theorem Dev.clamped_spl (d : Dev) (n : Nat) : (d.clamped n).spl = d.spl := by unfold Dev.clamped; simp
@[simp] theorem Dev.clamped_tst (d : Dev) (n : Nat) : (d.clamped n).tst = d.tst := by unfold Dev.clamped; simp
@[simp] theorem Dev.clamped_srv (d : Dev) (n : Nat) : (d.clamped n).srv = d.srv := by unfold Dev.clamped; simp
@[simp] theorem Dev.clamped_boot (d : Dev) (n : Nat) : (d.clamped n).boot = d.boot := by unfold Dev.clamped; simp
@[simp] theorem Dev.clamped_cfg (d : Dev) (n : Nat) : (d.clamped n).cfg = d.cfg := by unfold Dev.clamped; simp
@[simp] theorem Dev.clamped_pwr (d : Dev) (n : Nat) : (d.clamped n).pwr = d.pwr := by unfold Dev.clamped; simp
@[simp] theorem Dev.clamped_flash (d : Dev) (n : Nat) : (d.clamped n).flash = d.flash := by unfold Dev.clamped; simp

@[simp] theorem Dev.pmuAdd_time (d : Dev) (c o : Fld) (n : Nat) : (d.pmuAdd c o n).time = d.time := by simp only [Dev.pmuAdd]; split <;> rfl
@[simp] theorem Dev.pmuAdd_staged (d : Dev) (c o : Fld) (n : Nat) : (d.pmuAdd c o n).staged = d.staged := by simp only [Dev.pmuAdd]; split <;> rfl
@[simp] theorem Dev.pmuAdd_out (d : Dev) (c o : Fld) (n : Nat) : (d.pmuAdd c o n).out = d.out := by simp only [Dev.pmuAdd]; split <;> rfl
@[simp] theorem Dev.pmuAdd_fresh (d : Dev) (c o : Fld) (n : Nat) : (d.pmuAdd c o n).fresh = d.fresh := by simp only [Dev.pmuAdd]; split <;> rfl
@[simp] theorem Dev.pmuAdd_ctl (d : Dev) (c o : Fld) (n : Nat) : (d.pmuAdd c o n).ctl = d.ctl := by simp only [Dev.pmuAdd]; split <;> rfl
@[simp] theorem Dev.pmuAdd_mem (d : Dev) (c o : Fld) (n : Nat) : (d.pmuAdd c o n).mem = d.mem := by simp only [Dev.pmuAdd]; split <;> rfl
@[simp] theorem Dev.pmuAdd_err (d : Dev) (c o : Fld) (n : Nat) : (d.pmuAdd c o n).err = d.err := by simp only [Dev.pmuAdd]; split <;> rfl
@[simp] theorem Dev.pmuAdd_pmu (d : Dev) (c o : Fld) (n : Nat) : (d.pmuAdd c o n).pmu = d.pmu := by simp only [Dev.pmuAdd]; split <;> rfl
@[simp] theorem Dev.pmuAdd_fab (d : Dev) (c o : Fld) (n : Nat) : (d.pmuAdd c o n).fab = d.fab := by simp only [Dev.pmuAdd]; split <;> rfl
@[simp] theorem Dev.pmuAdd_col (d : Dev) (c o : Fld) (n : Nat) : (d.pmuAdd c o n).col = d.col := by simp only [Dev.pmuAdd]; split <;> rfl
@[simp] theorem Dev.pmuAdd_cpl (d : Dev) (c o : Fld) (n : Nat) : (d.pmuAdd c o n).cpl = d.cpl := by simp only [Dev.pmuAdd]; split <;> rfl
@[simp] theorem Dev.pmuAdd_stn (d : Dev) (c o : Fld) (n : Nat) : (d.pmuAdd c o n).stn = d.stn := by simp only [Dev.pmuAdd]; split <;> rfl
@[simp] theorem Dev.pmuAdd_prs (d : Dev) (c o : Fld) (n : Nat) : (d.pmuAdd c o n).prs = d.prs := by simp only [Dev.pmuAdd]; split <;> rfl
@[simp] theorem Dev.pmuAdd_spl (d : Dev) (c o : Fld) (n : Nat) : (d.pmuAdd c o n).spl = d.spl := by simp only [Dev.pmuAdd]; split <;> rfl
@[simp] theorem Dev.pmuAdd_tst (d : Dev) (c o : Fld) (n : Nat) : (d.pmuAdd c o n).tst = d.tst := by simp only [Dev.pmuAdd]; split <;> rfl
@[simp] theorem Dev.pmuAdd_srv (d : Dev) (c o : Fld) (n : Nat) : (d.pmuAdd c o n).srv = d.srv := by simp only [Dev.pmuAdd]; split <;> rfl
@[simp] theorem Dev.pmuAdd_boot (d : Dev) (c o : Fld) (n : Nat) : (d.pmuAdd c o n).boot = d.boot := by simp only [Dev.pmuAdd]; split <;> rfl
@[simp] theorem Dev.pmuAdd_cfg (d : Dev) (c o : Fld) (n : Nat) : (d.pmuAdd c o n).cfg = d.cfg := by simp only [Dev.pmuAdd]; split <;> rfl
@[simp] theorem Dev.pmuAdd_pwr (d : Dev) (c o : Fld) (n : Nat) : (d.pmuAdd c o n).pwr = d.pwr := by simp only [Dev.pmuAdd]; split <;> rfl
@[simp] theorem Dev.pmuAdd_flash (d : Dev) (c o : Fld) (n : Nat) : (d.pmuAdd c o n).flash = d.flash := by simp only [Dev.pmuAdd]; split <;> rfl

@[simp] theorem Dev.emit_time (d : Dev) (o : Out) : (d.emit o).time = d.time := rfl
@[simp] theorem Dev.emit_regs (d : Dev) (o : Out) : (d.emit o).regs = d.regs := rfl
@[simp] theorem Dev.emit_staged (d : Dev) (o : Out) : (d.emit o).staged = d.staged := rfl
@[simp] theorem Dev.emit_fresh (d : Dev) (o : Out) : (d.emit o).fresh = d.fresh := rfl
@[simp] theorem Dev.emit_ctl (d : Dev) (o : Out) : (d.emit o).ctl = d.ctl := rfl
@[simp] theorem Dev.emit_mem (d : Dev) (o : Out) : (d.emit o).mem = d.mem := rfl
@[simp] theorem Dev.emit_err (d : Dev) (o : Out) : (d.emit o).err = d.err := rfl
@[simp] theorem Dev.emit_pmu (d : Dev) (o : Out) : (d.emit o).pmu = d.pmu := rfl
@[simp] theorem Dev.emit_fab (d : Dev) (o : Out) : (d.emit o).fab = d.fab := rfl
@[simp] theorem Dev.emit_col (d : Dev) (o : Out) : (d.emit o).col = d.col := rfl
@[simp] theorem Dev.emit_cpl (d : Dev) (o : Out) : (d.emit o).cpl = d.cpl := rfl
@[simp] theorem Dev.emit_stn (d : Dev) (o : Out) : (d.emit o).stn = d.stn := rfl
@[simp] theorem Dev.emit_prs (d : Dev) (o : Out) : (d.emit o).prs = d.prs := rfl
@[simp] theorem Dev.emit_spl (d : Dev) (o : Out) : (d.emit o).spl = d.spl := rfl
@[simp] theorem Dev.emit_tst (d : Dev) (o : Out) : (d.emit o).tst = d.tst := rfl
@[simp] theorem Dev.emit_srv (d : Dev) (o : Out) : (d.emit o).srv = d.srv := rfl
@[simp] theorem Dev.emit_boot (d : Dev) (o : Out) : (d.emit o).boot = d.boot := rfl
@[simp] theorem Dev.emit_cfg (d : Dev) (o : Out) : (d.emit o).cfg = d.cfg := rfl
@[simp] theorem Dev.emit_pwr (d : Dev) (o : Out) : (d.emit o).pwr = d.pwr := rfl
@[simp] theorem Dev.emit_flash (d : Dev) (o : Out) : (d.emit o).flash = d.flash := rfl

@[simp] theorem Dev.tick_time (d : Dev) : (d.tick).time = d.time := rfl
@[simp] theorem Dev.tick_regs (d : Dev) : (d.tick).regs = d.regs := rfl
@[simp] theorem Dev.tick_staged (d : Dev) : (d.tick).staged = d.staged := rfl
@[simp] theorem Dev.tick_out (d : Dev) : (d.tick).out = d.out := rfl
@[simp] theorem Dev.tick_ctl (d : Dev) : (d.tick).ctl = d.ctl := rfl
@[simp] theorem Dev.tick_mem (d : Dev) : (d.tick).mem = d.mem := rfl
@[simp] theorem Dev.tick_err (d : Dev) : (d.tick).err = d.err := rfl
@[simp] theorem Dev.tick_pmu (d : Dev) : (d.tick).pmu = d.pmu := rfl
@[simp] theorem Dev.tick_fab (d : Dev) : (d.tick).fab = d.fab := rfl
@[simp] theorem Dev.tick_col (d : Dev) : (d.tick).col = d.col := rfl
@[simp] theorem Dev.tick_cpl (d : Dev) : (d.tick).cpl = d.cpl := rfl
@[simp] theorem Dev.tick_stn (d : Dev) : (d.tick).stn = d.stn := rfl
@[simp] theorem Dev.tick_prs (d : Dev) : (d.tick).prs = d.prs := rfl
@[simp] theorem Dev.tick_spl (d : Dev) : (d.tick).spl = d.spl := rfl
@[simp] theorem Dev.tick_tst (d : Dev) : (d.tick).tst = d.tst := rfl
@[simp] theorem Dev.tick_srv (d : Dev) : (d.tick).srv = d.srv := rfl
@[simp] theorem Dev.tick_boot (d : Dev) : (d.tick).boot = d.boot := rfl
@[simp] theorem Dev.tick_cfg (d : Dev) : (d.tick).cfg = d.cfg := rfl
@[simp] theorem Dev.tick_pwr (d : Dev) : (d.tick).pwr = d.pwr := rfl
@[simp] theorem Dev.tick_flash (d : Dev) : (d.tick).flash = d.flash := rfl

@[simp] theorem Dev.postError_time (d : Dev) (r : ErrRec) : (d.postError r).time = d.time := by unfold Dev.postError; dsimp only; (repeat' split) <;> simp
@[simp] theorem Dev.postError_staged (d : Dev) (r : ErrRec) : (d.postError r).staged = d.staged := by unfold Dev.postError; dsimp only; (repeat' split) <;> simp
@[simp] theorem Dev.postError_out (d : Dev) (r : ErrRec) : (d.postError r).out = d.out := by unfold Dev.postError; dsimp only; (repeat' split) <;> simp
@[simp] theorem Dev.postError_fresh (d : Dev) (r : ErrRec) : (d.postError r).fresh = d.fresh := by unfold Dev.postError; dsimp only; (repeat' split) <;> simp
@[simp] theorem Dev.postError_ctl (d : Dev) (r : ErrRec) : (d.postError r).ctl = d.ctl := by unfold Dev.postError; dsimp only; (repeat' split) <;> simp
@[simp] theorem Dev.postError_mem (d : Dev) (r : ErrRec) : (d.postError r).mem = d.mem := by unfold Dev.postError; dsimp only; (repeat' split) <;> simp
@[simp] theorem Dev.postError_pmu (d : Dev) (r : ErrRec) : (d.postError r).pmu = d.pmu := by unfold Dev.postError; dsimp only; (repeat' split) <;> simp
@[simp] theorem Dev.postError_fab (d : Dev) (r : ErrRec) : (d.postError r).fab = d.fab := by unfold Dev.postError; dsimp only; (repeat' split) <;> simp
@[simp] theorem Dev.postError_col (d : Dev) (r : ErrRec) : (d.postError r).col = d.col := by unfold Dev.postError; dsimp only; (repeat' split) <;> simp
@[simp] theorem Dev.postError_cpl (d : Dev) (r : ErrRec) : (d.postError r).cpl = d.cpl := by unfold Dev.postError; dsimp only; (repeat' split) <;> simp
@[simp] theorem Dev.postError_stn (d : Dev) (r : ErrRec) : (d.postError r).stn = d.stn := by unfold Dev.postError; dsimp only; (repeat' split) <;> simp
@[simp] theorem Dev.postError_prs (d : Dev) (r : ErrRec) : (d.postError r).prs = d.prs := by unfold Dev.postError; dsimp only; (repeat' split) <;> simp
@[simp] theorem Dev.postError_spl (d : Dev) (r : ErrRec) : (d.postError r).spl = d.spl := by unfold Dev.postError; dsimp only; (repeat' split) <;> simp
@[simp] theorem Dev.postError_tst (d : Dev) (r : ErrRec) : (d.postError r).tst = d.tst := by unfold Dev.postError; dsimp only; (repeat' split) <;> simp
@[simp] theorem Dev.postError_srv (d : Dev) (r : ErrRec) : (d.postError r).srv = d.srv := by unfold Dev.postError; dsimp only; (repeat' split) <;> simp
@[simp] theorem Dev.postError_boot (d : Dev) (r : ErrRec) : (d.postError r).boot = d.boot := by unfold Dev.postError; dsimp only; (repeat' split) <;> simp
@[simp] theorem Dev.postError_cfg (d : Dev) (r : ErrRec) : (d.postError r).cfg = d.cfg := by unfold Dev.postError; dsimp only; (repeat' split) <;> simp
@[simp] theorem Dev.postError_pwr (d : Dev) (r : ErrRec) : (d.postError r).pwr = d.pwr := by unfold Dev.postError; dsimp only; (repeat' split) <;> simp
@[simp] theorem Dev.postError_flash (d : Dev) (r : ErrRec) : (d.postError r).flash = d.flash := by unfold Dev.postError; dsimp only; (repeat' split) <;> simp

/-- What counting an event keeps: whatever additions to counters and a new count of overflows keep. -/
theorem Dev.event_keep {β : Type} (g : Dev → β) (h1 : ∀ d c o n, g (Dev.pmuAdd d c o n) = g d)
    (h2 : ∀ (d : Dev) (n : Nat), g { d with pmu := { d.pmu with overflowed := n } } = g d)
    (d : Dev) (b ev : Nat) (part : Option Nat) (inst n : Nat) : g (d.event b ev part inst n) = g d := by
  unfold Dev.event
  split
  · rfl
  · apply foldl_keep g
    intro a c
    dsimp only
    repeat' split
    all_goals first
      | rw [h2, h1]
      | rw [h1]
      | rfl

@[simp] theorem Dev.event_time (d : Dev) (b ev : Nat) (part : Option Nat) (inst n : Nat) : (d.event b ev part inst n).time = d.time := Dev.event_keep Dev.time (fun _ _ _ _ => by simp) (fun _ _ => rfl) d b ev part inst n
@[simp] theorem Dev.event_staged (d : Dev) (b ev : Nat) (part : Option Nat) (inst n : Nat) : (d.event b ev part inst n).staged = d.staged := Dev.event_keep Dev.staged (fun _ _ _ _ => by simp) (fun _ _ => rfl) d b ev part inst n
@[simp] theorem Dev.event_out (d : Dev) (b ev : Nat) (part : Option Nat) (inst n : Nat) : (d.event b ev part inst n).out = d.out := Dev.event_keep Dev.out (fun _ _ _ _ => by simp) (fun _ _ => rfl) d b ev part inst n
@[simp] theorem Dev.event_fresh (d : Dev) (b ev : Nat) (part : Option Nat) (inst n : Nat) : (d.event b ev part inst n).fresh = d.fresh := Dev.event_keep Dev.fresh (fun _ _ _ _ => by simp) (fun _ _ => rfl) d b ev part inst n
@[simp] theorem Dev.event_ctl (d : Dev) (b ev : Nat) (part : Option Nat) (inst n : Nat) : (d.event b ev part inst n).ctl = d.ctl := Dev.event_keep Dev.ctl (fun _ _ _ _ => by simp) (fun _ _ => rfl) d b ev part inst n
@[simp] theorem Dev.event_mem (d : Dev) (b ev : Nat) (part : Option Nat) (inst n : Nat) : (d.event b ev part inst n).mem = d.mem := Dev.event_keep Dev.mem (fun _ _ _ _ => by simp) (fun _ _ => rfl) d b ev part inst n
@[simp] theorem Dev.event_err (d : Dev) (b ev : Nat) (part : Option Nat) (inst n : Nat) : (d.event b ev part inst n).err = d.err := Dev.event_keep Dev.err (fun _ _ _ _ => by simp) (fun _ _ => rfl) d b ev part inst n
@[simp] theorem Dev.event_fab (d : Dev) (b ev : Nat) (part : Option Nat) (inst n : Nat) : (d.event b ev part inst n).fab = d.fab := Dev.event_keep Dev.fab (fun _ _ _ _ => by simp) (fun _ _ => rfl) d b ev part inst n
@[simp] theorem Dev.event_col (d : Dev) (b ev : Nat) (part : Option Nat) (inst n : Nat) : (d.event b ev part inst n).col = d.col := Dev.event_keep Dev.col (fun _ _ _ _ => by simp) (fun _ _ => rfl) d b ev part inst n
@[simp] theorem Dev.event_cpl (d : Dev) (b ev : Nat) (part : Option Nat) (inst n : Nat) : (d.event b ev part inst n).cpl = d.cpl := Dev.event_keep Dev.cpl (fun _ _ _ _ => by simp) (fun _ _ => rfl) d b ev part inst n
@[simp] theorem Dev.event_stn (d : Dev) (b ev : Nat) (part : Option Nat) (inst n : Nat) : (d.event b ev part inst n).stn = d.stn := Dev.event_keep Dev.stn (fun _ _ _ _ => by simp) (fun _ _ => rfl) d b ev part inst n
@[simp] theorem Dev.event_prs (d : Dev) (b ev : Nat) (part : Option Nat) (inst n : Nat) : (d.event b ev part inst n).prs = d.prs := Dev.event_keep Dev.prs (fun _ _ _ _ => by simp) (fun _ _ => rfl) d b ev part inst n
@[simp] theorem Dev.event_spl (d : Dev) (b ev : Nat) (part : Option Nat) (inst n : Nat) : (d.event b ev part inst n).spl = d.spl := Dev.event_keep Dev.spl (fun _ _ _ _ => by simp) (fun _ _ => rfl) d b ev part inst n
@[simp] theorem Dev.event_tst (d : Dev) (b ev : Nat) (part : Option Nat) (inst n : Nat) : (d.event b ev part inst n).tst = d.tst := Dev.event_keep Dev.tst (fun _ _ _ _ => by simp) (fun _ _ => rfl) d b ev part inst n
@[simp] theorem Dev.event_srv (d : Dev) (b ev : Nat) (part : Option Nat) (inst n : Nat) : (d.event b ev part inst n).srv = d.srv := Dev.event_keep Dev.srv (fun _ _ _ _ => by simp) (fun _ _ => rfl) d b ev part inst n
@[simp] theorem Dev.event_boot (d : Dev) (b ev : Nat) (part : Option Nat) (inst n : Nat) : (d.event b ev part inst n).boot = d.boot := Dev.event_keep Dev.boot (fun _ _ _ _ => by simp) (fun _ _ => rfl) d b ev part inst n
@[simp] theorem Dev.event_cfg (d : Dev) (b ev : Nat) (part : Option Nat) (inst n : Nat) : (d.event b ev part inst n).cfg = d.cfg := Dev.event_keep Dev.cfg (fun _ _ _ _ => by simp) (fun _ _ => rfl) d b ev part inst n
@[simp] theorem Dev.event_pwr (d : Dev) (b ev : Nat) (part : Option Nat) (inst n : Nat) : (d.event b ev part inst n).pwr = d.pwr := Dev.event_keep Dev.pwr (fun _ _ _ _ => by simp) (fun _ _ => rfl) d b ev part inst n
@[simp] theorem Dev.event_flash (d : Dev) (b ev : Nat) (part : Option Nat) (inst n : Nat) : (d.event b ev part inst n).flash = d.flash := Dev.event_keep Dev.flash (fun _ _ _ _ => by simp) (fun _ _ => rfl) d b ev part inst n

@[simp] theorem Dev.bwCount_time (d : Dev) (p : Nat) (o : Bool) (n : Nat) : (d.bwCount p o n).time = d.time := rfl
@[simp] theorem Dev.bwCount_regs (d : Dev) (p : Nat) (o : Bool) (n : Nat) : (d.bwCount p o n).regs = d.regs := rfl
@[simp] theorem Dev.bwCount_staged (d : Dev) (p : Nat) (o : Bool) (n : Nat) : (d.bwCount p o n).staged = d.staged := rfl
@[simp] theorem Dev.bwCount_out (d : Dev) (p : Nat) (o : Bool) (n : Nat) : (d.bwCount p o n).out = d.out := rfl
@[simp] theorem Dev.bwCount_fresh (d : Dev) (p : Nat) (o : Bool) (n : Nat) : (d.bwCount p o n).fresh = d.fresh := rfl
@[simp] theorem Dev.bwCount_ctl (d : Dev) (p : Nat) (o : Bool) (n : Nat) : (d.bwCount p o n).ctl = d.ctl := rfl
@[simp] theorem Dev.bwCount_mem (d : Dev) (p : Nat) (o : Bool) (n : Nat) : (d.bwCount p o n).mem = d.mem := rfl
@[simp] theorem Dev.bwCount_err (d : Dev) (p : Nat) (o : Bool) (n : Nat) : (d.bwCount p o n).err = d.err := rfl
@[simp] theorem Dev.bwCount_fab (d : Dev) (p : Nat) (o : Bool) (n : Nat) : (d.bwCount p o n).fab = d.fab := rfl
@[simp] theorem Dev.bwCount_col (d : Dev) (p : Nat) (o : Bool) (n : Nat) : (d.bwCount p o n).col = d.col := rfl
@[simp] theorem Dev.bwCount_cpl (d : Dev) (p : Nat) (o : Bool) (n : Nat) : (d.bwCount p o n).cpl = d.cpl := rfl
@[simp] theorem Dev.bwCount_stn (d : Dev) (p : Nat) (o : Bool) (n : Nat) : (d.bwCount p o n).stn = d.stn := rfl
@[simp] theorem Dev.bwCount_prs (d : Dev) (p : Nat) (o : Bool) (n : Nat) : (d.bwCount p o n).prs = d.prs := rfl
@[simp] theorem Dev.bwCount_spl (d : Dev) (p : Nat) (o : Bool) (n : Nat) : (d.bwCount p o n).spl = d.spl := rfl
@[simp] theorem Dev.bwCount_tst (d : Dev) (p : Nat) (o : Bool) (n : Nat) : (d.bwCount p o n).tst = d.tst := rfl
@[simp] theorem Dev.bwCount_srv (d : Dev) (p : Nat) (o : Bool) (n : Nat) : (d.bwCount p o n).srv = d.srv := rfl
@[simp] theorem Dev.bwCount_boot (d : Dev) (p : Nat) (o : Bool) (n : Nat) : (d.bwCount p o n).boot = d.boot := rfl
@[simp] theorem Dev.bwCount_cfg (d : Dev) (p : Nat) (o : Bool) (n : Nat) : (d.bwCount p o n).cfg = d.cfg := rfl
@[simp] theorem Dev.bwCount_pwr (d : Dev) (p : Nat) (o : Bool) (n : Nat) : (d.bwCount p o n).pwr = d.pwr := rfl
@[simp] theorem Dev.bwCount_flash (d : Dev) (p : Nat) (o : Bool) (n : Nat) : (d.bwCount p o n).flash = d.flash := rfl

@[simp] theorem Dev.setLink_time (d : Dev) (n : Nat) (l : LinkSt) : (d.setLink n l).time = d.time := rfl
@[simp] theorem Dev.setLink_regs (d : Dev) (n : Nat) (l : LinkSt) : (d.setLink n l).regs = d.regs := rfl
@[simp] theorem Dev.setLink_staged (d : Dev) (n : Nat) (l : LinkSt) : (d.setLink n l).staged = d.staged := rfl
@[simp] theorem Dev.setLink_out (d : Dev) (n : Nat) (l : LinkSt) : (d.setLink n l).out = d.out := rfl
@[simp] theorem Dev.setLink_fresh (d : Dev) (n : Nat) (l : LinkSt) : (d.setLink n l).fresh = d.fresh := rfl
@[simp] theorem Dev.setLink_ctl (d : Dev) (n : Nat) (l : LinkSt) : (d.setLink n l).ctl = d.ctl := rfl
@[simp] theorem Dev.setLink_mem (d : Dev) (n : Nat) (l : LinkSt) : (d.setLink n l).mem = d.mem := rfl
@[simp] theorem Dev.setLink_err (d : Dev) (n : Nat) (l : LinkSt) : (d.setLink n l).err = d.err := rfl
@[simp] theorem Dev.setLink_pmu (d : Dev) (n : Nat) (l : LinkSt) : (d.setLink n l).pmu = d.pmu := rfl
@[simp] theorem Dev.setLink_col (d : Dev) (n : Nat) (l : LinkSt) : (d.setLink n l).col = d.col := rfl
@[simp] theorem Dev.setLink_cpl (d : Dev) (n : Nat) (l : LinkSt) : (d.setLink n l).cpl = d.cpl := rfl
@[simp] theorem Dev.setLink_stn (d : Dev) (n : Nat) (l : LinkSt) : (d.setLink n l).stn = d.stn := rfl
@[simp] theorem Dev.setLink_prs (d : Dev) (n : Nat) (l : LinkSt) : (d.setLink n l).prs = d.prs := rfl
@[simp] theorem Dev.setLink_spl (d : Dev) (n : Nat) (l : LinkSt) : (d.setLink n l).spl = d.spl := rfl
@[simp] theorem Dev.setLink_tst (d : Dev) (n : Nat) (l : LinkSt) : (d.setLink n l).tst = d.tst := rfl
@[simp] theorem Dev.setLink_srv (d : Dev) (n : Nat) (l : LinkSt) : (d.setLink n l).srv = d.srv := rfl
@[simp] theorem Dev.setLink_boot (d : Dev) (n : Nat) (l : LinkSt) : (d.setLink n l).boot = d.boot := rfl
@[simp] theorem Dev.setLink_cfg (d : Dev) (n : Nat) (l : LinkSt) : (d.setLink n l).cfg = d.cfg := rfl
@[simp] theorem Dev.setLink_pwr (d : Dev) (n : Nat) (l : LinkSt) : (d.setLink n l).pwr = d.pwr := rfl
@[simp] theorem Dev.setLink_flash (d : Dev) (n : Nat) (l : LinkSt) : (d.setLink n l).flash = d.flash := rfl

@[simp] theorem Dev.setRing_time (d : Dev) (n : Nat) (r : Ring) : (d.setRing n r).time = d.time := rfl
@[simp] theorem Dev.setRing_regs (d : Dev) (n : Nat) (r : Ring) : (d.setRing n r).regs = d.regs := rfl
@[simp] theorem Dev.setRing_staged (d : Dev) (n : Nat) (r : Ring) : (d.setRing n r).staged = d.staged := rfl
@[simp] theorem Dev.setRing_out (d : Dev) (n : Nat) (r : Ring) : (d.setRing n r).out = d.out := rfl
@[simp] theorem Dev.setRing_fresh (d : Dev) (n : Nat) (r : Ring) : (d.setRing n r).fresh = d.fresh := rfl
@[simp] theorem Dev.setRing_mem (d : Dev) (n : Nat) (r : Ring) : (d.setRing n r).mem = d.mem := rfl
@[simp] theorem Dev.setRing_err (d : Dev) (n : Nat) (r : Ring) : (d.setRing n r).err = d.err := rfl
@[simp] theorem Dev.setRing_pmu (d : Dev) (n : Nat) (r : Ring) : (d.setRing n r).pmu = d.pmu := rfl
@[simp] theorem Dev.setRing_fab (d : Dev) (n : Nat) (r : Ring) : (d.setRing n r).fab = d.fab := rfl
@[simp] theorem Dev.setRing_col (d : Dev) (n : Nat) (r : Ring) : (d.setRing n r).col = d.col := rfl
@[simp] theorem Dev.setRing_cpl (d : Dev) (n : Nat) (r : Ring) : (d.setRing n r).cpl = d.cpl := rfl
@[simp] theorem Dev.setRing_stn (d : Dev) (n : Nat) (r : Ring) : (d.setRing n r).stn = d.stn := rfl
@[simp] theorem Dev.setRing_prs (d : Dev) (n : Nat) (r : Ring) : (d.setRing n r).prs = d.prs := rfl
@[simp] theorem Dev.setRing_spl (d : Dev) (n : Nat) (r : Ring) : (d.setRing n r).spl = d.spl := rfl
@[simp] theorem Dev.setRing_tst (d : Dev) (n : Nat) (r : Ring) : (d.setRing n r).tst = d.tst := rfl
@[simp] theorem Dev.setRing_srv (d : Dev) (n : Nat) (r : Ring) : (d.setRing n r).srv = d.srv := rfl
@[simp] theorem Dev.setRing_boot (d : Dev) (n : Nat) (r : Ring) : (d.setRing n r).boot = d.boot := rfl
@[simp] theorem Dev.setRing_cfg (d : Dev) (n : Nat) (r : Ring) : (d.setRing n r).cfg = d.cfg := rfl
@[simp] theorem Dev.setRing_pwr (d : Dev) (n : Nat) (r : Ring) : (d.setRing n r).pwr = d.pwr := rfl
@[simp] theorem Dev.setRing_flash (d : Dev) (n : Nat) (r : Ring) : (d.setRing n r).flash = d.flash := rfl

@[simp] theorem Dev.setItem_time (d : Dev) (it : Item) : (d.setItem it).time = d.time := rfl
@[simp] theorem Dev.setItem_regs (d : Dev) (it : Item) : (d.setItem it).regs = d.regs := rfl
@[simp] theorem Dev.setItem_staged (d : Dev) (it : Item) : (d.setItem it).staged = d.staged := rfl
@[simp] theorem Dev.setItem_out (d : Dev) (it : Item) : (d.setItem it).out = d.out := rfl
@[simp] theorem Dev.setItem_fresh (d : Dev) (it : Item) : (d.setItem it).fresh = d.fresh := rfl
@[simp] theorem Dev.setItem_mem (d : Dev) (it : Item) : (d.setItem it).mem = d.mem := rfl
@[simp] theorem Dev.setItem_err (d : Dev) (it : Item) : (d.setItem it).err = d.err := rfl
@[simp] theorem Dev.setItem_pmu (d : Dev) (it : Item) : (d.setItem it).pmu = d.pmu := rfl
@[simp] theorem Dev.setItem_fab (d : Dev) (it : Item) : (d.setItem it).fab = d.fab := rfl
@[simp] theorem Dev.setItem_col (d : Dev) (it : Item) : (d.setItem it).col = d.col := rfl
@[simp] theorem Dev.setItem_cpl (d : Dev) (it : Item) : (d.setItem it).cpl = d.cpl := rfl
@[simp] theorem Dev.setItem_stn (d : Dev) (it : Item) : (d.setItem it).stn = d.stn := rfl
@[simp] theorem Dev.setItem_prs (d : Dev) (it : Item) : (d.setItem it).prs = d.prs := rfl
@[simp] theorem Dev.setItem_spl (d : Dev) (it : Item) : (d.setItem it).spl = d.spl := rfl
@[simp] theorem Dev.setItem_tst (d : Dev) (it : Item) : (d.setItem it).tst = d.tst := rfl
@[simp] theorem Dev.setItem_srv (d : Dev) (it : Item) : (d.setItem it).srv = d.srv := rfl
@[simp] theorem Dev.setItem_boot (d : Dev) (it : Item) : (d.setItem it).boot = d.boot := rfl
@[simp] theorem Dev.setItem_cfg (d : Dev) (it : Item) : (d.setItem it).cfg = d.cfg := rfl
@[simp] theorem Dev.setItem_pwr (d : Dev) (it : Item) : (d.setItem it).pwr = d.pwr := rfl
@[simp] theorem Dev.setItem_flash (d : Dev) (it : Item) : (d.setItem it).flash = d.flash := rfl

@[simp] theorem Dev.dropItem_time (d : Dev) (id : Nat) : (d.dropItem id).time = d.time := rfl
@[simp] theorem Dev.dropItem_regs (d : Dev) (id : Nat) : (d.dropItem id).regs = d.regs := rfl
@[simp] theorem Dev.dropItem_staged (d : Dev) (id : Nat) : (d.dropItem id).staged = d.staged := rfl
@[simp] theorem Dev.dropItem_out (d : Dev) (id : Nat) : (d.dropItem id).out = d.out := rfl
@[simp] theorem Dev.dropItem_fresh (d : Dev) (id : Nat) : (d.dropItem id).fresh = d.fresh := rfl
@[simp] theorem Dev.dropItem_mem (d : Dev) (id : Nat) : (d.dropItem id).mem = d.mem := rfl
@[simp] theorem Dev.dropItem_err (d : Dev) (id : Nat) : (d.dropItem id).err = d.err := rfl
@[simp] theorem Dev.dropItem_pmu (d : Dev) (id : Nat) : (d.dropItem id).pmu = d.pmu := rfl
@[simp] theorem Dev.dropItem_fab (d : Dev) (id : Nat) : (d.dropItem id).fab = d.fab := rfl
@[simp] theorem Dev.dropItem_col (d : Dev) (id : Nat) : (d.dropItem id).col = d.col := rfl
@[simp] theorem Dev.dropItem_cpl (d : Dev) (id : Nat) : (d.dropItem id).cpl = d.cpl := rfl
@[simp] theorem Dev.dropItem_stn (d : Dev) (id : Nat) : (d.dropItem id).stn = d.stn := rfl
@[simp] theorem Dev.dropItem_prs (d : Dev) (id : Nat) : (d.dropItem id).prs = d.prs := rfl
@[simp] theorem Dev.dropItem_spl (d : Dev) (id : Nat) : (d.dropItem id).spl = d.spl := rfl
@[simp] theorem Dev.dropItem_tst (d : Dev) (id : Nat) : (d.dropItem id).tst = d.tst := rfl
@[simp] theorem Dev.dropItem_srv (d : Dev) (id : Nat) : (d.dropItem id).srv = d.srv := rfl
@[simp] theorem Dev.dropItem_boot (d : Dev) (id : Nat) : (d.dropItem id).boot = d.boot := rfl
@[simp] theorem Dev.dropItem_cfg (d : Dev) (id : Nat) : (d.dropItem id).cfg = d.cfg := rfl
@[simp] theorem Dev.dropItem_pwr (d : Dev) (id : Nat) : (d.dropItem id).pwr = d.pwr := rfl
@[simp] theorem Dev.dropItem_flash (d : Dev) (id : Nat) : (d.dropItem id).flash = d.flash := rfl

@[simp] theorem Dev.addItem_time (d : Dev) (it : Item) : (d.addItem it).time = d.time := rfl
@[simp] theorem Dev.addItem_regs (d : Dev) (it : Item) : (d.addItem it).regs = d.regs := rfl
@[simp] theorem Dev.addItem_staged (d : Dev) (it : Item) : (d.addItem it).staged = d.staged := rfl
@[simp] theorem Dev.addItem_out (d : Dev) (it : Item) : (d.addItem it).out = d.out := rfl
@[simp] theorem Dev.addItem_fresh (d : Dev) (it : Item) : (d.addItem it).fresh = d.fresh := rfl
@[simp] theorem Dev.addItem_mem (d : Dev) (it : Item) : (d.addItem it).mem = d.mem := rfl
@[simp] theorem Dev.addItem_err (d : Dev) (it : Item) : (d.addItem it).err = d.err := rfl
@[simp] theorem Dev.addItem_pmu (d : Dev) (it : Item) : (d.addItem it).pmu = d.pmu := rfl
@[simp] theorem Dev.addItem_fab (d : Dev) (it : Item) : (d.addItem it).fab = d.fab := rfl
@[simp] theorem Dev.addItem_col (d : Dev) (it : Item) : (d.addItem it).col = d.col := rfl
@[simp] theorem Dev.addItem_cpl (d : Dev) (it : Item) : (d.addItem it).cpl = d.cpl := rfl
@[simp] theorem Dev.addItem_stn (d : Dev) (it : Item) : (d.addItem it).stn = d.stn := rfl
@[simp] theorem Dev.addItem_prs (d : Dev) (it : Item) : (d.addItem it).prs = d.prs := rfl
@[simp] theorem Dev.addItem_spl (d : Dev) (it : Item) : (d.addItem it).spl = d.spl := rfl
@[simp] theorem Dev.addItem_tst (d : Dev) (it : Item) : (d.addItem it).tst = d.tst := rfl
@[simp] theorem Dev.addItem_srv (d : Dev) (it : Item) : (d.addItem it).srv = d.srv := rfl
@[simp] theorem Dev.addItem_boot (d : Dev) (it : Item) : (d.addItem it).boot = d.boot := rfl
@[simp] theorem Dev.addItem_cfg (d : Dev) (it : Item) : (d.addItem it).cfg = d.cfg := rfl
@[simp] theorem Dev.addItem_pwr (d : Dev) (it : Item) : (d.addItem it).pwr = d.pwr := rfl
@[simp] theorem Dev.addItem_flash (d : Dev) (it : Item) : (d.addItem it).flash = d.flash := rfl

@[simp] theorem Dev.setSkein_time (d : Dev) (k : Nat) (o : Option Skein) : (d.setSkein k o).time = d.time := rfl
@[simp] theorem Dev.setSkein_regs (d : Dev) (k : Nat) (o : Option Skein) : (d.setSkein k o).regs = d.regs := rfl
@[simp] theorem Dev.setSkein_staged (d : Dev) (k : Nat) (o : Option Skein) : (d.setSkein k o).staged = d.staged := rfl
@[simp] theorem Dev.setSkein_out (d : Dev) (k : Nat) (o : Option Skein) : (d.setSkein k o).out = d.out := rfl
@[simp] theorem Dev.setSkein_fresh (d : Dev) (k : Nat) (o : Option Skein) : (d.setSkein k o).fresh = d.fresh := rfl
@[simp] theorem Dev.setSkein_ctl (d : Dev) (k : Nat) (o : Option Skein) : (d.setSkein k o).ctl = d.ctl := rfl
@[simp] theorem Dev.setSkein_mem (d : Dev) (k : Nat) (o : Option Skein) : (d.setSkein k o).mem = d.mem := rfl
@[simp] theorem Dev.setSkein_err (d : Dev) (k : Nat) (o : Option Skein) : (d.setSkein k o).err = d.err := rfl
@[simp] theorem Dev.setSkein_pmu (d : Dev) (k : Nat) (o : Option Skein) : (d.setSkein k o).pmu = d.pmu := rfl
@[simp] theorem Dev.setSkein_fab (d : Dev) (k : Nat) (o : Option Skein) : (d.setSkein k o).fab = d.fab := rfl
@[simp] theorem Dev.setSkein_col (d : Dev) (k : Nat) (o : Option Skein) : (d.setSkein k o).col = d.col := rfl
@[simp] theorem Dev.setSkein_cpl (d : Dev) (k : Nat) (o : Option Skein) : (d.setSkein k o).cpl = d.cpl := rfl
@[simp] theorem Dev.setSkein_stn (d : Dev) (k : Nat) (o : Option Skein) : (d.setSkein k o).stn = d.stn := rfl
@[simp] theorem Dev.setSkein_prs (d : Dev) (k : Nat) (o : Option Skein) : (d.setSkein k o).prs = d.prs := rfl
@[simp] theorem Dev.setSkein_tst (d : Dev) (k : Nat) (o : Option Skein) : (d.setSkein k o).tst = d.tst := rfl
@[simp] theorem Dev.setSkein_srv (d : Dev) (k : Nat) (o : Option Skein) : (d.setSkein k o).srv = d.srv := rfl
@[simp] theorem Dev.setSkein_boot (d : Dev) (k : Nat) (o : Option Skein) : (d.setSkein k o).boot = d.boot := rfl
@[simp] theorem Dev.setSkein_cfg (d : Dev) (k : Nat) (o : Option Skein) : (d.setSkein k o).cfg = d.cfg := rfl
@[simp] theorem Dev.setSkein_pwr (d : Dev) (k : Nat) (o : Option Skein) : (d.setSkein k o).pwr = d.pwr := rfl
@[simp] theorem Dev.setSkein_flash (d : Dev) (k : Nat) (o : Option Skein) : (d.setSkein k o).flash = d.flash := rfl

@[simp] theorem Dev.setSc_time (d : Dev) (s l : Nat) (o : Option ScLine) : (d.setSc s l o).time = d.time := rfl
@[simp] theorem Dev.setSc_regs (d : Dev) (s l : Nat) (o : Option ScLine) : (d.setSc s l o).regs = d.regs := rfl
@[simp] theorem Dev.setSc_staged (d : Dev) (s l : Nat) (o : Option ScLine) : (d.setSc s l o).staged = d.staged := rfl
@[simp] theorem Dev.setSc_out (d : Dev) (s l : Nat) (o : Option ScLine) : (d.setSc s l o).out = d.out := rfl
@[simp] theorem Dev.setSc_fresh (d : Dev) (s l : Nat) (o : Option ScLine) : (d.setSc s l o).fresh = d.fresh := rfl
@[simp] theorem Dev.setSc_ctl (d : Dev) (s l : Nat) (o : Option ScLine) : (d.setSc s l o).ctl = d.ctl := rfl
@[simp] theorem Dev.setSc_mem (d : Dev) (s l : Nat) (o : Option ScLine) : (d.setSc s l o).mem = d.mem := rfl
@[simp] theorem Dev.setSc_err (d : Dev) (s l : Nat) (o : Option ScLine) : (d.setSc s l o).err = d.err := rfl
@[simp] theorem Dev.setSc_pmu (d : Dev) (s l : Nat) (o : Option ScLine) : (d.setSc s l o).pmu = d.pmu := rfl
@[simp] theorem Dev.setSc_fab (d : Dev) (s l : Nat) (o : Option ScLine) : (d.setSc s l o).fab = d.fab := rfl
@[simp] theorem Dev.setSc_col (d : Dev) (s l : Nat) (o : Option ScLine) : (d.setSc s l o).col = d.col := rfl
@[simp] theorem Dev.setSc_cpl (d : Dev) (s l : Nat) (o : Option ScLine) : (d.setSc s l o).cpl = d.cpl := rfl
@[simp] theorem Dev.setSc_stn (d : Dev) (s l : Nat) (o : Option ScLine) : (d.setSc s l o).stn = d.stn := rfl
@[simp] theorem Dev.setSc_prs (d : Dev) (s l : Nat) (o : Option ScLine) : (d.setSc s l o).prs = d.prs := rfl
@[simp] theorem Dev.setSc_tst (d : Dev) (s l : Nat) (o : Option ScLine) : (d.setSc s l o).tst = d.tst := rfl
@[simp] theorem Dev.setSc_srv (d : Dev) (s l : Nat) (o : Option ScLine) : (d.setSc s l o).srv = d.srv := rfl
@[simp] theorem Dev.setSc_boot (d : Dev) (s l : Nat) (o : Option ScLine) : (d.setSc s l o).boot = d.boot := rfl
@[simp] theorem Dev.setSc_cfg (d : Dev) (s l : Nat) (o : Option ScLine) : (d.setSc s l o).cfg = d.cfg := rfl
@[simp] theorem Dev.setSc_pwr (d : Dev) (s l : Nat) (o : Option ScLine) : (d.setSc s l o).pwr = d.pwr := rfl
@[simp] theorem Dev.setSc_flash (d : Dev) (s l : Nat) (o : Option ScLine) : (d.setSc s l o).flash = d.flash := rfl

@[simp] theorem Dev.forgetWaiter_time (d : Dev) (w : Waiter) : (d.forgetWaiter w).time = d.time := rfl
@[simp] theorem Dev.forgetWaiter_regs (d : Dev) (w : Waiter) : (d.forgetWaiter w).regs = d.regs := rfl
@[simp] theorem Dev.forgetWaiter_staged (d : Dev) (w : Waiter) : (d.forgetWaiter w).staged = d.staged := rfl
@[simp] theorem Dev.forgetWaiter_out (d : Dev) (w : Waiter) : (d.forgetWaiter w).out = d.out := rfl
@[simp] theorem Dev.forgetWaiter_fresh (d : Dev) (w : Waiter) : (d.forgetWaiter w).fresh = d.fresh := rfl
@[simp] theorem Dev.forgetWaiter_ctl (d : Dev) (w : Waiter) : (d.forgetWaiter w).ctl = d.ctl := rfl
@[simp] theorem Dev.forgetWaiter_err (d : Dev) (w : Waiter) : (d.forgetWaiter w).err = d.err := rfl
@[simp] theorem Dev.forgetWaiter_pmu (d : Dev) (w : Waiter) : (d.forgetWaiter w).pmu = d.pmu := rfl
@[simp] theorem Dev.forgetWaiter_fab (d : Dev) (w : Waiter) : (d.forgetWaiter w).fab = d.fab := rfl
@[simp] theorem Dev.forgetWaiter_col (d : Dev) (w : Waiter) : (d.forgetWaiter w).col = d.col := rfl
@[simp] theorem Dev.forgetWaiter_cpl (d : Dev) (w : Waiter) : (d.forgetWaiter w).cpl = d.cpl := rfl
@[simp] theorem Dev.forgetWaiter_stn (d : Dev) (w : Waiter) : (d.forgetWaiter w).stn = d.stn := rfl
@[simp] theorem Dev.forgetWaiter_prs (d : Dev) (w : Waiter) : (d.forgetWaiter w).prs = d.prs := rfl
@[simp] theorem Dev.forgetWaiter_spl (d : Dev) (w : Waiter) : (d.forgetWaiter w).spl = d.spl := rfl
@[simp] theorem Dev.forgetWaiter_tst (d : Dev) (w : Waiter) : (d.forgetWaiter w).tst = d.tst := rfl
@[simp] theorem Dev.forgetWaiter_srv (d : Dev) (w : Waiter) : (d.forgetWaiter w).srv = d.srv := rfl
@[simp] theorem Dev.forgetWaiter_boot (d : Dev) (w : Waiter) : (d.forgetWaiter w).boot = d.boot := rfl
@[simp] theorem Dev.forgetWaiter_cfg (d : Dev) (w : Waiter) : (d.forgetWaiter w).cfg = d.cfg := rfl
@[simp] theorem Dev.forgetWaiter_pwr (d : Dev) (w : Waiter) : (d.forgetWaiter w).pwr = d.pwr := rfl
@[simp] theorem Dev.forgetWaiter_flash (d : Dev) (w : Waiter) : (d.forgetWaiter w).flash = d.flash := rfl

@[simp] theorem Dev.noteLinks_time (d : Dev) (it : Item) : (d.noteLinks it).time = d.time := rfl
@[simp] theorem Dev.noteLinks_regs (d : Dev) (it : Item) : (d.noteLinks it).regs = d.regs := rfl
@[simp] theorem Dev.noteLinks_staged (d : Dev) (it : Item) : (d.noteLinks it).staged = d.staged := rfl
@[simp] theorem Dev.noteLinks_out (d : Dev) (it : Item) : (d.noteLinks it).out = d.out := rfl
@[simp] theorem Dev.noteLinks_fresh (d : Dev) (it : Item) : (d.noteLinks it).fresh = d.fresh := rfl
@[simp] theorem Dev.noteLinks_ctl (d : Dev) (it : Item) : (d.noteLinks it).ctl = d.ctl := rfl
@[simp] theorem Dev.noteLinks_mem (d : Dev) (it : Item) : (d.noteLinks it).mem = d.mem := rfl
@[simp] theorem Dev.noteLinks_err (d : Dev) (it : Item) : (d.noteLinks it).err = d.err := rfl
@[simp] theorem Dev.noteLinks_pmu (d : Dev) (it : Item) : (d.noteLinks it).pmu = d.pmu := rfl
@[simp] theorem Dev.noteLinks_fab (d : Dev) (it : Item) : (d.noteLinks it).fab = d.fab := rfl
@[simp] theorem Dev.noteLinks_col (d : Dev) (it : Item) : (d.noteLinks it).col = d.col := rfl
@[simp] theorem Dev.noteLinks_cpl (d : Dev) (it : Item) : (d.noteLinks it).cpl = d.cpl := rfl
@[simp] theorem Dev.noteLinks_stn (d : Dev) (it : Item) : (d.noteLinks it).stn = d.stn := rfl
@[simp] theorem Dev.noteLinks_spl (d : Dev) (it : Item) : (d.noteLinks it).spl = d.spl := rfl
@[simp] theorem Dev.noteLinks_tst (d : Dev) (it : Item) : (d.noteLinks it).tst = d.tst := rfl
@[simp] theorem Dev.noteLinks_srv (d : Dev) (it : Item) : (d.noteLinks it).srv = d.srv := rfl
@[simp] theorem Dev.noteLinks_boot (d : Dev) (it : Item) : (d.noteLinks it).boot = d.boot := rfl
@[simp] theorem Dev.noteLinks_cfg (d : Dev) (it : Item) : (d.noteLinks it).cfg = d.cfg := rfl
@[simp] theorem Dev.noteLinks_pwr (d : Dev) (it : Item) : (d.noteLinks it).pwr = d.pwr := rfl
@[simp] theorem Dev.noteLinks_flash (d : Dev) (it : Item) : (d.noteLinks it).flash = d.flash := rfl

@[simp] theorem Dev.stopRing_time (d : Dev) (n st : Nat) : (d.stopRing n st).time = d.time := by simp [Dev.stopRing]
@[simp] theorem Dev.stopRing_staged (d : Dev) (n st : Nat) : (d.stopRing n st).staged = d.staged := by simp [Dev.stopRing]
@[simp] theorem Dev.stopRing_out (d : Dev) (n st : Nat) : (d.stopRing n st).out = d.out := by simp [Dev.stopRing]
@[simp] theorem Dev.stopRing_fresh (d : Dev) (n st : Nat) : (d.stopRing n st).fresh = d.fresh := by simp [Dev.stopRing]
@[simp] theorem Dev.stopRing_ctl (d : Dev) (n st : Nat) : (d.stopRing n st).ctl = d.ctl := by simp [Dev.stopRing]
@[simp] theorem Dev.stopRing_mem (d : Dev) (n st : Nat) : (d.stopRing n st).mem = d.mem := by simp [Dev.stopRing]
@[simp] theorem Dev.stopRing_err (d : Dev) (n st : Nat) : (d.stopRing n st).err = d.err := by simp [Dev.stopRing]
@[simp] theorem Dev.stopRing_pmu (d : Dev) (n st : Nat) : (d.stopRing n st).pmu = d.pmu := by simp [Dev.stopRing]
@[simp] theorem Dev.stopRing_fab (d : Dev) (n st : Nat) : (d.stopRing n st).fab = d.fab := by simp [Dev.stopRing]
@[simp] theorem Dev.stopRing_col (d : Dev) (n st : Nat) : (d.stopRing n st).col = d.col := by simp [Dev.stopRing]
@[simp] theorem Dev.stopRing_cpl (d : Dev) (n st : Nat) : (d.stopRing n st).cpl = d.cpl := by simp [Dev.stopRing]
@[simp] theorem Dev.stopRing_stn (d : Dev) (n st : Nat) : (d.stopRing n st).stn = d.stn := by simp [Dev.stopRing]
@[simp] theorem Dev.stopRing_prs (d : Dev) (n st : Nat) : (d.stopRing n st).prs = d.prs := by simp [Dev.stopRing]
@[simp] theorem Dev.stopRing_spl (d : Dev) (n st : Nat) : (d.stopRing n st).spl = d.spl := by simp [Dev.stopRing]
@[simp] theorem Dev.stopRing_tst (d : Dev) (n st : Nat) : (d.stopRing n st).tst = d.tst := by simp [Dev.stopRing]
@[simp] theorem Dev.stopRing_srv (d : Dev) (n st : Nat) : (d.stopRing n st).srv = d.srv := by simp [Dev.stopRing]
@[simp] theorem Dev.stopRing_boot (d : Dev) (n st : Nat) : (d.stopRing n st).boot = d.boot := by simp [Dev.stopRing]
@[simp] theorem Dev.stopRing_cfg (d : Dev) (n st : Nat) : (d.stopRing n st).cfg = d.cfg := by simp [Dev.stopRing]
@[simp] theorem Dev.stopRing_pwr (d : Dev) (n st : Nat) : (d.stopRing n st).pwr = d.pwr := by simp [Dev.stopRing]
@[simp] theorem Dev.stopRing_flash (d : Dev) (n st : Nat) : (d.stopRing n st).flash = d.flash := by simp [Dev.stopRing]

/-! ### Reading back -/

@[simp] theorem Dev.reg_setReg (d : Dev) (off : Nat) (v : Word) : (d.setReg off v).regs = SMap.set regReset d.regs off v := rfl
@[simp] theorem Dev.emit_out (d : Dev) (o : Out) : (d.emit o).out = d.out ++ [o] := rfl
@[simp] theorem Dev.tick_fresh (d : Dev) : d.tick.fresh = d.fresh + 1 := rfl
@[simp] theorem State.after_pending (s : State) (d : Dev) : (s.after d).pending = s.pending := rfl
@[simp] theorem State.after_board (s : State) (d : Dev) : (s.after d).board = s.board := rfl
@[simp] theorem State.after_dev (s : State) (d : Dev) : (s.after d).dev = d.fenceAll := rfl

/-- A dropped item is gone. -/
theorem Dev.item_dropItem (d : Dev) (id : Nat) : (d.dropItem id).item id = none := by
  simp [Dev.item, Dev.dropItem, List.find?_filter]

end Sys2Proof.Machine
end

