-- ==== Sys2Proof/Laws/Memory.lean ====
section
/-!
SUPPORT. Laws/Memory.lean: the memories are in canonical form at reset, and every operation that writes one keeps that form.
-/
namespace Sys2Proof.Machine

/-- Writes of entries of a list, one after another, keep the canonical form. -/
theorem SMap.wf_foldl {β γ : Type} [DecidableEq β] {d : Nat → β} (f : SMap β → γ → SMap β) (h : ∀ m x, SMap.wf d m = true → SMap.wf d (f m x) = true)
    (l : List γ) {m : SMap β} (w : SMap.wf d m = true) : SMap.wf d (l.foldl f m) = true := by
  induction l generalizing m with
  | nil => exact w
  | cons x xs ih => exact ih (h m x w)

theorem MemSt.wf_iff {m : MemSt} : m.wf = true ↔ (SMap.wf zeroByte m.hbm = true ∧ SMap.wf zeroByte m.spad = true ∧ SMap.wf zeroByte m.hop = true
    ∧ SMap.wf noPoison m.dramPoison = true ∧ SMap.wf noPoison m.spadPoison = true ∧ SMap.wf noPoison m.hopPoison = true) := by
  simp only [MemSt.wf, Bool.and_eq_true]
  constructor
  · rintro ⟨⟨⟨⟨⟨h1, h2⟩, h3⟩, h4⟩, h5⟩, h6⟩
    exact ⟨h1, h3, h5, h2, h4, h6⟩
  · rintro ⟨h1, h3, h5, h2, h4, h6⟩
    exact ⟨⟨⟨⟨⟨h1, h2⟩, h3⟩, h4⟩, h5⟩, h6⟩

theorem MemSt.wf_reset : State.reset.dev.mem.wf = true := rfl

theorem MemSt.wf_withSpad {m : MemSt} (w : m.wf = true) {a : SMap Byte} {b : SMap Bool} (ha : SMap.wf zeroByte a = true)
    (hb : SMap.wf noPoison b = true) : ({ m with spad := a, spadPoison := b } : MemSt).wf = true := by
  rw [MemSt.wf_iff] at w ⊢
  exact ⟨w.1, ha, w.2.2.1, w.2.2.2.1, hb, w.2.2.2.2.2⟩

theorem MemSt.wf_withHop {m : MemSt} (w : m.wf = true) {a : SMap Byte} {b : SMap Bool} (ha : SMap.wf zeroByte a = true)
    (hb : SMap.wf noPoison b = true) : ({ m with hop := a, hopPoison := b } : MemSt).wf = true := by
  rw [MemSt.wf_iff] at w ⊢
  exact ⟨w.1, w.2.1, ha, w.2.2.2.1, w.2.2.2.2.1, hb⟩

theorem MemSt.wf_withHbm {m : MemSt} (w : m.wf = true) {a : SMap Byte} (ha : SMap.wf zeroByte a = true) : ({ m with hbm := a } : MemSt).wf = true := by
  rw [MemSt.wf_iff] at w ⊢
  exact ⟨ha, w.2⟩

theorem MemSt.wf_withDramPoison {m : MemSt} (w : m.wf = true) {a : SMap Bool} (ha : SMap.wf noPoison a = true) :
    ({ m with dramPoison := a } : MemSt).wf = true := by
  rw [MemSt.wf_iff] at w ⊢
  exact ⟨w.1, w.2.1, w.2.2.1, ha, w.2.2.2.2⟩

/-- Writing an entry for each element of a list keeps the canonical form. -/
theorem SMap.wf_setAll {β γ : Type} [DecidableEq β] {d : Nat → β} (k : γ → Nat) (v : SMap β → γ → β) (l : List γ) {m : SMap β}
    (w : SMap.wf d m = true) : SMap.wf d (l.foldl (fun m x => SMap.set d m (k x) (v m x)) m) = true :=
  SMap.wf_foldl _ (fun _ _ h => SMap.wf_set h _ _) l w

theorem Dev.spadWrite_wf {d : Dev} (w : d.mem.wf = true) (p o : Nat) (bs : List MByte) : (d.spadWrite p o bs).mem.wf = true := by
  unfold Dev.spadWrite
  generalize d.spadSize = n
  refine MemSt.wf_withSpad w ?_ ?_
  · exact SMap.wf_setAll _ _ _ (MemSt.wf_iff.1 w).2.1
  · exact SMap.wf_setAll _ (fun m g => granulePoison (SMap.get noPoison m _) g o _) _ (MemSt.wf_iff.1 w).2.2.2.2.1

theorem Dev.hopWrite_wf {d : Dev} (w : d.mem.wf = true) (p o : Nat) (bs : List MByte) : (d.hopWrite p o bs).mem.wf = true := by
  unfold Dev.hopWrite
  generalize d.hopSize = n
  refine MemSt.wf_withHop w ?_ ?_
  · exact SMap.wf_setAll _ _ _ (MemSt.wf_iff.1 w).2.2.1
  · exact SMap.wf_setAll _ (fun m g => granulePoison (SMap.get noPoison m _) g o _) _ (MemSt.wf_iff.1 w).2.2.2.2.2

theorem Dev.flipData_wf {d : Dev} (w : d.mem.wf = true) (k h : Nat) (res : Rs.Pattern) : (d.flipData k h res).mem.wf = true := by
  unfold Dev.flipData
  exact MemSt.wf_withHbm w (SMap.wf_setAll _ (fun m (x : Nat × Nat) => SMap.get zeroByte m _ ^^^ BitVec.ofNat 8 x.2) _ (MemSt.wf_iff.1 w).1)

@[simp] theorem Dev.showHealthy_mem (d : Dev) (k : Nat) : (d.showHealthy k).mem = d.mem := by
  unfold Dev.showHealthy
  dsimp only
  split <;> simp

theorem Dev.failChannel_wf {d : Dev} (w : d.mem.wf = true) (ch : Nat) : (d.failChannel ch).mem.wf = true := by
  unfold Dev.failChannel
  dsimp only
  split
  · exact w
  · rw [Dev.showHealthy_mem]
    rw [MemSt.wf_iff] at w ⊢
    simpa using w

theorem Dev.setDramPoison_wf {d : Dev} (w : d.mem.wf = true) (k h : Nat) (v : Bool) : (d.setDramPoison k h v).mem.wf = true := by
  unfold Dev.setDramPoison
  split
  · exact Dev.failChannel_wf w _
  · rw [Dev.wf_mem]
    exact MemSt.wf_withDramPoison w (SMap.wf_set (MemSt.wf_iff.1 w).2.2.2.1 _ _)

theorem Dev.wbHalf_wf {d : Dev} (w : d.mem.wf = true) (k h mask data poison : Nat) : (d.wbHalf k h mask data poison).mem.wf = true := by
  unfold Dev.wbHalf
  dsimp only
  by_cases hc : halfMask mask h = 0 ∧ bitAt poison h = false
  · rw [if_pos hc]; exact w
  · rw [if_neg hc]
    generalize hb : (List.foldl _ d.mem.hbm _) = hbm
    have hw : ({ d with mem := { d.mem with hbm := hbm } } : Dev).mem.wf = true := by
      refine MemSt.wf_withHbm w ?_
      rw [← hb]
      refine SMap.wf_foldl _ (fun m x hm => ?_) _ (MemSt.wf_iff.1 w).1
      split
      · exact SMap.wf_set hm _ _
      · exact hm
    generalize ({ d with mem := { d.mem with hbm := hbm } } : Dev) = e at hw ⊢
    generalize hf : Dev.bwCount _ _ _ _ = f
    have he : f.mem.wf = true := by
      rw [← hf]
      by_cases hm : decide (halfMask mask h = 2 ^ 64 - 1) = true
      · rw [if_pos hm]; simpa using hw
      · rw [if_neg hm]; simpa using hw
    split
    · exact Dev.setDramPoison_wf he _ _ _
    · split
      · exact Dev.setDramPoison_wf he _ _ _
      · exact he

/-- A write-back's halves in DRAM. -/
theorem Dev.wbToDram_wf {d : Dev} (w : d.mem.wf = true) (k : Nat) (x : WriteBack) : (d.wbToDram k x).mem.wf = true :=
  Dev.wbHalf_wf (Dev.wbHalf_wf w _ _ _ _ _) _ _ _ _ _

theorem MemSt.wf_cleared {m : MemSt} (w : m.wf = true) (a b c e : Nat → Bool) (tlb : List TlbEntry) (roots csas : List Nat) :
    ({ m with tlb := tlb, spad := SMap.clearIf a m.spad, spadPoison := SMap.clearIf b m.spadPoison, hop := SMap.clearIf c m.hop,
              hopPoison := SMap.clearIf e m.hopPoison, rootInForce := roots, csaInForce := csas } : MemSt).wf = true := by
  rw [MemSt.wf_iff] at w ⊢
  exact ⟨w.1, SMap.wf_clearIf w.2.1 _, SMap.wf_clearIf w.2.2.1 _, w.2.2.2.1, SMap.wf_clearIf w.2.2.2.2.1 _, SMap.wf_clearIf w.2.2.2.2.2 _⟩

/-- The zeros of a partition reset. -/
theorem Dev.clearShare_wf {d : Dev} (w : d.mem.wf = true) (p : Nat) : (d.clearShare p).mem.wf = true := by
  unfold Dev.clearShare
  dsimp only
  rw [foldl_keep Dev.mem _ (fun _ _ => Dev.wf_mem _ _ _)]
  split <;> exact MemSt.wf_cleared w _ _ _ _ _ _ _

end Sys2Proof.Machine
end

