-- ==== Sys2Proof/Laws/Spool.lean ====
section
/-!
SUPPORT. Laws/Spool.lean: how an instruction issues, said once: what `Dev.issue` does with the instruction that a skein executes next.
-/
namespace Sys2Proof.Machine

/-- What `nextIns` answers, taken apart. -/
theorem Dev.nextIns_some {d d' : Dev} {k : Nat} {sk : Skein} {i : SIns} (h : d.nextIns k = some (sk, i, d')) :
    d.skein k = some sk ∧ d.mayIssue sk = true ∧ sk.pending i = false ∧ ∃ w, d.fetchIns k sk = (d', .word w) ∧ decodeSpool w = some i := by
  unfold Dev.nextIns at h
  split at h
  · cases h
  · rename_i s hs
    split at h
    · cases h
    · rename_i hm
      split at h
      · rename_i d1 w hf
        cases hd : decodeSpool w with
        | none => simp [hd] at h
        | some j =>
          simp only [hd, Option.bind_some] at h
          split at h
          · cases h
          · rename_i hp
            simp only [Option.some.injEq, Prod.mk.injEq] at h
            obtain ⟨rfl, rfl, rfl⟩ := h
            exact ⟨hs, by simpa using hm, by simpa using hp, w, hf, hd⟩
      · cases h

/-- The next instruction issues when its opcode is asked for and its meaning does not stall. -/
theorem Dev.issue_of_nextIns {d d' e : Dev} {k op : Nat} {sk : Skein} {i : SIns} {run : Dev → Skein → SIns → Option Dev}
    (h : d.nextIns k = some (sk, i, d')) (ho : i.op = op) (hr : run d' sk i = some e) : d.issue k op run = e.counted k sk (some i) := by
  obtain ⟨hs, hm, hp, w, hf, hd⟩ := Dev.nextIns_some h
  simp [Dev.issue, hs, hm, hf, hd, ho, hp, hr]

/-- A stall, or a command for another opcode, leaves the module as it is. -/
theorem Dev.issue_stall {d d' : Dev} {k op : Nat} {sk : Skein} {i : SIns} {run : Dev → Skein → SIns → Option Dev}
    (h : d.nextIns k = some (sk, i, d')) (hr : i.op ≠ op ∨ run d' sk i = none) : d.issue k op run = d := by
  obtain ⟨hs, hm, hp, w, hf, hd⟩ := Dev.nextIns_some h
  by_cases ho : i.op = op
  · rcases hr with hr | hr
    · exact absurd ho hr
    · simp [Dev.issue, hs, hm, hf, hd, ho, hp, hr]
  · simp [Dev.issue, hs, hm, hf, hd, ho]

/-- A command of a running module is its effect, followed by fencing. -/
theorem onDev_running {f : Dev → Dev} {s : State} (h : s.running = true) : onDev f s = .next (s.after (f s.dev)) := by
  simp [onDev, h, State.act, State.after]

/-- A command of a module that does not run changes nothing. -/
theorem onDev_stopped {f : Dev → Dev} {s : State} (h : s.running = false) : onDev f s = .next s := by simp [onDev, h]

theorem onMiller_runs {f : Dev → Dev} {s : State} (h : s.miller = true) : onMiller f s = .next (s.after (f s.dev)) := by
  simp [onMiller, h, State.act, State.after]

theorem onI3c_runs {f : Dev → Dev} {s : State} (h : s.board.power = true ∧ s.board.resetN = true) :
    onI3c f s = .next (s.after (f s.dev)) := by
  simp [onI3c, h.1, h.2, State.act, State.after]

/-- Fencing at the end of a command leaves no channel to fence. -/
@[simp] theorem Dev.fenceAll_due (d : Dev) : d.fenceAll.mem.fenceDue = [] := rfl

/-- With no channel to fence nothing changes. -/
theorem Dev.fenceAll_of_nil {d : Dev} (h : d.mem.fenceDue = []) : d.fenceAll = d := by
  simp only [Dev.fenceAll, h, List.foldl_nil]
  cases d with
  | mk time regs staged out fresh ctl mem err pmu fab col cpl stn prs spl tst srv boot cfg pwr flash => cases mem; simp_all

end Sys2Proof.Machine
end

