-- ==== Sys2Proof/Tests/Slice0.lean ====
section
/-!
SUPPORT. Tests/Slice0.lean: the checks of operands refuse what they must; words written out from the manual's encodings; and for each statement
with hypotheses a concrete state and operands that meet them together.
-/
set_option Elab.async false

namespace Sys2Proof.Tests

open Sys2Proof Sys2Proof.Machine

/-! ### Operands -/

def flit0 : Flit := List.replicate 256 0

/-- A packet of a port's partner that addresses coordinate 0. -/
def pkt (kind : Nat) : Packet := { kind := kind }

/-- Commands with one operand out of its range each. -/
theorem test_illformed_refused :
    ([Instr.doorbell 4 0 0 0 false, .doorbell 0 64 0 0 false, .doorbell 0 0 4 0 false, .doorbell 0 0 0 (2 ^ 64) false, .deferredEntry 4,
   .descriptorFetch 4 0 (Desc.ofWords (fun _ => 0)) false, .descriptorFetch 0 64 (Desc.ofWords (fun _ => 0)) false, .bundleDispatch 4 0,
   .bundleDispatch 0 256, .gateWord 0 (2 ^ 64) false, .translationFault (.skein 256 0 0) 0 0 .read, .translationFault (.skein 0 16 0) 0 0 .read,
   .translationFault (.unit 0) 0 0 .read, .translationFault (.item 0) (2 ^ 52) 0 .read, .translationFault (.item 0) 0 3 .read,
   .faultAnswer 4 0 0, .faultAnswer 0 0 (2 ^ 64), .faultTimeout 4 0, .barrierStall 4096, .iadd 4096, .atom 0 16 0, .atom 0 0 8, .red 4096 0 0]
  ++ [Instr.sliceRead 0 0 256 0 0 1 0, .sliceRead 0 0 0 (2 ^ 24) 0 1 0, .sliceRead 0 0 0 0 0 0 0, .sliceRead 0 0 0 0 1 128 0, .sliceRead 0 0 0 0 0 1 4,
   .sliceWrite 0 0 0 0 0 [] 0, .sliceReduction 0 0 0 0 [{ off := 128, op := .add, ty := .i32, val := 0 }] 0, .rangeRequest 0 256 .flush 0 0 0,
   .lineFill 0 0 [{ chan := 32, half := 0, errs := [] }] false, .lineFill 0 0 [{ half := 2, errs := [] }] false,
   .lineFill 0 0 [{ half := 0, errs := [(72, 1)] }] false, .lineFill 0 0 [{ half := 0, errs := [(0, 256)] }] false, .writeBackDone 256 0, .scrub 8 [],
   .refresh 256 0, .refresh 0 256, .hbmRetrain 256 0, .hbmRetrainDone 256 true, .refetch 0 (2 ^ 24), .flitReceived 7 flit0, .flitReceived 0 [],
   .nakResend 7, .laneRetrain 0 32, .laneRetrainDone 7 0 true, .linkTrainingDone 0 16 true]
  ++ [Instr.turnSymbol 6 0 false (pkt 0xD), .delayRequest 6 0 0 (pkt 0xE), .wload 0 { kind := 16 }, .wload 0 { kind := 1, dst := 2 ^ 18 },
   .wstore 0 { kind := 2, len := 8 }, .windowTimeout 6 0, .windowTimeout 0 1024, .cplRd { op := 256 }, .cplWr { op := 3, len := 64 },
   .cplRequestTimeout 4096, .pollLine (2 ^ 46), .i3cLimit (2 ^ 32), .i3cEntdaa 128, .cfgStage { op := 0x42 } [0] false, .configStoreCheck 3,
   .errorRingCopy (2 ^ 64) false, .scanSlotResult (2 ^ 32), .partitionResetDone 4 {}, .servingStep 4, .hbmTrainingDone 8 true 0 [],
   .hbmTrainingDone 0 true (2 ^ 32) [], .trip 0 0, .trip 1 0, .trip 32 0, .trip 2 256]
    ).all (fun c => !c.wellFormed) = true := by decide +kernel

/-- The same commands with the operand at its bound. -/
theorem test_wellformed_accepted :
    [Instr.doorbell 3 63 3 (2 ^ 64 - 1) false, .bundleDispatch 3 255, .translationFault (.skein 255 15 0) (2 ^ 52 - 1) 2 .read, .barrierStall 4095, .atom 0 15 7,
      .sliceRead 0 0 255 (2 ^ 24 - 1) 127 1 3, .flitReceived 6 flit0, .laneRetrain 6 31, .linkTrainingDone 0 15 true, .windowTimeout 5 1023,
      .wstore 5 { kind := 2, dst := 2 ^ 18 - 1, len := 8, payload := List.replicate 8 0 }, .cplRd { op := 1, tag := 4095, addr := 2 ^ 52 - 1 },
      .i3cLimit (2 ^ 32 - 1), .trip 30 255, .hbmTrainingDone 7 true (2 ^ 32 - 1) []].all (·.wellFormed) = true := by decide +kernel

/-! ### Spool instruction words (R274 to R277) -/

/-- One word of each format, put together from R274's table: FR `fma.f32 v10, v1, v2, v3` under not p2; FI `movi v9, 0x12345678`; FM `lds` of 8
bytes at s6 − 8 to s12; FA `cas` of 4 bytes at s2 + 4 × v7 − 1, v4 against v3, to v1; FC `brk p3` and `fence` of kind 2 at partition scope. -/
theorem test_words_of_each_format :
    decodeSpool 0x00000400C204AA23 = some { op := 0x23, pg := 2, pn := true, d := 10, a := 1, b := 2, c := 3, typ := 4 }
      ∧ decodeSpool 0x1234567800009011 = some { op := 0x11, d := 9, imm := 0x12345678 }
      ∧ decodeSpool 0xFFFFC1800600C052 = some { op := 0x52, d := 12, sb := 6, size := 3, off := 0x1FFFF8 }
      ∧ decodeSpool 0xFF881900621C1055 = some { op := 0x55, d := 1, a := 7, sb := 2, amode := 3, size := 2, b := 3, c := 4, off := 0x1FF }
      ∧ decodeSpool 0x375 = some { op := 0x75, pg := 3 } ∧ decodeSpool 0x880000078 = some { op := 0x78, sub := 2, scope := 2 } := by decide +kernel

/-- Reserved encodings: an opcode outside the table, a reserved bit of each format, a TYPE, SUB, SIZE, SCOPE or register pair that is not allowed, a
guard on a scalar instruction. -/
theorem test_reserved_words :
    [0x19, 0x82, 0x0001000002043101, 0x0000000081009011, 0x00000000010000FF, 0x0000002000000078, 0x0000040002043101, 0x0000001002043101,
      0x0000028000007050, 0x0000001400000078, 0x0000020002043101, 0x0000000002043160].map decodeSpool
      = [none, none, none, none, none, none, none, none, none, none, none, none] := by decide +kernel

theorem witness_SpoolDecodeOfEncode : ({ op := 0x23, pg := 7, pn := true, d := 62, a := 62, b := 62, c := 62, typ := 5 } : SIns).wellFormed = true := by
  decide +kernel

/-! ### A skein that runs -/

/-- Memory of partition 0 at a device-physical address. -/
def poke (d : Dev) (a n v : Nat) : Dev :=
  match d.channelOf (.part 0) a with
  | some (ch, off) =>
    { d with mem := { d.mem with hbm := SMap.setRange zeroByte d.mem.hbm (keyHbm (lineKey ch (off / 128)) + off % 128) (leBytes n v) } }
  | none => d

/-- The line of an address is Clean in the Granary. -/
def present (d : Dev) (a : Nat) : Dev :=
  match d.channelOf (.part 0) a with
  | some (ch, off) => d.setLine (lineKey ch (off / 128)) (some { st := .clean })
  | none => d

/-- Partition 0 on channel 0, with virtual addresses 0 to 2^30 − 1 mapped to the same device-physical ones, writable (R388, R389). -/
def mapped : Dev := poke (poke { mem := { MemSt.reset with chanLists := [[0], [], [], []] } } 0 8 0x1001) 4096 8 0x7

def item0 (op : Nat) : Item :=
  { id := 1, part := 0, ring := 0, seq := 0, desc := Desc.ofWords (fun k => if k = 0 then op else 0), place := .running }

def skein0 : Skein := { launch := 1, part := 0, bundle := 0, index := 0, vregs := 64, pc := 0x2000 }

/-- A launch with one bundle of one skein on Spool 0, at the word `w`. -/
def spooled (w : Nat) (sk : Skein := skein0) (it : Item := item0 0x30) : State :=
  let d := present (poke mapped 0x2000 8 w) 0x2000
  { State.reset with dev := ({ d with ctl := { d.ctl with items := [it] },
                                      spl := { d.spl with bundles := [{ launch := 1, ordinal := 0, spool := some 0 }] } } : Dev).setSkein 0 (some sk) }

/-- Skein `sk` executes `i` next where memory holds the word of `i`. -/
def runs (i : SIns) (sk : Skein := skein0) (it : Item := item0 0x30) : Bool :=
  decide (((spooled (encodeSpool i) sk it).dev.nextIns 0).map (fun x => (x.1, x.2.1)) = some (sk, i)) && (spooled (encodeSpool i) sk it).running

theorem runs_executes {i : SIns} {sk : Skein} {it : Item} (h : runs i sk it = true) :
    ∃ d, (spooled (encodeSpool i) sk it).executes 0 sk i d := by
  unfold runs at h
  rw [Bool.and_eq_true, decide_eq_true_eq, Option.map_eq_some_iff] at h
  obtain ⟨⟨⟨a, b, d⟩, h1, h2⟩, h3⟩ := h
  obtain ⟨rfl, rfl⟩ := Prod.mk.inj h2
  exact ⟨d, h3, by decide, h1⟩

/-! ### Spool instructions: hypotheses that are met -/

/-- One instruction of each opcode of IntegerInstructions, FloatInstructions, PredicateInstructions and ScalarInstructions runs on one skein. -/
theorem witness_IntegerInstructions :
    [0x01, 0x02, 0x03, 0x04, 0x05, 0x06, 0x07, 0x08, 0x09, 0x0A, 0x0B, 0x0C, 0x0D, 0x0E, 0x0F].all
      (fun op => runs { op := op, d := 3, a := 1, b := 2 } && runs { op := op, d := 62, a := 2, b := 4, typ := 2, pg := 7, pn := true }) = true := by
  decide +kernel

theorem witness_LaneMoves :
    [{ op := 0x10, d := 63, a := 1 }, { op := 0x11, d := 63, imm := 2 ^ 32 - 1 }, { op := 0x12, d := 2, a := 4, typ := 2, imm := 2 ^ 31 },
      { op := 0x13, d := 2, a := 4, b := 6, c := 7, typ := 5 }, { op := 0x15, d := 1, a := 2, b := 3, sub := 3 }, { op := 0x18, d := 2, a := 31, typ := 2 }].all
      (fun i => runs i) = true := by decide +kernel

theorem witness_FloatInstructions :
    [0x20, 0x21, 0x22, 0x23, 0x24, 0x25, 0x26, 0x27, 0x2A, 0x40, 0x41].all (fun op => runs { op := op, d := 2, a := 4, b := 6, typ := 5 }) = true
      ∧ [0x42, 0x43, 0x44, 0x45, 0x46].all (fun op => runs { op := op, d := 3, a := 5, typ := 4 }) = true
      ∧ [0x2B, 0x2C, 0x2D].all (fun op => runs { op := op, d := 3, a := 5, b := 1, typ := 7 } && runs { op := op, d := 3, a := 5, b := 1, typ := 6 }) = true := by
  decide +kernel

/-- `cvt` from FP64 to each destination, with all lanes, and with no lane in effect. -/
theorem witness_ConversionInstruction :
    [0, 1, 2, 3, 4, 5, 6, 7, 8, 9, 10].all (fun n => runs { op := 0x29, d := 2, a := 4, sub := n, fmt := 5 }
      && runs { op := 0x29, d := 2, a := 4, sub := n, fmt := 5, pn := true }) = true := by decide +kernel

theorem witness_PredicateInstructions :
    [0, 1, 2, 3, 4, 5].all (fun n => runs { op := 0x14, d := 7, a := 2, b := 4, sub := n, typ := 3 } && runs { op := 0x6B, d := 0, a := 31, b := 1, sub := n, typ := 2 }) = true
      ∧ [0, 1, 2, 3, 4, 5, 6, 7].all (fun n => runs { op := 0x28, d := 1, a := 2, b := 4, sub := n, typ := 5 }) = true
      ∧ [0x6C, 0x6D, 0x6E, 0x6F].all (fun op => runs { op := op, d := 1, a := 0, b := 7 }) = true ∧ runs { op := 0x16, d := 31, a := 7 } = true := by decide +kernel

theorem witness_ScalarInstructions :
    [0x60, 0x61, 0x62, 0x63, 0x64, 0x65].all (fun op => runs { op := op, d := 31, a := 1, b := 2 }) = true
      ∧ [0x66, 0x67].all (fun op => runs { op := op, d := 31, a := 1, b := 2, typ := 2 } && runs { op := op, d := 31, a := 1, b := 2, typ := 3 }) = true
      ∧ [0x68, 0x69, 0x6A].all (fun op => runs { op := op, d := 31, imm := 2 ^ 32 - 1 }) = true ∧ runs { op := 0x17, d := 0, a := 62, typ := 2, pg := 1 } = true := by
  decide +kernel

/-- A skein with `n` entries on its divergence stack. -/
def stacked (n : Nat) : Skein := { skein0 with stack := List.replicate n { outer := 2 ^ 32 - 1, els := 1, taken := false, elsePc := 0x2040 } }

/-- Each control instruction, forward and back; `fork` with 15 entries, `seam` with one whose other arm is open, with one whose is done, and with none;
every predicate is clean and every mask of 32 bits. -/
theorem witness_ControlFlow :
    [0x00, 0x70, 0x71, 0x72, 0x75].all (fun op => runs (if op = 0 then { op := 0 } else { op := op, off := if op = 0x75 then 0 else 2 ^ 24 - 1, pg := if op = 0x70 then 0 else 1 })) = true
      ∧ runs { op := 0x73, pg := 1, pn := true, off := 8 } (stacked 15) = true ∧ runs { op := 0x74 } (stacked 1) = true
      ∧ runs { op := 0x74 } { skein0 with stack := [{ outer := 3, els := 1, taken := true, elsePc := 0 }] } = true ∧ runs { op := 0x74 } = true
      ∧ skein0.active < 2 ^ 32 ∧ (skein0.pget 1).2 &&& skein0.active = 0 ∧ (stacked 15).stack.length < 16 := by decide +kernel

/-- A reserved word is fetched. -/
theorem witness_ReservedEncodingIsNoop :
    let s := spooled 0x19
    s.running = true ∧ s.dev.skein 0 = some skein0 ∧ s.dev.mayIssue skein0 = true ∧ (s.dev.fetchIns 0 skein0).2 = .word 0x19 ∧ decodeSpool 0x19 = none := by
  decide +kernel

/-- Commands that wait: no skein; a skein at the barrier; another instruction next; a register with a result pending. -/
theorem witness_SpoolCommandsThatWait :
    State.reset.running = true ∧ State.reset.dev.skein 0 = none
      ∧ (spooled (encodeSpool { op := 0x01 }) { skein0 with atBar := true }).dev.mayIssue { skein0 with atBar := true } = false
      ∧ ((spooled (encodeSpool { op := 0x01 })).dev.fetchIns 0 skein0).2 = .word (encodeSpool { op := 0x01 })
      ∧ decodeSpool (encodeSpool { op := 0x01 }) = some { op := 0x01 }
      ∧ ({ skein0 with reqs := [{ id := 0, kind := .ld, ins := { op := 0x50, d := 1, size := 2 }, pc := 0, lanes := [(0, 0)], parts := [{ line := 0 }] }] } : Skein).pending
          { op := 0x01, a := 1 } = true := by decide +kernel

/-- Requests of a skein: a store to partition memory and one through a window. -/
def storing (a : Nat) : Skein :=
  { skein0 with reqs := [{ id := 0, kind := .st, ins := { op := 0x51, d := 1, size := 2 }, pc := 0, lanes := [(0, a)],
                           bytes := (List.range 4).map (fun j => (0, a + j, { b := 1 })), parts := [{ line := a / 128 }] }], nextReq := 1 }

/-- Each command of SkeinRegisters; `fence` of kind acquire at each end of the scopes, of kind release with a store that may still be on its way at
Spool scope and may not at partition scope. -/
theorem witness_SkeinRegisters :
    [0x79, 0x7A].all (fun op => runs { op := op }) = true ∧ [0x7E, 0x80, 0x81].all (fun op => runs { op := op, d := 31 }) = true
      ∧ runs { op := 0x7F, a := 31 } = true ∧ [0, 1, 2, 3, 4].all (fun n => runs { op := 0x78, sub := 1, scope := n }) = true
      ∧ runs { op := 0x78, sub := 2, scope := 1 } (storing 0x3000) = true ∧ (storing 0x3000).released 1 = true
      ∧ runs { op := 0x78, sub := 0, scope := 2 } (storing 0x3000) = true ∧ (storing 0x3000).released 2 = false := by decide +kernel

/-- `exit` of some threads, of all, and of a skein's last; `bar` with no thread, as the last to arrive and as the first of two skeins; a barrier at
both sides of its limit. -/
theorem witness_ExitAndBarrier :
    (∀ i : SIns, i ∈ [{ op := 0x76 }, { op := 0x77 }] → runs i { skein0 with active := 1 } = true ∧ runs i = true ∧ runs i { skein0 with active := 0 } = true)
      ∧ ((spooled 0).dev.bundle 1 0).isSome = true ∧ ((spooled 0).dev.bundle 1 0).all (fun b => b.barTurns.isNone) = true ∧ (spooled 0).dev.item 1 = some (item0 0x30)
      ∧ [0, 1, 2, 3].all (fun n =>
          let s := spooled 0 { skein0 with atBar := true }
          let d : Dev := { s.dev with spl := { s.dev.spl with bundles := [{ launch := 1, ordinal := 0, spool := some 0, barTurns := some n }] } }
          ({ s with dev := d } : State).running && (d.bundle 1 0).any (fun b => b.barTurns == some n) && (d.item 1).any (fun it => it.early.isNone)) = true := by
  decide +kernel

/-- Scalars 8 to 15 hold a MATMUL descriptor without extension block: INT8 bed and runner, INT32 output, M = K = N = 1, every operand in the scratchpad. -/
def issuing (w7 : Nat) (op : Nat) : Skein :=
  let c : Nat → Nat := fun j => [0x10, 1 + 2 ^ 32 + 2 ^ 45, 6 + 6 * 32 + 17 * 1024, 2 * 2 ^ 48, 2 * 2 ^ 48, 2 * 2 ^ 48, 0, w7].getD j 0
  let s := (List.range 8).foldl (fun (s : Skein) j => s.sset (8 + j) (c j) false) skein0
  if op = 0x7B then { s with region := s.active, regionOpen := true } else s

/-- A check of a descriptor passes. -/
def Check.passes : Check → Bool
  | .pass => true
  | _ => false

/-- `stn.issue` with the active mask that of the region and `stn.issue.lead`, their header right and their words accepted; the same with a wrong
word 7; `stn.issue.lead` without threads; `stn.wait` for a completed ticket, an unknown one and one still at work. -/
theorem witness_MatrixIssue :
    (∀ op, op ∈ [0x7B, 0x7C] →
      let i : SIns := { op := op, d := 31, a := 8 }
      (∀ w, w ∈ [2 ^ 64 - 1 - 0x10, 0] → runs i (issuing w op) = true ∧ issueHeader (issuing w op) 8 = decide (w ≠ 0) ∧ (issuing w op).released 2 = true
        ∧ (List.range 8).all (fun j => !((issuing w op).sget (8 + j)).2) = true ∧ (issuing w op).active = 2 ^ 32 - 1)
      ∧ (spooled (encodeSpool i) (issuing 0 op)).dev.stnOccupied 0 < 64 ∧ (spooled (encodeSpool i) (issuing 0 op)).dev.stnClosed 0 = false
      ∧ Check.passes ((spooled (encodeSpool i) (issuing 0 op)).dev.stnCheck 0 (skeinWaiter 0 fetchReq) (issueDesc (issuing (2 ^ 64 - 1 - 0x10) op) 8 false)).2.1 = true)
      ∧ (issuing 0 0x7B).regionOpen = true ∧ (issuing 0 0x7B).region = (issuing 0 0x7B).active
      ∧ runs { op := 0x7C, d := 1, a := 8 } { skein0 with active := 0 } = true
      ∧ (∀ done : Option TicketDone, done ∈ [none, some { status := 0x50, sat := true }] →
          runs { op := 0x7D, d := 1, a := 2 } { skein0 with tickets := [{ num := 0, lane := 0, done := done }], nextTicket := 1 } = true)
      ∧ runs { op := 0x7D, d := 1, a := 2 } = true ∧ skein0.sget 2 = (0, false) := by decide +kernel

/-- A skein whose vector register 1, scalars 2 and 8 and predicate 1 carry poison. -/
def poisoned : Skein := { ((skein0.vset 1 0 0 true).sset 2 0 true).sset 8 0 true with preg := [(1, 2 ^ 32 * (2 ^ 32 - 1))] }

/-- Every precise fault has its case: a poisoned condition, address, range, descriptor word and ticket, a full stack, no region; and the same with
an earlier request outstanding. -/
theorem witness_PreciseFaults :
    [0x71, 0x72, 0x73, 0x75].all (fun op => runs { op := op, pg := 1 } poisoned) = true ∧ (poisoned.pget 1).2 &&& poisoned.active ≠ 0
      ∧ runs { op := 0x73 } (stacked 16) = true ∧ (stacked 16).stack.length = 16
      ∧ runs { op := 0x71, pg := 1 } { poisoned with reqs := (storing 0).reqs, nextReq := 1 } = true ∧ (storing 0).reqs ≠ []
      ∧ [0x50, 0x51].all (fun op => runs { op := op, d := 4, a := 1, amode := 1, size := 2 } poisoned) = true
      ∧ [0x54, 0x55].all (fun op => runs { op := op, d := 4, a := 1, b := 3, amode := 1, size := 2 } poisoned) = true
      ∧ runs { op := 0x56, a := 1, b := 3, amode := 1, size := 2 } poisoned = true ∧ atomPermitted 0 0 2 = true
      ∧ (poisoned.laneAddr { op := 0x50, a := 1, amode := 1, size := 2 } 0).2 = true
      ∧ [0x52, 0x53].all (fun op => runs { op := op, d := 4, sb := 2, size := 2 } poisoned) = true ∧ (poisoned.laneAddr { op := 0x52, sb := 2, size := 2 } 0).2 = true
      ∧ [0x57, 0x58, 0x59, 0x5A, 0x5B, 0x5C].all (fun op => runs { op := op, a := 2 } poisoned) = true ∧ (poisoned.sget 2).2 = true
      ∧ runs { op := 0x7B, a := 8 } poisoned = true ∧ poisoned.regionOpen = false ∧ runs { op := 0x7C, a := 8 } poisoned = true ∧ runs { op := 0x7D, a := 2 } poisoned = true
      ∧ runs { op := 0x7B, a := 8 } { poisoned with region := 2 ^ 32 - 1, regionOpen := true } = true := by decide +kernel

/-- Each memory instruction with every lane at its own address 4 lane + 0x3000, with the last bytes of the address space, with no lane, in the
scratchpad at its last byte and beyond it; the slots are free, no acquire is outstanding. -/
theorem witness_MemoryIssue :
    let sk : Skein := (List.range 32).foldl (fun (s : Skein) l => s.vset 1 l (4 * l) false) (skein0.sset 2 0x3000 false)
    [0x50, 0x51].all (fun op => runs { op := op, d := 4, a := 1, sb := 2, amode := 1, size := 4 } sk && runs { op := op, d := 4, size := 2, off := 2 ^ 21 - 4 }
        && runs { op := op, d := 4, size := 2, pn := true } && runs { op := op, d := 4, a := 1, sb := 2, amode := 1, size := 0, sp := true } sk) = true
      ∧ [0x52, 0x53].all (fun op => runs { op := op, d := 4, sb := 2, size := 4 } sk && runs { op := op, d := 4, sb := 2, size := 3 } { sk with active := 0 }) = true
      ∧ runs { op := 0x55, d := 4, a := 1, b := 6, c := 8, sb := 2, amode := 1, size := 3 } sk = true
      ∧ runs { op := 0x54, d := 4, a := 1, b := 6, sb := 2, amode := 1, size := 2 } sk = true ∧ runs { op := 0x56, a := 1, b := 6, sb := 2, amode := 1, size := 1 } sk = true
      ∧ runs { op := 0x56, a := 1, b := 6, size := 1, pn := true } sk = true ∧ atomPermitted 6 2 3 = true ∧ atomPermitted 7 0 2 = false ∧ atomPermitted 0 0 1 = false
      ∧ sk.memReady { op := 0x50 } = true ∧ (spooled 0 sk).dev.slotsFree 0 sk 48 = true
      ∧ ((List.range 32).any (fun l => (sk.laneAddr { op := 0x50, a := 1, sb := 2, amode := 1 } l).2 || sk.guardPoison { op := 0x50 } l)) = false := by decide +kernel

/-- Each range instruction on a length of 1, of 0, and of 2^64 − 1. -/
theorem witness_RangeIssue :
    [0x57, 0x58, 0x59, 0x5A, 0x5B, 0x5C].all (fun op => [1, 0, 2 ^ 64 - 1].all (fun n => runs { op := op, d := 4, a := 3, sb := 2 } ((skein0.sset 3 n false).sset 2 0x3000 false))) = true
      ∧ skein0.active ≠ 0 ∧ (skein0.sget 2).2 = false ∧ skein0.memReady { op := 0x57 } = true ∧ (spooled 0).dev.slotsFree 0 skein0 32 = true := by decide +kernel

/-- A load of one line and one of two, from memory and from the scratchpad, and a store to each, wait for their parts. -/
theorem witness_ReturnsAndAcknowledgements :
    let i (sp : Bool) : SIns := { op := 0x50, d := 1, size := 2, sp := sp }
    let q (sp : Bool) (parts : List SPart) : SReq := { id := 3, kind := .ld, ins := i sp, pc := 0, lanes := [(0, 0x2000)], parts := parts }
    let s (sp : Bool) (parts : List SPart) : State := spooled 0 { skein0 with reqs := [q sp parts], nextReq := 4 }
    let w (sp : Bool) : SReq := { q sp [{ line := 64 }] with kind := .st, bytes := [(0, 0x2000, { b := 7 })] }
    [(false, [{ line := 64 }]), (false, [{ line := 64 }, { line := 65 }]), (true, [({ line := 64 } : SPart)])].all (fun (sp, parts) =>
        (s sp parts).running && decide ((s sp parts).dev.skein 0 = some { skein0 with reqs := [q sp parts], nextReq := 4 })
          && ({ skein0 with reqs := [q sp parts] } : Skein).earlierDone (q sp parts)
          && match ((s sp parts).dev.loadPart 0 { skein0 with reqs := [q sp parts], nextReq := 4 } (q sp parts) { line := 64 }).2 with
            | .ok bs => decide (bs.length = if sp then 64 else 128)
            | _ => false) = true
      ∧ [false, true].all (fun sp => ({ skein0 with reqs := [w sp] } : Skein).earlierDone (w sp) && (w sp).ins.sp == sp) = true
      ∧ (match ((s false []).dev.translate 0 (64 * 128) .write) with
          | (d, .line key _ _) => (d.lineWrite (some 0) key 0 (((w false).lineBytes 64).map (fun e => (e.1 % 128, e.2)))).2
          | _ => false) = true := by decide +kernel

theorem witness_LoadedValue :
    let q : SReq := { id := 0, kind := .ld, ins := { op := 0x50, d := 60, size := 4 }, pc := 0, lanes := [(0, 0x2000), (31, 2 ^ 52 - 16)], parts := [] }
    q.kind = .ld ∧ q.ins.size ≤ 4 ∧ (31, 2 ^ 52 - 16) ∈ q.lanes ∧ (q.lanes.map (·.1)).Nodup ∧ (∀ e ∈ q.lanes, e.1 < 32) ∧ 3 < q.ins.dCount ∧ q.ins.d + 3 < skein0.vregs := by
  decide +kernel

/-! ### Queue, surroundings, launches, rings, services, faults -/

/-- The surroundings as each clause of the power statements wants them. -/
def board0 (power pwrOk resetN tripped : Bool) : State :=
  { State.reset with board := { power := power, pwrOk := pwrOk, resetN := resetN, tripped := tripped, straps := 0 } }

theorem witness_StepRunsFrontCommand : ({ State.reset with pending := [.logWrite, .holdover] } : State).pending = Instr.logWrite :: [.holdover] := rfl

theorem witness_IdleStepCountsOneNanosecond : State.reset.pending = [] ∧ State.reset.running = true ∧ (board0 false false false false).running = false := by decide

theorem witness_InvariantKeptByEveryStep :
    State.reset.inv = true ∧ (board0 true false true true).inv = true ∧ (board0 true true true true).inv = true ∧ (board0 false false false false).inv = true := by
  decide

theorem witness_Trips :
    (board0 true true true true).board.legal = true ∧ (board0 true true true true).board.tripped = true ∧ (Instr.lds 0).survivesTrip = false
      ∧ (Instr.iadd 0).movesPower = false ∧ bitsAt 2 1 4 ≠ 0 ∧ bitsAt 16 1 4 ≠ 0 ∧ Instr.logWrite ≠ .powerDown := by
  refine ⟨rfl, rfl, rfl, rfl, by decide, by decide, ?_⟩
  intro h; cases h

theorem witness_PowerAndReset :
    (board0 false false false false).board.power = false
      ∧ (let b := (board0 true true false false).board; b.power = true ∧ b.pwrOk = true ∧ b.resetN = false)
      ∧ (let b := (board0 true true true false).board; b.power = true ∧ b.pwrOk = true ∧ b.resetN = true ∧ b.tripped = false) := by decide

theorem witness_Sideband : State.reset.board.power = true ∧ State.reset.board.resetN = true ∧ State.reset.dev.mem.fenceDue = [] := by decide

/-- A launch of one bundle of 16 skeins that waits at the head of its queue, with and without an argument block. -/
def launch0 (place : Place) (arg : Nat) : Item :=
  { item0 0x30 with desc := Desc.ofWords (fun k => [0x30, 1 + 16 * 2 ^ 32 + 64 * 2 ^ 37, 0x2000, arg].getD k 0), place := place }

def launching (it : Item) (bundles : List Bundle) : State :=
  let d : Dev := present (poke mapped 0x2000 8 5) 0x2000
  { State.reset with dev := ({ d with ctl := { items := [it] }, spl := { bundles := bundles } } : Dev).setReg (F.SPL_HEALTH_SPOOLS 0).off 1 }

theorem witness_LaunchesAndBundles :
    ((launching (launch0 .queued 0) []).dev.launchNext 1).isSome = true ∧ launchNoop (launch0 .queued 0x2000).desc = false
      ∧ (match ((launching (launch0 .queued 0x2000) []).dev.vread 0 (.item 1) 0x2000 64).2 with | .ok bs => decide (bs.length = 64) | _ => false) = true
      ∧ (let s := launching { launch0 .running 0 with vals := List.replicate 8 0 } []
         s.running = true ∧ (s.dev.ctl.items.find? (fun x => !launchDispatched x)).any (fun it => it.dispatches && s.dev.spoolOpen 0 0 it.id (launchSkeins it.desc)) = true)
      ∧ (let b : Bundle := { launch := 1, ordinal := 0, spool := none, saved := [skein0] }
         let s := launching { launch0 .running 0 with vals := List.replicate 8 0, pos := (1, 0, 0) } [b]
         s.dev.spoolOpen 0 0 b.launch b.saved.length = true ∧ (s.dev.item 1).any (·.dispatches) = true)
      ∧ 0 < launchVregs (launch0 .queued 0).desc := by decide +kernel

theorem witness_CompletionRecord : (item0 0x30).part < 4 ∧ ({ item0 0x30 with ring := 63, part := 3 } : Item).ring < 64 := by decide

/-- Ring 63 of partition 3 is active, with four descriptors of which three are published. -/
def ringed (cls : Nat) (x : Ring) : State :=
  { State.reset with dev := (((({} : Dev).wb (F.QUE_RSTAT_ACTIVE 255) true).wf (F.QUE_RCTL_CLASS 255) cls).wf (F.QUE_RCTL_LOG2SIZE 255) 2).setRing 255 x }

/-- Words at both sides of each bound: a full ring, one more; a tail that falls back; a consumer count at and past the producer's. -/
theorem witness_RingWords :
    (ringed 0 {}).running = true ∧ (ringed 0 {}).dev.rb (F.QUE_RSTAT_ACTIVE 255) = true ∧ (ringed 0 {}).dev.rf (F.QUE_RCTL_LOG2SIZE 255) = 2
      ∧ [0, 4, 2 ^ 32 - 1].all (fun c => doorbellOk (doorbellWord c)) = true ∧ doorbellOk 0 = false
      ∧ ((ringed 0 { tail := 3, prod := 2, cons := 1, badDb := true, badCons := true }).dev.ring 255).badDb = true := by decide +kernel

/-- A NOP descriptor with its complement. -/
def desc0 (w : Nat) : Desc := Desc.ofWords (fun k => if k = 0 then w else if k = 7 then 2 ^ 64 - 1 - w else 0)

/-- The next descriptor passes, fails its header, fails its class, and cannot be read; one in the pool enters its queue. -/
theorem witness_DescriptorFetches :
    (let s := ringed 0 { tail := 1 }
     s.running = true ∧ (s.dev.ring 255).fetched.length < 32
      ∧ 0 < ((s.dev.ring 255).tail + 2 ^ 32 - s.dev.rf (F.QUE_RSTAT_HEAD 255)) % 2 ^ 32
      ∧ Check.passes (s.dev.checkDesc 3 255 (desc0 0) none).2.1 = true
      ∧ (desc0 0).w7 = ~~~(desc0 0).w0 ∧ (Desc.ofWords (fun _ => 0)).w7 ≠ ~~~(Desc.ofWords (fun _ => 0)).w0 ∧ classAccepts 0 (engineOf 0x40) = false
      ∧ (match (s.dev.checkDesc 3 255 (Desc.ofWords (fun _ => 0)) none).2.1 with | .fail => true | _ => false) = true)
      ∧ (let d : Dev := (({ mapped with ctl := { items := [{ item0 0x40 with place := .pool }] } } : Dev).wf F.PRT_STATUS_READY 15).wf (F.HBM_STATUS_HEALTHY 0) 16
         d.partAdmits 0 = true ∧ d.engineOpen 0 .sluice = true ∧ (d.ring 0).held = false ∧ engineOf 0x40 = .sluice) := by decide +kernel

/-- A stack table that cannot be read gives poison. -/
theorem witness_DescriptorFetches_poison :
    (match ((ringed 0 { tail := 1 }).dev.checkDesc 3 255 (Desc.ofWords (fun k => [0x10, 0, 6 + 6 * 32 + 17 * 1024, 0, 0, 0, 64, 2 ^ 64 - 1 - 0x10].getD k 0)) none).2.1 with
      | .poison _ => true | _ => false) = true := by decide +kernel

/-- Each service operation at the head of its ring, with and without work left. -/
theorem witness_ServiceOperations :
    [(0x60, 0), (0x60, 1), (0x60, 2 ^ 64 - 1), (0x61, 0), (0x62, 0), (0x63, 63), (0x64, 0)].all (fun (op, w) =>
      let it : Item := { item0 op with desc := Desc.ofWords (fun k => [op, w, w].getD k 0), place := .queued, aux := [2] }
      let d (rest : List Item) : Dev := { ctl := { items := it :: rest } }
      ((d []).serviceWork op 1 == some it) && ((d []).item 2).isNone && ((d [{ item0 0x40 with id := 2 }]).item 2).isSome
        && ((d [{ item0 0x40 with id := 2, place := .draining }]).serviceWork op 1).isSome && (d []).namedRing 0 (Desc.ofWords (fun _ => 0)) 0) = true := by decide +kernel

/-- A posted fault record, its answers, and both sides of its limit; an access that faults. -/
theorem witness_FaultRecords :
    (let r : FaultRec := { key := 0, id := 7, part := 0, cause := 0, engine := 6, unit := 0, access := 0, level := 3, va := 0, tag := 0, ring := 0, turn := 0, position := 0,
                           slot := 0, lanes := 0, time := 0, entry := 0, posted := true, bounds := 1, waiters := [.item 1] }
     let d : Dev := { mem := { MemSt.reset with faults := [r] } }
     (d.postedFault 0 7).isSome = true ∧ max 1 (d.rf F.MMU_CTRL_FAULT_TURNS) = max 1 (d.rf F.MMU_CTRL_FAULT_TURNS) ∧ d.rf F.MMU_CTRL_FAULT_TURNS ≠ 0
      ∧ [1, 2, 0, 3].all (fun a => let w := 7 + (2 ^ 16 - 1 - 7) * 2 ^ 16 + a * 2 ^ 32
          decide (w % 2 ^ 16 = 7) && decide (w / 2 ^ 16 % 2 ^ 16 = 2 ^ 16 - 1 - 7) && decide (w / 2 ^ 32 % 4 = a)) = true)
      ∧ (let d : Dev := { mapped with ctl := { items := [item0 0x40] } }
         (match (d.translate 0 (2 ^ 30) .read).2 with | .fault _ => true | _ => false) = true ∧ (item0 0x40).engine = .sluice) := by decide +kernel

theorem witness_RoundingAndFormats : (-149 : Int) ≤ -149 ∧ Fmt.fp16.decode 0x7BFF ≠ .nan ∧ 0x7BFF < 2 ^ Fmt.fp16.bits := by decide +kernel

/-- A row and a column without special values, one with an element and one empty. -/
theorem witness_ColumnSums :
    let e : Elem := { v := Fmt.bf16.decode 0x3F80, p := true }
    [e].length = [e].length ∧ e.v ≠ .nan ∧ e.v ≠ .inf false ∧ e.v ≠ .inf true ∧ ([e].filterMap (fun e => exponent? e.v)).max? = some (0 : Int) := by decide +kernel

/-! ### Engines -/

/-- A Stones operation on INT8 operands in the scratchpad: M, K, N; its bed in space `bed`. -/
def stones0 (op m k n : Nat) (bed : Nat := 2) : Item :=
  { item0 op with desc := Desc.ofWords (fun j => [op, m + k * 2 ^ 32 + n * 2 ^ 45, 6 + 6 * 32 + 17 * 1024, bed * 2 ^ 48, 4 + 2 * 2 ^ 48, 8 + 2 * 2 ^ 48].getD j 0) }

/-- SLICE64 with M = K = N = 1 and its workspace at 4096, in a stage and a phase. -/
def slice0 (aux : List Nat) : Item :=
  { item0 0x13 with desc := Desc.ofWords (fun j => [0x13, 1 + 2 ^ 32 + 2 ^ 45, 16 + 16 * 32 + 16 * 1024 + 4 * 2 ^ 38, 0, 0, 0, 64].getD j 0),
                    ext := [0, 0, 0, 0, 256 + 2 * 2 ^ 48], aux := aux }

/-- The item at work on an array of full width. -/
def stoned (it : Item) : Dev := ({ ctl := { items := [it] } } : Dev).wf F.STN_WIDTH_FUSED 2048

/-- A bed whose first row is written next, one complete, an operation that streams, one whose vector has issued, one with a vector in the pipeline,
a phase of SLICE64. -/
theorem witness_StonesWork :
    (let it := stones0 0x10 1 2 1
     let d := stoned it
     d.stnWork 1 = some it ∧ it.dressedBit = false ∧ d.stnNoop it = false ∧ d.stnActiveBed it = false ∧ d.stnHeld 0 = false
      ∧ ((sortBlks (d.fillSource it).blocks)[((d.sub 0).fillOf 1).done.length]?).any (fun b => decide (((d.sub 0).fillOf 1).rows.length < b.k) && decide (b.n ≠ 0)
          && match d.bedRow it (d.fillSource it).fmt b 0 with | (_, _, .ok row) => decide (row.length = 1) | _ => false) = true
      ∧ fillDone (d.fillSource it) ((d.sub 0).fillOf 1) = false ∧ d.earlierIssued it = true)
      ∧ (let it := stones0 0x10 1 0 0
         fillDone ((stoned it).fillSource it) { item := 1, done := [{ row0 := 0, k := 0, col0 := 0, n := 0, cols := [] }], rows := [] } = true)
      ∧ [0x10, 0x11, 0x12].all (fun op =>
          let it : Item := { stones0 op 1 1 1 with aux := [1] }
          let d := stoned it
          (d.stnWork 1 == some it) && d.earlierIssued it && !d.stnNoBed it && it.dressedBit && (op == 0x12 || !d.stnIssued it)
            && match issueBlks it.pos.1 ((d.stnBlks 0 it.desc it.ext).zipIdx.map (fun e => (e.2, e.1))) (d.setItem (d.stnStart it)) (d.stnStart it) with
              | (_, _, .ok sums) => decide (sums.length = if op = 0x12 then 0 else 1)
              | _ => false) = true
      ∧ (let it : Item := { stones0 0x10 1 1 1 with aux := [1], pos := (1, 0, 0) }
         let d := stoned it
         let f : Flight := { item := 1, vec := 0, sums := [(0, [{ acc := 5 }])] }
         d.stnIssued it = true ∧ (match epiBlks ((d.setItem (d.stnStart it)).stnBlks 0 it.desc it.ext) f.vec f.sums (d.setItem (d.stnStart it)) it with
          | (d', _, .ok _) => decide (d'.stn = d.stn) | _ => false) = true)
      ∧ (let it := slice0 [1, 3, 4]
         (stoned it).stnWork 1 = some it ∧ it.sliceStage = 3 ∧ it.dressedBit = true ∧ (stoned it).stnNoop it = false ∧ (stoned it).sliceM 0 it.desc it.ext = 1) := by
  decide +kernel

/-- The device with one item at work, over mapped memory. -/
def working (it : Item) : State :=
  { State.reset with dev := ({ mapped with ctl := { items := [it] } } : Dev).setReg (F.SCP_HSTREAM_ENABLE 0).off (1 + 2 * 2 ^ 4 + 2 ^ 16) }

/-- A descriptor of the words listed. -/
def ofList (ws : List Nat) : Desc := Desc.ofWords (fun k => ws.getD k 0)

theorem witness_TurnBoundary :
    State.reset.running = true ∧ State.reset.dev.rf F.SEC_STATUS_STAGE < 4 ∧ 4 ≤ ((({} : Dev).wf F.SEC_STATUS_STAGE 4).rf F.SEC_STATUS_STAGE) ∧ 15 ≤ 15 := by
  decide +kernel

/-- A port that runs and is UPSTREAM, and another; a disciplined module whose UPSTREAM is 0, 7, or has been silent for two boundaries; a master. -/
theorem witness_TurnSymbols :
    let d (m : Bool) (u n : Nat) : Dev :=
      let e := ((({} : Dev).wf (F.FAB_PORT_STAT_STATE 5) 3).wf F.TRN_CTRL_UPSTREAM u).wb F.TRN_CTRL_MASTER m
      { e with ctl := { e.ctl with sinceSymbol := n } }
    (pkt 0xD).kind = 0xD ∧ (d false 6 0).linkUp 5 = true ∧ ((d false 6 0).takePacket 5 (pkt 0xD)).upstream = some 5 ∧ ((d true 6 0).takePacket 5 (pkt 0xD)).upstream ≠ some 5
      ∧ ((d false 1 0).takePacket 5 (pkt 0xD)).upstream ≠ some 5 ∧ (d true 1 0).rb F.TRN_CTRL_MASTER = true
      ∧ [(0, 0), (7, 0), (1, 2)].all (fun (u, n) => !(d false u n).rb F.TRN_CTRL_MASTER && !(d false u n).rb F.TRN_STATUS_HOLDOVER
          && (decide ((d false u n).rf F.TRN_CTRL_UPSTREAM = u) && decide ((d false u n).ctl.sinceSymbol = n))) = true := by decide +kernel

/-- An item that runs; one drained for an overrun, that may resume; one drained for a pre-emption and one held; a launch without skeins. -/
theorem witness_ContextSave :
    (working (item0 0x40)).dev.item 1 = some (item0 0x40) ∧ (item0 0x40).place ≠ .draining
      ∧ [(0x40, SaveCause.overrun, false), (0x40, .preempt, false), (0x40, .overrun, true), (0x30, .overrun, false)].all (fun (op, c, h) =>
          let it : Item := { item0 op with place := .draining, cause := c, held := h }
          let d := (working it).dev
          d.item 1 == some it && it.engine != .stones && d.launchQuiet 1 && !d.winPending (.item 1)
            && ((d.saveItem it).item 1).any (fun x => (x.cause == .overrun && (d.saveItem it).resumable x) == (c == .overrun && !h))) = true := by decide +kernel

/-- A message of `n` packets sent and acknowledged. -/
def messaging (kind n : Nat) : State :=
  let s := working (item0 (0x70 + kind))
  { s with dev := { s.dev with fab := { s.dev.fab with msgs := [{ item := 1, kind := kind, port := 0, tag := 512, len := 256 * n, sent := n, acked := n, got := List.range n }] } } }

theorem witness_EngineCompletions :
    (let d := (working (item0 0x30)).dev
     launchNoop (item0 0x30).desc = true ∧ d.postedBy 1 = false ∧ d.launchQuiet 1 = true ∧ d.allSkeins 1 = []
      ∧ (let it : Item := { launch0 .running 0 with pos := (1, 0, 0), prog := 1 }
         launchDispatched it = true ∧ it.prog = launchBundles it.desc ∧ it.early = none ∧ launchNoop it.desc = false))
      ∧ (let it : Item := { stones0 0x10 1 1 1 with early := some 0x11 }
         it.place = .running ∧ it.fault = none ∧ it.early.isSome = true ∧ it.status ≠ 0x03 ∧ ({ it with posted := some { launch := 2, spool := 0, slot := 0, ticket := 0 } } : Item).posted.isSome = true)
      ∧ [0x20, 0x21].all (fun op => (working (item0 op)).dev.pressTurn (item0 op) && (working (item0 op)).dev.pressDone (item0 op) && (item0 op).engine == .press
          && !(working (item0 op)).dev.winPending (.item 1)) = true
      ∧ [0x40, 0x41, 0x42, 0x43, 0x44, 0x45].all (fun op => (item0 op).sluiceDone && (item0 op).engine == .sluice) = true
      ∧ [0x50, 0x51, 0x52, 0x53].all (fun op => (item0 op).bolterDone && (item0 op).engine == .bolter) = true
      ∧ [(0, 2), (1, 2), (2, 1), (0, 0)].all (fun (k, n) => ((messaging k n).dev.msgOf 1).any (·.complete)) = true
      ∧ [0x70, 0x71, 0x72].all (fun op =>
          let it : Item := { item0 op with place := .queued }
          it.engine == .collective && it.early.isNone && it.desc.fld 2 0 40 == 0 && ((working it).dev.msgOf 1).isNone) = true
      ∧ [0x73, 0x74, 0x75, 0x76, 0x77].all (fun op =>
          let s := working (item0 op)
          let r : ColRun := { item := 1, groups := [0] }
          let d : Dev := { s.dev with col := { s.dev.col with runs := [r] } }
          d.colRun 1 == some r && d.colDone (item0 op) r && !d.winPending (.item 1) && extWord (item0 op).ext 0 == 0) = true := by decide +kernel

/-- MANGLE of 3 × 1 × 1 FP32 elements in the scratchpad: out = in0 + in0, or a program of no word. -/
def mangle0 (plen : Nat) (place : Place := .running) : Item :=
  { item0 0x20 with desc := ofList [0x20, 3 + 2 ^ 24 + 2 ^ 48, 17 + 17 * 2 ^ 5 + 17 * 2 ^ 10 + 17 * 2 ^ 15 + plen * 2 ^ 28, 2 * 2 ^ 48, 2 * 2 ^ 48, 4 + 2 * 2 ^ 48, 4096],
                    ext := List.replicate 16 0 ++ [0x01 + 16 * 2 ^ 8 + 8 * 2 ^ 13 + 8 * 2 ^ 18], place := place }

/-- LANE program of one instruction at address 4,096 of memory: its word `w`. -/
def lane0 (w : Nat) : State :=
  let it : Item := { item0 0x21 with desc := ofList [0x21, 0x2000, 1] }
  let d := present (poke mapped 0x2000 8 w) 0x2000
  { State.reset with dev := { d with ctl := { items := [it] } } }

theorem witness_PressWork :
    (let d := (working (mangle0 1)).dev
     d.pressWork 0x20 1 = some (mangle0 1) ∧ d.mngDone (mangle0 1) = false ∧ d.linkOfItem (mangle0 1) = none ∧ mngReduce (mangle0 1).desc = 0
      ∧ (fmtOf (mngOutFmt (mangle0 1).desc)).isMx = false ∧ d.mngDone (mangle0 0) = true ∧ ((working (mangle0 65 .queued)).dev.pressWork 0x20 1).isSome = true
      ∧ (match d.mngInputs (mangle0 1) { dbl := false, cvtc := 0, seed := 0 } 0 0 0 3 [0, 1, 2] with
          | (d, it, .ok ins) => decide (ins.length = 3) && match d.boundWrite it 2 64 (List.replicate 12 { b := 0 }) 0 with | (_, _, .ok lost) => !lost | _ => false
          | _ => false) = true)
      ∧ [0x01, 0xFF, 0x1D + 31 * 2 ^ 40, 0x32, 0x33, 0x34, 0x0E].all (fun w =>
          let s := lane0 (w + 2 ^ 28)
          ((s.dev.pressWork 0x21 1).any (fun it => !laneDone it && it.early.isNone
            && match (s.dev.setItem it).boundRead it 0 (it.desc.fld 1 0 52 + 8 * it.pos.1) 8 0 with
              | (_, _, .ok bs) => decide (leNat (bs.map (·.b)) = w + 2 ^ 28) && !bs.any (·.p) && laneFails it.desc (w + 2 ^ 28) == decide (w = 0xFF ∨ w = 0x1D + 31 * 2 ^ 40)
              | _ => false))) = true := by decide +kernel

/-- COPY or FILL of two rows of `len` bytes in one plane, from the scratchpad to space `ds`. -/
def copy0 (op len ds : Nat) (pos : Nat × Nat × Nat := (0, 0, 0)) : Item :=
  { item0 op with desc := ofList [op, len + 2 ^ 33, 1 + 2 * 2 ^ 20 + ds * 2 ^ 23, 0, if ds = 4 then 0 else 4096], pos := pos }

/-- A range operation over `len` bytes at `base`. -/
def range0 (op base len : Nat) (pos : Nat × Nat × Nat := (0, 0, 0)) : Item := { item0 op with desc := ofList [op, len, 0, 0, base], pos := pos }

def atWork0 (it : Item) (op : Nat) : Bool := (working it).dev.atWork 1 (fun x => decide (x.desc.opcode = op)) (fun x => (working it).dev.freeSluice x) == some it

/-- Ended operations; a line of a row to the scratchpad, to a stream, and a row's end for each; a full stream; the range operations on a whole line, on
part of one, past the end of the space, and on an address without translation. -/
theorem witness_SluiceWork :
    [0x40, 0x41, 0x42, 0x43, 0x44, 0x45].all (fun op => atWork0 (item0 op) op && (item0 op).sluiceDone) = true
      ∧ [0x40, 0x41].all (fun op => [2, 4].all (fun ds =>
          let it := copy0 op 64 ds
          let e := copy0 op 64 ds (0, 1, 64)
          let d := (working it).dev
          let row := d.sluiceRow it 0 0
          atWork0 it op && !it.sluiceDone && decide (row.len = 64) && atWork0 e op && !e.sluiceDone && decide ((d.sluiceRow e 0 1).len = 64) && !d.streamFull (streamIndex 0 0)
            && (match (if op = 0x41 then (d, VRes.ok (fillBytes 0 0 64)) else d.sread 0 (.item 1) 2 row.src 64 0) with
              | (d1, .ok bs) => !d1.sluiceOverlaps it && (ds == 4 || d1.keepFor it ds row.dst 64 == (d1, true)) && (match (if ds = 4 then (d1.streamWrite 0 (streamIndex 0 0) 0 bs, VRes.ok false)
                  else d1.swrite 0 (.item 1) ds row.dst bs 0) with | (_, .ok _) => true | _ => false)
              | _ => false))) = true
      ∧ (let s := working (copy0 0x41 64 4)
         let n := streamIndex 0 0
         ((List.range 32).foldl (fun (d : Dev) _ => if d.streamFull n then d else d.streamPush 0 n 64) s.dev).streamFull n = true)
      ∧ [(0x42, Acc.read), (0x43, .read), (0x44, .read), (0x45, .dead)].all (fun (op, acc) =>
          [(0x3000, 128, true), (0x3040, 64, true), (2 ^ 30, 128, false)].all (fun (b, n, ok) =>
            atWork0 (range0 op b n) op && !(range0 op b n).sluiceDone
              && (match ((working (range0 op b n)).dev.translate 0 b acc).2 with | .line _ _ _ => ok | .fault _ => !ok | _ => false))
            && atWork0 (range0 op (2 ^ 52 - 128) 256 (0, 0, 128)) op
            && decide (min 256 ((working (item0 op)).dev.spaceEnd 0 (2 ^ 52 - 128) - (2 ^ 52 - 128)) ≤ 128)) = true
      := by decide +kernel

/-- Bolter operations in the scratchpad on two 4-byte keys, a table of 8 rows of 4 bytes at `tab`. -/
def bolt0 (op : Nat) (pos : Nat × Nat × Nat := (0, 0, 0)) (place : Place := .running) : Item :=
  let amount := if op = 0x50 then 2 + 4 * 2 ^ 32 + 2 ^ 41 else 2 + 4 * 2 ^ 32
  { item0 op with desc := ofList [op, amount, 2 * 2 ^ 48, if op = 0x50 then 16 + 2 * 2 ^ 48 else if op = 0x51 then 0x300 else 0, 32 + 2 * 2 ^ 48, if op = 0x52 then 0 else if op = 0x53 then 0 else 8],
                  pos := pos, place := place }

/-- The item at the head of the Bolter, with its first index `x`. -/
def bolted (it : Item) (x : Nat) : Dev := ((working it).dev.swrite 0 (.item 1) 2 0 ((leBytes 4 x ++ leBytes 4 1).map (fun b => { b := b })) 0).1

theorem witness_BolterWork :
    [0x50, 0x51, 0x52, 0x53].all (fun op => (bolted (item0 op) 0).atWork 1 (fun x => decide (x.desc.opcode = op) && (bolted (item0 op) 0).bolterTurn x) (fun x => some x.part) == some (item0 op)
        && (item0 op).bolterDone) = true
      ∧ [0x50, 0x51, 0x52, 0x53].all (fun op => [0, 7, 8, 2 ^ 32 - 1].all (fun x =>
          let it := bolt0 op
          let d := bolted it x
          let c := it.desc
          (d.atWork 1 (fun x => decide (x.desc.opcode = op) && d.bolterTurn x) (fun x => some x.part) == some it) && !it.bolterDone && decide (bolIW c = 4)
            && match d.readNums it (refOf (c.word 2)) 4 0 (if op = 0x50 then 1 else if op = 0x51 then 1 else 2) with
              | (d1, it1, .ok (is, raw)) => decide (is.head? = some (x, false)) && !raw.any (·.p)
                  && (if op = 0x50 then (match gatherRows c (refOf (c.word 3)) is d1 it1 with
                      | (d2, it2, .ok bs) => (match d2.boundWrite it2 2 512 bs 0 with | (_, _, .ok _) => true | _ => false)
                      | _ => false)
                    else if op = 0x51 then (if x < 8 then (match d1.boundRead it1 2 512 4 0 with
                      | (d2, _, .ok bs) => (match d2.vwrite 0 (.item 1) (0x3000 + x * bolTstride c) bs 0 with | (_, .ok _) => true | _ => false)
                      | _ => false) else true)
                    else (match d1.writeAll it1 [(refOf (c.word 4), 512, numBytes 4 false (is.map (·.1)))] with | (_, _, .ok lost) => !lost | _ => false))
              | _ => false)) = true
      ∧ bolTrows (bolt0 0x50).desc = 8 ∧ (0 : Nat) < 4 ∧ 2 ^ 32 - 1 < 2 ^ (8 * 4) := by decide +kernel

/-! ### Fabric and collectives -/

/-- Module 0 of two on the X axis, whose port 0 runs; partition 0 is ready for job 7, which ingress entry 0 lets in. -/
def netted (it : Item := item0 0) : Dev :=
  let d : Dev := (((working it).dev.wf (F.FAB_PORT_STAT_STATE 0) 3).wf F.PRT_STATUS_READY 1).wf (F.PRT_PART_JOB 0) 7
  { d with fab := { d.fab with node := some 0, dims := some 1, ing := [(0, 7 + 63 * 2 ^ 18 + 31 * 2 ^ 24)] } }

def netState (d : Dev) : State := { State.reset with dev := d }

/-- A packet of job 7 from the neighbour. -/
def from1 (kind : Nat) (addr : Nat := 0x3000) (len : Nat := 8) (job : Nat := 7) : Packet :=
  { kind := kind, src := 4096, job := job, len := len, addr := addr, payload := if kind = 1 ∨ kind = 5 then [] else List.replicate len 0 }

/-- Requests that the ingress refuses, that do not translate, and that are performed; a PUT that is not the 64th; a mailbox that is absent; a packet
for another node; every permission bit. -/
theorem witness_FabricRequests :
    let d := present netted 0x3000
    (netState d).running = true ∧ d.portRunning 0 = true ∧ d.forMe (from1 1) = true ∧ d.coordValid = true ∧ ({ pkt 1 with dst := 4096 } : Packet).dst ≠ d.ownNode
      ∧ [24, 25, 26, 27].all (fun b => (d.ingress (some 0) b (from1 1)).2 == some 0 && (d.ingress (some 0) b (from1 1 0x3000 8 8)).2.isNone) = true
      ∧ [Acc.read, .write, .atomic].all (fun a => !(d.ingressXlat (some 0) 0 a (2 ^ 30) 8).2 && (d.ingressXlat (some 0) 0 a 0x3000 8).2) = true
      ∧ (match (d.vread 0 (fabUnit 0 0) 0x3000 8).2 with | .ok bs => decide (bs.length = 8) | _ => false) = true
      ∧ (match (d.vwrite 0 (fabUnit 0 0) 0x3000 (List.replicate 8 { b := 1 })).2 with | .ok _ => true | _ => false) = true
      ∧ (match watomElem (from1 3) with
          | some el => (match (d.vreducePart 0 0x3000 [el]).2 with | .ok l => decide (l.length = 1) | _ => false)
          | none => false) = true
      ∧ (d.putArrives (some 0) (from1 4)).isSome = true ∧ (d.getArrives (some 0) (from1 5)).2.isSome = true ∧ (d.sendArrives (some 0) (from1 6)).2 = some 0
      ∧ kindClass 1 = some 0 ∧ kindClass 0xC = some 2 ∧ d.ingressEntry 7 = some (7 + 63 * 2 ^ 18 + 31 * 2 ^ 24) ∧ dimensionPort 1 0 4096 = some 0 := by
  decide +kernel

/-- A message of two packets, none sent; one that has sent its first, whose answer has not come. -/
def messages (kind sent : Nat) (times : List (Nat × Nat) := []) : Dev :=
  let d := netted { item0 (0x70 + kind) with desc := ofList [0x70 + kind, 4096, 512, 2 * 2 ^ 48, 0x3000] }
  { d with fab := { d.fab with msgs := [{ item := 1, kind := kind, port := 0, tag := 512, len := if kind = 2 then 256 else 512, sent := sent, times := times }] } }

theorem witness_FabricMessages :
    [8, 9, 10, 11].all (fun k => netted.portRunning 0 && netted.forMe (from1 k)) = true
      ∧ [0, 1, 2].all (fun k => [0, 1, 2].all (fun st =>
          ((messages k 1).msgTagged { from1 (if k = 1 then 11 else 10) with tag := 512, status := st }).any (fun x => decide (x.1.kind = k)))) = true
      ∧ ((messages 1 1).gdataWrite { item0 0x71 with desc := ofList [0x71, 4096, 512, 2 * 2 ^ 48, 0x3000] } { item := 1, kind := 1, port := 0, tag := 512, len := 512, sent := 1 } 0
          (List.replicate 256 0) false).isSome = true
      ∧ [0, 1, 2].all (fun k => match (messages k 0).msgWork (0x70 + k) 1 with
          | some (d, it, m) => (d.msgOf it.id == some m) && decide (m.kind ≤ 2) && decide (m.port < 7) && decide (m.sent < m.packets) && decide (m.len ≠ 0)
              && (if k = 1 then true else (d.localRead it (refOf (it.desc.word 3)) 0 256).2.isSome)
          | none => false) = true
      ∧ (let d : Dev := { messages 0 1 [(0, 0)] with time := 2 ^ 40 }
         (d.msgOf 1).any (fun m => m.times.any (fun t => d.periodPast t.2) && decide (m.kind ≠ 1)) = true) := by decide +kernel

/-- Item 1 of a group of `G` ranks, of which this module is rank `k`: NEXT and PREV are node 4,096; COUNT elements FP32, IN at 0, OUT at 4,096 of the
scratchpad. -/
def collective (op G k : Nat) (count : Nat := 64) (granted : Nat := 1) (ext : List Nat := []) (place : Place := .running) : Dev :=
  let it : Item := { item0 op with
    desc := ofList [op, count + 17 * 2 ^ 40 + 17 * 2 ^ 45 + (if op = 0x76 then 2 ^ 50 - 17 * 2 ^ 45 else 0), 0, 2 * 2 ^ 48, 256 + 2 * 2 ^ 48], ext := ext, place := place }
  let d := netted it
  { d with col := { d.col with grpA := [(0, 4096 + 4096 * 2 ^ 18 + k * 2 ^ 36 + 2 ^ 56)], grpB := [(0, G - 1 + 7 * 2 ^ 16)],
                               runs := [{ item := 1, groups := [0], granted := [granted, 0, 0], gave := [1, 0, 0] }] } }

def colRun0 (granted : Nat := 1) : ColRun := { item := 1, groups := [0], granted := [granted, 0, 0], gave := [1, 0, 0] }

/-- What the clauses ask of a running item. -/
def colAt (d : Dev) (op granted : Nat) : Bool :=
  match d.colWork op 1 with
  | some (d', it, r) => (d' == d) && (r == colRun0 granted) && (d.colRun 1 == some r) && decide (it.id = 1)
  | none => false

theorem witness_CollectiveOperations :
    [0x73, 0x74, 0x75, 0x76, 0x77].all (fun op => [0, 1].all (fun g => colAt (collective op 2 0 64 g) op g)) = true
      ∧ [0x73, 0x75].all (fun op =>
          let d := collective op 2 0
          (d.item 1).any (fun it => decide (0 < colPackets it.desc) && (d.contribution it (colRun0) 0).2.any (fun x => decide (x.1.length = 64)))
            && decide (d.grpRank 0 = 0) && decide (d.grpSize 0 = 2)) = true
      ∧ (let d := collective 0x74 2 0
         (d.item 1).any (fun it => decide (0 < chunkHi it.desc 2 0) && decide (chunkLo it.desc 2 0 ≠ chunkHi it.desc 2 0)
          && (match d.localRead it (colIn it.desc) 0 256 with | (d1, some bs) => (d1.localWrite it (colOut it.desc) 4096 bs).2 == some false | _ => false)) = true)
      ∧ (let d := collective 0x76 2 0
         (d.item 1).any (fun it => decide (0 < min (it.desc.fld 1 50 6) (2 - 1) * 1) && (d.localRead it (colIn it.desc) 0 64).2.isSome) = true)
      ∧ (let d := collective 0x77 2 0 32
         (d.item 1).any (fun it => decide (colCount it.desc = 32) && (d.localRead it (colIn it.desc) 0 128).2.isSome) = true)
      ∧ (let d := present (collective 0x76 2 0 64 1 [0, 0, 0, 0, 0x3000]) 0x3000
         (d.item 1).any (fun it => decide (it.desc.opcode = 0x76)
          && (match (d.vread 0 (.item 1) 0x3000 8).2 with | .ok bs => decide (bs.length = 8) | _ => false)) = true)
      ∧ (let d := collective 0x73 2 0
         max 1 (d.rf F.COL_CTRL_STALL_TURNS) ≤ 2 ^ 16 ∧ (0 : Nat) < max 1 (d.rf F.COL_CTRL_STALL_TURNS))
      ∧ ((collective 0x73 2 0 64 1 [0, 64, 5] .queued).item 1).any (fun it => it.engine == .collective && decide (colGate it.ext ≠ 0)) = true
      ∧ (5 + 2 ^ 32 - 5) % 2 ^ 32 < 2 ^ 31 := by decide +kernel

/-- A packet of group 0 with index `i`, from NEXT and PREV alike. -/
def colPkt (sub : Nat) (aux : Nat := 0) (job : Nat := 7) (n : Nat := 256) (i : Nat := 0) : Packet :=
  { kind := 0xC, src := 4096, job := job, sub := sub, aux := aux, addr := i * 2 ^ 16, len := n, payload := List.replicate n 0 }

theorem witness_CollectivePackets :
    (let d := collective 0x73 2 1
     d.colHead (colPkt 0) = none ∧ d.colHead (colPkt 0 0 8) = some false ∧ d.colHead (colPkt 0 1) = some true ∧ d.portRunning 0 = true ∧ d.forMe (colPkt 0) = true
      ∧ (0 : Nat) ≠ d.grpPrev 0 ∧ d.col.runs.find? (fun r => r.groups.contains 0) = some colRun0 ∧ 0 = d.opseq 0 % 256 ∧ (d.item 1).isSome = true)
      ∧ [(0x73, 1), (0x75, 1), (0x73, 0)].all (fun (op, k) =>
          let d := collective op (2 + (1 - k)) k
          let d' := d.setRun { colRun0 with heard := true }
          (d.item 1).any (fun it => (d'.reduceOne it { colRun0 with heard := true } 0 (some (List.replicate 64 0))).2.isSome
            && (d'.resultWrite it { colRun0 with heard := true, delivered := [0] } 0 (List.replicate 64 0)).2.isSome && decide (0 < colPackets it.desc))) = true
      ∧ (let d := collective 0x74 2 0 128
         let d' := d.setRun { colRun0 with heard := true }
         d.gathering 0 = true ∧ (d.item 1).any (fun it => (d'.gatherArrive it { colRun0 with heard := true } 0 (List.replicate 256 0)).isSome) = true)
      ∧ (let d := collective 0x76 2 0 512
         (d.item 1).any (fun it => decide (0 % ceilDiv (colCount it.desc) 256 + 1 ≠ ceilDiv (colCount it.desc) 256)
          && (d.localWrite it (colOut it.desc) 4096 (List.replicate 256 { b := 0 })).2 == some false) = true)
      ∧ (let d := collective 0x77 2 1 32
         (d.item 1).any (fun it => (d.normAdd it { colRun0 with heard := true, got := 1 } (some (List.replicate 32 0))).2.isSome
          && (d.normResult it { colRun0 with heard := true, sent := 1 } (List.replicate 32 0)).2.isSome) = true)
      ∧ (let d := collective 0x73 3 1
         d.grpRank colRun0.group + 1 ≠ d.grpSize colRun0.group ∧ (d.item 1).any (fun it => (d.contribution it colRun0 0).2.isSome) = true) := by decide +kernel

/-! ### Granary, HBM, links, packets -/

/-- A device whose stack 0 is ready, with line 0 of channel 0 as given. -/
def lined (l : Option Line) (st : Nat := 2) : Dev := (({} : Dev).wf (F.HBM_STATUS_STATE 0) st).setLine 0 l

/-- A dead channel; a Clean line, an absent one with room for it, one in Fill; accesses at each end of the line. -/
theorem witness_SliceAccess :
    (lined none 4).chanDead 0 = true ∧ (lined none).chanDead 0 = false ∧ (lined none).mem.retraining.contains 0 = false ∧ (lined none).mem.refetches = [] ∧ (lined none).wbOf 0 = none
      ∧ (lined (some { st := .clean })).line 0 = some { st := .clean } ∧ ({ st := .clean } : Line).waits = [] ∧ ({ st := .clean } : Line).pf = 0 ∧ ({ st := .clean } : Line).held = []
      ∧ [(0, 1), (0, 128), (127, 1)].all (fun (lo, n) => decide (n ≠ 0) && decide (lo + n ≤ 128)
          && !(((lined (some { st := .clean })).event (chanBlock 0) 0x500 (some 0) 0 1).viewLine 0 lo n).any (·.p)) = true
      ∧ [({ off := 0, op := .add, ty := .i32, val := 0 } : RedElem), { off := 120, op := .cas, ty := .u64, val := 1, cmp := 2 }].all (·.fits) = true
      ∧ (lined none).line 0 = none ∧ (((lined none).event (chanBlock 0) 0x501 (some 0) 0 1).makeRoom 0).isSome = true ∧ (255 : Nat) < 256 ∧ 0 + 2 ^ 24 ≤ 2 ^ 24
      ∧ (let w : WriteBack := { mask := 1, data := 1, poison := 0 }
         ((lined none).setWb 0 (some w)).wbOf 0 = some w) ∧ (0 : Nat) < 2 ^ 32 := by decide +kernel

/-- A refetch of line 0, begun or not. -/
def refetching (started : Bool) (src : Nat) (now : Nat := 0) : Dev :=
  let d := (lined (some { st := .clean })).wf (F.PRT_SWR_A_MAP 0) 1
  { d with mem := { d.mem with refetches := [{ key := 0, region := 0, started := started, failures := 0, held := [] }] }, time := now + src * 0 }

theorem witness_HbmAndLines :
    (let d := lined (some { st := .fill })
     State.reset.running = true ∧ d.chanServes 0 = true ∧ d.awaitsData 0 = true ∧ (lined none).awaitsData 0 = false ∧ (lined none 4).chanServes 0 = false ∧ (0 : Nat) < 2 ^ 24)
      ∧ (let d := refetching false 0
         d.mem.refetches.find? (fun r => !r.started) = some { key := 0, region := 0, started := false, failures := 0, held := [] } ∧ (d.mem.refetches.filter (·.started)).length < 64)
      ∧ (let d := refetching true 0
         (d.refetchOf 0).any (·.started) = true ∧ (d.refetchOf 0).any (fun r => (d.refetchRead r).2.any (fun bs => bs.any (·.p))) = true
          ∧ d.time < 0 + d.rf F.TRN_PERIOD_ACTIVE_NS ∧ 0 + (refetching true 0 (2 ^ 32)).rf F.TRN_PERIOD_ACTIVE_NS ≤ (refetching true 0 (2 ^ 32)).time)
      ∧ (let d := (lined (some { st := .clean })).wb (F.HBM_CTRL_SCRUB_EN 0) true
         d.rb (F.HBM_CTRL_SCRUB_EN 0) = true ∧ d.rf (F.HBM_STATUS_STATE 0) = 2 ∧ d.rf (F.HBM_STATUS_STATE 0) ≠ 0 ∧ d.rf (F.HBM_CHAN_STATE 0 0) ≠ 3)
      ∧ (let d := (lined none).wb (F.HBM_CTRL_RETRAIN_EN 0) true
         d.rb (F.HBM_CTRL_RETRAIN_EN 0) = true ∧ d.chanServes 0 = true ∧ SMap.get (fun _ => 0) d.mem.trainedAt 0 = 0
          ∧ 0 < max 1 (d.rf (F.HBM_CTRL_RETRAIN_DELTA 0)) ∧ max 1 (d.rf (F.HBM_CTRL_RETRAIN_DELTA 0)) ≤ 255)
      ∧ ({ (lined none) with mem := { MemSt.reset with retraining := [0] } } : Dev).mem.retraining.contains 0 = true
      ∧ (let d := ({} : Dev).wf (F.HBM_STATUS_STATE 7) 1
         d.rf (F.HBM_STATUS_STATE 7) = 1 ∧ bitAt d.boot.trained 7 = false ∧ d.mem.lines = [] ∧ d.mem.wbs = [] ∧ d.mem.refetches = []) := by decide +kernel

/-- A source that gives no poison: 128 bytes that the module's window has loaded. -/
theorem witness_HbmAndLines_refetched :
    let d0 := (refetching true 0).setReg (F.PRT_SWR_A_BASE 0).off (2 + 2 * 2 ^ 5 + 2 ^ 7)
    let w : WinReq := { port := 0, tag := 0, off := 0, len := 128, kind := .load, part := 0, owner := millerUnit 0, sentAt := 0, state := 1, data := List.replicate 128 { b := 7 } }
    let d : Dev := { d0 with fab := { d0.fab with wins := [w] }, mem := { d0.mem with chanLists := [[0], [], [], []] } }
    (d.refetchOf 0).isSome = true ∧ (d.refetchOf 0).any (fun r => match (d.refetchRead r) with
      | (d', some bs) => !bs.any (·.p) && (({ d' with mem := { d'.mem with refetches := [] } } : Dev).lineWrite none 0 0 (bs.zipIdx.map (fun e => (e.2, e.1)))).2
      | _ => false) = true := by decide +kernel

/-- Port 5 in a state, with its link as given. -/
def portAt (st : Nat) (l : LinkSt := {}) (ctl : Nat := 0xFF) : Dev :=
  ((({} : Dev).setLink 5 l).setReg (F.FAB_PORT_CTL_ENABLE 5).off ctl).wf (F.FAB_PORT_STAT_STATE 5) st

/-- A flit of SEQ `seq` with `len` bytes of zeros and the header bits `more`. -/
def flitOf (seq len : Nat) (more : Nat := 0) : Flit := flitBytes (seq + len * 2 ^ 30 + more) []

/-- Flits that are bad, idle, NAK, out of order, in order with room and without; training at each step; each control packet in its state. -/
theorem witness_LinkWork :
    (portAt 3).linkUp 5 = true ∧ flitBad flit0 = true ∧ (portAt 3).linkOf 5 = {} ∧ ({} : LinkSt).txWait = []
      ∧ (let h (f : Flit) := flitHeader f
         flitBad (flitOf 0 0 (2 ^ 25)) = false ∧ bitAt (h (flitOf 0 0 (2 ^ 25))) 25 = true ∧ bitsAt (h (flitOf 0 0)) 30 8 = 0
          ∧ bitAt (h (flitOf 1 8)) 25 = false ∧ bitsAt (h (flitOf 1 8)) 0 12 ≠ 0 ∧ bitsAt (h (flitOf 0 8)) 0 12 = ({} : LinkSt).rxNext ∧ bitAt (h (flitOf 0 8)) 26 = false)
      ∧ ({} : LinkSt).rxUsed.getD 0 0 < 2048 ∧ 2048 ≤ ({ rxUsed := [2048] } : LinkSt).rxUsed.getD 0 0
      ∧ (portAt 3).rb (F.FAB_PORT_CTL_RETRAIN_EN 5) = true ∧ 2 ≤ (portAt 3).rf (F.FAB_PORT_STAT_STATE 5) ∧ (portAt 3).rb (F.FAB_PORT_CTL_ENABLE 5) = true
      ∧ bitAt (portAt 3).tst.colDead 5 = false
      ∧ [0, 31].all (fun lane => let l : LinkSt := { groupsOut := 2 ^ (lane / 8) }
          decide ((portAt 3).rf (F.FAB_PORT_CTL_MIN_WIDTH 5) + 1 ≤ 4) && decide (popcount 4 l.groups = 3)) = true
      ∧ (portAt 3 {} (0xFF - 6)).rf (F.FAB_PORT_CTL_MIN_WIDTH 5) + 1 ≤ 3 ∨ 3 < (portAt 3).rf (F.FAB_PORT_CTL_MIN_WIDTH 5) + 1 := by decide +kernel

/-- Training and control packets. -/
theorem witness_LinkWork_training :
    ((portAt 3 { retraining := [31] }).linkOf 5).retraining.contains 31 = true ∧ (portAt 1).rf (F.FAB_PORT_STAT_STATE 5) < 3 ∧ 3 ≤ (portAt 3).rf (F.FAB_PORT_STAT_STATE 5)
      ∧ [0, 1, 2].all (fun n => decide (((portAt 1 { step := n }).linkOf 5).step = n)) = true
      ∧ ((portAt 1 { step := 2, delays := List.replicate 16 5 }).linkOf 5).delays.length = 16 ∧ (pkt 0xE).kind = 0xE
      ∧ ({ pkt 0xE with sub := 2, payload := leBytes 8 3 ++ leBytes 8 4 } : Packet).payload = leBytes 8 3 ++ leBytes 8 4
      ∧ 3 ≤ ((portAt 3 { step := 4, delays := List.replicate 15 5 }).linkOf 5).step ∧ ((portAt 3 { step := 4, delays := List.replicate 15 5 }).linkOf 5).delays.length = 15
      ∧ 3 ≤ ((portAt 1 { step := 3 }).linkOf 5).step ∧ (portAt 1 { step := 3 }).rf (F.FAB_PORT_STAT_STATE 5) < 2 ∧ 2 ≤ (portAt 2).rf (F.FAB_PORT_STAT_STATE 5)
      ∧ (({ netted with fab := { netted.fab with dims := some (1 + 2 ^ 6 + 2 ^ 12) } } : Dev).expectedPeer 5).isSome = true := by decide +kernel

/-- Every field of each packet at its largest value, and a payload of eight bytes. -/
theorem witness_PacketBytes :
    let p : Packet := { kind := 0xF, dst := 2 ^ 18 - 1, src := 2 ^ 18 - 1, job := 2 ^ 16 - 1, len := 8, tag := 1023, sub := 15, typ := 7, status := 3, aux := 2 ^ 32 - 1,
                        addr := 2 ^ 52 - 1, payload := List.replicate 8 255 }
    let q : CplPacket := { op := 0x43, tag := 4095, len := 8, code := 255, arg := 2 ^ 24 - 1, addr := 2 ^ 52 - 1, payload := List.replicate 8 255 }
    Packet.parse (p.bytes ++ [1]) = some (p, [1]) ∧ CplPacket.parse (q.bytes ++ [1]) = some (q, [1]) ∧ p.payload.length = p.len ∧ cplHasPayload q.op = true
      ∧ flitBad (flitOf 0 244) = false ∧ (flitOf 0 244).length = 256 ∧ ([1, 2, 3, 4] : List Byte) ≠ ((flitOf 0 244).drop 252).take 4 ∧ ({} : LinkSt).rxNext < 4096 := by
  decide +kernel

/-! ### Companion, set-up space, management -/

/-- The Companion Link in a state, with the module at a boot stage, over `d`. -/
def linked (st : Nat) (stage : Nat := 5) (d : Dev := {}) : Dev := (d.wf F.CPL_STATUS_STATE st).wf F.SEC_STATUS_STAGE stage

/-- A companion packet whose checks it passes: set-up accesses name TRN_CTRL's neighbour QUE_RCTL. -/
def cpkt (op : Nat) (arg : Nat := 0) (addr : Nat := 0) (n : Nat := 0) : CplPacket := { op := op, arg := arg, addr := addr, len := n, payload := List.replicate n 0 }

/-- A request of the module. -/
def asking (op : Nat) (snooped : Bool := false) : Dev :=
  let d := linked 3
  { d with cpl := { d.cpl with reqs := [{ tag := 0, op := op, addr := 64, len := 64, sentAt := 0, snooped := snooped }], followed := [1] } }

/-- Each packet fails a check and passes them all; answers that name a request, plain and snooped, and that name none; every step of LINK_CTL; a line
polled, followed, pinned or not followed. -/
theorem witness_CompanionPackets :
    [1, 3, 4, 0x10, 0x30, 0x20, 0x21].all (fun op => (linked 2).cplHears (cpkt op) && decide ((linked 2).cplCode (cpkt op) = 5)) = true
      ∧ cplCarries ((linked 3).cplVc (cpkt 0x7F)) 0x7F = false ∧ knownCommand 3 = false ∧ (linked 3).cmdFirst (cpkt 0x42 3) = true ∧ (linked 3).cplCode (cpkt 0x42 3) = 0
      ∧ (let d := present (linked 3 5 mapped) 0x3000
         d.cplCode (cpkt 1 64 0x3000) = 0 ∧ d.cplCode (cpkt 3 0 0x3000 64) = 0 ∧ d.cplCode (cpkt 4 0 0x3000 72) = 0 ∧ d.cplCode (cpkt 0x10 0 64) = 0
          ∧ (d.devRead (linesOf 0x3000 64)).2.any (fun bs => decide (bs.length = 64)) = true
          ∧ (d.devWrite 0x3000 ((List.range 64).map (fun i => (i, { b := 1 }))) (linesOf 0x3000 64)).isSome = true
          ∧ (d.devFind d.devRegions 0).isSome = true ∧ (d.devFind d.devRegions d.devBytes).isSome = false)
      ∧ [1, 2].all (fun op => [false, true].all (fun sn => ((asking op sn).cplNamed (cpkt 0x30 0 0 64)).isSome && decide ((asking op sn).cplCode (cpkt 0x30 0 0 64) = 0)
          && !(asking op sn).snoopQuarantined && ((asking op sn).wf F.CPL_STATUS_QUAR 2).snoopQuarantined)) = true
      ∧ ((asking 3).cplNamed (cpkt 0x20)).isSome = true ∧ (asking 3).cplCode (cpkt 0x20) = 0 ∧ ((asking 3).cplNamed (cpkt 0x21)).isSome = true ∧ (asking 3).cplCode (cpkt 0x21) = 0
      ∧ [0x30, 0x20, 0x21].all (fun op =>
          let d := linked 3
          let d : Dev := { d with cpl := { d.cpl with failedTags := [0] } }
          (d.cplNamed (cpkt op 0 0 (if op = 0x30 then 64 else 0))).isNone && decide (d.cplCode (cpkt op 0 0 (if op = 0x30 then 64 else 0)) = 0)) = true
      ∧ [0, 1, 2].all (fun g => [0, 1].all (fun st =>
          let d := (linked 1).setLink 6 { step := st }
          d.cplHears (cpkt 0x4C (g + 15 * 2 ^ 8)) && decide (d.cplCode (cpkt 0x4C (g + 15 * 2 ^ 8)) = 0))) = true
      ∧ ({ linked 3 with cpl := { widthAsked := some 15 } } : Dev).cpl.widthAsked = some 15 ∧ ({ groupsPeer := 0 } : LinkSt).groups = 0 ∧ ({ groupsPeer := 15 } : LinkSt).groups ≠ 0
      ∧ (asking 1).pinnedLine 1 = true ∧ (asking 1).reading 1 = true ∧ (asking 3).reading 1 = false ∧ (asking 3).cpl.followed.contains 1 = true ∧ (asking 3).cpl.polled.contains 1 = false
      ∧ ({ asking 3 with cpl := { (asking 3).cpl with polled := [1] } } : Dev).badLine 1 = false := by decide +kernel

/-- A polled line whose last read was bad: the doorbell of ring 0 lies in companion line 0. -/
theorem witness_CompanionPackets_badLine :
    let d := asking 3
    let e : Dev := ({ d with ctl := { d.ctl with rings := [(0, { badDb := true })] } })
    e.badLine (e.dbLine 0) = true ∧ 0 < 1 ∧ (asking 1).snoopQuarantined = false := by decide +kernel

/-- Every command that only writes, before and after stage 4, and refused; reads of both kinds; accesses at each bound of the set-up space; registers
that are staged or not, with a full store; loop-back in every state. -/
theorem witness_SetUpAccess :
    (linked 2).cplHears (cpkt 0x41) = true ∧ (linked 2).cplCode (cpkt 0x41 0 0 8) = 0 ∧ (linked 2 3).rf F.SEC_STATUS_STAGE < 4 ∧ 4 ≤ (linked 2 4).rf F.SEC_STATUS_STAGE
      ∧ (linked 2).cplCode { cpkt 0x41 0 0 8 with resv := 1 } ≠ 0 ∧ (linked 2).cplCode (cpkt 0x40 0 Reg.TRN_CTRL) = 0 ∧ (linked 2).cplCode { cpkt 0x40 with resv := 1 } ≠ 0
      ∧ [(1, false, 8), (0x4000000, false, 8), (0x3FFFFF8, false, 8), (Reg.TRN_CTRL, true, 4)].all (fun (o, w, n) => setupBad o w n) = true
      ∧ [Reg.TRN_CTRL, Reg.PRT_RESET, Reg.ERR_FLOG_CLEAR, Reg.ERR_LOG_SEL, Reg.ERR_LOG_WORD 0, Reg.ERR_LOG_WORD 7, Reg.TST_DIG_CTL, Reg.FAB_JOBSTOP, Reg.HBM_LOOP 7, Reg.PMU_SAMP_CTL 3,
          Reg.PMU_CNT 41 15, Reg.PMU_SEL 41 15].all (fun o => !setupBad o true 8 && (regFind o).isSome) = true
      ∧ (match regFind Reg.TRN_CTRL with
          | some (r, _) => let d := ({} : Dev).wb F.CFG_STATUS_FIRST_COMMIT true
              d.stages r && !({} : Dev).stages r && decide (r.mask .rw ≠ 0)
          | none => false) = true
      ∧ (match regFind (Reg.PMU_SAMP_CTL 3) with | some (r, _) => decide (lockMask r = 0) && decide (r.mask .rw ≠ 0) | none => false) = true
      ∧ (match regFind Reg.ERR_FLOG_CLEAR with | some (r, _) => decide (r.mask .rw = 0) | none => false) = true
      ∧ [0, 1, 2, 3].all (fun st => decide ((({} : Dev).wf (F.HBM_STATUS_STATE 7) st).rf (F.HBM_STATUS_STATE 7) = st)) = true
      ∧ (List.range 256).all (fun n => ({} : Dev).rb (F.QUE_RCTL_ENABLE n) == ({} : Dev).rb (F.QUE_RSTAT_ACTIVE n)) = true := by decide +kernel

/-- An image or a pack under transfer. -/
def uploading (image pack : Option Upload) : Dev := { linked 3 with boot := { image := image, pack := pack } }

/-- An image of the least length, with a right header. -/
def image0 : List Byte := leBytes 4 0x4E544657 ++ leBytes 4 1 ++ List.replicate (0xAA0 + 4627 - 8) 0

theorem witness_ManagementCommands :
    [1, 2, 0x10, 0x11, 0x18, 0x19, 0x20, 0x21, 0x22, 0x31].all (fun c => (linked 2).cplHears (cpkt 0x42 c) && decide ((linked 2).cplCode (cpkt 0x42 c) = 0) && (linked 2).cmdFirst (cpkt 0x42 c)
        && decide ((linked 2).cplCode { cpkt 0x42 c with resv := 1 } ≠ 0)) = true
      ∧ (linked 2).cplCode (cpkt 0x42 0x30 0 64) = 0 ∧ (linked 2 3).rf F.SEC_STATUS_STAGE < 4 ∧ (linked 2 5).pwr.cause = 0 ∧ ({ linked 2 with pwr := { cause := 1 } } : Dev).pwr.cause ≠ 0
      ∧ (uploading (some { len := 0 }) none).boot.image = some { len := 0 } ∧ ({ len := 1 } : Upload).whole = false ∧ ({ len := 0 } : Upload).whole = true ∧ checkImage ({ len := 0 } : Upload).bytes = .format
      ∧ (uploading none (some { len := 0 })).boot.pack = some { len := 0 } ∧ (linked 2).boot.packActive.all (fun a => decide ((linked 2).packVer a < (linked 2).packVer 0)) = true
      ∧ (!(linked 2).coherent) = true ∧ (linked 3).coherent = true ∧ ((linked 3).rb F.SEC_CFG_STAT_TRIAL || (linked 3).rb F.SEC_CFG_STAT_RETURN_STAGED) = false
      ∧ parseBlob [] = none ∧ (linked 3).newGeneration 1 = true ∧ (linked 3).rb F.SEC_CFG_STAT_PREV_VALID = false ∧ ((linked 3).wb F.SEC_CFG_STAT_PREV_VALID true).rb F.SEC_CFG_STAT_PREV_VALID = true
      ∧ (linked 3).boot.seed = none ∧ (linked 3).cplCode (cpkt 0x43 0 0 256) = 0 ∧ (linked 3).cplCode { cpkt 0x43 with resv := 1 } ≠ 0 := by decide +kernel

/-- An image with a right header is accepted or fails its signature, as the constants of Config say. -/
theorem witness_ManagementCommands_image : checkImage image0 = .signature ∨ checkImage image0 = .ok 0 := by
  have h1 : leNat (slice image0 0xC 4) = 0 := by decide +kernel
  have h2 : leNat (slice image0 0 4) = 0x4E544657 := by decide +kernel
  have h3 : leNat (slice image0 4 4) = 1 := by decide +kernel
  have h4 : image0.length = 0xAA0 + 4627 := by decide +kernel
  unfold checkImage
  simp only [h1, h2, h3, h4]
  repeat' split
  all_goals simp_all

/-- A generation staged, returned to, and on trial at both sides of its end. -/
theorem witness_ManagementCommands_trial :
    let b : Blob := { gen := 2 ^ 32 - 1, health := 15, recs := [], meas := 0 }
    let d : Dev := { cfg := { staged := some b } }
    let t (left : Nat) : Dev := (({} : Dev).wb F.SEC_CFG_STAT_TRIAL true).wf F.SEC_CFG_STAT_TRIAL_LEFT left
    d.rb F.SEC_CFG_STAT_RETURN_STAGED = false ∧ (({} : Dev).wb F.SEC_CFG_STAT_RETURN_STAGED true).rb F.SEC_CFG_STAT_RETURN_STAGED = true
      ∧ [1, 2].all (fun n => decide (1 ≤ (t n).rf F.SEC_CFG_STAT_TRIAL_LEFT) && ((t n).healthFails (decide (n = 1))).isNone && (t n).rb F.SEC_CFG_STAT_TRIAL
          && (((t n).wf F.SEC_CFG_STAT_HEALTH 15).healthFails true).isSome) = true := by decide +kernel

/-! ### Resilience, serving, counters -/

def rec0 (cls : Nat) : ErrRec := { cls := cls, source := 1, event := 1 }

/-- Records of each class at empty logs, full ones and a repeat. -/
theorem witness_ResilienceWork :
    (rec0 0).cls < 3 ∧ 3 ≤ (rec0 3).cls ∧ ({} : ErrSt).intake = [] ∧ (rec0 0).repeats (rec0 0) = true ∧ (rec0 0).repeats { rec0 0 with event := 2 } = false
      ∧ (List.replicate 64 (rec0 3)).length = 64 ∧ ({ intake := [rec0 0], clog := [rec0 0] } : ErrSt).clog.getLast? = some (rec0 0) ∧ ({ toCopy := [rec0 0] } : ErrSt).toCopy = rec0 0 :: []
      ∧ (let c : Item := { item0 0x65 with desc := ofList [0x65, 0, 2 ^ 20, 4096], place := .queued }
         let d : Dev := { ctl := { items := [c] } }
         d.serviceWork 0x65 1 = some c ∧ (d.ctl.items.takeWhile (fun x => decide (x.id ≠ 1))).any (fun x => decide (x.desc.opcode = 0x65)) = false
          ∧ ({ d with ctl := { items := [{ c with id := 2, part := 1 }, c] } } : Dev).serviceWork 0x65 1 = some c)
      ∧ [false, true].all (fun lost =>
          let it : Item := { item0 0x65 with desc := ofList [0x65, 0x2000, 0x3000, 4096] }
          let d := present (present (working it).dev 0x2000) 0x3000
          let c : CkptRun := { item := 1, total := 4096, released := 128, parts := [{ src := 0x2000, dst := 0x3000, len := 128, pos := 128 }], lost := lost }
          ((d.setCkpt (some c)).tst.ckpt == some c) && (d.item 1 == some it) && (d.serviceWork 0x65 1 == some it) && !(c.parts.isEmpty) && c.parts.all (fun x => decide (x.len ≤ x.pos))
            && !d.cplWriting (.item 1) && !d.winPending (.item 1)) = true := by decide +kernel

theorem witness_ResilienceWork_units :
    (let d := collective 0x73 2 1
     let p (r : Nat) : Packet := { colPkt 6 0 7 64 r with sub := 6 }
     d.colHead (p 0) = none ∧ (p 0).src = d.grpPrev 0 ∧ d.colHead (colPkt 6 1) = some true ∧ d.colHead (colPkt 6 0 8) = some false ∧ d.grpSize 0 ≤ (p 2).addr / 2 ^ 16 % 2 ^ 36)
      ∧ ({ tst := { slot := some { group := 42, left := 0, turn := 0, time := 0 } } } : Dev).tst.slot.isSome = true ∧ (({} : Dev).tst.slot).isNone = true
      ∧ (linked 1 4).rf F.SEC_STATUS_STAGE = 4 ∧ (linked 1 4).boot.tested = false ∧ (linked 1 5).rf F.SEC_STATUS_STAGE ≠ 4
      ∧ ({ ctl := { resets := [{ part := 3, together := false }] } } : Dev).ctl.resets.any (fun x => decide (x.part = 3)) = true ∧ ({} : Dev).ctl.resets.all (fun x => decide (x.part ≠ 3)) = true
      ∧ (let it : Item := { item0 0x65 with desc := ofList [0x65, 0x2000, 0x3000, 4096] }
         ({ (working it).dev with tst := { ckpt := some { item := 1, total := 4096 } } } : Dev).tst.ckpt = some { item := 1, total := 4096 } ∧ (0 : Nat) < 4096)
      ∧ ({ fab := { jobStops := [(7, 1)] } } : Dev).fab.jobStops.contains (7, 1) = true ∧ ({} : Dev).fab.jobStops.contains (7, 1) = false ∧ (0 : Nat) < ({} : Dev).parts := by decide +kernel

/-- A pass of two members that agree, of two that differ, of three with a majority and of three without. -/
theorem witness_ResilienceWork_digests :
    [[(0, some 5), (1, some 5)], [(0, some 5), (1, some 6)], [(0, some 5), (1, some 5), (2, some 6)], [(0, some 5), (1, some 6), (2, some 7)]].all (fun t =>
      let d := collective 0x73 t.length 0
      let mine := (t.filterMap (fun (e : Nat × Option Nat) => e.2.map (fun v => (e.1, v)))).filter (fun e => decide (e.2 / 2 ^ 256 = d.rf F.TST_DIG_STAT_SNAP_GEN))
      (mine.find? (fun e => decide (e.1 = d.grpRank 0))).isSome && decide (mine.length = t.length)) = true := by decide +kernel

/-- A service of one layer, one head and a vocabulary of 16 on partition 3. -/
def serving (v : Srv) (st : Nat) : Dev :=
  let d := (({} : Dev).setSrv 3 { v with table := [1 + 2 ^ 16, 16 * 2 ^ 32], cfg := { v.cfg with maxContext := 64, kvPages := 2, batchMax := 2, prefillMax := 8 } })
  d.wf (F.MIL_SRV_STAT_STATE 3) st

/-- A request record: two prompt tokens, two new tokens; its complement right or wrong; a cancel; an unknown token; too long; nothing to generate. -/
def srvRec (hdr len mx : Nat) (ok : Bool := true) : Desc := Desc.ofWords (fun k => [hdr, len + mx * 2 ^ 32, 0, 0, 0, 0, 0, if ok then 2 ^ 64 - 1 - hdr else 0].getD k 0)

theorem witness_ServingAndCounters :
    (let d := serving { following := true, head := 0, tail := 1 } 1
     let v := d.srvOf 3
     v.following = true ∧ (serving {} 1).srvOf 3 ≠ v ∧ ((serving {} 1).srvOf 3).following = false ∧ d.srvActive 3 = true ∧ v.head ≠ v.tail ∧ v.waiting.length < v.cfg.batchMax
      ∧ [0, 16].all (fun c => doorbellOk (doorbellWord c) && decide ((c + 2 ^ 32 - v.head) % 2 ^ 32 ≤ 2 ^ v.cfg.reqLog2)) = true
      ∧ (0 + 2 ^ 32 - v.cons) % 2 ^ 32 ≤ v.unconsumed ∧ ¬(1 + 2 ^ 32 - v.cons) % 2 ^ 32 ≤ v.unconsumed
      ∧ (srvRec 0 2 2).w7 = ~~~(srvRec 0 2 2).w0 ∧ ¬(srvRec 0 2 2 false).w7 = ~~~(srvRec 0 2 2 false).w0 ∧ (srvRec (2 ^ 32) 2 2).fld 0 32 1 = 1
      ∧ [1, 15].all (fun t => decide (t < v.vocab)) = true ∧ ¬16 < v.vocab ∧ (63 : Nat) < v.cfg.maxContext ∧ v.pagesFor 63 ≤ v.cfg.kvPages ∧ ¬(64 : Nat) < v.cfg.maxContext)
      ∧ (let q : SrvReq := { id := 0, prompt := [1, 2], maxNew := 2, mode := 0, topK := 1, temp := 0, topP := 0, stop := 0, seed := 0 }
         let x : SrvSeq := { req := q, step := 2 }
         let v0 : Srv := (serving { batch := [x] } 1).srvOf 3
         v0.stepping = false ∧ v0.batch ≠ [] ∧ v0.batch.length ≤ v0.room ∧ ((serving { batch := [x], prod := 16 } 1).srvOf 3).room < 1 ∧ x.step ≠ 0 ∧ x.req.prefill ≤ x.done + x.step
          ∧ { x with step := 1 }.done + { x with step := 1 }.step < x.req.prefill ∧ q.mode = 0
          ∧ (let d : Dev := (((serving { batch := [x] } 1).wf F.PRT_STATUS_READY 8).wf F.PRT_STATUS_READY 15)
             (d.wf (F.MIL_SRV_STAT_STATE 3) 1).srvState 3 = 1))
      ∧ ({} : Dev).pmu.bwDone = none ∧ ({ pmu := { bwDone := some ([], 5) } } : Dev).pmu.bwDone = some ([], 5)
      ∧ (let x : Sample := { part := 0, spool := 0, slot := 0, pc := 0, event := 0, daddr := 0, sp := false, noReg := true, lane := 0, tag := 0, ring := 0 }
         let d (full : Bool) (m : Dev) : Dev := ({ m with pmu := { samples := [x] } } : Dev).wb (F.PMU_SAMP_STAT_FULL 0) full
         x.part < 4 ∧ (d false {}).regionSize (.part 0) < 0 + 2 ^ 20 ∧ ¬(d false mapped).regionSize (.part 0) < 0 + 2 ^ 20 ∧ (d true mapped).rb (F.PMU_SAMP_STAT_FULL 0) = true
          ∧ (d false mapped).rb (F.PMU_SAMP_STAT_FULL 0) = false) := by decide +kernel

/-! ### Worked examples of the manual -/

/-- 2: 0.3, as FP32, converted to E4M3, and one MXFP4 block under both rules. -/
theorem test_conversions :
    (convert (Fmt.fp32.decode 0x3E99999A) .fp8e4m3 .rne false 0).bits = 0x2A
      ∧ mxBlock .mxfp4 false .rne false [(.fin false 45 (-1), 0), (.fin true 5452595 (-21), 0), (.fin false 1 0, 0)] = ([0x7, 0x9, 0x0], 0x81, false, false)
      ∧ (mxScale .mxfp4 true [.fin false 45 (-1)]).1 = 2 ∧ (mxScale .mxfp4 false [.fin false 79 (-3), .fin false 8 (-1)]).1 = 1
      ∧ (mxScale .mxfp4 true [.fin false 253 (-5)]).1 = 1 ∧ (mxScale .mxfp4 false [.fin false 253 (-5)]).1 = 0
      ∧ (convert (.fin false 1027 (-10)) .bf16 .sr false 40960).bits = 0x3F81 ∧ (convert (.fin false 1027 (-10)) .bf16 .sr false 40959).bits = 0x3F80
      ∧ (convert (.fin false 7 140) .fp32 .rne false 0).bits = 0x7F7FFFFF ∧ (convert (.fin false 7 140) .fp32 .rne false 0).sat = true := by decide +kernel

/-- 4: four BF16 products in the native order and in the Igoux order. -/
theorem test_orders :
    let one : Machine.Num := .fin false 1 0
    let eps : Machine.Num := .fin false 1 (-24)
    let ps : List Machine.Num := [one, eps, eps, .zero false]
    let s := passNative (some 0) (some 0) ps
    s.anchor = -81 ∧ (convert (Machine.Num.ofScaled s.acc s.anchor) .fp32 .rne false 0).bits = 0x3F800001 ∧ (passIgoux 2 ps).s32 = some 0x3F800000 ∧ (passIgoux 4 ps).s32 = some 0x3F800000
      ∧ cutTo (.fin false 3 (-53)) (-51) = 0 ∧ cutTo (.fin true 3 (-53)) (-51) = -1 := by decide +kernel

/-- A fused partition with every channel: L_0[i] is stack i mod 8, channel i ÷ 8. -/
def fused (common : Nat := 0) : Dev :=
  { mem := { MemSt.reset with chanLists := [(List.range 256).map (fun i => 32 * (i % 8) + i / 8), [], [], []], commonGranules := common } }

/-- 8: where an address lies; 9: the sizes of the regions. -/
theorem test_addresses :
    fused.channelOf (.part 0) 0x500040A40 = some (194, 0x05000640) ∧ (fused.channelOf (.part 0) (0x500040A40 + 1024)).map (·.1) = some (32 * 7 + 2)
      ∧ keySet (lineKey 194 (0x05000640 / 128)) = (194, 12) ∧ fused.addrOf 194 0x05000640 = some (.part 0, 0x500040A40)
      ∧ (fused 65536).gc = 2031616 ∧ (fused 65536).regionSize (.part 0) = 496 * 2 ^ 30 := by decide +kernel

/-- 9: one data symbol in error, with no mark; five in error beyond t = 3; two erased and two more found; two erased and three more. -/
theorem test_codeword :
    Rs.decode [(17, 0x5A)] [] 3 = some ([(17, 0x5A)], 1) ∧ Rs.decode [(17, 1), (19, 2)] [17, 19] 2 = some ([(17, 1), (19, 2)], 0)
      ∧ (Rs.decode [(17, 1), (19, 2), (70, 7)] [17, 19] 1).isSome = true ∧ Rs.residue [(17, 0x5A)] [(17, 0x5A)] = [] := by decide +kernel

/-- 12: the ports of a route across two wrap links; 1: the withheld Turns at L = 4; 11: a doorbell word; 18: set-up offsets; 19: a power level. -/
theorem test_tables :
    dimensionPort (63 + 63 * 2 ^ 6 + 15 * 2 ^ 12) 0x3F0A 0x3E08A = some 1 ∧ dimensionPort (63 + 63 * 2 ^ 6 + 15 * 2 ^ 12) 0x3EF0A 0x3E08A = some 2
      ∧ ((List.range 16).filter (fun n => withheldAt n 4)) = [3, 7, 11, 15] ∧ doorbellWord 0xC = 0xFFFFFFF30000000C ∧ doorbellOk 0xFFFFFFF30000000C = true
      ∧ F.QUE_RCTL_CLASS 133 = ⟨0xD02170, (F.QUE_RCTL_CLASS 0).lo, (F.QUE_RCTL_CLASS 0).w⟩ ∧ Reg.GRN_SLICE_HOTBANK 194 = 0x8C2008
      ∧ Reg.HBM_CHAN 6 2 = 0xA60110 ∧ Reg.FAB_ING_B 17 = 0xE00E88 ∧ Reg.PMU_SNAP_CNT 9 3 = 0x1122498
      ∧ powerLevel 0 1600 (1835, 1) (0, 0) = 3 := by decide +kernel

/-- 18: TRN_PERIOD written with 50,000 reads 100,000 and is counted as clamped. -/
theorem test_clamp :
    let d := ((({} : Dev).wf F.SEC_STATUS_STAGE 5).setupWrite 0x200000 8 50000).1
    d.rf F.TRN_PERIOD_PERIOD_NS = 100000 ∧ d.rf F.CFG_CLAMP_COUNT_COUNT = 1 := by decide +kernel

/-- PMU_SAMP_CTL0 and PMU_BW_OUT32, which R718 places at one offset, keep a value each. -/
theorem test_equal_offsets :
    let d := ((({} : Dev).wf (F.PMU_SAMP_CTL_PERIOD 0) 9).wf (F.PMU_BW_OUT_BYTES 32) 7)
    d.rf (F.PMU_SAMP_CTL_PERIOD 0) = 9 ∧ d.rf (F.PMU_BW_OUT_BYTES 32) = 7 ∧ (regFind (Reg.PMU_SAMP_CTL 0)).any (fun r => r.1.name == "PMU_SAMP_CTL") = true := by
  decide +kernel

end Sys2Proof.Tests
end

section
/-!
Proofs, register fields: what a field of a set-up register reads after a write to the same field, to another field of its register, and to another
register; whole-field writes are described bit by bit.
-/
namespace Sys2Proof.Machine

/-- Where a field lies in a 64-bit register. -/
abbrev Fld.inWord (f : Fld) : Prop := f.lo + f.w ≤ 64

/-- Two fields of different registers, or of one register without a common bit. -/
abbrev Fld.apart (f g : Fld) : Prop := f.off = g.off → g.lo + g.w ≤ f.lo ∨ f.lo + f.w ≤ g.lo

theorem testBit_bitsAt (x lo w i : Nat) : (bitsAt x lo w).testBit i = (decide (i < w) && x.testBit (lo + i)) := by
  simp [bitsAt, Nat.testBit_mod_two_pow]

/-- A field write cuts the word into the bits above, the new value and the bits below. -/
theorem withBits_eq (x lo w v : Nat) : withBits x lo w v = 2 ^ lo * (2 ^ w * (x / 2 ^ lo / 2 ^ w) + v % 2 ^ w) + x % 2 ^ lo := by
  have low := Nat.div_add_mod x (2 ^ lo)
  have mid := Nat.div_add_mod (x / 2 ^ lo) (2 ^ w)
  have split : x = 2 ^ lo * (2 ^ w * (x / 2 ^ lo / 2 ^ w)) + 2 ^ lo * (x / 2 ^ lo % 2 ^ w) + x % 2 ^ lo := by
    rw [← Nat.mul_add, mid, low]
  simp only [withBits, bitsAt, Nat.shiftRight_eq_div_pow, Nat.shiftLeft_eq, Nat.mul_add]
  rw [Nat.mul_comm (x / 2 ^ lo % 2 ^ w), Nat.mul_comm (v % 2 ^ w)]
  omega

/-- After a field write the field's bits are the value's and the other bits are as they were. -/
theorem testBit_withBits (x lo w v i : Nat) :
    (withBits x lo w v).testBit i = if lo ≤ i ∧ i < lo + w then v.testBit (i - lo) else x.testBit i := by
  rw [withBits_eq, Nat.testBit_two_pow_mul_add _ (Nat.mod_lt _ (Nat.two_pow_pos lo))]
  by_cases below : i < lo
  · simp [below, Nat.testBit_mod_two_pow, Nat.not_le.2 below]
  · have hlo : lo ≤ i := Nat.le_of_not_lt below
    rw [if_neg below, Nat.testBit_two_pow_mul_add _ (Nat.mod_lt _ (Nat.two_pow_pos w))]
    by_cases inside : i - lo < w
    · have hi : i < lo + w := by omega
      simp [inside, hlo, hi, Nat.testBit_mod_two_pow]
    · have hi : ¬ i < lo + w := by omega
      have back : i - lo - w + w + lo = i := by omega
      simp [inside, hi, Nat.testBit_div_two_pow, back]

/-- A field write changes the field's register alone. -/
theorem Dev.reg_wf (d : Dev) (f : Fld) (v off : Nat) :
    (d.wf f v).reg off = if off = f.off then BitVec.ofNat 64 (withBits (d.reg f.off).toNat f.lo f.w v) else d.reg off :=
  SMap.get_set ..

/-- The bits of a register after a field write. -/
theorem Dev.testBit_reg_wf (d : Dev) (f : Fld) (v i : Nat) (hi : i < 64) (off : Nat) :
    ((d.wf f v).reg off).toNat.testBit i =
      if off = f.off ∧ f.lo ≤ i ∧ i < f.lo + f.w then v.testBit (i - f.lo) else (d.reg off).toNat.testBit i := by
  rw [Dev.reg_wf]
  by_cases h : off = f.off
  · simp only [h, if_pos, BitVec.toNat_ofNat, Nat.testBit_mod_two_pow, hi, decide_true, Bool.true_and, testBit_withBits, true_and]
  · simp only [h, if_neg, not_false_eq_true, false_and]

/-- A field reads the value last written to it, cut to its width. -/
theorem Dev.rf_wf_same (d : Dev) {f : Fld} (v : Nat) (h : f.inWord) : (d.wf f v).rf f = v % 2 ^ f.w := by
  refine Nat.eq_of_testBit_eq fun i => ?_
  rw [Dev.rf, testBit_bitsAt, Nat.testBit_mod_two_pow]
  by_cases hi : i < f.w
  · have h64 : f.lo + i < 64 := by unfold Fld.inWord at h; omega
    simp [Dev.testBit_reg_wf, h64, hi]
  · simp [hi]

/-- A field keeps its value when another is written. -/
theorem Dev.rf_wf_apart (d : Dev) {f g : Fld} (v : Nat) (hg : g.inWord) (h : g.apart f) : (d.wf f v).rf g = d.rf g := by
  refine Nat.eq_of_testBit_eq fun i => ?_
  simp only [Dev.rf, testBit_bitsAt]
  by_cases hi : i < g.w
  · have h64 : g.lo + i < 64 := by unfold Fld.inWord at hg; omega
    have away : ¬ (g.off = f.off ∧ f.lo ≤ g.lo + i ∧ g.lo + i < f.lo + f.w) := by
      rintro ⟨ho, h1, h2⟩
      have := h ho
      omega
    rw [Dev.testBit_reg_wf d f v _ h64, if_neg away]
  · simp [hi]

theorem Dev.rf_wb_apart (d : Dev) {f g : Fld} (v : Bool) (hg : g.inWord) (h : g.apart f) : (d.wb f v).rf g = d.rf g :=
  d.rf_wf_apart _ hg h

theorem Dev.rb_wf_apart (d : Dev) {f g : Fld} (v : Nat) (hg : g.inWord) (h : g.apart f) : (d.wf f v).rb g = d.rb g := by
  rw [Dev.rb, d.rf_wf_apart v hg h, Dev.rb]

theorem Dev.rb_wb_apart (d : Dev) {f g : Fld} (v : Bool) (hg : g.inWord) (h : g.apart f) : (d.wb f v).rb g = d.rb g :=
  d.rb_wf_apart _ hg h

/-- A one-bit field reads the bit last written to it. -/
theorem Dev.rb_wb_same (d : Dev) {f : Fld} (v : Bool) (hf : f.inWord) (hw : f.w = 1) : (d.wb f v).rb f = v := by
  rw [Dev.rb, Dev.wb, d.rf_wf_same _ hf, hw]
  cases v <;> rfl

theorem Dev.rf_lt (d : Dev) (f : Fld) : d.rf f < 2 ^ f.w := Nat.mod_lt _ (Nat.two_pow_pos _)

end Sys2Proof.Machine
end

section
/-!
Proofs, the state right after reset (chapter 18, R23, R47).
-/
namespace Sys2Proof.Machine

/-- Nothing has written a register yet. -/
theorem State.reset_reg (off : Nat) : State.reset.dev.reg off = regReset off := rfl

/-- Settles O3: the registers hold their reset words, of which the four fields named are read; the lists of work and the memories are empty. -/
theorem resetState : Obligations.ResetState := by
  unfold Obligations.ResetState
  refine ⟨rfl, State.reset_reg, ?master, ?period, ?count, ?stage, rfl, fun _ => rfl, MemSt.wf_reset, rfl⟩
  all_goals simp only [Dev.rb, Dev.rf, State.reset_reg]
  all_goals decide +kernel

end Sys2Proof.Machine
end

section
/-!
Proofs, the Turn boundary: what step 1 and step 5 of R33 leave in the registers and in the generator, and how many of 16 Turns a level withholds.
-/
namespace Sys2Proof.Machine

/-! ### Step 1: number and period -/

/-- The number the boundary is due to carry: the one a symbol gave, else the next (R19, R29). -/
def Dev.dueNumber (d : Dev) : Nat := d.ctl.due.getD ((d.turn + 1) % 2 ^ 32)

/-- The period of the Turn that begins (R23, R24). -/
def Dev.duePeriod (d : Dev) : Nat := if d.ownPeriod then d.ctl.masterNext else d.announcedFor d.dueNumber

/-- The phase error that the boundary takes out, at most 1 µs (R28). -/
def Dev.dueCorrection (d : Dev) : Int := if d.ownPeriod then 0 else max (-1000) (min 1000 d.ctl.phaseLeft)

/-- The registers that step 1 writes. -/
def Dev.numbered (d : Dev) : Dev :=
  let e := ((d.wf F.TRN_COUNT_COUNT d.dueNumber).wf F.TRN_LAST_BOUNDARY_TIMESTAMP_NS (max d.time d.ctl.boundaryAt)).wf F.TRN_PERIOD_ACTIVE_NS d.duePeriod
  if d.dueNumber = (d.turn + 1) % 2 ^ 32 then e else e.wb F.TRN_STATUS_RENUMBERED true

theorem Dev.stepNumber_rf (d : Dev) (f : Fld) : d.stepNumber.rf f = d.numbered.rf f := by
  unfold Dev.stepNumber
  dsimp only
  split
  · next h => rw [Dev.numbered, if_pos (show d.dueNumber = (d.turn + 1) % 2 ^ 32 from h)]; rfl
  · next h => rw [Dev.numbered, if_neg (show ¬ d.dueNumber = (d.turn + 1) % 2 ^ 32 from h)]; rfl

theorem Dev.stepNumber_rb (d : Dev) (f : Fld) : d.stepNumber.rb f = d.numbered.rb f := by simp only [Dev.rb, Dev.stepNumber_rf]

theorem Dev.stepNumber_time (d : Dev) : d.stepNumber.time = max d.time d.ctl.boundaryAt := by
  unfold Dev.stepNumber; dsimp only; split <;> rfl

theorem Dev.stepNumber_mem (d : Dev) : d.stepNumber.mem = d.mem := by
  unfold Dev.stepNumber; dsimp only; split <;> rfl

theorem Dev.stepNumber_out (d : Dev) : d.stepNumber.out = d.out := by
  unfold Dev.stepNumber; dsimp only; split <;> rfl

theorem Dev.stepNumber_due (d : Dev) : d.stepNumber.ctl.due = none := by
  unfold Dev.stepNumber; dsimp only

theorem Dev.stepNumber_boundaryAt (d : Dev) :
    d.stepNumber.ctl.boundaryAt = max d.time d.ctl.boundaryAt + turnLength d.duePeriod d.dueCorrection := by
  unfold Dev.stepNumber; dsimp only; split <;> rfl

/-- The correction is within 1 µs already, so the Turn's length does not cut it again. -/
theorem Dev.turnLength_dueCorrection (d : Dev) (period : Nat) :
    (turnLength period d.dueCorrection : Int) = max 0 ((period : Int) - d.dueCorrection) := by
  have bounds : -1000 ≤ d.dueCorrection ∧ d.dueCorrection ≤ 1000 := by
    unfold Dev.dueCorrection
    split <;> omega
  unfold turnLength
  omega

theorem Dev.numbered_count (d : Dev) : d.numbered.rf F.TRN_COUNT_COUNT = d.dueNumber % 2 ^ F.TRN_COUNT_COUNT.w := by
  unfold Dev.numbered
  dsimp only
  split <;> simp (disch := decide) only [Dev.rf_wb_apart, Dev.rf_wf_apart, Dev.rf_wf_same]

theorem Dev.numbered_timestamp (d : Dev) :
    d.numbered.rf F.TRN_LAST_BOUNDARY_TIMESTAMP_NS = max d.time d.ctl.boundaryAt % 2 ^ F.TRN_LAST_BOUNDARY_TIMESTAMP_NS.w := by
  unfold Dev.numbered
  dsimp only
  split <;> simp (disch := decide) only [Dev.rf_wb_apart, Dev.rf_wf_apart, Dev.rf_wf_same]

theorem Dev.numbered_period (d : Dev) : d.numbered.rf F.TRN_PERIOD_ACTIVE_NS = d.duePeriod % 2 ^ F.TRN_PERIOD_ACTIVE_NS.w := by
  unfold Dev.numbered
  dsimp only
  split <;> simp (disch := decide) only [Dev.rf_wb_apart, Dev.rf_wf_same]

/-- RENUMBERED is set when the number is not the next one, and never cleared by a boundary (R29). -/
theorem Dev.numbered_renumbered (d : Dev) :
    d.numbered.rb F.TRN_STATUS_RENUMBERED = true ↔ d.rb F.TRN_STATUS_RENUMBERED = true ∨ d.dueNumber ≠ (d.turn + 1) % 2 ^ 32 := by
  unfold Dev.numbered
  dsimp only
  split
  · next h => simp (disch := decide) only [Dev.rb_wf_apart, h, ne_eq, not_true_eq_false, or_false]
  · next h => simp (disch := decide) only [Dev.rb_wb_same, h, ne_eq, not_false_eq_true, or_true]

/-! ### Step 5: the level -/

@[simp] theorem Dev.ibi_rf (d : Dev) (b : Bool) (f : Fld) : (d.ibi b).rf f = d.rf f := rfl

/-- Step 5 writes the level and the mark of a withheld Turn; an in-band interrupt changes no register (R41, R43). -/
theorem Dev.levelBoundary_rf (d : Dev) (staged : Nat) (f : Fld) :
    (d.levelBoundary staged).rf f = ((d.wf F.TRN_CTRL_THERM_LEVEL (min 15 (max staged d.ctl.floorSetup))).wb F.TRN_STATUS_WITHHELD
      (withheldAt d.turn (min 15 (max staged d.ctl.floorSetup)))).rf f := by
  unfold Dev.levelBoundary
  dsimp only
  split
  · exact Dev.ibi_rf _ _ _
  · rfl

theorem Dev.levelBoundary_level (d : Dev) (staged : Nat) :
    (d.levelBoundary staged).rf F.TRN_CTRL_THERM_LEVEL = min 15 (max staged d.ctl.floorSetup) := by
  have fits : min 15 (max staged d.ctl.floorSetup) < 2 ^ F.TRN_CTRL_THERM_LEVEL.w := Nat.lt_of_le_of_lt (Nat.min_le_left ..) (by decide)
  simp (disch := decide) only [Dev.levelBoundary_rf, Dev.rf_wb_apart, Dev.rf_wf_same]
  exact Nat.mod_eq_of_lt fits

theorem Dev.levelBoundary_withheld (d : Dev) (staged : Nat) :
    (d.levelBoundary staged).rb F.TRN_STATUS_WITHHELD = withheldAt d.turn (min 15 (max staged d.ctl.floorSetup)) := by
  rw [Dev.rb, Dev.levelBoundary_rf, ← Dev.rb]
  exact Dev.rb_wb_same _ _ (by decide) rfl

/-- Withholding goes by the place of a Turn among 16. -/
theorem withheldAt_add_mul (q j l : Nat) : withheldAt (16 * q + j) l = withheldAt j l := by
  simp only [withheldAt, Nat.mul_add_mod]

/-- The number of withheld Turns before place `m` is the rounded share `m * l / 16`: each Turn adds the step of that staircase, 0 or 1 (R41). -/
theorem countP_withheldAt (l m : Nat) (hl : l ≤ 15) (hm : m ≤ 16) : (List.range m).countP (fun j => withheldAt j l) = m * l / 16 := by
  induction m with
  | zero => simp
  | succ m ih =>
    rw [List.range_succ, List.countP_append, ih (by omega), List.countP_singleton, withheldAt, Nat.mod_eq_of_lt (by omega : m < 16)]
    have step : (m + 1) * l = m * l + l := Nat.succ_mul m l
    simp only [decide_eq_true_eq]
    split <;> omega

/-! ### The command -/

theorem exec_turnBoundary {s : State} (h : s.running = true) (t : Telemetry) :
    exec (.turnBoundary t) s = .next (s.after (cmdTurnBoundary t s.dev)) := onDev_running h

/-- Before start-up has ended a boundary does nothing. -/
theorem cmdTurnBoundary_of_early {t : Telemetry} {d : Dev} (h : d.rf F.SEC_STATUS_STAGE < 4) : cmdTurnBoundary t d = d := if_pos h

/-- Settles O41: the command is the composition of R33's steps, and steps 1 and 5 have the effects that the lemmas above state. -/
theorem turnBoundary : Obligations.TurnBoundary := by
  unfold Obligations.TurnBoundary
  refine ⟨fun s t hrun => ⟨fun early => ?_, fun late => ?_⟩, fun d => ?_, fun d staged => ?_, fun q l hl => ?_⟩
  · rw [exec_turnBoundary hrun, cmdTurnBoundary_of_early early]
  · rw [exec_turnBoundary hrun, cmdTurnBoundary, if_neg (Nat.not_lt.2 late)]
    rfl
  · have count := d.numbered_count
    have boundary := congrArg (Nat.cast (R := Int)) d.stepNumber_boundaryAt
    have length := d.turnLength_dueCorrection d.duePeriod
    rw [← Dev.stepNumber_rf] at count
    refine ⟨count, d.stepNumber_time, ?_, ?_, ?_, ?_, d.stepNumber_due, d.stepNumber_mem, d.stepNumber_out⟩
    · rw [Dev.stepNumber_rf, Dev.stepNumber_time, Dev.numbered_timestamp]
      rfl
    · rw [Dev.stepNumber_rf, Dev.numbered_period]
      rfl
    · rw [Dev.stepNumber_rb, Dev.numbered_renumbered]
      rfl
    · rw [Dev.stepNumber_time, boundary, Int.natCast_add, length]
      change _ = max _ (_ + (d.duePeriod : Int) - d.dueCorrection)
      omega
  · refine ⟨d.levelBoundary_level staged, ?_⟩
    rw [Dev.levelBoundary_withheld, withheldAt, decide_eq_true_eq]
  · simp only [withheldAt_add_mul]
    rw [countP_withheldAt l 16 hl (Nat.le_refl 16), Nat.mul_div_cancel_left l (by decide)]

end Sys2Proof.Machine
end

section
/-!
Proofs, Turn symbols and holdover (R22, R28 to R31): which registers and which part of the generator a symbol changes, and what a module in holdover
goes on with.
-/
namespace Sys2Proof.Machine

/-! ### A symbol of the UPSTREAM port -/

/-- The upstream boundary that a symbol tells of, in 1/16 ns of the module timestamp (R28). -/
def Dev.symbolTime (d : Dev) (port arrival : Nat) (p : Packet) : Int :=
  (arrival : Int) - (bitsAt p.addr 32 16 : Nat) - (d.linkOf port).hopDelay

/-- The last own boundary, in 1/16 ns. -/
def Dev.lastBoundary (d : Dev) : Int := (16 * d.rf F.TRN_LAST_BOUNDARY_TIMESTAMP_NS : Nat)

/-- The next own boundary, in 1/16 ns. -/
def Dev.nextBoundary (d : Dev) : Int := (16 * d.ctl.boundaryAt : Nat)

/-- The upstream boundary at `up` is paired with the last own boundary, which is the nearer one or as near (R28, log entry 43). -/
abbrev Dev.pairsLast (d : Dev) (up : Int) : Prop := (d.lastBoundary - up).natAbs ≤ (d.nextBoundary - up).natAbs

/-- The phase error in ns (R28). -/
def Dev.phaseError (d : Dev) (up : Int) : Int := ((if d.pairsLast up then d.lastBoundary else d.nextBoundary) - up) / 16

/-- The registers that a phase error writes: the error, the alarm, the end of holdover (R28, R30). -/
def Dev.notePhase (d : Dev) (err : Int) : Dev :=
  let e := d.wf F.TRN_PHASE_ERR_ERR_NS (ofSigned 32 err)
  (if 250 < err.natAbs then e.wb F.TRN_STATUS_SKEW_ALARM true else e).wb F.TRN_STATUS_HOLDOVER false

/-- The module after it has taken a symbol of its UPSTREAM port whose boundary is at `up`. -/
def Dev.takeSymbol (d : Dev) (up : Int) (p : Packet) : Dev :=
  let e := d.notePhase (d.phaseError up)
  { e with ctl := { e.ctl with
      due := some (if d.pairsLast up then (p.aux + 1) % 2 ^ 32 else p.aux % 2 ^ 32), phaseLeft := d.phaseError up, sinceSymbol := 0,
      announced := (e.ctl.announced.filter (fun x => decide (x.1 ≠ (p.aux + 1) % 2 ^ 32))).take 7 ++ [((p.aux + 1) % 2 ^ 32, p.addr % 2 ^ 30)] } }

@[simp] theorem Dev.notePhase_ctl (d : Dev) (err : Int) : (d.notePhase err).ctl = d.ctl := by unfold Dev.notePhase; dsimp only; split <;> rfl
@[simp] theorem Dev.notePhase_mem (d : Dev) (err : Int) : (d.notePhase err).mem = d.mem := by unfold Dev.notePhase; dsimp only; split <;> rfl
@[simp] theorem Dev.notePhase_fab (d : Dev) (err : Int) : (d.notePhase err).fab = d.fab := by unfold Dev.notePhase; dsimp only; split <;> rfl
@[simp] theorem Dev.notePhase_out (d : Dev) (err : Int) : (d.notePhase err).out = d.out := by unfold Dev.notePhase; dsimp only; split <;> rfl

theorem Dev.notePhase_holdover (d : Dev) (err : Int) : (d.notePhase err).rb F.TRN_STATUS_HOLDOVER = false := Dev.rb_wb_same _ _ (by decide) rfl

/-- A two's-complement value has the width asked for. -/
theorem ofSigned_lt (w : Nat) (x : Int) : ofSigned w x < 2 ^ w := by
  have pos : (0 : Int) < ((2 ^ w : Nat) : Int) := Int.natCast_pos.2 (Nat.two_pow_pos w)
  have := Int.emod_nonneg x (Int.ne_of_gt pos)
  have := Int.emod_lt_of_pos x pos
  unfold ofSigned
  omega

theorem Dev.notePhase_error (d : Dev) (err : Int) : (d.notePhase err).rf F.TRN_PHASE_ERR_ERR_NS = ofSigned 32 err := by
  have fits : ofSigned 32 err % 2 ^ F.TRN_PHASE_ERR_ERR_NS.w = ofSigned 32 err := Nat.mod_eq_of_lt (ofSigned_lt 32 err)
  unfold Dev.notePhase
  dsimp only
  split <;> simp (disch := decide) only [Dev.rf_wb_apart, Dev.rf_wf_same, fits]

theorem Dev.notePhase_alarm (d : Dev) {err : Int} (h : 250 < err.natAbs) : (d.notePhase err).rb F.TRN_STATUS_SKEW_ALARM = true := by
  unfold Dev.notePhase
  dsimp only
  rw [if_pos h]
  simp (disch := decide) only [Dev.rb_wb_apart, Dev.rb_wb_same]

/-! ### The command TURN_SYMBOL -/

/-- A symbol of a port that is not UPSTREAM, and any symbol of a master, is counted and does nothing else (R31). -/
theorem cmdTurnSymbol_foreign {d : Dev} {port : Nat} {p : Packet} (hport : port < 6) (hkind : p.kind = 0xD) (hup : d.linkUp port = true)
    (hforeign : (d.takePacket port p).upstream ≠ some port) (arrival : Nat) (rpl : Bool) :
    cmdTurnSymbol port arrival rpl p d = (d.takePacket port p).bump F.TRN_STATUS_FOREIGN_SYMBOLS 1 := by
  have taken : ¬ (6 ≤ port ∨ p.kind ≠ 0xD ∨ (!d.linkUp port) = true) := by simp [hkind, hup, hport]
  rw [cmdTurnSymbol, if_neg taken]
  exact if_pos hforeign

/-- A symbol of the UPSTREAM port that is no replay is taken (R28 to R30). -/
theorem cmdTurnSymbol_upstream {d : Dev} {port : Nat} {p : Packet} (hport : port < 6) (hkind : p.kind = 0xD) (hup : d.linkUp port = true)
    (hours : (d.takePacket port p).upstream = some port) (arrival : Nat) :
    cmdTurnSymbol port arrival false p d = (d.takePacket port p).takeSymbol ((d.takePacket port p).symbolTime port arrival p) p := by
  have taken : ¬ (6 ≤ port ∨ p.kind ≠ 0xD ∨ (!d.linkUp port) = true) := by simp [hkind, hup, hport]
  rw [cmdTurnSymbol, if_neg taken]
  dsimp only
  rw [if_neg (Decidable.not_not.2 hours), if_neg Bool.false_ne_true]
  simp only [Nat.mul_comm _ 16, decide_eq_true_eq]
  rfl

/-! ### Holdover -/

/-- The registers of a module that goes over to its own period (R30). -/
def Dev.holdRegs (d : Dev) : Dev :=
  (d.wf F.TRN_PERIOD_ACTIVE_NS (d.rf F.TRN_PERIOD_PERIOD_NS)).wb F.TRN_STATUS_HOLDOVER true

/-- The generator in holdover: on its own period from the last boundary, without a phase to correct (R30). -/
def Dev.holdCtl (d : Dev) : CtlSt :=
  { d.ctl with boundaryAt := d.rf F.TRN_LAST_BOUNDARY_TIMESTAMP_NS + d.rf F.TRN_PERIOD_PERIOD_NS, phaseLeft := 0 }

theorem cmdHoldover_of_master {d : Dev} (h : d.rb F.TRN_CTRL_MASTER = true) : cmdHoldover d = d := if_pos (.inl h)

theorem cmdHoldover_enters {d : Dev} (hm : d.rb F.TRN_CTRL_MASTER = false) (hh : d.rb F.TRN_STATUS_HOLDOVER = false)
    (hlost : d.rf F.TRN_CTRL_UPSTREAM = 0 ∨ d.rf F.TRN_CTRL_UPSTREAM = 7 ∨ 2 ≤ d.ctl.sinceSymbol) :
    cmdHoldover d = ({ d.holdRegs with ctl := d.holdCtl } : Dev).postError { cls := 0, source := 0x01, event := 0x01 } := by
  rw [cmdHoldover, if_neg (by simp [hm, hh]), if_pos (or_assoc.2 hlost)]
  rfl

theorem Dev.holdRegs_holdover (d : Dev) : d.holdRegs.rb F.TRN_STATUS_HOLDOVER = true := Dev.rb_wb_same _ _ (by decide) rfl

/-- Both periods of TRN_PERIOD have one width, so the own period is in force uncut. -/
theorem Dev.holdRegs_period (d : Dev) : d.holdRegs.rf F.TRN_PERIOD_ACTIVE_NS = d.rf F.TRN_PERIOD_PERIOD_NS := by
  unfold Dev.holdRegs
  simp (disch := decide) only [Dev.rf_wb_apart, Dev.rf_wf_same]
  exact Nat.mod_eq_of_lt (d.rf_lt F.TRN_PERIOD_PERIOD_NS)

/-- Settles O42: a foreign symbol is counted, one of the UPSTREAM port is taken, and a disciplined module without symbols goes into holdover. -/
theorem turnSymbols : Obligations.TurnSymbols := by
  unfold Obligations.TurnSymbols
  refine fun s hrun => ⟨fun port arrival rpl p hport hkind hup => ⟨fun hforeign => ?_, fun hours hrpl => ?_⟩, fun hm hh hlost => ?_, fun hm => ?_⟩
  · rw [← cmdTurnSymbol_foreign hport hkind hup hforeign arrival rpl]
    exact onDev_running hrun
  · subst hrpl
    have taken := cmdTurnSymbol_upstream hport hkind hup hours arrival
    generalize s.dev.takePacket port p = d at taken ⊢
    refine ⟨d.takeSymbol (d.symbolTime port arrival p) p, ?_, d.notePhase_holdover _, d.notePhase_mem _, d.notePhase_fab _, d.notePhase_out _,
      rfl, d.notePhase_error _, d.notePhase_alarm, ?_, ?_, ?_⟩
    · rw [← taken]
      exact onDev_running hrun
    · simp only [Dev.takeSymbol, apply_ite (· % 2 ^ 32)]
      rfl
    · simp [Dev.takeSymbol]
    · simp [Dev.takeSymbol]
  · refine ⟨{ s.dev.holdRegs with ctl := s.dev.holdCtl }, ?_, s.dev.holdRegs_holdover, s.dev.holdRegs_period, rfl, rfl, rfl, rfl⟩
    rw [← cmdHoldover_enters hm hh hlost]
    exact onDev_running hrun
  · exact (onDev_running hrun).trans (by rw [cmdHoldover_of_master hm])

end Sys2Proof.Machine
end

section
/-!
Proofs, saved items (R38, R40, R424): what CONTEXT_SAVE_DONE does with an item whose drain has ended, where a resumed item stands, and why the
statement of O43 fails: it lets a module hold two items of one number, which no admission gives.
-/
namespace Sys2Proof.Machine

/-! ### Where a resumed item stands -/

/-- An item as it resumes: a launch whose arguments are read runs on, every other waits in its queue (R38). -/
def Item.resumed (it : Item) : Item :=
  { it with place := if it.engine = .launch ∧ it.vals.length = 8 then .running else .queued, cause := .none }

theorem Dev.resumeItem_eq (d : Dev) {it : Item} (h : it.engine ≠ .stones) :
    d.resumeItem it = { d with ctl := { d.ctl with items := putBack it.resumed d.ctl.items } } := by
  have begun : (decide (it.engine = .launch) && decide (it.vals.length = 8)) = true ↔ it.engine = .launch ∧ it.vals.length = 8 := by
    rw [Bool.and_eq_true, decide_eq_true_eq, decide_eq_true_eq]
  unfold Dev.resumeItem Item.resumed
  simp only [begun]
  exact if_neg h

/-- An item put into a queue is found there, where no other passes the test. -/
theorem find?_behindRunning_of_mem {it : Item} {f : Item → Bool} (hit : f it = true) {l : List Item} (hl : ∀ x ∈ l, f x = false) :
    (behindRunning it l).find? f = some it := by
  induction l with
  | nil => simp [behindRunning, hit]
  | cons x xs ih =>
    rw [behindRunning]
    split
    · rw [List.find?_cons_of_neg (by simp [hl])]
      exact ih fun y hy => hl y (List.mem_cons_of_mem x hy)
    · exact List.find?_cons_of_pos hit

/-- It hides no other item. -/
theorem find?_behindRunning_of_not {it : Item} {f : Item → Bool} (hit : f it = false) (l : List Item) :
    (behindRunning it l).find? f = l.find? f := by
  induction l with
  | nil => simp [behindRunning, hit]
  | cons x xs ih =>
    rw [behindRunning]
    split
    · simp only [List.find?_cons, ih]
    · exact List.find?_cons_of_neg (by simp [hit])

/-- An item that goes back takes the place of the first of its number, or one behind it. -/
theorem putBack_append_cons {it x : Item} {before after : List Item} (hx : x.id = it.id) (hb : ∀ y ∈ before, y.id ≠ it.id) :
    putBack it (before ++ x :: after) = before ++ behindRunning it after := by
  have stays : ∀ y ∈ before, decide (y.id ≠ it.id) = true := fun y hy => decide_eq_true (hb y hy)
  rw [putBack, List.takeWhile_append_of_pos stays, List.dropWhile_append_of_pos stays]
  simp [hx]

/-- The first item of a number leaves its place to what stood behind it, with the resumed item among that. -/
theorem Dev.items_resumeItem {d : Dev} {it : Item} (hit : d.item it.id = some it) (he : it.engine ≠ .stones) :
    ∃ before after, d.ctl.items = before ++ it :: after ∧ (∀ y ∈ before, y.id ≠ it.id)
      ∧ (d.resumeItem it).ctl.items = before ++ behindRunning it.resumed after := by
  obtain ⟨-, before, after, hitems, hb⟩ := List.find?_eq_some_iff_append.1 hit
  have hne : ∀ y ∈ before, y.id ≠ it.id := fun y hy => by simpa using hb y hy
  refine ⟨before, after, hitems, hne, ?_⟩
  rw [Dev.resumeItem_eq d he, hitems]
  exact putBack_append_cons rfl hne

/-- A resumption moves the item's own entry alone. -/
theorem Dev.item_resumeItem_other {d : Dev} {it : Item} (hit : d.item it.id = some it) (he : it.engine ≠ .stones) {id : Nat} (hid : id ≠ it.id) :
    (d.resumeItem it).item id = d.item id := by
  obtain ⟨before, after, hitems, -, hback⟩ := Dev.items_resumeItem hit he
  have away : decide (it.id = id) = false := decide_eq_false hid.symm
  rw [Dev.item, Dev.item, hitems, hback, List.find?_append, List.find?_append, find?_behindRunning_of_not (it := it.resumed) away,
    List.find?_cons_of_neg (by simp [away])]

/-- With one item of each number, the number of the resumed item finds it. -/
theorem Dev.item_resumeItem_same {d : Dev} {it : Item} (hit : d.item it.id = some it) (he : it.engine ≠ .stones)
    (hids : (d.ctl.items.map (·.id)).Nodup) : (d.resumeItem it).item it.id = some it.resumed := by
  obtain ⟨before, after, hitems, hb, hback⟩ := Dev.items_resumeItem hit he
  have ha : ∀ y ∈ after, y.id ≠ it.id := by
    rw [hitems, List.map_append, List.map_cons] at hids
    exact fun y hy heq => (List.nodup_cons.1 (List.nodup_append.1 hids).2.1).1 (heq ▸ List.mem_map_of_mem hy)
  have skip : (before.find? fun i => decide (i.id = it.id)) = none := List.find?_eq_none.2 fun y hy => by simpa using hb y hy
  rw [Dev.item, hback, List.find?_append, skip, Option.none_or]
  exact find?_behindRunning_of_mem (decide_eq_true rfl) fun y hy => decide_eq_false (ha y hy)

/-! ### The command -/

theorem exec_contextSaveDone {s : State} (h : s.running = true) (item : Nat) :
    exec (.contextSaveDone item) s = .next (s.after (cmdContextSaveDone item s.dev)) := onDev_running h

theorem cmdContextSaveDone_of_not_draining {d : Dev} {item : Nat} {it : Item} (hit : d.item item = some it) (h : it.place ≠ .draining) :
    cmdContextSaveDone item d = d := by
  simp [cmdContextSaveDone, hit, h]

/-- The drain of an item that is no Stones operation ends with its requests and, for a launch, those of its skeins (R424). -/
theorem Dev.drained_of_quiet {d : Dev} {it : Item} (he : it.engine ≠ .stones) (hq : it.engine = .launch → d.launchQuiet it.id = true) :
    d.drained it = true := by
  unfold Dev.drained
  split
  · next h => exact absurd h he
  · next h => exact hq h
  · rfl

/-- An item whose drain has ended is saved; one saved for an overrun that nothing holds resumes at once (R38, R424). -/
theorem cmdContextSaveDone_of_drained {d : Dev} {item : Nat} {it x : Item} (hit : d.item item = some it) (hp : it.place = .draining)
    (he : it.engine ≠ .stones) (hq : it.engine = .launch → d.launchQuiet item = true) (hw : d.winPending (.item item) = false)
    (hx : (d.saveItem it).item item = some x) :
    cmdContextSaveDone item d = if x.cause = .overrun ∧ (d.saveItem it).resumable x = true
      then ((d.saveItem it).resumeItem x).csaFollow (d.saveItem it) else d.saveItem it := by
  have hid : it.id = item := by simpa using List.find?_some hit
  have hdr : d.drained it = true := Dev.drained_of_quiet he (hid.symm ▸ hq)
  simp [cmdContextSaveDone, hit, hp, he, hdr, hw, hx]

/-- O43 where every item has a number of its own, as admission gives them (log entry 7). -/
theorem contextSave_of_distinct_ids (s : State) (item : Nat) (hrun : s.running = true) :
    (∀ it, s.dev.item item = some it → it.place ≠ .draining → exec (.contextSaveDone item) s = .next (s.after s.dev))
    ∧ (∀ it, s.dev.item item = some it → it.place = .draining → it.engine ≠ .stones → (it.engine = .launch → s.dev.launchQuiet item = true) →
        s.dev.winPending (.item item) = false → ∀ x, (s.dev.saveItem it).item item = some x →
          exec (.contextSaveDone item) s = .next (s.after (if x.cause = .overrun ∧ (s.dev.saveItem it).resumable x = true
            then ((s.dev.saveItem it).resumeItem x).csaFollow (s.dev.saveItem it) else s.dev.saveItem it)))
    ∧ (∀ (d : Dev) (it : Item), (d.ctl.items.map (·.id)).Nodup → d.item it.id = some it → it.engine ≠ .stones →
        (d.resumeItem it).item it.id = some it.resumed ∧ ∀ id, id ≠ it.id → (d.resumeItem it).item id = d.item id) := by
  refine ⟨fun it hit hp => ?_, fun it hit hp he hq hw x hx => ?_, fun d it hids hit he => ?_⟩
  · rw [exec_contextSaveDone hrun, cmdContextSaveDone_of_not_draining hit hp]
  · rw [exec_contextSaveDone hrun, cmdContextSaveDone_of_drained hit hp he hq hw hx]
  · exact ⟨Dev.item_resumeItem_same hit he hids, fun id hid => Dev.item_resumeItem_other hit he hid⟩

/-! ### Two items of one number -/

/-- A saved COPY of number 1. -/
def savedCopy : Item := { id := 1, part := 0, ring := 0, seq := 0, desc := Desc.ofWords (fun k => if k = 0 then 0x40 else 0), place := .saved }

/-- A module that holds it and another item of its number and queue, which runs. -/
def twinItems : Dev := { ctl := { items := [savedCopy, { savedCopy with place := .running }] } }

/-- The resumed item goes behind the one that runs, so its number finds the other. -/
theorem twinItems_resumed : (twinItems.resumeItem savedCopy).item 1 = some { savedCopy with place := .running } := by decide +kernel

/-- Refutes O43: its last clause speaks of every module, also of one with two items of one number. There the resumed item stands behind the running
one, and the number finds that one. `contextSave_of_distinct_ids` is O43 with the hypothesis that the numbers differ. -/
theorem not_contextSave : ¬ Obligations.ContextSave := by
  unfold Obligations.ContextSave
  intro h
  obtain ⟨-, -, resumes⟩ := h State.reset 1 (by decide)
  have claimed := (resumes twinItems savedCopy (by decide +kernel) (by decide)).1
  have found := claimed.symm.trans twinItems_resumed
  exact absurd found (by decide +kernel)

end Sys2Proof.Machine
end

section
/-!
Proofs, skeins: counting an instruction changes the event counters, the samples and the skein that has issued, and nothing else (R238, R688).
-/
namespace Sys2Proof.Machine

/-! ### Counting -/

/-- `e` is `d` but for the event counters and the samples. -/
def Dev.countsOnly (d e : Dev) : Prop := e = { d with regs := e.regs, pmu := e.pmu } ∧ ∀ off, countReg off = false → e.reg off = d.reg off

theorem Dev.countsOnly_refl (d : Dev) : d.countsOnly d := ⟨rfl, fun _ _ => rfl⟩

theorem Dev.countsOnly.trans {a b c : Dev} (hab : a.countsOnly b) (hbc : b.countsOnly c) : a.countsOnly c :=
  ⟨by rw [hbc.1, hab.1], fun off h => (hbc.2 off h).trans (hab.2 off h)⟩

theorem Dev.countsOnly.spl {d e : Dev} (h : d.countsOnly e) : e.spl = d.spl := by rw [h.1]

theorem Dev.countsOnly.fresh {d e : Dev} (h : d.countsOnly e) : e.fresh = d.fresh := by rw [h.1]

theorem Dev.countsOnly.sameElsewhere {d e : Dev} (h : d.countsOnly e) : e.sameElsewhere d := by
  rw [h.1]
  simp only [Dev.sameElsewhere, and_self]

/-- The samples and the count of overflows are no register. -/
theorem Dev.countsOnly_pmu (d : Dev) (p : PmuSt) : d.countsOnly { d with pmu := p } := ⟨rfl, fun _ _ => rfl⟩

theorem Dev.countsOnly_ite {d a b : Dev} {c : Prop} [Decidable c] (ha : d.countsOnly a) (hb : d.countsOnly b) : d.countsOnly (if c then a else b) := by
  split
  · exact ha
  · exact hb

theorem Dev.countsOnly_wf (d : Dev) {f : Fld} (v : Nat) (hf : countReg f.off = true) : d.countsOnly (d.wf f v) := by
  refine ⟨rfl, fun off h => ?_⟩
  have away : off ≠ f.off := by
    rintro rfl
    exact absurd hf (by simp [h])
  rw [Dev.reg_wf, if_neg away]

theorem Dev.countsOnly_bump (d : Dev) {f : Fld} (n : Nat) (hf : countReg f.off = true) : d.countsOnly (d.bump f n) := by
  unfold Dev.bump
  split
  · exact d.countsOnly_refl
  · exact d.countsOnly_wf _ hf

theorem Dev.countsOnly_pmuAdd (d : Dev) {c o : Fld} (n : Nat) (hc : countReg c.off = true) (ho : countReg o.off = true) :
    d.countsOnly (d.pmuAdd c o n) := by
  simp only [Dev.pmuAdd]
  split
  · exact (d.countsOnly_wf _ hc).trans (Dev.countsOnly_wf _ _ ho)
  · exact d.countsOnly_wf _ hc

/-- What holds of every step of a fold holds of the fold. -/
theorem Dev.countsOnly_foldl {α : Type} (f : Dev → α → Dev) (l : List α) (h : ∀ e : Dev, ∀ x ∈ l, e.countsOnly (f e x)) (d : Dev) :
    d.countsOnly (l.foldl f d) := by
  induction l generalizing d with
  | nil => exact d.countsOnly_refl
  | cons x xs ih => exact (h d x (by simp)).trans (ih (fun e y hy => h e y (by simp [hy])) (f d x))

/-- The selected counters of a block are the block's sixteen (R688). -/
theorem Dev.pmuSelected_lt (d : Dev) {b k : Nat} {w : Word} (h : (k, w) ∈ d.pmuSelected b) : k < 16 := by
  simp only [Dev.pmuSelected, List.mem_map, List.mem_filter, Bool.and_eq_true, decide_eq_true_eq, Prod.mk.injEq] at h
  obtain ⟨e, ⟨-, low, high⟩, rfl, -⟩ := h
  unfold Reg.PMU_SEL at *
  omega

theorem countReg_pmuCnt {b k : Nat} (hb : b < 42) (hk : k < 16) : countReg (F.PMU_CNT_COUNT b k).off = true := by
  simp only [countReg, Bool.or_eq_true, Bool.and_eq_true, decide_eq_true_eq]
  dsimp only [F.PMU_CNT_COUNT, Reg.PMU_CNT]
  omega

theorem Dev.countsOnly_event (d : Dev) {b : Nat} (hb : b < 42) (ev : Nat) (part : Option Nat) (inst n : Nat) :
    d.countsOnly (d.event b ev part inst n) := by
  unfold Dev.event
  split
  · exact d.countsOnly_refl
  · refine Dev.countsOnly_foldl _ _ (fun e x hx => ?_) d
    have counter := countReg_pmuCnt hb (d.pmuSelected_lt hx)
    have counts := e.countsOnly_pmuAdd (o := F.PMU_CNT_OVF b x.1) n counter counter
    exact Dev.countsOnly_ite (Dev.countsOnly_ite (counts.trans (Dev.countsOnly_pmu _ _)) counts) e.countsOnly_refl

theorem Dev.countsOnly_sampleTick (d : Dev) (k : Nat) (s : Skein) (ev daddr lane : Nat) (sp noReg : Bool) :
    d.countsOnly (d.sampleTick k s ev daddr lane sp noReg) := by
  unfold Dev.sampleTick
  dsimp only
  split
  · exact d.countsOnly_refl
  · exact d.countsOnly_pmu _

/-- The PMU blocks of the Spools are 8 to 23 (R688). -/
theorem Dev.countsOnly_splEvent (d : Dev) {k : Nat} (hk : k < 4096) (s : Skein) (ev n daddr lane : Nat) (sp noReg : Bool) :
    d.countsOnly (d.splEvent k s ev n daddr lane sp noReg) :=
  (d.countsOnly_event (by omega) ev _ _ n).trans (Dev.countsOnly_foldl _ _ (fun e _ _ => e.countsOnly_sampleTick ..) _)

/-! ### Leaving a skein -/

theorem Dev.skein_setSkein (d : Dev) (k j : Nat) (o : Option Skein) : (d.setSkein k o).skein j = if j = k then o else d.skein j := SMap.get_set ..

/-- A module whose skein `k` is `t`, when that skein has issued in this cycle. -/
def Dev.issued (e : Dev) (k : Nat) (t : Skein) : Dev :=
  ({ e with spl := { e.spl with clock := e.spl.clock + 1 } } : Dev).setSkein k (some { t with lastIssue := e.spl.clock + 1 })

/-- Counting an instruction counts its event and notes the cycle in its skein. -/
theorem Dev.counted_eq_issued {e : Dev} {k : Nat} {t : Skein} (hk : k < 4096) (h : e.skein k = some t) (s : Skein) (i : SIns) :
    ∃ x, e.countsOnly x ∧ e.counted k s (some i) = x.issued k t := by
  have counts := e.countsOnly_splEvent hk s 0x300 1 (s.sampleAt i).1 (s.sampleAt i).2.1 (s.sampleAt i).2.2 i.noDest
  refine ⟨_, counts, ?_⟩
  have kept : SMap.get noSkein (e.splEvent k s 0x300 1 (s.sampleAt i).1 (s.sampleAt i).2.1 (s.sampleAt i).2.2 i.noDest).spl.skeins k = some t := by
    rw [counts.spl]
    exact h
  simp only [Dev.counted, Dev.skein, kept, Dev.issued]

/-- Counting the instruction that leaves skein `k` at `t` moves that skein alone. -/
theorem Dev.movesSkein_counted {d e : Dev} {k : Nat} (hk : k < 4096) (h : d.countsOnly e) (s t : Skein) (i : SIns) :
    d.movesSkein ((e.setSkein k (some t)).counted k s (some i)) k (some t) := by
  obtain ⟨x, hx, hc⟩ := Dev.counted_eq_issued hk ((e.skein_setSkein k k (some t)).trans (if_pos rfl)) s i
  have spl : x.spl = { d.spl with skeins := SMap.set noSkein d.spl.skeins k (some t) } := by
    rw [hx.spl, ← h.spl]
    rfl
  have skein (j : Nat) : x.skein j = if j = k then some t else d.skein j := by
    rw [Dev.skein, spl]
    exact SMap.get_set ..
  rw [hc]
  refine ⟨?_, hx.fresh.trans h.fresh, ?_, fun j => ?_, fun off hoff => (hx.2 off hoff).trans (h.2 off hoff)⟩
  · exact (show x.sameElsewhere d from by rw [hx.1]; exact h.sameElsewhere)
  · simp only [Dev.issued, Dev.setSkein, spl]
  · rw [Dev.issued, Dev.skein_setSkein]
    split
    · rw [spl]
      rfl
    · next other => exact (skein j).trans (if_neg other)

end Sys2Proof.Machine
end

section
/-!
Proofs, vector registers: what a register reads after a lane-wise instruction has written its lanes (R233, R275, R278), and what the instruction leaves of its skein.
-/
namespace Sys2Proof.Machine

/-! ### Reading back -/

theorem Skein.vget_vset (s : Skein) {l m : Nat} (hl : l < 32) (hm : m < 32) (r q v : Nat) (p : Bool) :
    (s.vset r l v p).vget q m = if m = l ∧ q = r ∧ q < s.vregs then (v % 2 ^ 32, p) else s.vget q m := by
  by_cases hr : s.vregs ≤ r
  · rw [Skein.vset, if_pos hr, if_neg (by omega)]
  · by_cases hq : s.vregs ≤ q
    · rw [if_neg (by omega), Skein.vset, if_neg hr, Skein.vget, if_pos hq, Skein.vget, if_pos hq]
    · rw [Skein.vset, if_neg hr, Skein.vget, if_neg hq, Skein.vget, if_neg hq]
      simp only [SMap.get_set]
      by_cases same : m = l ∧ q = r
      · obtain ⟨rfl, rfl⟩ := same
        have low : v % 2 ^ 32 < 2 ^ 32 := Nat.mod_lt _ (by decide)
        cases p <;> simp [b2n, Nat.not_le.1 hq]
        omega
      · rw [if_neg (by omega), if_neg (by omega)]

/-- Writing a register changes the vector registers alone. -/
theorem Skein.vset_frame (s : Skein) (r l v : Nat) (p : Bool) : s.vset r l v p = { s with vreg := (s.vset r l v p).vreg } := by
  unfold Skein.vset
  split <;> rfl

theorem Skein.setVal_frame (s : Skein) (r l n v : Nat) (p : Bool) : s.setVal r l n v p = { s with vreg := (s.setVal r l n v p).vreg } := by
  induction n generalizing s r v with
  | zero => rfl
  | succ n ih =>
    rw [Skein.setVal, ih, Skein.vset_frame]

/-- The `n` registers from `r` on take the value's words, the low one first; those numbered VREGS or above stay. -/
theorem Skein.vget_setVal (s : Skein) {l m : Nat} (hl : l < 32) (hm : m < 32) (r q n v : Nat) (p : Bool) :
    (s.setVal r l n v p).vget q m =
      if m = l ∧ r ≤ q ∧ q < r + n ∧ q < s.vregs then (v / 2 ^ (32 * (q - r)) % 2 ^ 32, p) else s.vget q m := by
  induction n generalizing s r v with
  | zero => rw [Skein.setVal, if_neg (by omega)]
  | succ n ih =>
    have vregs : (s.vset r l v p).vregs = s.vregs := by rw [Skein.vset_frame]
    rw [Skein.setVal, ih, vregs, s.vget_vset hl hm]
    by_cases first : q = r
    · subst first
      rw [if_neg (by omega), Nat.sub_self, Nat.mul_zero, Nat.pow_zero, Nat.div_one]
      by_cases here : m = l ∧ q < s.vregs
      · rw [if_pos ⟨here.1, rfl, here.2⟩, if_pos (by omega)]
      · rw [if_neg (by omega), if_neg (by omega)]
    · by_cases later : m = l ∧ r + 1 ≤ q ∧ q < r + 1 + n ∧ q < s.vregs
      · have shift : v / 2 ^ (32 * (q - r)) = v / 2 ^ 32 / 2 ^ (32 * (q - (r + 1))) := by
          rw [Nat.div_div_eq_div_mul, ← Nat.pow_add]
          congr 2
          omega
        rw [if_pos later, if_pos (by omega), shift]
      · rw [if_neg later, if_neg (by omega), if_neg (by omega)]

/-! ### Lane-wise instructions -/

theorem mem_lanesOf {m l : Nat} : l ∈ lanesOf m ↔ l < 32 ∧ bitAt m l = true := by simp [lanesOf]

/-- Writing a value to each lane of a list. -/
theorem Skein.foldl_setVal_frame (ls : List Nat) (f : Nat → Nat × Bool) (s : Skein) (r n : Nat) :
    ls.foldl (fun t l => t.setVal r l n (f l).1 (f l).2) s = { s with vreg := (ls.foldl (fun t l => t.setVal r l n (f l).1 (f l).2) s).vreg } := by
  induction ls generalizing s with
  | nil => rfl
  | cons l ls ih => rw [List.foldl_cons, ih, Skein.setVal_frame]

theorem Skein.vget_foldl_setVal {ls : List Nat} (f : Nat → Nat × Bool) (hls : ∀ l ∈ ls, l < 32) (s : Skein) {m : Nat} (hm : m < 32)
    (r q n : Nat) :
    (ls.foldl (fun t l => t.setVal r l n (f l).1 (f l).2) s).vget q m =
      if m ∈ ls ∧ r ≤ q ∧ q < r + n ∧ q < s.vregs then ((f m).1 / 2 ^ (32 * (q - r)) % 2 ^ 32, (f m).2) else s.vget q m := by
  induction ls generalizing s with
  | nil => simp
  | cons l ls ih =>
    have vregs : (s.setVal r l n (f l).1 (f l).2).vregs = s.vregs := by rw [Skein.setVal_frame]
    rw [List.foldl_cons, ih (fun x hx => hls x (by simp [hx])), vregs, s.vget_setVal (hls l (by simp)) hm]
    by_cases span : r ≤ q ∧ q < r + n ∧ q < s.vregs
    · by_cases here : m = l
      · subst here
        simp [span]
      · simp [span, here]
    · simp [span]

/-- The vector registers after a lane-wise instruction: the effective lanes of D hold the computed values, with the guard's marks. -/
theorem Skein.vget_mapLanes (s : Skein) (i : SIns) (n : Nat) (f : Nat → Nat × Bool) {m : Nat} (hm : m < 32) (q : Nat) :
    (s.mapLanes i n f).vget q m = if bitAt (s.eff i) m = true ∧ i.d ≤ q ∧ q < i.d + n ∧ q < s.vregs
      then ((f m).1 / 2 ^ (32 * (q - i.d)) % 2 ^ 32, (f m).2 || s.guardPoison i m) else s.vget q m := by
  have lanes := Skein.vget_foldl_setVal (fun l => ((f l).1, (f l).2 || s.guardPoison i l)) (fun l hl => (mem_lanesOf.1 hl).1) s hm i.d q n
    (ls := lanesOf (s.eff i))
  simp only [mem_lanesOf, hm, true_and] at lanes
  exact lanes

theorem Skein.mapLanes_frame (s : Skein) (i : SIns) (n : Nat) (f : Nat → Nat × Bool) :
    s.mapLanes i n f = { s with vreg := (s.mapLanes i n f).vreg } :=
  Skein.foldl_setVal_frame (lanesOf (s.eff i)) (fun l => ((f l).1, (f l).2 || s.guardPoison i l)) s i.d n

/-! ### The end of an instruction -/

/-- The skein that `Dev.retire` puts back: at the next instruction, with the note of R233. -/
def Skein.retired (s : Skein) (i : SIns) : Skein := (s.stick 11 (decide (0 < s.beyond i))).next

theorem Dev.retire_eq (d : Dev) (k : Nat) (s : Skein) (i : SIns) :
    d.retire k s i = (d.bump F.SPL_EVENTS_VREG_RANGE (s.beyond i)).setSkein k (some (s.retired i)) := rfl

/-- An instruction names a register numbered VREGS or above when it counts one (R233). -/
theorem Skein.beyond_pos (s : Skein) (i : SIns) : decide (0 < s.beyond i) = i.regs.1.any (fun r => decide (s.vregs ≤ r)) := by
  rw [Bool.eq_iff_iff]
  simp [Skein.beyond, List.length_pos_iff_exists_mem]

theorem Skein.retired_eq_stepped (s : Skein) (i : SIns) : s.retired i = s.stepped i true := by
  simp only [Skein.retired, Skein.stick, Skein.next, Skein.stepped, Skein.beyond_pos, Bool.true_and]
  split <;> rfl

theorem Skein.next_eq_stepped (s : Skein) (i : SIns) : s.next = s.stepped i false := rfl

/-- A sticky bit set before the end of the instruction or after it is the same. -/
theorem Skein.retired_stick (s : Skein) (i : SIns) (bit : Nat) (v : Bool) : (s.stick bit v).retired i = (s.retired i).stick bit v := by
  cases v
  · rfl
  · simp only [Skein.retired_eq_stepped, Skein.stepped, Skein.stick, Bool.true_and, if_true]
    split
    · simp only [Nat.or_assoc, Nat.or_comm (2 ^ bit)]
    · rfl

/-- A lane-wise instruction with a lane in effect writes what it computes. -/
theorem Skein.vecWritten_mapLanes (s : Skein) {i : SIns} (f : Nat → Nat × Bool) (h : s.eff i ≠ 0) :
    s.vecWritten ((s.mapLanes i i.dCount f).retired i) i f := by
  refine ⟨?_, fun r l hl => ?_⟩
  · rw [Skein.retired_eq_stepped, Skein.mapLanes_frame, decide_eq_true h]
    rfl
  · rw [Skein.retired_eq_stepped]
    exact s.vget_mapLanes i i.dCount f hl r

/-- With no lane in effect nothing is written. -/
theorem Skein.vecWritten_next (s : Skein) {i : SIns} (f : Nat → Nat × Bool) (h : s.eff i = 0) : s.vecWritten s.next i f := by
  refine ⟨?_, fun r l _ => ?_⟩
  · rw [h, s.next_eq_stepped i]
    rfl
  · rw [h, if_neg (by simp [bitAt])]
    rfl

/-- What a command leaves of its skein, from what its instruction does to the module after the fetch. -/
theorem State.leavesSkein_of_run {s : State} {c : Instr} {k op : Nat} {sk t : Skein} {i : SIns} {d d' e : Dev}
    {run : Dev → Skein → SIns → Option Dev} (hx : s.executes k sk i d) (hc : exec c s = onDev (fun x => x.issue k op run) s) (hop : i.op = op)
    (hrun : run d sk i = some (e.setSkein k (some t))) (hd : d'.countsOnly e) : s.leavesSkein c d' k (some t) := by
  obtain ⟨running, hk, next⟩ := hx
  refine ⟨_, ?_, Dev.movesSkein_counted hk hd sk t i⟩
  rw [hc, onDev_running running, Dev.issue_of_nextIns next hop hrun]

end Sys2Proof.Machine
end

section
/-!
Proofs, `cvt` (R84, R282): the conversion of each effective lane, and its saturation and NaN in SKS.
-/
namespace Sys2Proof.Machine

/-- A skein's next instruction has an encoding that is not reserved (R277). -/
theorem State.executes_legal {s : State} {k : Nat} {sk : Skein} {i : SIns} {d : Dev} (hx : s.executes k sk i d) :
    ∃ o, opSpec i.op = some o ∧ i.legal o = true := by
  obtain ⟨-, -, next⟩ := hx
  obtain ⟨-, -, -, w, -, decoded⟩ := Dev.nextIns_some next
  unfold decodeSpool at decoded
  split at decoded
  · cases decoded
  · next o ho =>
    dsimp only at decoded
    split at decoded
    · next legal =>
      obtain rfl := Option.some.inj decoded
      have hop : (fieldsOf o.fmt w).op = bitsAt w 0 8 := by cases o.fmt <;> rfl
      exact ⟨o, hop ▸ ho, (Bool.and_eq_true_iff.1 legal).2⟩
    · cases decoded

theorem SIns.sub_mem_of_legal {i : SIns} {o : OpSpec} (h : i.legal o = true) : i.sub ∈ o.subs := by
  cases named : o.subs.contains i.sub
  · simp only [SIns.legal, named, Bool.and_false, Bool.false_and, Bool.false_eq_true] at h
  · exact List.contains_iff_mem.1 named

/-- The destinations of `cvt` are those that R282 lists. -/
theorem State.executes_cvt_sub {s : State} {k : Nat} {sk : Skein} {i : SIns} {d : Dev} (hx : s.executes k sk i d) (hop : i.op = 0x29) :
    i.sub ∈ [0, 1, 2, 3, 4, 5, 6, 7, 8, 9, 10] := by
  obtain ⟨o, spec, legal⟩ := State.executes_legal hx
  rw [hop] at spec
  obtain rfl := Option.some.inj spec
  exact SIns.sub_mem_of_legal legal

/-- What `cvt` computes for a lane. -/
def Skein.cvtLane (sk : Skein) (i : SIns) (d : Dev) (l : Nat) : Nat × Bool × Bool :=
  cvtOp i.fmt i.sub (spoolMode sk.sks) (sk.vval i.a l i.aCount).1 (Config.freeNat 5 (d.fresh + l))

/-- The skein with the lanes' saturation and NaN noted in SKS. -/
def Skein.noteFlags (t : Skein) (m : Nat) (res : Nat → Nat × Bool × Bool) : Skein :=
  (t.stick 8 ((lanesOf m).any (fun l => (res l).2.1))).stick 9 ((lanesOf m).any (fun l => (res l).2.2))

theorem Skein.retired_noteFlags (t : Skein) (i : SIns) (m : Nat) (res : Nat → Nat × Bool × Bool) :
    (t.noteFlags m res).retired i = (t.retired i).noteFlags m res := by
  simp only [Skein.noteFlags, Skein.retired_stick]

/-- With no lane in effect there is nothing to note. -/
theorem Skein.noteFlags_zero (t : Skein) (res : Nat → Nat × Bool × Bool) : t.noteFlags 0 res = t := by
  simp [Skein.noteFlags, lanesOf, bitAt, Skein.stick]

/-- What `cvt` leaves, by any description `res` of what it computes for the lanes. -/
theorem State.leavesSkein_cvt {s : State} {k : Nat} {sk : Skein} {i : SIns} {d : Dev} {res : Nat → Nat × Bool × Bool} (hx : s.executes k sk i d)
    (hop : i.op = 0x29) (hres : ∀ l, res l = sk.cvtLane i d l) :
    ∃ b, s.leavesSkein (.cvt k) (if sk.eff i = 0 then d else { d with fresh := d.fresh + 32 }) k (some (b.noteFlags (sk.eff i) res))
      ∧ sk.vecWritten b i (fun l => ((res l).1, (sk.vval i.a l i.aCount).2)) := by
  obtain rfl : res = sk.cvtLane i d := funext hres
  by_cases idle : sk.eff i = 0
  · refine ⟨sk.next, ?_, sk.vecWritten_next _ idle⟩
    rw [if_pos idle, idle, Skein.noteFlags_zero]
    exact State.leavesSkein_of_run hx rfl hop (if_pos idle) d.countsOnly_refl
  · refine ⟨_, ?_, sk.vecWritten_mapLanes _ idle⟩
    rw [if_neg idle, ← Skein.retired_noteFlags]
    exact State.leavesSkein_of_run hx rfl hop (if_neg idle) (Dev.countsOnly_bump _ _ (by decide))

/-- Settles O19: the command leaves what `cvtOp` computes, and for each destination of R282 that is the conversion named. -/
theorem conversionInstruction : Obligations.ConversionInstruction := by
  unfold Obligations.ConversionInstruction
  intro s k sk i d hx hop
  refine State.leavesSkein_cvt hx hop (fun l => ?_)
  have sub := State.executes_cvt_sub hx hop
  unfold Skein.cvtLane
  generalize i.sub = dst at sub ⊢
  simp only [List.mem_cons, List.not_mem_nil, or_false] at sub
  rcases sub with rfl | rfl | rfl | rfl | rfl | rfl | rfl | rfl | rfl | rfl | rfl <;> rfl

end Sys2Proof.Machine
end

section
/-!
Proofs, rounding (R78, R82): a magnitude in units of 2^u lies between two integers, and the mode picks one of them.
-/
namespace Sys2Proof.Machine

/-- A cut value between `q` and `q + 1` units, `rem / one` of a unit above `q`, becomes `q + 1` (R78, R81). -/
def RMode.takesUpper (md : RMode) (r : Nat) (neg : Bool) (q rem one : Nat) : Bool :=
  match md with
  | .rne => decide (2 * rem > one ∨ (2 * rem = one ∧ q % 2 = 1))
  | .rtz => false
  | .rdn => neg
  | .rup => !neg
  | .sr => decide (rem * 2 ^ 16 / one + r ≥ 2 ^ 16)

theorem add_b2n_decide (q : Nat) (p : Prop) [Decidable p] : q + b2n (decide p) = if p then q + 1 else q := by
  by_cases h : p
  · rw [decide_eq_true h, if_pos h]
    rfl
  · rw [decide_eq_false h, if_neg h]
    rfl

/-- The rounded magnitude is the number of whole units, or one more where a part of a unit is cut and the mode takes the upper neighbour. -/
theorem roundUnits_eq {md : RMode} {r : Nat} {neg : Bool} {m : Nat} {e u : Int} (h : e ≤ u) {one : Nat} (hone : one = 2 ^ (u - e).toNat) :
    roundUnits md r neg m e u = m / one + b2n (decide (m % one ≠ 0) && md.takesUpper r neg (m / one) (m % one) one) := by
  subst hone
  by_cases same : u ≤ e
  · obtain rfl : e = u := Int.le_antisymm h same
    simp [roundUnits, Nat.mod_one, b2n]
  · simp only [roundUnits, if_neg same, Nat.shiftRight_eq_div_pow, Nat.shiftLeft_eq]
    by_cases whole : m % 2 ^ (u - e).toNat = 0
    · rw [if_pos whole, decide_eq_false (not_not_intro whole), Bool.false_and]
      rfl
    · rw [if_neg whole, decide_eq_true whole, Bool.true_and]
      cases md with
      | rne => exact (add_b2n_decide _ _).symm
      | rtz => rfl
      | rdn => cases neg <;> rfl
      | rup => cases neg <;> rfl
      | sr => exact (add_b2n_decide _ _).symm

/-- Whole units beside the magnitude they are cut from, and one unit more. -/
theorem units_mul (m one : Nat) (upper : Bool) :
    ((m / one + b2n upper : Nat) : Int) * one = m - (m % one : Nat) + if upper then (one : Int) else 0 := by
  have whole : ((m / one : Nat) : Int) * one = m - (m % one : Nat) := by
    have parts := congrArg (Nat.cast (R := Int)) (Nat.div_add_mod' m one)
    rw [Int.natCast_add, Int.natCast_mul] at parts
    omega
  cases upper with
  | false => exact whole.trans (Int.add_zero _).symm
  | true =>
    have one_more : ((m / one + b2n true : Nat) : Int) * one = ((m / one : Nat) : Int) * one + one := by
      rw [Int.natCast_add, Int.add_mul]
      exact congrArg _ (Int.one_mul _)
    rw [one_more, whole, if_pos rfl]

section
variable (r m : Nat) (neg : Bool) {e u : Int} {one : Nat} (h : e ≤ u) (hone : one = 2 ^ (u - e).toNat)
include h hone

/-- To nearest: at most half a unit away, and even at half a unit. -/
theorem roundUnits_rne_nearest :
    2 * ((roundUnits .rne r neg m e u : Int) * one - m).natAbs ≤ one
      ∧ (2 * ((roundUnits .rne r neg m e u : Int) * one - m).natAbs = one → (roundUnits .rne r neg m e u : Int) % 2 = 0) := by
  have cut : m % one < one := Nat.mod_lt _ (hone ▸ Nat.two_pow_pos _)
  rw [roundUnits_eq h hone, units_mul, RMode.takesUpper]
  cases upper : decide (m % one ≠ 0) && decide (2 * (m % one) > one ∨ (2 * (m % one) = one ∧ m / one % 2 = 1))
  all_goals
    simp only [Bool.and_eq_true, Bool.and_eq_false_iff, decide_eq_true_eq, decide_eq_false_iff_not] at upper
    simp only [b2n, if_true, if_false, Bool.false_eq_true]
    omega

/-- Toward zero, and downward in magnitude: the whole units. -/
theorem roundUnits_floor {md : RMode} (hmd : ∀ q rem, md.takesUpper r neg q rem one = false) :
    (roundUnits md r neg m e u : Int) * one ≤ m ∧ (m : Int) < ((roundUnits md r neg m e u : Int) + 1) * one := by
  have cut : m % one < one := Nat.mod_lt _ (hone ▸ Nat.two_pow_pos _)
  rw [roundUnits_eq h hone, Int.add_mul, units_mul, hmd, Bool.and_false]
  simp only [if_false, Bool.false_eq_true]
  omega

/-- Upward in magnitude: one unit more where a part of a unit is cut. -/
theorem roundUnits_ceil {md : RMode} (hmd : ∀ q rem, md.takesUpper r neg q rem one = true) :
    (m : Int) ≤ (roundUnits md r neg m e u : Int) * one ∧ ((roundUnits md r neg m e u : Int) - 1) * one < m := by
  have cut : m % one < one := Nat.mod_lt _ (hone ▸ Nat.two_pow_pos _)
  rw [roundUnits_eq h hone, Int.sub_mul, units_mul, hmd, Bool.and_true]
  cases upper : decide (m % one ≠ 0)
  all_goals
    simp only [decide_eq_true_eq, decide_eq_false_iff_not] at upper
    simp only [if_true, if_false, Bool.false_eq_true]
    omega

/-- Stochastic rounding picks one of the two neighbours. -/
theorem roundUnits_sr_neighbour :
    (roundUnits .sr r neg m e u : Int) = roundUnits .rtz r neg m e u ∨ (roundUnits .sr r neg m e u : Int) = roundUnits .rtz r neg m e u + 1 := by
  have down : RMode.rtz.takesUpper r neg (m / one) (m % one) one = false := rfl
  rw [roundUnits_eq h hone, roundUnits_eq h hone, down, Bool.and_false]
  cases decide (m % one ≠ 0) && RMode.sr.takesUpper r neg (m / one) (m % one) one <;> simp [b2n]

end

end Sys2Proof.Machine
end

section
/-!
Proofs, the binary formats of the Spools (R50 to R52, R84): every code but a NaN is the rounding of its value.
-/
namespace Sys2Proof.Machine

/-! ### The four formats -/

/-- The binary formats of the Spools. -/
def spoolFormats : List Fmt := [.bf16, .fp16, .fp32, .fp64]

/-- The code of a sign, an exponent field and a mantissa field (R50). -/
def Fmt.pack (f : Fmt) (s : Bool) (ex man : Nat) : Nat := (b2n s <<< (f.mbits + f.ebits)) + (ex <<< f.mbits) + man

/-- A code is its three fields. -/
theorem Fmt.pack_fields (f : Fmt) {x : Nat} (hx : x < 2 ^ (f.mbits + f.ebits + 1)) :
    f.pack (bitAt x (f.mbits + f.ebits)) (bitsAt x f.mbits f.ebits) (bitsAt x 0 f.mbits) = x := by
  have sign : b2n (bitAt x (f.mbits + f.ebits)) = x / 2 ^ (f.mbits + f.ebits) := by
    have top : x / 2 ^ (f.mbits + f.ebits) < 2 := Nat.div_lt_of_lt_mul (by rwa [Nat.pow_succ] at hx)
    rw [bitAt, Nat.shiftRight_eq_div_pow]
    generalize x / 2 ^ (f.mbits + f.ebits) = s at top ⊢
    match s, top with
    | 0, _ => rfl
    | 1, _ => rfl
  rw [Fmt.pack, sign]
  simp only [bitsAt, Nat.shiftRight_eq_div_pow, Nat.shiftLeft_eq, Nat.pow_zero, Nat.div_one]
  rw [Nat.pow_add, ← Nat.div_div_eq_div_mul, ← Nat.mul_assoc, Nat.mul_right_comm, ← Nat.add_mul, Nat.div_add_mod', Nat.div_add_mod']

theorem Fmt.log2_mantissa {f : Fmt} {man : Nat} (hman : man < 2 ^ f.mbits) : Nat.log2 (2 ^ f.mbits + man) = f.mbits := by
  rw [Nat.log2_eq_iff (by omega), Nat.pow_succ]
  omega

/-- A magnitude with no larger mantissa and no larger exponent is not above the other. -/
theorem magLt_of_le {a b : Nat} {ea eb : Int} (hm : b ≤ a) (he : eb ≤ ea) : magLt a ea b eb = false := by
  unfold magLt
  split
  · next h =>
    obtain rfl : ea = eb := Int.le_antisymm h he
    simpa using hm
  · have grows : a ≤ a <<< (ea - eb).toNat := by
      rw [Nat.shiftLeft_eq]
      exact Nat.le_mul_of_pos_right a (Nat.two_pow_pos _)
    simpa using Nat.le_trans hm grows

section
variable {f : Fmt} (hf : f ∈ spoolFormats)
include hf

theorem Fmt.bits_of_spool : f.bits = f.mbits + f.ebits + 1 := by
  revert f; decide

theorem Fmt.isInt_of_spool : f.isInt = false := by
  revert f; decide

theorem Fmt.two_le_ebits : 2 ≤ f.ebits := by
  revert f; decide

/-- The largest finite value has the exponent below that of the infinities (R51, R52). -/
theorem Fmt.maxFin_of_spool (s : Bool) : f.maxFin s = (2 ^ (f.mbits + 1) - 1, (2 ^ f.ebits - 2 : Nat) - f.bias - f.mbits) := by
  revert s f; decide

theorem Fmt.decode_of_spool (x : Nat) :
    f.decode x =
      if bitsAt x f.mbits f.ebits = 2 ^ f.ebits - 1 then
        if bitsAt x 0 f.mbits = 0 then .inf (bitAt x (f.mbits + f.ebits)) else .nan
      else if bitsAt x f.mbits f.ebits = 0 then Num.mk' (bitAt x (f.mbits + f.ebits)) (bitsAt x 0 f.mbits) (1 - f.bias - f.mbits)
      else .fin (bitAt x (f.mbits + f.ebits)) (2 ^ f.mbits + bitsAt x 0 f.mbits) (bitsAt x f.mbits f.ebits - f.bias - f.mbits) := by
  simp only [spoolFormats, List.mem_cons, List.not_mem_nil, or_false] at hf
  rcases hf with rfl | rfl | rfl | rfl <;> simp [Fmt.decode, Fmt.hasInf, Fmt.elem]

/-- The unit of the last place is that of the leading exponent, at least that of the subnormals. -/
theorem Fmt.unit_of_spool (l : Int) : f.unit l = max (l - f.mbits) (1 - f.bias - f.mbits) := by
  simp only [spoolFormats, List.mem_cons, List.not_mem_nil, or_false] at hf
  rcases hf with rfl | rfl | rfl | rfl <;> rfl

/-- A magnitude below one whole mantissa is a zero or a subnormal. -/
theorem Fmt.encode_subnormal (s : Bool) {q : Nat} (hq : q < 2 ^ f.mbits) (u : Int) : f.encode s q u = f.pack s 0 q := by
  simp only [spoolFormats, List.mem_cons, List.not_mem_nil, or_false] at hf
  rcases hf with rfl | rfl | rfl | rfl <;> simp [Fmt.encode, Fmt.pack, hq]

theorem Fmt.encode_normal (s : Bool) (ex : Nat) {man : Nat} (hman : man < 2 ^ f.mbits) :
    f.encode s (2 ^ f.mbits + man) (ex - f.bias - f.mbits) = f.pack s ex man := by
  have log := Fmt.log2_mantissa hman
  have big : ¬ 2 ^ f.mbits + man < 2 ^ f.mbits := by omega
  have expo : ((f.mbits : Int) + (ex - f.bias - f.mbits) + f.bias).toNat = ex := by omega
  simp only [spoolFormats, List.mem_cons, List.not_mem_nil, or_false] at hf
  rcases hf with rfl | rfl | rfl | rfl <;>
    simp only [Fmt.encode, Fmt.pack, if_neg big, log, Nat.le_refl, if_true, Nat.sub_self, Nat.shiftLeft_zero, expo, Nat.add_sub_cancel_left]

/-- The signed zero is the code of two zero fields. -/
theorem Fmt.zeroBits_of_spool (s : Bool) : f.zeroBits s = f.pack s 0 0 := by
  simp [Fmt.zeroBits, Fmt.pack, Fmt.isInt_of_spool hf]

/-! ### Rounding a value of the format -/

/-- A value that is a multiple of its unit in the last place and not too large is written as it is. -/
theorem ieeeRound_of_exact (s : Bool) {m : Nat} {e : Int} (md : RMode) (hunit : f.unit (ilog2 m e) = e) (hm : m ≠ 0)
    (hmag : m < 2 ^ (f.mbits + 1)) (hexp : e ≤ (2 ^ f.ebits - 2 : Nat) - f.bias - f.mbits) : ieeeRound (.fin s m e) f md = f.encode s m e := by
  have kept : roundUnits md 0 s m e e = m := by simp [roundUnits]
  have fits : magLt (f.maxFin s).1 (f.maxFin s).2 m e = false := by
    rw [Fmt.maxFin_of_spool hf]
    exact magLt_of_le (by omega) hexp
  simp only [ieeeRound, hunit, kept, fits, Bool.false_eq_true, if_false, if_neg hm]

theorem ieeeRound_subnormal (s : Bool) {man : Nat} (md : RMode) (hpos : man ≠ 0) (hman : man < 2 ^ f.mbits) :
    ieeeRound (.fin s man (1 - f.bias - f.mbits)) f md = f.pack s 0 man := by
  have small : Nat.log2 man < f.mbits := (Nat.log2_lt hpos).2 hman
  have wide : 2 ^ 2 ≤ 2 ^ f.ebits := Nat.pow_le_pow_right (by decide) (Fmt.two_le_ebits hf)
  rw [ieeeRound_of_exact hf s md ?unit hpos (by rw [Nat.pow_succ]; omega) (by omega), Fmt.encode_subnormal hf s hman]
  rw [Fmt.unit_of_spool hf, ilog2]
  omega

theorem ieeeRound_normal (s : Bool) {ex man : Nat} (md : RMode) (hpos : ex ≠ 0) (hex : ex < 2 ^ f.ebits - 1) (hman : man < 2 ^ f.mbits) :
    ieeeRound (.fin s (2 ^ f.mbits + man) (ex - f.bias - f.mbits)) f md = f.pack s ex man := by
  rw [ieeeRound_of_exact hf s md ?unit (by omega) (by rw [Nat.pow_succ]; omega) (by omega), Fmt.encode_normal hf s ex hman]
  rw [Fmt.unit_of_spool hf, ilog2, Fmt.log2_mantissa hman]
  omega

/-- Every code but a NaN is the rounding of its value, in every mode (R84). -/
theorem ieeeRound_decode (md : RMode) {x : Nat} (hx : x < 2 ^ f.bits) (hnan : f.decode x ≠ .nan) : ieeeRound (f.decode x) f md = x := by
  rw [Fmt.bits_of_spool hf] at hx
  have fields := f.pack_fields hx
  have hman : bitsAt x 0 f.mbits < 2 ^ f.mbits := Nat.mod_lt _ (Nat.two_pow_pos _)
  have hex : bitsAt x f.mbits f.ebits < 2 ^ f.ebits := Nat.mod_lt _ (Nat.two_pow_pos _)
  rw [Fmt.decode_of_spool hf] at hnan ⊢
  generalize bitAt x (f.mbits + f.ebits) = s, bitsAt x f.mbits f.ebits = ex, bitsAt x 0 f.mbits = man at *
  rw [← fields]
  by_cases top : ex = 2 ^ f.ebits - 1
  · by_cases inf : man = 0
    · subst top inf
      simp [ieeeRound, Fmt.infBits, Fmt.pack]
    · simp [top, inf] at hnan
  · rw [if_neg top]
    by_cases sub : ex = 0
    · by_cases zero : man = 0
      · subst sub zero
        simpa [Num.mk', ieeeRound] using Fmt.zeroBits_of_spool hf s
      · rw [if_pos sub, Num.mk', if_neg zero, sub]
        exact ieeeRound_subnormal hf s md zero hman
    · rw [if_neg sub]
      exact ieeeRound_normal hf s md sub (by omega) hman

end

/-- Settles O38: the two neighbours of a magnitude, of which each mode picks the one named, and the codes of a format by their three fields. -/
theorem roundingAndFormats : Obligations.RoundingAndFormats := by
  unfold Obligations.RoundingAndFormats
  refine ⟨fun r m neg e u h => ?_, fun f md x hf hx hnan => ieeeRound_decode hf md hx hnan⟩
  obtain ⟨near, even⟩ := roundUnits_rne_nearest r m neg h rfl
  refine ⟨near, even, roundUnits_floor r m neg h rfl fun _ _ => rfl, ?_, ?_, fun _ => roundUnits_sr_neighbour r m neg h rfl⟩
  · cases neg
    · exact roundUnits_floor r m false h rfl fun _ _ => rfl
    · exact roundUnits_ceil r m true h rfl fun _ _ => rfl
  · cases neg
    · exact roundUnits_ceil r m false h rfl fun _ _ => rfl
    · exact roundUnits_floor r m true h rfl fun _ _ => rfl

end Sys2Proof.Machine
end

section
/-!
Proofs, the completions of the engines (R132, R194, R220, R232, R260, R409, R413, R526, R556, R566): one lemma for each way a completion command ends
an item.
-/
namespace Sys2Proof.Machine

/-! ### Launches -/

theorem exec_launchCompletion {s : State} (h : s.running = true) (item : Nat) :
    exec (.launchCompletion item) s = .next (s.after (cmdLaunchCompletion item s.dev)) := onDev_running h

/-- A launch that has not halted ends with its last bundle, one without an amount at once (R232). -/
theorem cmdLaunchCompletion_of_done {d : Dev} {item : Nat} {it : Item} (hit : d.item item = some it) (he : it.engine = .launch)
    (hp : it.place = .running) (hx : it.early = none) (hq : d.postedBy item = false)
    (done : launchNoop it.desc = true ∨ (launchDispatched it = true ∧ it.prog = launchBundles it.desc)) :
    cmdLaunchCompletion item d = d.finishItem it := by
  simp [cmdLaunchCompletion, hit, he, hp, hx, hq, done]

theorem Dev.csaSkeins_nil (d : Dev) (p slot0 : Nat) : d.csaSkeins p slot0 [] = d := rfl

/-- A halted launch whose skeins are quiet ends, and its ring stops with the status of the halt (R260); without a skein nothing is left to inspect. -/
theorem cmdLaunchCompletion_of_halted {d : Dev} {item st : Nat} {it : Item} (hit : d.item item = some it) (he : it.engine = .launch)
    (hp : it.place = .running) (hx : it.early = some st) (hq : d.postedBy item = false) (quiet : d.launchQuiet item = true)
    (empty : d.allSkeins item = []) :
    cmdLaunchCompletion item d = ((d.clearLaunch item).finishItem it).stopRing (ringIndex it.part it.ring) st := by
  simp [cmdLaunchCompletion, hit, he, hp, hx, hq, quiet, empty, Dev.csaSkeins_nil]

/-! ### Stones -/

/-- The events of an operation's end: the operation, and one that saturated. -/
def Dev.stonesCounted (d : Dev) (it : Item) : Dev := (d.event it.part 0x104 (some it.part) 0 1).event it.part 0x105 (some it.part) 0 (b2n it.sat)

theorem exec_stonesCompletion {s : State} (h : s.running = true) (item : Nat) :
    exec (.stonesCompletion item) s = .next (s.after (cmdStonesCompletion item s.dev)) := onDev_running h

section
variable {d : Dev} {item : Nat} {it : Item} (hit : d.item item = some it) (he : it.engine = .stones) (hp : it.place = .running)
  (hf : it.fault = none) (ends : it.early.isSome = true ∨ d.stnWritten it = true)
include hit he hp hf ends

/-- An operation of a ring ends with its final record (R132); only R106's check, HEADER_CHECK, ends a linked MANGLE with it. -/
theorem cmdStonesCompletion_of_ring (hq : it.posted = none) (hs : it.status ≠ 0x03) :
    cmdStonesCompletion item d = (d.stonesCounted it).finishItem it := by
  simp [cmdStonesCompletion, hit, he, hp, hf, ends, hq, hs, Dev.stonesCounted]

/-- An operation that a skein posted ends in its ticket (R251). -/
theorem cmdStonesCompletion_of_posted {q : Posted} (hq : it.posted = some q) :
    cmdStonesCompletion item d = (d.stonesCounted it).ticketDone it q := by
  simp [cmdStonesCompletion, hit, he, hp, hf, ends, hq, Dev.stonesCounted]

end

/-! ### Press, Sluices, Bolter -/

theorem exec_pressCompletion {s : State} (h : s.running = true) (item : Nat) :
    exec (.pressCompletion item) s = .next (s.after (cmdPressCompletion item s.dev)) := onDev_running h
theorem exec_sluiceCompletion {s : State} (h : s.running = true) (item : Nat) :
    exec (.sluiceCompletion item) s = .next (s.after (cmdSluiceCompletion item s.dev)) := onDev_running h
theorem exec_bolterCompletion {s : State} (h : s.running = true) (item : Nat) :
    exec (.bolterCompletion item) s = .next (s.after (cmdBolterCompletion item s.dev)) := onDev_running h

section
variable {d : Dev} {item : Nat} {it : Item} (hit : d.item item = some it) (hp : it.place = .running) (hf : it.fault = none)
  (hw : d.winPending (.item item) = false)
include hit hp hf hw

/-- A Press operation ends with its final record; a linked MANGLE takes the status of a producer that ended early (R194, R220). -/
theorem cmdPressCompletion_of_done (he : it.engine = .press) (turn : d.pressTurn it = true) (done : d.pressDone it = true) :
    cmdPressCompletion item d =
      (d.finishItem (if it.early = none ∧ it.desc.opcode = 0x20 ∧ mngPlen it.desc ≠ 0 then { it with early := d.producerEnd it } else it)).event
        (4 + it.part) 0x203 (some it.part) 0 1 := by
  simp only [cmdPressCompletion, hit, he, hp, hf, hw, turn, done, Bool.not_false, and_self, if_true, Bool.and_eq_true, Option.isNone_iff_eq_none,
    beq_iff_eq, decide_eq_true_eq, and_assoc]
  split <;> rfl

theorem cmdSluiceCompletion_of_done (he : it.engine = .sluice) (done : it.sluiceDone = true) : cmdSluiceCompletion item d = d.finishItem it := by
  simp [cmdSluiceCompletion, hit, he, hp, hf, hw, done]

theorem cmdBolterCompletion_of_done (he : it.engine = .bolter) (done : it.bolterDone = true) : cmdBolterCompletion item d = d.finishItem it := by
  simp [cmdBolterCompletion, hit, he, hp, hf, hw, done]

end

/-! ### Messages and collectives -/

theorem exec_messageCompletion {s : State} (h : s.running = true) (item : Nat) :
    exec (.messageCompletion item) s = .next (s.after (cmdMessageCompletion item s.dev)) := onDev_running h
theorem exec_collectiveCompletion {s : State} (h : s.running = true) (item : Nat) :
    exec (.collectiveCompletion item) s = .next (s.after (cmdCollectiveCompletion item s.dev)) := onDev_running h

/-- A message whose packets are all answered ends; SEND and PUT report its bytes, a GET has counted them as they came (R526). -/
theorem cmdMessageCompletion_of_complete {d : Dev} {item : Nat} {it : Item} {m : MsgOp} (hit : d.item item = some it) (hm : d.msgOf item = some m)
    (hp : it.place = .running) (done : m.complete = true) :
    cmdMessageCompletion item d = (d.dropMsg item).finishItem { it with prog := if m.kind = 1 then it.prog else m.len } := by
  simp [cmdMessageCompletion, hit, hm, hp, done]

/-- The amount of a message is its byte count (R519). -/
theorem Desc.zeroAmount_message {c : Desc} (lo : 0x70 ≤ c.opcode) (hi : c.opcode ≤ 0x72) (h : c.fld 2 0 40 = 0) : c.zeroAmount = true := by
  obtain hop | hop | hop : c.opcode = 0x70 ∨ c.opcode = 0x71 ∨ c.opcode = 0x72 := by omega
  all_goals simp [Desc.zeroAmount, hop, h]

/-- A message of no bytes ends while it waits (R7, log entry 96). -/
theorem cmdMessageCompletion_of_empty {d : Dev} {item : Nat} {it : Item} (hit : d.item item = some it) (hm : d.msgOf item = none)
    (he : it.engine = .collective) (hp : it.place = .queued) (hx : it.early = none) (lo : 0x70 ≤ it.desc.opcode) (hi : it.desc.opcode ≤ 0x72)
    (h : it.desc.fld 2 0 40 = 0) : cmdMessageCompletion item d = d.finishItem it := by
  have noop : it.colNoop = true := by simp [Item.colNoop, he, hp, hx, Desc.zeroAmount_message lo hi h]
  simp [cmdMessageCompletion, hit, hm, noop, hi]

/-- A collective whose work is done counts in its groups and reports its bytes, its carry and its lateness (R556); this is the one without a
statistics block. -/
theorem cmdCollectiveCompletion_of_done {d : Dev} {item : Nat} {it : Item} {r : ColRun} (hit : d.item item = some it) (hr : d.colRun item = some r)
    (hp : it.place = .running) (done : d.colDone it r = true) (hw : d.winPending (.item item) = false)
    (stats : ¬ (it.desc.opcode = 0x73 ∨ it.desc.opcode = 0x75) ∨ extWord it.ext 0 = 0) :
    cmdCollectiveCompletion item d = ((r.groups.foldl (fun d g => d.bump (F.COL_GRP_STAT_OPSEQ g) 1) d).dropRun item).finishItem
      { it with prog := r.written % 2 ^ 40 + b2n r.carry.isSome * 2 ^ 62 + b2n r.late * 2 ^ 63 } := by
  have wants : (decide (it.desc.opcode = 0x73 ∨ it.desc.opcode = 0x75) && decide (extWord it.ext 0 ≠ 0)) = false := by
    rw [Bool.and_eq_false_iff, decide_eq_false_iff_not, decide_eq_false_iff_not, Decidable.not_not]
    exact stats
  have works : ¬ (it.place ≠ .running ∨ (!d.colDone it r) = true ∨ d.winPending (.item item) = true) := by simp [hp, done, hw]
  simp only [cmdCollectiveCompletion, hit, hr, if_neg works, wants, Bool.false_eq_true, if_false, Bool.or_false]

/-- Settles O44: each clause is the command's lemma above. -/
theorem engineCompletions : Obligations.EngineCompletions := by
  unfold Obligations.EngineCompletions
  intro s item it hrun hit
  refine ⟨fun he hp hx hq done => ?_, fun st he hp hx hq quiet empty => ?_, fun he hp hf ends => ⟨fun hq hs => ?_, fun q hq => ?_⟩,
    fun he ⟨hp, hf, hw⟩ turn done => ?_, fun he ⟨hp, hf, hw⟩ done => ?_, fun he ⟨hp, hf, hw⟩ done => ?_, fun m hm hp done => ?_,
    fun he hp hx lo hi h hm => ?_, fun r hr hp done hw stats => ?_⟩
  · rw [exec_launchCompletion hrun, cmdLaunchCompletion_of_done hit he hp hx hq done]
  · rw [exec_launchCompletion hrun, cmdLaunchCompletion_of_halted hit he hp hx hq quiet empty]
  · rw [exec_stonesCompletion hrun, cmdStonesCompletion_of_ring hit he hp hf ends hq hs]
    rfl
  · rw [exec_stonesCompletion hrun, cmdStonesCompletion_of_posted hit he hp hf ends hq]
    rfl
  · rw [exec_pressCompletion hrun, cmdPressCompletion_of_done hit hp hf hw he turn done]
  · rw [exec_sluiceCompletion hrun, cmdSluiceCompletion_of_done hit hp hf hw he done]
  · rw [exec_bolterCompletion hrun, cmdBolterCompletion_of_done hit hp hf hw he done]
  · rw [exec_messageCompletion hrun, cmdMessageCompletion_of_complete hit hm hp done]
  · rw [exec_messageCompletion hrun, cmdMessageCompletion_of_empty hit hm he hp hx lo hi h]
  · rw [exec_collectiveCompletion hrun, cmdCollectiveCompletion_of_done hit hr hp done hw stats]

end Sys2Proof.Machine
end

section
/-!
Proofs, the state of the Stones: what a sub-array and an item read after a write, and what the notes of a finished step leave alone.
-/
namespace Sys2Proof.Machine

/-! ### Sub-arrays -/

theorem getD_setAt {α : Type} (dflt : α) (l : List α) (n m : Nat) (x : α) :
    (setAt dflt l n x).getD m dflt = if m = n then x else l.getD m dflt := by
  unfold setAt
  simp only [List.getD_eq_getElem?_getD]
  split
  · next h =>
    rw [List.getElem?_set]
    by_cases hm : n = m
    · subst hm
      simp [h]
    · rw [if_neg hm, if_neg (Ne.symm hm)]
  · next h =>
    have len : (l ++ List.replicate (n - l.length) dflt).length = n := by simp; omega
    by_cases hm : m = n
    · subst hm
      rw [List.getElem?_append_right (by omega), len]
      simp
    · rw [if_neg hm]
      by_cases inside : m < n
      · rw [List.getElem?_append_left (by omega), List.getElem?_append]
        split
        · rfl
        · rw [List.getElem?_replicate, List.getElem?_eq_none (by omega)]
          split <;> rfl
      · rw [List.getElem?_eq_none (by simp; omega), List.getElem?_eq_none (by omega)]

theorem Dev.sub_setSub (d : Dev) (p q : Nat) (s : SubArr) : (d.setSub p s).sub q = if q = p then s else d.sub q := getD_setAt ..

@[simp] theorem Dev.sub_setSub_same (d : Dev) (p : Nat) (s : SubArr) : (d.setSub p s).sub p = s := by rw [Dev.sub_setSub, if_pos rfl]

theorem Dev.sub_setSub_other (d : Dev) {p q : Nat} (h : q ≠ p) (s : SubArr) : (d.setSub p s).sub q = d.sub q := by rw [Dev.sub_setSub, if_neg h]

@[simp] theorem Dev.setSub_mem (d : Dev) (p : Nat) (s : SubArr) : (d.setSub p s).mem = d.mem := rfl
@[simp] theorem Dev.setSub_spl (d : Dev) (p : Nat) (s : SubArr) : (d.setSub p s).spl = d.spl := rfl
@[simp] theorem Dev.setSub_ctl (d : Dev) (p : Nat) (s : SubArr) : (d.setSub p s).ctl = d.ctl := rfl
@[simp] theorem Dev.setSub_parkedRec (d : Dev) (p : Nat) (s : SubArr) : (d.setSub p s).stn.parkedRec = d.stn.parkedRec := rfl

@[simp] theorem Dev.sub_setItem (d : Dev) (it : Item) (q : Nat) : (d.setItem it).sub q = d.sub q := rfl
@[simp] theorem Dev.sub_event (d : Dev) (b ev : Nat) (part : Option Nat) (inst n q : Nat) : (d.event b ev part inst n).sub q = d.sub q := by
  simp only [Dev.sub, Dev.event_stn]

/-! ### The end of a step -/

@[simp] theorem Dev.sweep_stn (d : Dev) (w : Waiter) : (d.sweep w).stn = d.stn := rfl
@[simp] theorem Dev.sweep_ctl (d : Dev) (w : Waiter) : (d.sweep w).ctl = d.ctl := rfl
@[simp] theorem Dev.sweep_mem (d : Dev) (w : Waiter) : (d.sweep w).mem = d.mem := rfl
@[simp] theorem Dev.sweep_spl (d : Dev) (w : Waiter) : (d.sweep w).spl = d.spl := rfl
@[simp] theorem Dev.sub_sweep (d : Dev) (w : Waiter) (q : Nat) : (d.sweep w).sub q = d.sub q := rfl

/-! ### Items -/

theorem Dev.id_of_item {d : Dev} {id : Nat} {it : Item} (h : d.item id = some it) : it.id = id := by
  simpa using List.find?_some h

theorem Dev.item_congr {d e : Dev} (h : e.ctl = d.ctl) (id : Nat) : e.item id = d.item id := by rw [Dev.item, h, Dev.item]

@[simp] theorem Dev.item_setSub (d : Dev) (p : Nat) (s : SubArr) (id : Nat) : (d.setSub p s).item id = d.item id := rfl
@[simp] theorem Dev.item_sweep (d : Dev) (w : Waiter) (id : Nat) : (d.sweep w).item id = d.item id := rfl
@[simp] theorem Dev.item_event (d : Dev) (b ev : Nat) (part : Option Nat) (inst n id : Nat) : (d.event b ev part inst n).item id = d.item id :=
  Dev.item_congr (d.event_ctl ..) id

/-- An item that is there is found as it was last put back. -/
theorem Dev.item_setItem {d : Dev} {it x : Item} (h : d.item it.id = some x) : (d.setItem it).item it.id = some it := by
  obtain ⟨-, before, after, hitems, hb⟩ := List.find?_eq_some_iff_append.1 h
  have skip : ∀ y ∈ before.map fun i => if i.id = it.id then it else i, ¬ decide (y.id = it.id) = true := by
    intro y hy
    obtain ⟨z, hz, rfl⟩ := List.mem_map.1 hy
    have hne : z.id ≠ it.id := by simpa using hb z hz
    simp [hne]
  have hx : x.id = it.id := Dev.id_of_item h
  rw [Dev.item, Dev.setItem]
  simp only [hitems, List.map_append, List.map_cons, List.find?_append, List.find?_eq_none.2 skip, Option.none_or, hx, if_true]
  exact List.find?_cons_of_pos (decide_eq_true rfl)

/-- Of two items put back under one number the later stays. -/
theorem Dev.setItem_setItem (d : Dev) {a b : Item} (h : a.id = b.id) : (d.setItem a).setItem b = d.setItem b := by
  have twice : ∀ i : Item, (if (if i.id = a.id then a else i).id = b.id then b else if i.id = a.id then a else i) = if i.id = b.id then b else i := by
    intro i
    rw [h]
    by_cases hi : i.id = b.id
    · rw [if_pos hi, if_pos hi, if_pos h]
    · rw [if_neg hi, if_neg hi]
  simp only [Dev.setItem, List.map_map, Function.comp_def, twice]

/-- The item of a Stones command has the number asked for and waits for no fault. -/
theorem Dev.stnWork_some {d : Dev} {id : Nat} {it : Item} (h : d.stnWork id = some it) : d.item id = some it ∧ it.id = id ∧ it.fault = none := by
  unfold Dev.stnWork at h
  split at h
  · next x hx =>
    split at h
    · next c =>
      obtain rfl := Option.some.inj h
      exact ⟨hx, Dev.id_of_item hx, c.2.1⟩
    · exact absurd h (by simp)
  · exact absurd h (by simp)

theorem stepMany_zero (f : Dev → Item → Dev × Item × Bool) (d : Dev) (it : Item) : stepMany f 0 d it = (d, it) := rfl

theorem stepMany_one {f : Dev → Item → Dev × Item × Bool} {d d' : Dev} {it it' : Item} (h : f d it = (d', it', true)) :
    stepMany f 1 d it = (d', it') := by
  simp only [stepMany, h]

end Sys2Proof.Machine
end

section
/-!
Proofs, the bed (R99 to R104): a row written to the shadow bed, and a complete bed that becomes active.
-/
namespace Sys2Proof.Machine

/-! ### Reads keep an item's number -/

theorem Item.sawPoison_id (it : Item) (space a : Nat) (bs : List MByte) : (it.sawPoison space a bs).id = it.id := by
  unfold Item.sawPoison
  split
  · split <;> rfl
  · rfl

theorem Dev.boundRead_id {d d' : Dev} {it it' : Item} {space a n hint : Nat} {r : VRes (List MByte)}
    (h : d.boundRead it space a n hint = (d', it', r)) : it'.id = it.id := by
  obtain ⟨-, rfl, -⟩ : _ ∧ _ ∧ _ := by simpa only [Dev.boundRead, Prod.mk.injEq] using h
  have cut : ∀ c : Prop, [Decidable c] → (if c then { it with clamped := true } else it).id = it.id := fun c _ => by split <;> rfl
  split
  · exact (Item.sawPoison_id ..).trans (cut _)
  · exact cut _

theorem Dev.bedRow_id {d d' : Dev} {it it' : Item} {fmt r : Nat} {b : StnBlk} {row : List Elem}
    (h : d.bedRow it fmt b r = (d', it', .ok row)) : it'.id = it.id := by
  unfold Dev.bedRow at h
  dsimp only at h
  split at h
  · next d1 it1 bs elems =>
    have first := Dev.boundRead_id elems
    split at h
    · split at h
      · next scales =>
        simp only [Prod.mk.injEq] at h
        exact h.2.1 ▸ (Dev.boundRead_id scales).trans first
      · simp at h
      · simp at h
    · simp only [Prod.mk.injEq] at h
      exact h.2.1 ▸ first
  · simp at h
  · simp at h

/-! ### Fills -/

theorem SubArr.fillOf_item (s : SubArr) (id : Nat) : (s.fillOf id).item = id := by
  unfold SubArr.fillOf
  cases h : s.fills.find? fun f => f.item = id with
  | none => rfl
  | some f => simpa using List.find?_some h

theorem SubArr.fillOf_setFill (s : SubArr) (f : StnFill) : (s.setFill f).fillOf f.item = f := by
  have gone : (s.fills.filter fun x => decide (x.item ≠ f.item)).find? (fun x => decide (x.item = f.item)) = none := by
    simp [List.find?_eq_none]
  rw [SubArr.fillOf, SubArr.setFill, List.find?_append, gone, Option.none_or]
  simp

@[simp] theorem SubArr.setFill_bed (s : SubArr) (f : StnFill) : (s.setFill f).bed = s.bed := rfl
@[simp] theorem SubArr.setFill_flight (s : SubArr) (f : StnFill) : (s.setFill f).flight = s.flight := rfl

/-- How many blocks fill a bed depends on the descriptor and on the records of pre-empted beds alone (R106, R127, R140). -/
theorem Dev.fillSource_length {d e : Dev} (h : e.stn.parkedRec = d.stn.parkedRec) (it : Item) :
    (e.fillSource it).blocks.length = (d.fillSource it).blocks.length := by
  unfold Dev.fillSource
  rw [h]
  split
  · rfl
  · by_cases slice : it.desc.opcode = 0x13
    · simp only [if_pos slice]
      rfl
    · simp only [if_neg slice, Dev.stnBlks]
      split
      · simp only [List.length_map]
      · rfl

theorem fillDone_congr {a b : DressRec} {f g : StnFill} (hl : a.blocks.length = b.blocks.length) (hd : f.done = g.done) :
    fillDone a f = fillDone b g := by rw [fillDone, fillDone, hl, hd]

/-- The module after a row has joined the shadow bed: the row is the next of its item's fill. -/
def Dev.withRow (d : Dev) (p id : Nat) (f : StnFill) (row : List Elem) : Dev :=
  ((d.setSub p ((d.sub p).setFill { f with rows := f.rows ++ [row] })).sweep (.item id)).event p 0x102 (some p) 0 1

/-- A step of the fill writes one row of the next block (R101). -/
theorem fillStep_row {d d' : Dev} {it it' : Item} {b : StnBlk} {row : List Elem}
    (hb : (sortBlks (d.fillSource it).blocks)[((d.sub it.part).fillOf it.id).done.length]? = some b)
    (hk : ((d.sub it.part).fillOf it.id).rows.length < b.k) (hn : b.n ≠ 0)
    (hrow : d.bedRow it (d.fillSource it).fmt b ((d.sub it.part).fillOf it.id).rows.length = (d', it', .ok row)) :
    fillStep d it = (d'.withRow it.part it'.id ((d.sub it.part).fillOf it.id) row, it', true) := by
  have unfinished : ¬ (b.k ≤ ((d.sub it.part).fillOf it.id).rows.length ∨ b.n = 0) := by omega
  simp only [fillStep, hb, if_neg unfinished, hrow]
  rfl

section
variable (d : Dev) (p id : Nat) (row : List Elem)

@[simp] theorem Dev.withRow_mem (f : StnFill) : (d.withRow p id f row).mem = d.mem := by simp [Dev.withRow]
@[simp] theorem Dev.withRow_spl (f : StnFill) : (d.withRow p id f row).spl = d.spl := by simp [Dev.withRow]
@[simp] theorem Dev.withRow_parkedRec (f : StnFill) : (d.withRow p id f row).stn.parkedRec = d.stn.parkedRec := by simp [Dev.withRow]
theorem Dev.sub_withRow_same (f : StnFill) : (d.withRow p id f row).sub p = (d.sub p).setFill { f with rows := f.rows ++ [row] } := by
  simp [Dev.withRow]
theorem Dev.sub_withRow_other {q : Nat} (h : q ≠ p) (f : StnFill) : (d.withRow p id f row).sub q = d.sub q := by
  simp [Dev.withRow, Dev.sub_setSub_other _ h]

theorem Dev.fillOf_withRow (s : SubArr) (item : Nat) :
    ((d.withRow p id (s.fillOf item) row).sub p).fillOf item = { s.fillOf item with rows := (s.fillOf item).rows ++ [row] } := by
  have kept := SubArr.fillOf_setFill (d.sub p) { s.fillOf item with rows := (s.fillOf item).rows ++ [row] }
  rw [SubArr.fillOf_item] at kept
  rw [Dev.sub_withRow_same, kept]

end

/-! ### The command -/

theorem exec_dressing {s : State} (h : s.running = true) (item n : Nat) :
    exec (.dressing item n) s = .next (s.after (cmdDressing item n s.dev)) := onDev_running h

/-- The module whose shadow bed, the fill of `it`, has become the active bed of sub-array `p` (R104, R141). -/
def Dev.dress (d : Dev) (p : Nat) (it : Item) : Dev :=
  let e := d.setSub p { d.sub p with dressed := some (d.fillSource it), bed := ((d.sub p).fillOf it.id).done,
                                     fills := (d.sub p).fills.filter (fun x => decide (x.item ≠ it.id)) }
  (({ e with stn := { e.stn with parkedRec := d.stn.parkedRec.filter (fun x => decide (x.1 ≠ it.id)) } } : Dev).setItem
    { it with place := .running, unit := p, aux := 1 :: it.aux.drop 1 }).event p 0x101 (some p) 0 1

section
variable (d : Dev) (p : Nat) (it : Item)

@[simp] theorem Dev.dress_mem : (d.dress p it).mem = d.mem := by simp [Dev.dress]
@[simp] theorem Dev.dress_spl : (d.dress p it).spl = d.spl := by simp [Dev.dress]

theorem Dev.sub_dress (q : Nat) : (d.dress p it).sub q = if q = p then
      { d.sub p with dressed := some (d.fillSource it), bed := ((d.sub p).fillOf it.id).done,
                     fills := (d.sub p).fills.filter (fun x => decide (x.item ≠ it.id)) } else d.sub q := by
  rw [Dev.dress, Dev.sub_event]
  exact Dev.sub_setSub ..

variable {it} in
theorem Dev.item_dress {x : Item} (h : d.item it.id = some x) :
    (d.dress p it).item it.id = some { it with place := .running, unit := p, aux := 1 :: it.aux.drop 1 } := by
  rw [Dev.dress, Dev.item_event]
  exact Dev.item_setItem (it := { it with place := .running, unit := p, aux := 1 :: it.aux.drop 1 }) h

end

/-- An item whose bed is not yet dressed and may be filled (R99, R106, R107). -/
structure Dev.mayDress (d : Dev) (item : Nat) (it : Item) : Prop where
  work : d.stnWork item = some it
  undressed : it.dressedBit = false
  amount : d.stnNoop it = false
  prepared : it.desc.opcode = 0x13 → it.sliceStage = 3
  ownBed : (d.stnActiveBed it && !d.stn.parkedRec.any (fun e => e.1 = item)) = false
  free : d.stnHeld it.part = false

/-- DRESSING fills up to `n` rows; then a complete bed becomes active when every earlier operation has issued. -/
theorem cmdDressing_of_mayDress {d : Dev} {item : Nat} {it : Item} (h : d.mayDress item it) (n : Nat) :
    cmdDressing item n d =
      let r := stepMany fillStep n d it
      if fillDone (r.1.fillSource r.2) ((r.1.sub it.part).fillOf r.2.id) && r.2.fault.isNone && r.1.earlierIssued r.2
      then r.1.dress it.part r.2 else r.1.setItem r.2 := by
  obtain ⟨work, undressed, amount, prepared, ownBed, free⟩ := h
  have id : it.id = item := (Dev.stnWork_some work).2.1
  have ready : (if it.desc.opcode = 0x13 then decide (it.sliceStage = 3) else true) = true := by
    split
    · next slice => exact decide_eq_true (prepared slice)
    · rfl
  have goes : (it.dressedBit || d.stnNoop it || !(if it.desc.opcode = 0x13 then decide (it.sliceStage = 3) else true)
      || (d.stnActiveBed it && !d.stn.parkedRec.any (fun e => e.1 = it.id)) || d.stnHeld it.part) = false := by
    rw [undressed, amount, ready, id, ownBed, free]
    rfl
  simp only [cmdDressing, work, goes, Bool.false_eq_true, if_false]
  rfl

section
variable {d : Dev} {item : Nat} {it : Item} (h : d.mayDress item it)
include h

/-- A row that does not complete the bed joins the shadow bed, and nothing else happens (R101). -/
theorem cmdDressing_row {d' : Dev} {it' : Item} {b : StnBlk} {row : List Elem}
    (hb : (sortBlks (d.fillSource it).blocks)[((d.sub it.part).fillOf item).done.length]? = some b)
    (hk : ((d.sub it.part).fillOf item).rows.length < b.k) (hn : b.n ≠ 0)
    (hrow : d.bedRow it (d.fillSource it).fmt b ((d.sub it.part).fillOf item).rows.length = (d', it', .ok row))
    (partly : fillDone (d'.fillSource it') ((d.sub it.part).fillOf item) = false) :
    cmdDressing item 1 d = (d'.withRow it.part item ((d.sub it.part).fillOf item) row).setItem it' := by
  obtain rfl : it.id = item := (Dev.stnWork_some h.work).2.1
  have id : it'.id = it.id := Dev.bedRow_id hrow
  have step := fillStep_row hb hk hn hrow
  rw [id] at step
  have unfinished : fillDone ((d'.withRow it.part it.id ((d.sub it.part).fillOf it.id) row).fillSource it')
      (((d'.withRow it.part it.id ((d.sub it.part).fillOf it.id) row).sub it.part).fillOf it'.id) = false := by
    rw [id, Dev.fillOf_withRow, ← partly]
    exact fillDone_congr (Dev.fillSource_length (Dev.withRow_parkedRec ..) it') rfl
  rw [cmdDressing_of_mayDress h, stepMany_one step]
  simp only [unfinished, Bool.false_and, Bool.false_eq_true, if_false]

/-- A complete bed becomes active once every earlier operation has issued its last vector (R104). -/
theorem cmdDressing_complete (done : fillDone (d.fillSource it) ((d.sub it.part).fillOf item) = true) (turn : d.earlierIssued it = true) :
    cmdDressing item 0 d = d.dress it.part it := by
  obtain ⟨-, rfl, free⟩ := Dev.stnWork_some h.work
  rw [cmdDressing_of_mayDress h, stepMany_zero]
  simp only [done, free, turn, Option.isNone_none, Bool.and_self, if_true]

end

end Sys2Proof.Machine
end

section
/-!
Proofs, vectors of the Stones (R95, R117, R126, R128): the column sums of a vector that issues, and the outputs of the one at the end of the descent.
-/
namespace Sys2Proof.Machine

/-! ### Issue -/

/-- The module after the column sums of a vector have entered the pipeline of sub-array `p`, behind the others (R95). -/
def Dev.withVector (d : Dev) (p : Nat) (f : Flight) : Dev :=
  ((d.setSub p { d.sub p with flight := (d.sub p).flight ++ [f] }).sweep (.item f.item)).event p 0x100 (some p) 0 1

section
variable (d : Dev) (p : Nat) (f : Flight)

@[simp] theorem Dev.withVector_mem : (d.withVector p f).mem = d.mem := by simp [Dev.withVector]
@[simp] theorem Dev.withVector_spl : (d.withVector p f).spl = d.spl := by simp [Dev.withVector]
@[simp] theorem Dev.item_withVector (id : Nat) : (d.withVector p f).item id = d.item id := by simp [Dev.withVector]
theorem Dev.sub_withVector (q : Nat) :
    (d.withVector p f).sub q = if q = p then { d.sub p with flight := (d.sub p).flight ++ [f] } else d.sub q := by
  simp [Dev.withVector, Dev.sub_setSub]

end

/-- A step of the issue puts the next vector's sums into the pipeline (R95, R96). -/
theorem issueStep_vector {d d' : Dev} {it it' : Item} {sums : List (Nat × List ColSum)} (left : d.stnIssued it = false)
    (h : issueBlks it.pos.1 ((d.stnBlks it.part it.desc it.ext).zipIdx.map (fun e => (e.2, e.1))) d it = (d', it', .ok sums)) :
    issueStep d it = (d'.withVector it.part { item := it'.id, vec := it.pos.1, sums := sums }, { it' with pos := (it.pos.1 + 1, 0, 0) }, true) := by
  simp only [issueStep, left, Bool.false_eq_true, if_false, h]
  rfl

/-! ### The epilogue -/

/-- An item one of whose vectors has left the pipeline; `cut`: an output of it was cut at the end of its space (R452, log entry 15). -/
def Item.vectorDone (it : Item) (lost cut : Bool) : Item :=
  { it with poison := it.poison || lost, prog := it.prog + 1, short := it.short + b2n cut }

/-- The module whose sub-array `p` has passed a vector of item `id`, now `it`, through the epilogue: `fs` are the vectors behind it. -/
def Dev.withoutVector (d : Dev) (p : Nat) (fs : List Flight) (id : Nat) (it : Item) : Dev :=
  (((d.setSub p { d.sub p with flight := fs }).setItem it).sweep (.item id)).event p 0x103 (some p) 0 1

section
variable (d : Dev) (p : Nat) (fs : List Flight) (id : Nat) (it : Item)

@[simp] theorem Dev.withoutVector_mem : (d.withoutVector p fs id it).mem = d.mem := by simp [Dev.withoutVector]
@[simp] theorem Dev.withoutVector_spl : (d.withoutVector p fs id it).spl = d.spl := by simp [Dev.withoutVector]
theorem Dev.sub_withoutVector (q : Nat) :
    (d.withoutVector p fs id it).sub q = if q = p then { d.sub p with flight := fs } else d.sub q := by
  simp [Dev.withoutVector, Dev.sub_setSub]

variable {it} in
theorem Dev.item_withoutVector {x : Item} (h : d.item it.id = some x) : (d.withoutVector p fs id it).item it.id = some it := by
  rw [Dev.withoutVector, Dev.item_event, Dev.item_sweep]
  exact Dev.item_setItem h

end

/-- The first vector of a sub-array that no fault holds writes its outputs and counts as progress (R128, R130). -/
theorem Dev.drainOne_vector {d d' : Dev} {p : Nat} {f : Flight} {fs : List Flight} {it it' : Item} {lost : Bool}
    (first : (d.sub p).flight = f :: fs) (hit : d.item f.item = some it) (free : d.stnHeld p = false) (hop : it.desc.opcode ≠ 0x13)
    (h : epiBlks (d.stnBlks p it.desc it.ext) f.vec f.sums d it = (d', it', .ok lost)) :
    d.drainOne p = (d'.withoutVector p fs it.id (it'.vectorDone lost (d'.vecCut it f)), true) := by
  have short (n : Nat) (cut : Bool) : (if cut = true then n + 1 else n) = n + b2n cut := by cases cut <;> rfl
  simp only [Dev.drainOne, first, hit, free, Bool.false_eq_true, if_false, h, ne_eq, hop, not_false_eq_true, decide_true, Bool.true_or,
    Bool.true_and, if_true, short]
  rfl

theorem Dev.drain_zero (p : Nat) (d : Dev) : Dev.drain p 0 d = d := rfl

theorem Dev.drain_one {p : Nat} {d d' : Dev} (h : d.drainOne p = (d', true)) : Dev.drain p 1 d = d' := by
  simp only [Dev.drain, h]

/-! ### The commands -/

/-- The operations that stream a runner, with their codes (R110, R117, R124). -/
def streamingOps : List ((Nat → Nat → Nat → Instr) × Nat) := [(Instr.matmul, 0x10), (Instr.matmulAcc, 0x11), (Instr.packed, 0x12)]

theorem exec_streaming {s : State} (h : s.running = true) {c : Nat → Nat → Nat → Instr} {op : Nat} (hc : (c, op) ∈ streamingOps) (item n k : Nat) :
    exec (c item n k) s = .next (s.after (s.dev.stnRun op item n k)) := by
  simp only [streamingOps, List.mem_cons, Prod.mk.injEq, List.not_mem_nil, or_false] at hc
  obtain ⟨rfl, rfl⟩ | ⟨rfl, rfl⟩ | ⟨rfl, rfl⟩ := hc <;> exact onDev_running h

/-- An item whose vectors may issue and leave: its bed is dressed or the active one it names, and earlier operations have issued (R95, R104, R106). -/
structure Dev.mayStream (d : Dev) (op item : Nat) (it : Item) : Prop where
  work : d.stnWork item = some it
  code : it.desc.opcode = op
  turn : d.earlierIssued it = true
  bedThere : d.stnNoBed it = false
  ready : it.dressedBit = true ∨ (d.stnActiveBed it && !d.stn.parkedRec.any (fun e => e.1 = item)) = true
  free : d.stnHeld it.part = false

/-- The item begins; up to `n` vectors issue and up to `k` leave. -/
theorem Dev.stnRun_of_mayStream {d : Dev} {op item : Nat} {it : Item} (h : d.mayStream op item it) (n k : Nat) :
    d.stnRun op item n k =
      let r := stepMany issueStep n (d.setItem (d.stnStart it)) (d.stnStart it)
      Dev.drain r.2.part k (r.1.setItem r.2) := by
  obtain ⟨work, rfl, turn, bedThere, ready, free⟩ := h
  have id : it.id = item := (Dev.stnWork_some work).2.1
  have goes : (it.dressedBit || (d.stnActiveBed it && !d.stn.parkedRec.any (fun e => e.1 = it.id)) || d.stnNoop it) = true := by
    rw [id, Bool.or_eq_true, Bool.or_eq_true]
    exact .inl ready
  simp only [Dev.stnRun, work, turn, bedThere, goes, free, ne_eq, not_true_eq_false, Bool.not_true, Bool.false_and, Bool.or_false,
    Bool.false_eq_true, if_false]

section
variable {d : Dev} {op item : Nat} {it : Item} (h : d.mayStream op item it)
include h

/-- One vector issues (R95). -/
theorem Dev.stnRun_issue {d' : Dev} {it' : Item} {sums : List (Nat × List ColSum)} (left : d.stnIssued it = false)
    (hs : issueBlks it.pos.1 ((d.stnBlks it.part it.desc it.ext).zipIdx.map (fun e => (e.2, e.1))) (d.setItem (d.stnStart it)) (d.stnStart it)
      = (d', it', .ok sums)) :
    d.stnRun op item 1 0 =
      (d'.withVector it.part { item := it'.id, vec := it.pos.1, sums := sums }).setItem { it' with pos := (it.pos.1 + 1, 0, 0) } := by
  have step := issueStep_vector (d := d.setItem (d.stnStart it)) (it := d.stnStart it) left hs
  rw [Dev.stnRun_of_mayStream h, stepMany_one step]
  rfl

/-- One vector leaves the pipeline, of this item or of another (R117, R128). -/
theorem Dev.stnRun_drain {f : Flight} {fs : List Flight} {d' : Dev} {jt jt' : Item} {lost : Bool} (first : (d.sub it.part).flight = f :: fs)
    (hjt : (d.setItem (d.stnStart it)).item f.item = some jt) (hop : jt.desc.opcode ≠ 0x13)
    (he : epiBlks ((d.setItem (d.stnStart it)).stnBlks it.part jt.desc jt.ext) f.vec f.sums (d.setItem (d.stnStart it)) jt = (d', jt', .ok lost)) :
    d.stnRun op item 0 1 = d'.withoutVector it.part fs jt.id (jt'.vectorDone lost (d'.vecCut jt f)) := by
  have out := Dev.drainOne_vector (d := d.setItem (d.stnStart it)) first hjt h.free hop he
  rw [Dev.stnRun_of_mayStream h, stepMany_zero]
  dsimp only
  rw [Dev.setItem_setItem d rfl]
  exact Dev.drain_one out

end

end Sys2Proof.Machine
end

section
/-!
Proofs, the phases of SLICE64 (R175 to R177): the row that a phase issues, and its sums over the planes of the slices.
-/
namespace Sys2Proof.Machine

/-- The runner row that phase `it.slicePhase` issues next, once for each slice it takes part with, under the slice's number (R176). -/
def Dev.slicePlanes (d : Dev) (it : Item) : List (List (Option Elem) × Nat) :=
  let k := (d.stnKN it.part it.desc).1
  let n := (d.stnKN it.part it.desc).2.1
  let s := (stnSlices it.desc).1
  let mm := d.sliceM it.part it.desc it.ext
  let at1 := (refOf (extWord it.ext 4)).base + (sliceRegions s mm k n).2.1
  (List.range (s + 1 - it.slicePhase)).map (fun i =>
    ((d.spadRead it.part (at1 + i * mm * k + it.pos.1 * k) k).map (fun b => some ({ v := Num.ofInt (toSigned 8 b.b.toNat), p := b.p } : Elem)), i + 1))

/-- One more plane in a sum: slice `x.2` weighs 128 to the number of slices behind it (R177). -/
def ColSum.addPlane (s j : Nat) (cells : List (Option Elem)) (t : ColSum) (x : List (Option Elem) × Nat) : ColSum :=
  { t with acc := t.acc + (columnSum true 0 x.1 cells).acc * (2 ^ (7 * (s + 1 - x.2 - j)) : Nat), p := t.p || (columnSum true 0 x.1 cells).p }

/-- The sums of the row over the columns of the bed. -/
def Dev.sliceSums (d : Dev) (it : Item) : List ColSum :=
  (List.range (d.stnKN it.part it.desc).2.1).map (fun col => (d.slicePlanes it).foldl
    (ColSum.addPlane (stnSlices it.desc).1 it.slicePhase (bedColumn (d.sub it.part).bed 0 (d.stnKN it.part it.desc).1 col)) {})

theorem ColSum.acc_foldl_addPlane (s j : Nat) (cells : List (Option Elem)) (planes : List (List (Option Elem) × Nat)) (t : ColSum) :
    (planes.foldl (ColSum.addPlane s j cells) t).acc =
      t.acc + (planes.map (fun x => (columnSum true 0 x.1 cells).acc * (2 ^ (7 * (s + 1 - x.2 - j)) : Nat))).sum := by
  induction planes generalizing t with
  | nil => simp
  | cons x xs ih => rw [List.foldl_cons, ih, List.map_cons, List.sum_cons, ColSum.addPlane, Int.add_assoc]

theorem Dev.length_sliceSums (d : Dev) (it : Item) : (d.sliceSums it).length = (d.stnKN it.part it.desc).2.1 := by
  simp [Dev.sliceSums]

/-- The sum of a column is the weighted sum of its slices' products (R177). -/
theorem Dev.sliceSums_acc {d : Dev} {it : Item} {col : Nat} {x : ColSum} (h : (d.sliceSums it)[col]? = some x) :
    let k := (d.stnKN it.part it.desc).1
    let n := (d.stnKN it.part it.desc).2.1
    let s := (stnSlices it.desc).1
    let mm := d.sliceM it.part it.desc it.ext
    let at1 := (refOf (extWord it.ext 4)).base + (sliceRegions s mm k n).2.1
    x.acc = ((List.range (s + 1 - it.slicePhase)).map (fun i =>
      (columnSum true 0 ((d.spadRead it.part (at1 + i * mm * k + it.pos.1 * k) k).map
          (fun b => some ({ v := Num.ofInt (toSigned 8 b.b.toNat), p := b.p } : Elem)))
        (bedColumn (d.sub it.part).bed 0 k col)).acc * (2 ^ (7 * (s - i - it.slicePhase)) : Nat))).sum := by
  have inside : col < (d.stnKN it.part it.desc).2.1 := by
    rw [← d.length_sliceSums it]
    exact (List.getElem?_eq_some_iff.1 h).1
  rw [Dev.sliceSums, List.getElem?_map, List.getElem?_range inside, Option.map_some, Option.some.injEq] at h
  rw [← h, ColSum.acc_foldl_addPlane, Int.zero_add, Dev.slicePlanes, List.map_map]
  simp only [Function.comp_def, Nat.add_sub_add_right]

/-- The item after it has issued a row of a phase: the next of the `mm` rows, else the next phase, whose bed is another plane, else the end (R175). -/
def Item.sliceNext (it : Item) (mm : Nat) : Item :=
  { it with pos := if it.pos.1 + 1 < mm then (it.pos.1 + 1, 0, 0) else if 1 < it.slicePhase then (0, 0, 0) else (mm, 0, 0),
            aux := if it.pos.1 + 1 < mm then it.aux else if 1 < it.slicePhase then [0, 3, it.slicePhase - 1] else [0, 4, 0] }

/-- The module after a row of a phase has entered the pipeline: one issue for each slice (R176). -/
def Dev.withRow64 (d : Dev) (it : Item) : Dev :=
  (d.setSub it.part { d.sub it.part with
      flight := (d.sub it.part).flight ++ [{ item := it.id, vec := it.pos.1, phase := it.slicePhase, sums := [(0, d.sliceSums it)] }] }).event
    it.part 0x100 (some it.part) 0 ((stnSlices it.desc).1 + 1 - it.slicePhase)

section
variable (d : Dev) (it : Item)

@[simp] theorem Dev.withRow64_mem : (d.withRow64 it).mem = d.mem := by simp [Dev.withRow64]
@[simp] theorem Dev.withRow64_spl : (d.withRow64 it).spl = d.spl := by simp [Dev.withRow64]
@[simp] theorem Dev.item_withRow64 (id : Nat) : (d.withRow64 it).item id = d.item id := by simp [Dev.withRow64]
theorem Dev.sub_withRow64 (q : Nat) : (d.withRow64 it).sub q = if q = it.part then { d.sub it.part with
    flight := (d.sub it.part).flight ++ [{ item := it.id, vec := it.pos.1, phase := it.slicePhase, sums := [(0, d.sliceSums it)] }] } else d.sub q := by
  simp [Dev.withRow64, Dev.sub_setSub]

end

/-- A step of a phase over a dressed plane issues one row. -/
theorem sliceStep_phase {d : Dev} {it : Item} (left : d.stnIssued it = false) (stage : it.sliceStage = 3) (dressed : it.dressedBit = true) :
    sliceStep d it = (d.withRow64 it, it.sliceNext (d.sliceM it.part it.desc it.ext), true) := by
  have next (mm : Nat) : (if it.pos.1 + 1 < mm then { it with pos := (it.pos.1 + 1, 0, 0) }
      else if 1 < it.slicePhase then { it with pos := (0, 0, 0), aux := [0, 3, it.slicePhase - 1] }
      else { it with pos := (mm, 0, 0), aux := [0, 4, 0] } : Item) = it.sliceNext mm := by
    unfold Item.sliceNext
    split
    · rfl
    · split <;> rfl
  simp only [sliceStep, left, stage, dressed, Bool.false_eq_true, if_false, Bool.not_true, next]
  rfl

theorem exec_slice64 {s : State} (h : s.running = true) (item n k : Nat) :
    exec (.slice64 item n k) s = .next (s.after (cmdSlice64 item n k s.dev)) := onDev_running h

/-- A phase over a dressed plane issues its next row. -/
theorem cmdSlice64_phase {d : Dev} {item : Nat} {it : Item} (work : d.stnWork item = some it) (code : it.desc.opcode = 0x13)
    (turn : d.earlierIssued it = true) (free : d.stnHeld it.part = false) (stage : it.sliceStage = 3) (dressed : it.dressedBit = true)
    (amount : d.stnNoop it = false) :
    cmdSlice64 item 1 0 d = ((d.setItem (d.stnStart it)).withRow64 (d.stnStart it)).setItem
      ((d.stnStart it).sliceNext (d.sliceM it.part it.desc it.ext)) := by
  have left : d.stnIssued it = false := by simp [Dev.stnIssued, amount, code, stage]
  have step := sliceStep_phase (d := d.setItem (d.stnStart it)) (it := d.stnStart it) left stage dressed
  simp only [cmdSlice64, work, code, turn, free, ne_eq, not_true_eq_false, Bool.not_true, Bool.false_eq_true, or_self, if_false, Bool.false_and,
    stepMany_one step]
  rfl

end Sys2Proof.Machine
end

section
/-!
Proofs, the Stones at work (R95, R99 to R104, R117, R128, R175 to R177): the statement of O40 from the steps above.
-/
namespace Sys2Proof.Machine

/-- Settles O40: each clause is a command's lemma above with what the module it leaves holds. -/
theorem stonesWork : Obligations.StonesWork := by
  unfold Obligations.StonesWork
  intro s item it hrun work
  obtain ⟨hit, rfl, -⟩ := Dev.stnWork_some work
  refine ⟨fun undressed amount prepared ownBed free => ?_, fun c op hc code turn bedThere ready free => ?_,
    fun code turn free stage dressed amount => ?_⟩
  · have may : s.dev.mayDress it.id it := ⟨work, undressed, amount, prepared, ownBed, free⟩
    refine ⟨fun b d' it' row hb hk hn hrow partly => ?_, fun done turn => ?_⟩
    · refine ⟨(d'.withRow it.part it.id ((s.dev.sub it.part).fillOf it.id) row).setItem it', ?_, ?_, ?_, ?_, fun q hq => ?_, ?_, ?_⟩
      · rw [exec_dressing hrun, cmdDressing_row may hb hk hn hrow partly]
      · rw [Dev.sub_setItem, Dev.fillOf_withRow]
      · rw [Dev.sub_setItem, Dev.sub_withRow_same, SubArr.setFill_bed]
      · rw [Dev.sub_setItem, Dev.sub_withRow_same, SubArr.setFill_flight]
      · rw [Dev.sub_setItem, Dev.sub_withRow_other _ _ _ _ hq]
      · rw [Dev.setItem_mem, Dev.withRow_mem]
      · rw [Dev.setItem_spl, Dev.withRow_spl]
    · have active := s.dev.sub_dress it.part it it.part
      rw [if_pos rfl] at active
      refine ⟨s.dev.dress it.part it, ?_, ?_, ?_, ?_, fun q hq => ?_, Dev.item_dress _ _ hit, Dev.dress_mem .., Dev.dress_spl ..⟩
      · rw [exec_dressing hrun, cmdDressing_complete may done turn]
      · rw [active]
      · rw [active]
      · rw [active]
      · rw [Dev.sub_dress, if_neg hq]
  · have may : s.dev.mayStream op it.id it := ⟨work, code, turn, bedThere, ready, free⟩
    refine ⟨fun left d' it' sums hs => ?_, fun f fs jt d' jt' lost first hjt hop he hstn => ?_⟩
    · have entered := d'.sub_withVector it.part { item := it'.id, vec := it.pos.1, sums := sums } it.part
      rw [if_pos rfl] at entered
      refine ⟨(d'.withVector it.part { item := it'.id, vec := it.pos.1, sums := sums }).setItem { it' with pos := (it.pos.1 + 1, 0, 0) },
        ?_, ?_, ?_, fun q hq => ?_, fun x hx => ?_, ?_, ?_⟩
      · rw [exec_streaming hrun hc, Dev.stnRun_issue may left hs]
      · rw [Dev.sub_setItem, entered]
      · rw [Dev.sub_setItem, entered]
      · rw [Dev.sub_setItem, Dev.sub_withVector, if_neg hq]
      · exact Dev.item_setItem (it := { it' with pos := (it.pos.1 + 1, 0, 0) }) ((Dev.item_withVector ..).trans hx)
      · rw [Dev.setItem_mem, Dev.withVector_mem]
      · rw [Dev.setItem_spl, Dev.withVector_spl]
    · have same (q : Nat) : d'.sub q = s.dev.sub q := by rw [Dev.sub, hstn, Dev.sub]
      refine ⟨d'.withoutVector it.part fs jt.id (jt'.vectorDone lost (d'.vecCut jt f)), ?_, ?_, fun q hq => ?_, Dev.withoutVector_mem ..,
        Dev.withoutVector_spl .., fun x hx => ?_⟩
      · rw [exec_streaming hrun hc, Dev.stnRun_drain may first hjt hop he]
      · rw [Dev.sub_withoutVector, if_pos rfl]
      · rw [Dev.sub_withoutVector, if_neg hq, same]
      · exact Dev.item_withoutVector (it := jt'.vectorDone lost (d'.vecCut jt f)) d' it.part fs jt.id hx
  · refine ⟨((s.dev.setItem (s.dev.stnStart it)).withRow64 (s.dev.stnStart it)).setItem
        ((s.dev.stnStart it).sliceNext (s.dev.sliceM it.part it.desc it.ext)),
      (s.dev.setItem (s.dev.stnStart it)).sliceSums (s.dev.stnStart it), ?_, ?_, Dev.length_sliceSums .., fun q hq => ?_, ?_, ?_,
      fun col x hx => ?_, ?_⟩
    · rw [exec_slice64 hrun, cmdSlice64_phase work code turn free stage dressed amount]
    · rw [Dev.sub_setItem, Dev.sub_withRow64]
      exact congrArg SubArr.flight (if_pos rfl)
    · rw [Dev.sub_setItem, Dev.sub_withRow64]
      exact if_neg hq
    · rw [Dev.setItem_mem, Dev.withRow64_mem, Dev.setItem_mem]
    · rw [Dev.setItem_spl, Dev.withRow64_spl, Dev.setItem_spl]
    · exact Dev.sliceSums_acc hx
    · exact Dev.item_setItem (it := (s.dev.stnStart it).sliceNext (s.dev.sliceM it.part it.desc it.ext))
        ((Dev.item_withRow64 ..).trans (Dev.item_setItem (it := s.dev.stnStart it) hit))

end Sys2Proof.Machine
end

section
/-!
Proofs, the column sums of the Stones (R143 to R147, R77): a pass adds what each product contributes, and an integer sum is converted by its clamp.
-/
namespace Sys2Proof.Machine

/-! ### Signed magnitudes -/

theorem signedOf_natAbs (x : Int) : signedOf (decide (x < 0)) x.natAbs = x := by
  by_cases neg : x < 0
  · rw [decide_eq_true neg, signedOf, if_pos rfl]
    omega
  · rw [decide_eq_false neg, signedOf, if_neg Bool.false_ne_true]
    omega

theorem signedOf_mul (s t : Bool) (m n : Nat) : signedOf (xor s t) (m * n) = signedOf s m * signedOf t n := by
  cases s <;> cases t <;>
    simp only [signedOf, Bool.xor_false, Bool.xor_true, Bool.not_false, Bool.not_true, Bool.false_eq_true, if_true, if_false, Int.natCast_mul, Int.neg_mul,
      Int.mul_neg, Int.neg_neg]

/-! ### What a product contributes (R146, R147) -/

/-- At anchor 0 a product of two integers contributes itself. -/
theorem cutTo_mul_ofInt (a b : Int) : cutTo (Num.mul (Num.ofInt a) (Num.ofInt b)) 0 = a * b := by
  unfold Num.ofInt
  by_cases ha : a = 0
  · by_cases hb : b = 0 <;> simp [ha, hb, Num.mul, cutTo]
  · by_cases hb : b = 0
    · simp [ha, hb, Num.mul, cutTo]
    · rw [if_neg ha, if_neg hb]
      simp [Num.mul, cutTo, signedOf_mul, signedOf_natAbs]

/-- The contributions of all products, added. -/
def cutSum (w : Int) (ps : List Num) : Int := (ps.map (fun p => cutTo p w)).sum

theorem foldl_add_cutTo (w : Int) (ps : List Num) : ps.foldl (fun s p => s + cutTo p w) 0 = cutSum w ps := by
  rw [cutSum, List.sum_eq_foldl, List.foldl_map]

theorem passInteger_eq (ps : List Num) : passInteger ps = { acc := cutSum 0 ps } := by
  rw [passInteger, foldl_add_cutTo]

theorem passNative_some (a b : Int) (ps : List Num) :
    (passNative (some a) (some b) ps).anchor = a + b + 1 - 82 ∧ (passNative (some a) (some b) ps).acc = cutSum (a + b + 1 - 82) ps :=
  ⟨rfl, foldl_add_cutTo _ ps⟩

/-- Without an exponent on either side nothing is added (R145). -/
theorem passNative_acc_none {er eb : Option Int} (h : er = none ∨ eb = none) (ps : List Num) : (passNative er eb ps).acc = 0 := by
  rcases h with rfl | rfl
  · rfl
  · cases er <;> rfl

/-! ### The largest exponent (R144) -/

/-- The fold takes the larger of two exponents where both exist, else the one there is. -/
theorem maxExponent_eq_foldl (xs : List Num) : maxExponent xs = xs.foldl (fun o x => o.merge max (exponent? x)) none := by
  unfold maxExponent
  congr 1
  funext o x
  cases o <;> cases exponent? x <;> rfl

theorem foldl_merge_exponent (o : Option Int) (xs : List Num) :
    xs.foldl (fun o x => o.merge max (exponent? x)) o = o.merge max (xs.filterMap exponent?).max? := by
  induction xs generalizing o with
  | nil => cases o <;> rfl
  | cons x xs ih =>
    rw [List.foldl_cons, ih]
    cases h : exponent? x with
    | none => simp [h]
    | some a =>
      rw [List.filterMap_cons_some h, List.max?_cons]
      cases o <;> cases (xs.filterMap exponent?).max? <;> simp [Int.max_assoc]

theorem maxExponent_eq_max? (xs : List Num) : maxExponent xs = (xs.filterMap exponent?).max? := by
  rw [maxExponent_eq_foldl, foldl_merge_exponent, Option.merge_none_left]

/-! ### The sum of a column -/

/-- The largest exponent among finite non-zero elements (R144). -/
def topExponent (l : List Elem) : Option Int := (l.filterMap (fun e => exponent? e.v)).max?

/-- The products of a row with a column. -/
def products (row col : List Elem) : List Num := (row.zip col).map (fun e => Num.mul e.1.v e.2.v)

/-- With no element masked every pair is multiplied, and the sum is poisoned by any of the elements. -/
theorem columnSum_some (integer : Bool) (row col : List Elem) :
    columnSum integer 0 (row.map some) (col.map some) =
      { (if integer then passInteger (products row col)
          else passNative (topExponent row) (topExponent col) (products row col)) with
        p := (row ++ col).any (·.p) } := by
  simp [columnSum, maxExponent_eq_max?, topExponent, products, List.zip_map, List.filterMap_map, List.any_map, Function.comp_def, Prod.map]

theorem columnSum_some_p (integer : Bool) (row col : List Elem) :
    (columnSum integer 0 (row.map some) (col.map some)).p = true ↔ ∃ e ∈ row ++ col, e.p = true := by
  rw [columnSum_some]
  exact List.any_eq_true

/-! ### An integer pass -/

/-- An unpoisoned element that holds an integer. -/
def Elem.ofInt (v : Int) : Elem := { v := Num.ofInt v, p := false }

theorem cutSum_products_ofInt (xs : List (Int × Int)) :
    cutSum 0 (products (xs.map (fun e => Elem.ofInt e.1)) (xs.map (fun e => Elem.ofInt e.2))) = (xs.map (fun e => e.1 * e.2)).sum := by
  simp [cutSum, products, Elem.ofInt, List.zip_map', Function.comp_def, cutTo_mul_ofInt]

/-- The column sum of integers is their dot product, at anchor 0, unpoisoned and without a flag. -/
theorem columnSum_ofInt (xs : List (Int × Int)) :
    columnSum true 0 (xs.map (fun e => some (Elem.ofInt e.1))) (xs.map (fun e => some (Elem.ofInt e.2))) =
      { acc := (xs.map (fun e => e.1 * e.2)).sum } := by
  have sum := columnSum_some true (xs.map (fun e => Elem.ofInt e.1)) (xs.map (fun e => Elem.ofInt e.2))
  have clean : (xs.map (fun e => Elem.ofInt e.1) ++ xs.map (fun e => Elem.ofInt e.2)).any (·.p) = false := by
    simp [Elem.ofInt]
  rw [List.map_map, List.map_map, clean, if_pos rfl, passInteger_eq, cutSum_products_ofInt] at sum
  exact sum

/-! ### Conversion to INT32 (R77, R83) -/

/-- A whole magnitude needs no rounding: it is kept, or replaced by the end of the range on its side. -/
theorem convert_int32_fin (s : Bool) {m : Nat} (pos : m ≠ 0) (md : RMode) (ftz : Bool) (r : Nat) :
    convert (.fin s m 0) .int32 md ftz r =
      if (Fmt.int32.maxFin s).1 < m then { bits := ofSigned 32 (signedOf s (Fmt.int32.maxFin s).1), sat := true }
      else { bits := ofSigned 32 (signedOf s m) } := by
  have whole : roundUnits md r s m 0 0 = m := by simp [roundUnits]
  have past : magLt (Fmt.int32.maxFin s).1 (Fmt.int32.maxFin s).2 m 0 = decide ((Fmt.int32.maxFin s).1 < m) := by
    cases s <;> simp [magLt, Fmt.maxFin]
  simp only [convert, Fmt.unit, whole, past, Fmt.isInt, decide_eq_true_eq, not_true_eq_false, false_and, and_false, if_false, if_neg pos]
  rfl

/-- An integer is converted to INT32 by its clamp, in every mode. -/
theorem convert_int32_ofInt (x : Int) (md : RMode) (ftz : Bool) (r : Nat) :
    convert (Num.ofInt x) .int32 md ftz r =
      { bits := ofSigned 32 (max (-(2 ^ 31)) (min (2 ^ 31 - 1) x)), sat := decide (x < -(2 ^ 31) ∨ 2 ^ 31 - 1 < x) } := by
  by_cases zero : x = 0
  · subst zero
    rfl
  · rw [Num.ofInt, if_neg zero, convert_int32_fin _ (Int.natAbs_ne_zero.2 zero), signedOf_natAbs]
    by_cases low : x < -(2 ^ 31)
    · have clamp : max (-(2 ^ 31)) (min (2 ^ 31 - 1) x) = -(2 ^ 31) := by omega
      have out : x < -(2 ^ 31) ∨ 2 ^ 31 - 1 < x := .inl low
      rw [clamp, decide_eq_true out, decide_eq_true (show x < 0 by omega)]
      exact if_pos (show 2 ^ 31 < x.natAbs by omega)
    · by_cases high : 2 ^ 31 - 1 < x
      · have clamp : max (-(2 ^ 31)) (min (2 ^ 31 - 1) x) = 2 ^ 31 - 1 := by omega
        have out : x < -(2 ^ 31) ∨ 2 ^ 31 - 1 < x := .inr high
        rw [clamp, decide_eq_true out, decide_eq_false (show ¬ x < 0 by omega)]
        exact if_pos (show 2 ^ 31 - 1 < x.natAbs by omega)
      · have clamp : max (-(2 ^ 31)) (min (2 ^ 31 - 1) x) = x := by omega
        have inside : ¬ (Fmt.int32.maxFin (decide (x < 0))).1 < x.natAbs := by
          by_cases neg : x < 0 <;> simp [Fmt.maxFin, neg] <;> omega
        rw [clamp, decide_eq_false (not_or.2 ⟨low, high⟩), if_neg inside]

/-- The INT32 output of a sum at anchor 0 without a flag. -/
theorem ColSum.convert_int32 (x : Int) (md : RMode) (ftz : Bool) (r : Nat) :
    ({ acc := x } : ColSum).convert .int32 md ftz r =
      { bits := ofSigned 32 (max (-(2 ^ 31)) (min (2 ^ 31 - 1) x)), sat := decide (x < -(2 ^ 31) ∨ 2 ^ 31 - 1 < x) } :=
  convert_int32_ofInt x md ftz r

/-- Settles O39: an integer pass is the dot product and its conversion the clamp; a floating-point pass is the sum of what each product contributes at
the anchor of the two largest exponents. -/
theorem columnSums : Obligations.ColumnSums := by
  unfold Obligations.ColumnSums
  refine ⟨fun xs md ftz r => ?integer, fun row col _ _ => ⟨?exponents, ?empty, columnSum_some_p false row col⟩⟩
  case integer =>
    intro el dot c
    have sum : c = { acc := dot } := columnSum_ofInt xs
    rw [sum, ColSum.convert_int32]
    exact ⟨rfl, rfl, rfl, rfl, decide_eq_true_iff⟩
  case exponents =>
    intro a b (hrow : topExponent row = some a) (hcol : topExponent col = some b)
    rw [columnSum_some, hrow, hcol]
    exact passNative_some a b (products row col)
  case empty =>
    intro (none_of : topExponent row = none ∨ topExponent col = none)
    rw [columnSum_some]
    exact passNative_acc_none none_of (products row col)

end Sys2Proof.Machine
end

section
/-!
Proofs, floating point on lanes (R84, R199, R283, R284): the operands that an opcode reads, and what each operation computes in a lane.
-/
namespace Sys2Proof.Machine

/-! ### Operands -/

/-- A field of the opcode's row names a vector register. -/
def vectorField (op : Nat) (field : OpSpec → RK) : Bool := decide ((opSpec op).map field = some .v ∨ (opSpec op).map field = some .w)

/-- The opcode reads the first `n` of the fields A, B and C, at least A, as vector registers. -/
abbrev readsOperands (op n : Nat) : Prop :=
  vectorField op (·.a) = true ∧ vectorField op (·.b) = decide (2 ≤ n) ∧ vectorField op (·.c) = decide (3 ≤ n)

/-- The operands of a lane, with the marks of those that the opcode reads. -/
theorem Skein.abc_of_reads (s : Skein) {i : SIns} {n : Nat} (h : readsOperands i.op n) (l : Nat) :
    s.abc i l = ((s.vval i.a l i.aCount).1, (s.vval i.b l i.bCount).1, (s.vval i.c l i.bCount).1,
      (s.vval i.a l i.aCount).2 || (decide (2 ≤ n) && (s.vval i.b l i.bCount).2) || (decide (3 ≤ n) && (s.vval i.c l i.bCount).2)) := by
  obtain ⟨ha, hb, hc⟩ := h
  change (_, _, _, (vectorField i.op (·.a) && _) || (vectorField i.op (·.b) && _) || (vectorField i.op (·.c) && _)) = _
  rw [ha, hb, hc, Bool.true_and]

/-- A value of one register is the register. -/
theorem Skein.vval_one (s : Skein) (r l : Nat) : s.vval r l 1 = s.vget r l := by simp [Skein.vval]

/-! ### Lane-wise instructions -/

/-- What a lane-wise instruction leaves, by any description `g` of what it computes for a lane. -/
theorem State.leavesSkein_lanes {s : State} {c : Instr} {k op : Nat} {sk : Skein} {i : SIns} {d : Dev} {f : Skein → SIns → Nat → Nat × Bool}
    {g : Nat → Nat × Bool} (hx : s.executes k sk i d) (hop : i.op = op)
    (hc : exec c s = onDev (fun x => x.issue k op (runLanes k SIns.dCount f)) s) (hg : ∀ l, f sk i l = g l) :
    ∃ b, s.leavesSkein c d k (some b) ∧ sk.vecWritten b i g := by
  obtain rfl : f sk i = g := funext hg
  by_cases idle : sk.eff i = 0
  · exact ⟨sk.next, State.leavesSkein_of_run hx hc hop (if_pos idle) d.countsOnly_refl, sk.vecWritten_next _ idle⟩
  · exact ⟨_, State.leavesSkein_of_run hx hc hop (if_neg idle) (Dev.countsOnly_bump _ _ (by decide)), sk.vecWritten_mapLanes _ idle⟩

/-! ### What a lane computes -/

/-- The integral value of a number under a rounding mode (R283). -/
def Num.integral (md : RMode) : Num → Num
  | .fin s m e => Num.mk' s (roundUnits md 0 s m e 0) 0
  | v => v

theorem fpOp_frnd (t : Fmt) (md : RMode) (x y z : Nat) : fpOp 0x2A t md x y z = ieeeRound ((t.decode x).integral md) t md := by
  unfold fpOp
  cases t.decode x <;> rfl

/-- A lane of FP32 or FP64 arithmetic, by any description `f` of the opcode's operation. -/
theorem laneFp_of_reads (sk : Skein) {i : SIns} {op n : Nat} {f : Fmt → Nat → Nat → Nat → Nat} (hop : i.op = op) (reads : readsOperands op n)
    (hf : ∀ t x y z, fpOp op t (spoolMode sk.sks) x y z = f t x y z) (l : Nat) :
    laneFp sk i l = (f i.fp (sk.vval i.a l i.aCount).1 (sk.vval i.b l i.bCount).1 (sk.vval i.c l i.bCount).1,
      (sk.vval i.a l i.aCount).2 || (decide (2 ≤ n) && (sk.vval i.b l i.bCount).2) || (decide (3 ≤ n) && (sk.vval i.c l i.bCount).2)) := by
  subst hop
  rw [laneFp, sk.abc_of_reads reads, ← hf]

/-- The type of an instruction is one that its opcode has (R276). -/
theorem SIns.typ_mem_of_legal {i : SIns} {o : OpSpec} (h : i.legal o = true) : i.typ ∈ o.types := by
  cases named : o.types.contains i.typ
  · simp only [SIns.legal, named, Bool.and_false, Bool.false_and, Bool.false_eq_true] at h
  · exact List.contains_iff_mem.1 named

/-- The types of the paired instructions are BF16 and FP16. -/
theorem opSpec_pair_types : ∀ op ∈ [0x2B, 0x2C, 0x2D], (opSpec op).map (·.types) = some [6, 7] := by decide

/-- The operands of a paired instruction are one register each (R275). -/
theorem State.executes_pair_counts {s : State} {k : Nat} {sk : Skein} {i : SIns} {d : Dev} (hx : s.executes k sk i d)
    (hop : i.op ∈ [0x2B, 0x2C, 0x2D]) : i.aCount = 1 ∧ i.bCount = 1 := by
  obtain ⟨o, spec, legal⟩ := State.executes_legal hx
  have types : o.types = [6, 7] := by simpa [spec] using opSpec_pair_types _ hop
  have narrow : ∀ t ∈ [6, 7], typeWide t = false := by decide
  have one := narrow i.typ (types ▸ SIns.typ_mem_of_legal legal)
  have range : ∀ op ∈ [0x2B, 0x2C, 0x2D], op ≠ 0x29 ∧ op < 0x50 := by decide
  obtain ⟨noCvt, noMem⟩ := range _ hop
  constructor
  · rw [SIns.aCount, if_neg noCvt, if_neg (by omega), one, if_neg Bool.false_ne_true]
  · rw [SIns.bCount, if_neg (by omega), one, if_neg Bool.false_ne_true]

/-- The exact result of a paired instruction in one half (R283). -/
def pairNum (op : Nat) (rdn : Bool) (a b c : Num) : Num :=
  if op = 0x2B then Num.add rdn (Num.mul a b) c else if op = 0x2C then Num.add rdn a b else Num.mul a b

/-- A half of a paired result: the exact result of the operands' halves, rounded. -/
def pairHalf (t : Fmt) (md : RMode) (f : Num → Num → Num → Num) (x y z h : Nat) : Nat :=
  ieeeRound (f (t.decode (bitsAt x (16 * h) 16)) (t.decode (bitsAt y (16 * h) 16)) (t.decode (bitsAt z (16 * h) 16))) t md

theorem pairOp_eq (op : Nat) (t : Fmt) (md : RMode) (x y z : Nat) :
    let half := pairHalf t md (pairNum op (decide (md = .rdn))) x y z
    pairOp op t md x y z = half 0 + half 1 * 2 ^ 16 := rfl

/-- A lane of paired arithmetic, by any description `f` of the opcode's exact result. -/
theorem lanePair_of_reads {s : State} {k op n : Nat} {sk : Skein} {i : SIns} {d : Dev} {f : Num → Num → Num → Num} (hx : s.executes k sk i d)
    (hop : i.op = op) (hpair : op ∈ [0x2B, 0x2C, 0x2D]) (reads : readsOperands op n) (two : 2 ≤ n)
    (hf : pairNum op (decide (spoolMode sk.sks = .rdn)) = f) (l : Nat) :
    let t : Fmt := if i.typ = 6 then .bf16 else .fp16
    let half := pairHalf t (spoolMode sk.sks) f (sk.vget i.a l).1 (sk.vget i.b l).1 (sk.vget i.c l).1
    lanePair sk i l = (half 0 + half 1 * 2 ^ 16, (sk.vget i.a l).2 || (sk.vget i.b l).2 || (decide (3 ≤ n) && (sk.vget i.c l).2)) := by
  subst hop hf
  obtain ⟨ha, hb⟩ := State.executes_pair_counts hx hpair
  rw [lanePair, sk.abc_of_reads reads, ha, hb]
  simp only [Skein.vval_one, pairOp_eq, two, decide_true, Bool.true_and]

/-- A lane of the function unit: FP64 by its own operation, FP32 by the Press function of the same name (R284). -/
theorem laneX_eq (sk : Skein) {i : SIns} {op fn : Nat} (hop : i.op = op) (hfn : xFunc op = fn) (l : Nat) :
    laneX sk i l = (if i.typ = 5 then xOp op true (spoolMode sk.sks) (sk.vval i.a l i.aCount).1 else fnBits fn (sk.vval i.a l i.aCount).1,
      (sk.vval i.a l i.aCount).2) := by
  subst hop hfn
  unfold laneX
  by_cases wide : i.typ = 5
  · simp only [wide, decide_true, if_true]
  · simp only [wide, decide_false, if_false]
    rfl

/-! ### The commands -/

section
variable {s : State} {c : Instr} {k op n : Nat} {sk : Skein} {i : SIns} {d : Dev} (hx : s.executes k sk i d) (hop : i.op = op)
include hx hop

/-- An instruction of FP32 or FP64 arithmetic. -/
theorem State.leavesSkein_fp {f : Fmt → Nat → Nat → Nat → Nat} (hc : exec c s = onDev (fun x => x.issue k op (runFp k)) s)
    (reads : readsOperands op n) (hf : ∀ t x y z, fpOp op t (spoolMode sk.sks) x y z = f t x y z) :
    ∃ b, s.leavesSkein c d k (some b) ∧ sk.vecWritten b i (fun l =>
      (f i.fp (sk.vval i.a l i.aCount).1 (sk.vval i.b l i.bCount).1 (sk.vval i.c l i.bCount).1,
        (sk.vval i.a l i.aCount).2 || (decide (2 ≤ n) && (sk.vval i.b l i.bCount).2) || (decide (3 ≤ n) && (sk.vval i.c l i.bCount).2))) :=
  State.leavesSkein_lanes hx hop hc (laneFp_of_reads sk hop reads hf)

/-- An instruction of paired 16-bit arithmetic. -/
theorem State.leavesSkein_pair {f : Num → Num → Num → Num} (hc : exec c s = onDev (fun x => x.issue k op (runPair k)) s)
    (hpair : op ∈ [0x2B, 0x2C, 0x2D]) (reads : readsOperands op n) (two : 2 ≤ n) (hf : pairNum op (decide (spoolMode sk.sks = .rdn)) = f) :
    ∃ b, s.leavesSkein c d k (some b) ∧ sk.vecWritten b i (fun l =>
      let half := pairHalf (if i.typ = 6 then .bf16 else .fp16) (spoolMode sk.sks) f (sk.vget i.a l).1 (sk.vget i.b l).1 (sk.vget i.c l).1
      (half 0 + half 1 * 2 ^ 16, (sk.vget i.a l).2 || (sk.vget i.b l).2 || (decide (3 ≤ n) && (sk.vget i.c l).2))) :=
  State.leavesSkein_lanes hx hop hc (lanePair_of_reads hx hop hpair reads two hf)

/-- An instruction of the function unit. -/
theorem State.leavesSkein_x {fn : Nat} (hc : exec c s = onDev (fun x => x.issue k op (runX k)) s) (hfn : xFunc op = fn) :
    ∃ b, s.leavesSkein c d k (some b) ∧ sk.vecWritten b i (fun l =>
      (if i.typ = 5 then xOp op true (spoolMode sk.sks) (sk.vval i.a l i.aCount).1 else fnBits fn (sk.vval i.a l i.aCount).1,
        (sk.vval i.a l i.aCount).2)) :=
  State.leavesSkein_lanes hx hop hc (laneX_eq sk hop hfn)

end

/-- Settles O18: each row of the three tables is an instruction of its class, whose operation is the one that the row names. -/
theorem floatInstructions : Obligations.FloatInstructions := by
  unfold Obligations.FloatInstructions
  refine fun s k sk i d hx => ⟨fun c op n f row hop => ?arith, fun c op n f row hop => ?paired, fun c op fn row hop => ?unit⟩
  all_goals simp only [List.mem_cons, Prod.mk.injEq, List.not_mem_nil, or_false] at row
  case arith =>
    obtain ⟨hc, reads, hf⟩ : exec (c k) s = onDev (fun x => x.issue k op (runFp k)) s ∧ readsOperands op n
        ∧ ∀ t x y z, fpOp op t (spoolMode sk.sks) x y z = f t x y z := by
      obtain ⟨rfl, rfl, rfl, rfl⟩ | ⟨rfl, rfl, rfl, rfl⟩ | ⟨rfl, rfl, rfl, rfl⟩ | ⟨rfl, rfl, rfl, rfl⟩ | ⟨rfl, rfl, rfl, rfl⟩
        | ⟨rfl, rfl, rfl, rfl⟩ | ⟨rfl, rfl, rfl, rfl⟩ | ⟨rfl, rfl, rfl, rfl⟩ | ⟨rfl, rfl, rfl, rfl⟩ := row
      case inr.inr.inr.inr.inr.inr.inr.inr => exact ⟨rfl, by decide, fun t x y z => fpOp_frnd t _ x y z⟩
      all_goals exact ⟨rfl, by decide, fun _ _ _ _ => rfl⟩
    exact State.leavesSkein_fp hx hop hc reads hf
  case paired =>
    obtain ⟨hc, hpair, reads, two, hf⟩ : exec (c k) s = onDev (fun x => x.issue k op (runPair k)) s ∧ op ∈ [0x2B, 0x2C, 0x2D]
        ∧ readsOperands op n ∧ 2 ≤ n ∧ pairNum op (decide (spoolMode sk.sks = .rdn)) = f := by
      obtain ⟨rfl, rfl, rfl, rfl⟩ | ⟨rfl, rfl, rfl, rfl⟩ | ⟨rfl, rfl, rfl, rfl⟩ := row
      all_goals exact ⟨rfl, by decide, by decide, by decide, rfl⟩
    exact State.leavesSkein_pair hx hop hc hpair reads two hf
  case unit =>
    obtain ⟨hc, hfn⟩ : exec (c k) s = onDev (fun x => x.issue k op (runX k)) s ∧ xFunc op = fn := by
      obtain ⟨rfl, rfl, rfl⟩ | ⟨rfl, rfl, rfl⟩ | ⟨rfl, rfl, rfl⟩ | ⟨rfl, rfl, rfl⟩ | ⟨rfl, rfl, rfl⟩ | ⟨rfl, rfl, rfl⟩
        | ⟨rfl, rfl, rfl⟩ := row
      all_goals exact ⟨rfl, rfl⟩
    exact State.leavesSkein_x hx hop hc hfn

end Sys2Proof.Machine
end

section
/-!
Proofs, a chunk of MANGLE (R196, R197, R204 to R211): the elements that the program makes of the inputs, their conversion, and the row that is
written.
-/
namespace Sys2Proof.Machine

/-! ### Steps and writes -/

/-- One step, whether or not the item goes on. -/
theorem stepMany_step {f : Dev → Item → Dev × Item × Bool} {d d' : Dev} {it it' : Item} {goes : Bool} (h : f d it = (d', it', goes)) :
    stepMany f 1 d it = (d', it') := by
  cases goes <;> simp only [stepMany, h]

/-- A single write that succeeds. -/
theorem Dev.writeAll_single {d d' : Dev} {it it' : Item} {r : Ref} {a : Nat} {bs : List MByte} {lost : Bool}
    (h : d.boundWrite it r.space a bs r.hint = (d', it', .ok lost)) : d.writeAll it [(r, a, bs)] = (d', it', .ok lost) := by
  simp only [Dev.writeAll, h, VRes.map, Bool.or_false]

@[simp] theorem Dev.sweep_prs (d : Dev) (w : Waiter) : (d.sweep w).prs = d.prs := rfl

theorem Dev.setItem_ctl_congr {d e : Dev} (h : e.ctl = d.ctl) (it : Item) : (e.setItem it).ctl = (d.setItem it).ctl := by
  rw [Dev.setItem, h, Dev.setItem]

/-! ### The elements of a chunk -/

/-- What the elements of the program know (R196, R202, R203). -/
def Item.mngCtx (it : Item) : PCtx := { dbl := mngDbl it.desc, cvtc := mngCvtc it.desc, seed := extWord it.ext 7 }

/-- The seven constants of the program (R196). -/
def Item.mngConsts (it : Item) : List PVal :=
  (List.range 7).map (fun k => (if it.mngCtx.dbl then extWord it.ext (9 + k) else extWord it.ext (9 + k) % 2 ^ 32, false))

/-- The `n` elements from element `c0` of a row on, of linear index `i0` on, each with the SAT and NAN of its program run (R197). -/
def Item.mngElems (it : Item) (ins : List (List (PVal × Bool × Bool))) (c0 i0 n : Nat) : List (PVal × Bool × Bool) :=
  (List.range n).map (fun e => it.mngCtx.run (ins.map (fun l => (l.getD e ((0, false), false, false)).1)) it.mngConsts (c0 + e) (i0 + e)
    (mngProg it.ext))

/-- The elements converted to the output's format, with their poison (R203, R224). -/
def PCtx.convAll (x : PCtx) (out : Fmt) (i0 : Nat) (es : List (PVal × Bool × Bool)) : List (Conv × Bool) :=
  es.zipIdx.map (fun e => (x.conv (x.fmt.decode e.1.1.1) out (i0 + e.2), e.1.1.2))

/-- An output without scales holds the converted elements (R83). -/
theorem PCtx.store_plain (x : PCtx) {out : Fmt} (h : out.isMx = false) (i0 : Nat) (es : List (PVal × Bool × Bool)) :
    x.store out i0 (es.map (·.1)) = ((x.convAll out i0 es).map (fun e => (e.1.bits, e.2)), [], (x.convAll out i0 es).any (·.1.sat),
      (x.convAll out i0 es).any (·.1.nan)) := by
  have same : ((es.map (·.1)).zipIdx.map fun (t : PVal × Nat) => (x.conv (x.fmt.decode t.1.1) out (i0 + t.2), t.1.2)) = x.convAll out i0 es := by
    rw [List.zipIdx_map, List.map_map]
    rfl
  rw [PCtx.store, h, if_neg Bool.false_ne_true, same]

/-- The item's marks after a chunk: those of its inputs, of its elements and of their conversions (R83, R203, R224). -/
def Item.noteChunk (it : Item) (ins : List (List (PVal × Bool × Bool))) (es : List (PVal × Bool × Bool)) (codes : List (Conv × Bool)) : Item :=
  { it with
    sat := it.sat || codes.any (·.1.sat) || ins.any (fun l => l.any (·.2.1)) || es.any (·.2.1),
    nan := it.nan || codes.any (·.1.nan) || ins.any (fun l => l.any (·.2.2)) || es.any (·.2.2),
    poison := it.poison || codes.any (·.2) }

/-! ### Where a chunk lies -/

/-- Elements of chunk `ch` of a row of `D0` elements (R204). -/
def chunkLen (D0 ch : Nat) : Nat := min 2048 (D0 - 2048 * ch)

/-- Where chunk `ch` of output row (d1, d2) is written (R205). -/
def Item.mngOutAddr (it : Item) (D0 D1 d1 d2 ch : Nat) : Nat :=
  let o := refOf (it.desc.word 5)
  let bits := (fmtOf (mngOutFmt it.desc)).bits
  o.base + d2 * mngPlane it 3 D1 (o.rowStride (rowBytes bits D0)) + d1 * o.rowStride (rowBytes bits D0) + 2048 * ch * bits / 8

/-- The chunk after (d1, d2, ch): of the same row, else of the next row, else of the next plane (R204). -/
def nextChunk (D0 D1 d1 d2 ch : Nat) : Nat × Nat × Nat :=
  if 2048 * ch + 2048 < D0 then (d1, d2, ch + 1) else if d1 + 1 < D1 then (d1 + 1, d2, 0) else (0, d2 + 1, 0)

/-- The reduction's value over the elements of its row so far (R211). -/
def Item.redSoFar (it : Item) (ch : Nat) (es : List (PVal × Bool × Bool)) : PVal :=
  let value := redChunk (mngReduce it.desc) ((es.map (·.1)).map (redLeaf (mngReduce it.desc)))
  if ch = 0 then value else redCombine (mngReduce it.desc) (it.vals.getD 0 0, it.vals.getD 1 0 = 1) value

/-- The module after a chunk of `n` elements is written: what was brought for it has been used, and the elements are counted. -/
def Dev.chunkCounted (d : Dev) (it : Item) (n : Nat) : Dev :=
  (d.sweep (.item it.id)).event (4 + it.part) 0x200 (some it.part) 0 n

section
variable (d : Dev) (it : Item) (n : Nat)

@[simp] theorem Dev.chunkCounted_ctl : (d.chunkCounted it n).ctl = d.ctl := by simp [Dev.chunkCounted]
@[simp] theorem Dev.chunkCounted_mem : (d.chunkCounted it n).mem = d.mem := by simp [Dev.chunkCounted]
@[simp] theorem Dev.chunkCounted_stn : (d.chunkCounted it n).stn = d.stn := by simp [Dev.chunkCounted]
@[simp] theorem Dev.chunkCounted_spl : (d.chunkCounted it n).spl = d.spl := by simp [Dev.chunkCounted]
@[simp] theorem Dev.chunkCounted_prs : (d.chunkCounted it n).prs = d.prs := by simp [Dev.chunkCounted]

end

/-- A chunk of an operation without link, reduction and scales: its inputs are read, its elements written as one row (R206, R207, R223). -/
theorem mangleStep_chunk {d e1 e2 : Dev} {it it1 it2 : Item} {D0 D1 D2 d1 d2 ch : Nat} {ins : List (List (PVal × Bool × Bool))} {lost : Bool}
    (todo : d.mngDone it = false) (unlinked : d.linkOfItem it = none) (plain : mngReduce it.desc = 0)
    (noScales : (fmtOf (mngOutFmt it.desc)).isMx = false) (hdims : d.mngDims it = (D0, D1, D2)) (hpos : it.pos = (d1, d2, ch))
    (hin : d.mngInputs it it.mngCtx d1 d2 (2048 * ch) (chunkLen D0 ch) [0, 1, 2] = (e1, it1, .ok ins)) :
    let out := fmtOf (mngOutFmt it.desc)
    let i0 := D0 * (d1 + D1 * d2) + 2048 * ch
    let es := it.mngElems ins (2048 * ch) i0 (chunkLen D0 ch)
    let codes := it.mngCtx.convAll out i0 es
    let o := refOf (it.desc.word 5)
    let a := it.mngOutAddr D0 D1 d1 d2 ch
    e1.boundWrite (it1.noteChunk ins es codes) o.space a (packRow out (codes.map (fun e => (e.1.bits, e.2)))) o.hint = (e2, it2, .ok lost) →
    mangleStep d it = (e2.chunkCounted it (chunkLen D0 ch),
      { it2 with poison := it2.poison || lost, prog := it2.prog + min (chunkLen D0 ch) ((e2.spaceEnd o.space a - a) * 8 / out.bits),
                 vals := if decide (D0 ≤ 2048 * ch + 2048) then [] else [(it.redSoFar ch es).1, b2n (it.redSoFar ch es).2],
                 pos := nextChunk D0 D1 d1 d2 ch }, true) := by
  intro out i0 es codes o a hout
  have stored : it.mngCtx.store out i0 (es.map (·.1)) = (codes.map (fun e => (e.1.bits, e.2)), [], codes.any (·.1.sat), codes.any (·.1.nan)) :=
    it.mngCtx.store_plain noScales i0 es
  have written := Dev.writeAll_single hout
  have next : (if (!decide (D0 ≤ 2048 * ch + 2048)) = true then (d1, d2, ch + 1) else if d1 + 1 < D1 then (d1 + 1, d2, 0) else (0, d2 + 1, 0))
      = nextChunk D0 D1 d1 d2 ch := by
    simp [nextChunk]
  unfold mangleStep
  rw [if_neg (by rw [todo]; exact Bool.false_ne_true), hdims, hpos, unlinked]
  dsimp -zeta only
  rw [if_neg Bool.false_ne_true]
  extract_lets x c0 n row i0' ks red s0 last str scStr a' rr
  rw [show d.mngInputs it x d1 d2 c0 n [0, 1, 2] = _ from hin]
  dsimp -zeta only
  extract_lets es' ts cv v bytes ws inSat inNan it'
  have store' : x.store out i0' ts = _ := stored
  have noReduce : ¬ (red ≠ 0 ∧ last = true) := fun h => h.1 plain
  have marks : it' = it1.noteChunk ins es codes := by
    simp only [it', store', decide_eq_false (Decidable.not_not.2 (show red = 0 from plain)), List.any_map, List.any_nil, Bool.or_false,
      Bool.false_and]
    rfl
  have single : ws = [(o, a, packRow out (codes.map (fun e => (e.1.bits, e.2))))] := by
    simp only [ws, bytes, store', if_neg noReduce, show out.isMx = false from noScales, Bool.false_eq_true, if_false, List.append_nil]
    rfl
  rw [marks, single, written]
  dsimp only
  rw [if_neg noReduce, show (if (!last) = true then (d1, d2, ch + 1) else _) = _ from next]
  rfl

/-- A step that finds nothing left to write changes nothing. -/
theorem mangleStep_of_done {d : Dev} {it : Item} (h : d.mngDone it = true) : mangleStep d it = (d, it, false) := by
  rw [mangleStep, if_pos h]

/-! ### The command MANGLE -/

/-- The operation leaves its queue with a program longer than 64 instructions, which are clamped (R204). -/
def Dev.mngBegins (d : Dev) (item : Nat) (it : Item) : Bool :=
  decide ((d.item item).map (·.place) = some .queued) && decide (64 < it.desc.fld 2 28 7) && it.pos == (0, 0, 0)

/-- The operation as its steps take it up. -/
def Dev.mngStart (d : Dev) (item : Nat) (it : Item) : Item := if d.mngBegins item it then { it with clamped := true } else it

/-- The module as its steps take it up. -/
def Dev.mngBegun (d : Dev) (item : Nat) (it : Item) : Dev :=
  (if d.mngBegins item it then d.bump F.PRS_CLAMPS_COUNT 1 else d).setItem (d.mngStart item it)

theorem Dev.mngStart_eq (d : Dev) (item : Nat) (it : Item) : ∃ cl, d.mngStart item it = { it with clamped := cl } := by
  unfold Dev.mngStart
  split
  · exact ⟨true, rfl⟩
  · exact ⟨it.clamped, rfl⟩

section
variable {s : State} (hrun : s.running = true) {item : Nat} {it : Item} (work : s.dev.pressWork 0x20 item = some it)
include hrun work

/-- The command runs the steps from the item and the module as they are taken up. -/
theorem exec_mangle (n : Nat) :
    let r := stepMany mangleStep n (s.dev.mngBegun item it) (s.dev.mngStart item it)
    exec (.mangle item n) s = .next (s.after (r.1.setItem r.2)) := by
  refine (onDev_running hrun).trans ?_
  rw [cmdMangle, work]
  rfl

/-- The command with one step to do. -/
theorem exec_mangle_one {d : Dev} {x : Item} {goes : Bool}
    (step : mangleStep (s.dev.mngBegun item it) (s.dev.mngStart item it) = (d, x, goes)) :
    exec (.mangle item 1) s = .next (s.after (d.setItem x)) := by
  rw [exec_mangle hrun work, stepMany_step step]

end

end Sys2Proof.Machine
end

section
/-!
Proofs, lane mode (R213 to R217): an instruction writes elements 0 to COUNT − 1 of its destination register, and no other.
-/
namespace Sys2Proof.Machine

/-! ### Lane registers -/

/-- Elements written to a register are read back; the rest of the lane memory stays (R213). -/
theorem Dev.lane_setLanes (d : Dev) (r : Nat) {vs : List PVal} {e : Nat} (fits : vs.length ≤ 2048) (he : e < 2048) (q : Nat) :
    (d.setLanes false r vs).lane false q e =
      if q = r ∧ e < vs.length then ((vs.getD e (0, false)).1 % 2 ^ 32, (vs.getD e (0, false)).2) else d.lane false q e := by
  simp only [Dev.lane, Dev.setLanes, Bool.false_eq_true, if_false, SMap.get_setRange, List.getElem?_map]
  by_cases here : q = r ∧ e < vs.length
  · obtain ⟨rfl, inside⟩ := here
    have word : vs[2048 * q + e - 2048 * q]? = some vs[e] := by rw [Nat.add_sub_cancel_left, List.getElem?_eq_getElem inside]
    have low : vs[e].1 % 2 ^ 32 < 2 ^ 32 := Nat.mod_lt _ (by decide)
    have elem : vs.getD e (0, false) = vs[e] := by rw [List.getD_eq_getElem?_getD, List.getElem?_eq_getElem inside, Option.getD_some]
    rw [if_pos (by omega), if_pos ⟨rfl, inside⟩, word, elem]
    generalize vs[e] = v at low
    obtain ⟨x, p⟩ := v
    cases p <;> simp [b2n]
    omega
  · rw [if_neg here]
    split
    · next after =>
      rw [List.getElem?_eq_none (by omega)]
      rfl
    · rfl

/-! ### The result of an instruction -/

/-- What the elements of an instruction know (R202, R214). -/
def laneCtx (c : Desc) (w : Nat) : PCtx := { dbl := bitAt w 45, cvtc := c.fld 2 16 8, seed := c.word 6 }

/-- The registers are taken as FP64 when the instruction's bit 45 says so, but for the reductions (R213, R214). -/
def laneView (w : Nat) : Bool := bitAt w 45 && decide (bitsAt w 0 8 < 0x34)

section
variable {w : Nat}

theorem laneView_of_lt (h : bitsAt w 0 8 < 0x34) : laneView w = bitAt w 45 := by rw [laneView, decide_eq_true h, Bool.and_true]

theorem laneView_of_le (h : 0x34 ≤ bitsAt w 0 8) : laneView w = false := by
  rw [laneView, decide_eq_false (Nat.not_lt.2 h), Bool.and_false]

theorem laneView_eq (h : bitsAt w 0 8 ≤ 0x36) :
    (bitAt w 45 && !(decide (0x34 ≤ bitsAt w 0 8) && decide (bitsAt w 0 8 ≤ 0x36))) = laneView w := by
  rw [laneView, decide_eq_true h, Bool.and_true, ← decide_not]
  simp only [Nat.not_le]

theorem laneCtx_view (c : Desc) (h : bitsAt w 0 8 < 0x34) : { laneCtx c w with dbl := laneView w } = laneCtx c w := by
  rw [laneView_of_lt h]
  rfl

end

/-- Element `e` of the instruction's operand `k` (R214). -/
def Dev.laneReg (d : Dev) (w : Nat) (dbl : Bool) (k e : Nat) : PVal := d.lane dbl (bitsAt w (13 + 5 * k) 5) e

/-- The element operations of R198 on elements 0, 1, … of the operands, each with its SAT and NAN. -/
def Dev.laneAlu (d : Dev) (c : Desc) (w : Nat) : List (PVal × Bool × Bool) :=
  (List.range (laneCount w).1).map (fun e => (laneCtx c w).apply (bitsAt w 0 8) (bitsAt w 40 5) (bitsAt w 48 16 * 2048 + e)
    (d.laneReg w (bitAt w 45) 0 e) (d.laneReg w (bitAt w 45) 1 e) (d.laneReg w (bitAt w 45) 2 e))

/-- The elements that an instruction other than a load or a store writes: a broadcast, the ramp, a reduction, an element operation (R214). -/
def Dev.laneResult (d : Dev) (c : Desc) (w : Nat) : List PVal :=
  let op := bitsAt w 0 8
  let n := (laneCount w).1
  if op = 0x32 then List.replicate n (d.laneReg w (bitAt w 45) 0 0)
  else if op = 0x33 then (List.range n).map (fun e => (ieeeRound (Num.ofInt (e : Nat)) (laneCtx c w).fmt .rne, false))
  else if 0x34 ≤ op then List.replicate n (redChunk (op - 0x33) ((List.range n).map (d.laneReg w false 0)))
  else (d.laneAlu c w).map (·.1)

/-- An instruction without a reserved field has one of the opcodes up to 0x36 (R217). -/
theorem op_le_of_laneFails {c : Desc} {w : Nat} (h : laneFails c w = false) : bitsAt w 0 8 ≤ 0x36 := by
  simp only [laneFails, Bool.or_eq_false_iff, Bool.not_eq_false', Bool.or_eq_true, opArith, opFunc, Bool.and_eq_true, decide_eq_true_eq] at h
  obtain ⟨⟨⟨⟨⟨named, -⟩, -⟩, -⟩, -⟩, -⟩ := h
  omega

/-! ### One instruction -/

/-- The module after an instruction, with its clamp and its event counted (R215). -/
def Dev.laneCounted (d : Dev) (it : Item) (clamps : Bool) : Dev :=
  ((if clamps then d.bump F.PRS_CLAMPS_COUNT 1 else d).sweep (.item it.id)).event (4 + it.part) 0x201 (some it.part) 0 1

/-- The item is marked when COUNT was clamped (R215). -/
theorem Item.clampedBy (it : Item) (clamps : Bool) :
    (if clamps then { it with clamped := true } else it) = { it with clamped := it.clamped || clamps } := by
  cases clamps
  · rw [Bool.or_false]
    rfl
  · rw [Bool.or_true]
    rfl

/-- The item after an instruction, with its marks (R215). -/
def Item.laneEnd (it : Item) (clamps sat nan : Bool) : Item :=
  { it with clamped := it.clamped || clamps, sat := sat, nan := nan, pos := (it.pos.1 + 1, 0, 0) }

section
variable (d : Dev) (it : Item) (clamps : Bool)

@[simp] theorem Dev.laneCounted_ctl : (d.laneCounted it clamps).ctl = d.ctl := by cases clamps <;> simp [Dev.laneCounted]
@[simp] theorem Dev.laneCounted_mem : (d.laneCounted it clamps).mem = d.mem := by cases clamps <;> simp [Dev.laneCounted]
@[simp] theorem Dev.laneCounted_prs : (d.laneCounted it clamps).prs = d.prs := by cases clamps <;> simp [Dev.laneCounted]

end

@[simp] theorem Dev.setLanes_ctl (d : Dev) (dbl : Bool) (r : Nat) (vs : List PVal) : (d.setLanes dbl r vs).ctl = d.ctl := rfl
@[simp] theorem Dev.setLanes_mem (d : Dev) (dbl : Bool) (r : Nat) (vs : List PVal) : (d.setLanes dbl r vs).mem = d.mem := rfl

section
variable {d d' : Dev} {it it0 : Item} {bs : List MByte} (left : laneDone it = false) (goes : it.early = none)
  (read : d.boundRead it 0 (it.desc.fld 1 0 52 + 8 * it.pos.1) 8 0 = (d', it0, .ok bs)) (clean : bs.any (·.p) = false)
include left goes read clean

/-- A reserved field ends the program (R217). -/
theorem laneStep_of_fails (h : laneFails it.desc (leNat (bs.map (·.b))) = true) : laneStep d it = (d', { it with early := some 0x03 }, false) := by
  unfold laneStep
  rw [if_neg (by simp [left, goes])]
  simp only [read, clean, h, Bool.false_eq_true, if_false, if_true]

/-- Every instruction but a load and a store writes its result to its destination (R214, R215). -/
theorem laneStep_of_result (h : laneFails it.desc (leNat (bs.map (·.b))) = false) (noLoad : bitsAt (leNat (bs.map (·.b))) 0 8 ≠ 0x30)
    (noStore : bitsAt (leNat (bs.map (·.b))) 0 8 ≠ 0x31) :
    let w := leNat (bs.map (·.b))
    let e := d'.setLanes (laneView w) (bitsAt w 8 5) (d'.laneResult it.desc w)
    ∃ sat nan, laneStep d it = (e.laneCounted it (laneCount w).2, it.laneEnd (laneCount w).2 sat nan, true) := by
  intro w
  unfold laneStep
  rw [if_neg (by simp [left, goes])]
  extract_lets e c pa
  rw [show d.boundRead it 0 pa 8 0 = _ from read]
  dsimp -zeta only
  extract_lets w' op dst dbl f x i0 it' reg finish
  rw [if_neg (by rw [clean]; exact Bool.false_ne_true), if_neg (by rw [show laneFails c w' = false from h]; exact Bool.false_ne_true),
    if_neg noLoad, if_neg noStore]
  have result (vs : List PVal) (sat nan : Bool) (hvs : d'.laneResult c w = vs) :
      ∃ sat' nan', finish (d'.setLanes (laneView w) dst vs) { it' with sat := sat, nan := nan }
        = (e.laneCounted it (laneCount w).2, it.laneEnd (laneCount w).2 sat' nan', true) := by
    rw [← hvs, show it' = _ from it.clampedBy (laneCount w).2]
    exact ⟨sat, nan, rfl⟩
  have hview : dbl = laneView w := laneView_eq (op_le_of_laneFails h)
  clear_value dbl
  subst hview
  by_cases broadcast : op = 0x32
  · rw [if_pos broadcast]
    refine result _ it'.sat it'.nan ((if_pos broadcast).trans ?_)
    rw [← laneView_of_lt (show op < 0x34 by omega)]
    rfl
  rw [if_neg broadcast]
  by_cases ramp : op = 0x33
  · rw [if_pos ramp]
    refine result _ it'.sat it'.nan ((if_neg broadcast).trans ((if_pos ramp).trans ?_))
    rw [← laneCtx_view c (show op < 0x34 by omega)]
    rfl
  rw [if_neg ramp]
  by_cases reduction : 0x34 ≤ op
  · rw [if_pos reduction]
    refine result _ it'.sat it'.nan ((if_neg broadcast).trans ((if_neg ramp).trans ((if_pos reduction).trans ?_)))
    rw [← laneView_of_le reduction]
    rfl
  · rw [if_neg reduction]
    refine result _ _ _ ((if_neg broadcast).trans ((if_neg ramp).trans ((if_neg reduction).trans ?_)))
    rw [Dev.laneAlu, ← laneView_of_lt (show op < 0x34 by omega), ← laneCtx_view c (show op < 0x34 by omega)]
    rfl

end

/-- The command with one instruction to do. -/
theorem exec_lane_one {s : State} (hrun : s.running = true) {item : Nat} {it x : Item} (work : s.dev.pressWork 0x21 item = some it) {d : Dev}
    {goes : Bool} (step : laneStep (s.dev.setItem it) it = (d, x, goes)) : exec (.lane item 1) s = .next (s.after (d.setItem x)) := by
  refine (onDev_running hrun).trans ?_
  rw [cmdLane, work]
  dsimp only
  rw [stepMany_step step]

end Sys2Proof.Machine
end

section
/-!
Proofs, the Press at work (R196 to R198, R206, R211, R214 to R217, R223): the statement of O45 from the steps above.
-/
namespace Sys2Proof.Machine

/-- An arithmetic opcode of two operands on FP32: its value is that of R199, and a poisoned operand poisons it (R224). -/
theorem PCtx.apply_two {x : PCtx} (single : x.dbl = false) {op : Nat} (uses : opUses op = [0, 1]) (arith : opFunc op = false) (f i : Nat)
    (a b c : PVal) : (x.apply op f i a b c).1 = (fnAlu .fp32 op a.1 b.1 c.1, a.2 || b.2) := by
  have poison : ((opUses op).any fun k => if k = 0 then a.2 else if k = 1 then b.2 else c.2) = (a.2 || b.2) := by simp [uses]
  have noRandom : op ≠ 0x1C := fun h => absurd (h ▸ arith) (by decide)
  have noQdq : op ≠ 0x1D := fun h => absurd (h ▸ arith) (by decide)
  rw [PCtx.apply, if_neg noRandom, if_neg noQdq, arith, if_neg Bool.false_ne_true, poison, PCtx.fmt, single, if_neg Bool.false_ne_true]

/-- Settles O45: a chunk of MANGLE and a lane instruction are one step each of their commands; a lane register reads what was written to it; the
opcodes are those of R198. -/
theorem pressWork : Obligations.PressWork := by
  unfold Obligations.PressWork
  refine fun s item it hrun => ⟨fun work => ?mangle, fun work left goes => ?lane, fun d r vs q e fits he => d.lane_setLanes r fits he q,
    fun x a b i single => ⟨PCtx.apply_two single rfl rfl 0 i a b b, PCtx.apply_two single rfl rfl 0 i a b b, rfl⟩⟩
  case mangle =>
    obtain ⟨cl, start⟩ := s.dev.mngStart_eq item it
    intro begins it0 d c
    split
    next d1 d2 ch hpos =>
    intro x D0 D1 n i0 out o a
    have idle : exec (.mangle item 0) s = .next (s.after (d.setItem it0)) := exec_mangle hrun work 0
    have runs {e : Dev} {y : Item} {goes : Bool} (step : mangleStep d it0 = (e, y, goes)) :
        exec (.mangle item 1) s = .next (s.after (e.setItem y)) :=
      exec_mangle_one hrun work step
    have taken : it0 = { it with clamped := cl } := start
    clear_value d it0
    subst taken
    refine ⟨idle, fun done => runs (mangleStep_of_done done), fun todo unlinked plain noScales e1 it1 ins e2 it2 lost hin hout => ?_⟩
    have dims : d.mngDims { it with clamped := cl } = (D0, D1, (d.mngDims it).2.2) := rfl
    have step := mangleStep_chunk (it := { it with clamped := cl }) todo unlinked plain noScales dims hpos hin hout
    refine ⟨_, runs step, ?_, ?_, ?_, ?_, _, Dev.setItem_ctl_congr (Dev.chunkCounted_ctl ..) _, rfl, rfl, rfl, rfl, rfl, rfl⟩
    · rw [Dev.setItem_mem, Dev.chunkCounted_mem]
    · rw [Dev.setItem_stn, Dev.chunkCounted_stn]
    · rw [Dev.setItem_spl, Dev.chunkCounted_spl]
    · rw [Dev.setItem_prs, Dev.chunkCounted_prs]
  case lane =>
    intro d d' it0 bs read clean w op reg x
    refine ⟨fun fails => exec_lane_one hrun work (laneStep_of_fails left goes read clean fails), fun noFail noLoad noStore => ?_⟩
    obtain ⟨sat, nan, step⟩ := laneStep_of_result left goes read clean noFail noLoad noStore
    have ctl := (Dev.laneCounted_ctl _ it (laneCount w).2).trans (d'.setLanes_ctl (laneView w) (bitsAt w 8 5) (d'.laneResult it.desc w))
    refine ⟨_, _, exec_lane_one hrun work step, Dev.setItem_ctl_congr ctl _, rfl, rfl, rfl, rfl, ?_, ?_⟩
    · rw [Dev.setItem_mem, Dev.laneCounted_mem, Dev.setLanes_mem]
    · intro vs
      have same : d'.laneResult it.desc w = vs := by
        rw [Dev.laneResult, Dev.laneAlu, List.map_map]
        rfl
      rw [Dev.setItem_prs, Dev.laneCounted_prs, same]
      rfl

end Sys2Proof.Machine
end

section
/-!
Proofs, the coherent view of a line (R326, R331, R352): the view is made of HBM, the Granary's lines and the write-backs alone; a write to a line, a
write-back that ends and a flush move bytes among the three without changing what a read sees.
-/
namespace Sys2Proof.Machine

/-! ### Bits and bytes of a line's data -/

theorem bitAt_eq_testBit (x i : Nat) : bitAt x i = x.testBit i := by
  rw [Nat.testBit_eq_decide_div_mod_eq, bitAt, Nat.shiftRight_eq_div_pow]

theorem bitAt_withBits_one (x lo i : Nat) : bitAt (withBits x lo 1 1) i = (decide (i = lo) || bitAt x i) := by
  simp only [bitAt_eq_testBit, testBit_withBits]
  by_cases same : i = lo
  · simp [same]
  · rw [if_neg (by omega), decide_eq_false same, Bool.false_or]

/-- Bits that a write covers exactly read as the value written. -/
theorem bitsAt_withBits_same (x lo w v : Nat) : bitsAt (withBits x lo w v) lo w = v % 2 ^ w := by
  refine Nat.eq_of_testBit_eq fun i => ?_
  rw [testBit_bitsAt, testBit_withBits, Nat.testBit_mod_two_pow]
  by_cases inside : i < w <;> simp [inside]

/-- Bits that a write does not reach stay. -/
theorem bitsAt_withBits_apart (x v : Nat) {lo w lo' w' : Nat} (h : lo' + w' ≤ lo ∨ lo + w ≤ lo') :
    bitsAt (withBits x lo w v) lo' w' = bitsAt x lo' w' := by
  refine Nat.eq_of_testBit_eq fun i => ?_
  rw [testBit_bitsAt, testBit_bitsAt, testBit_withBits]
  by_cases inside : i < w'
  · rw [if_neg (by omega)]
  · simp [inside]

/-- Byte i of data under a mask: the data where the mask says written, else what lies below (R331, R352). -/
def byteOver (mask data i : Nat) (below : Byte) : Byte := if bitAt mask i then BitVec.ofNat 8 (bitsAt data (8 * i) 8) else below

theorem byteOver_of_clear {mask i : Nat} (h : bitAt mask i = false) (data : Nat) (below : Byte) : byteOver mask data i below = below := by
  rw [byteOver, h, if_neg Bool.false_ne_true]

theorem bitAt_zero (i : Nat) : bitAt 0 i = false := by rw [bitAt_eq_testBit, Nat.zero_testBit]

/-- One byte merged: it is seen at its offset, and every other byte is seen as before. -/
theorem byteOver_merge_one (mask data j i : Nat) (x below : Byte) :
    byteOver (withBits mask j 1 1) (withBits data (8 * j) 8 x.toNat) i below = if j = i then x else byteOver mask data i below := by
  rw [byteOver, bitAt_withBits_one]
  by_cases same : j = i
  · subst same
    rw [bitsAt_withBits_same, if_pos rfl, decide_eq_true rfl, Bool.true_or, if_pos rfl, Nat.mod_eq_of_lt x.isLt, BitVec.ofNat_toNat, BitVec.setWidth_eq]
  · rw [bitsAt_withBits_apart _ _ (by omega), if_neg same, decide_eq_false (Ne.symm same), Bool.false_or, byteOver]

/-- Bytes merged one after another: the last one at an offset is seen there. -/
theorem byteOver_mergeBytes (bs : List (Nat × MByte)) (mask data i : Nat) (below : Byte) :
    byteOver (mergeBytes mask data bs).1 (mergeBytes mask data bs).2 i below = (match bs.reverse.find? (fun e => decide (e.1 = i)) with
      | some e => e.2.b
      | none => byteOver mask data i below) := by
  induction bs generalizing mask data with
  | nil => rfl
  | cons e bs ih =>
    obtain ⟨j, x⟩ := e
    rw [mergeBytes, ih, byteOver_merge_one, List.reverse_cons, List.find?_append, List.find?_singleton]
    cases bs.reverse.find? (fun e => decide (e.1 = i)) with
    | some e => rfl
    | none => by_cases same : j = i <;> simp [same]

/-! ### What the view looks at -/

/-- The memories that the coherent view of a line is made of. -/
def Dev.shown (d : Dev) : SMap Byte × SMap (Option Line) × SMap (Option WriteBack) := (d.mem.hbm, d.mem.lines, d.mem.wbs)

theorem Dev.shown_of_mem {d e : Dev} (h : d.mem = e.mem) : d.shown = e.shown := by rw [Dev.shown, h, Dev.shown]

/-- Byte i of line k below the tag: a write-back in progress, then HBM. -/
def Dev.below (d : Dev) (k i : Nat) : Byte :=
  match d.wbOf k with
  | some w => byteOver w.mask w.data i (d.hbmByte k i)
  | none => d.hbmByte k i

theorem Dev.viewByte_eq (d : Dev) (k i : Nat) : d.viewByte k i = (match d.line k with
    | some l => byteOver l.mask l.data i (d.below k i)
    | none => d.below k i) := rfl

theorem Dev.viewByte_line {d : Dev} {k : Nat} {l : Line} (h : d.line k = some l) (i : Nat) :
    d.viewByte k i = byteOver l.mask l.data i (d.below k i) := by rw [Dev.viewByte_eq, h]

theorem Dev.below_wb {d : Dev} {k : Nat} {w : WriteBack} (h : d.wbOf k = some w) (i : Nat) : d.below k i = byteOver w.mask w.data i (d.hbmByte k i) := by
  rw [Dev.below, h]

theorem Dev.below_idle {d : Dev} {k : Nat} (h : d.wbOf k = none) (i : Nat) : d.below k i = d.hbmByte k i := by rw [Dev.below, h]

theorem Dev.below_congr {d e : Dev} {k i : Nat} (wb : e.wbOf k = d.wbOf k) (hbm : e.hbmByte k i = d.hbmByte k i) : e.below k i = d.below k i := by
  rw [Dev.below, wb, hbm, Dev.below]

theorem Dev.viewByte_congr {d e : Dev} {k i : Nat} (line : e.line k = d.line k) (below : e.below k i = d.below k i) : e.viewByte k i = d.viewByte k i := by
  rw [Dev.viewByte_eq, line, below, Dev.viewByte_eq]

/-- A line or write-back that is set reads back, and every other one stays. -/
theorem Dev.line_setLine (d : Dev) (k j : Nat) (l : Option Line) : (d.setLine k l).line j = if j = k then l else d.line j := SMap.get_set ..

theorem Dev.wbOf_setWb (d : Dev) (k j : Nat) (w : Option WriteBack) : (d.setWb k w).wbOf j = if j = k then w else d.wbOf j := SMap.get_set ..

@[simp] theorem Dev.below_setLine (d : Dev) (k j i : Nat) (l : Option Line) : (d.setLine k l).below j i = d.below j i := rfl
@[simp] theorem Dev.line_setWb (d : Dev) (k j : Nat) (w : Option WriteBack) : (d.setWb k w).line j = d.line j := rfl
@[simp] theorem Dev.hbmByte_setWb (d : Dev) (k j i : Nat) (w : Option WriteBack) : (d.setWb k w).hbmByte j i = d.hbmByte j i := rfl

/-! ### A write to a line -/

/-- A read sees the bytes last written (R329, R352). -/
theorem Dev.viewByte_write {d : Dev} {k : Nat} {l : Line} (h : d.line k = some l) (bs : List (Nat × MByte)) (i : Nat) :
    (d.setLine k (some (l.write bs))).viewByte k i = (match bs.reverse.find? (fun e => decide (e.1 = i)) with
      | some e => e.2.b
      | none => d.viewByte k i) := by
  rw [Dev.viewByte_line (by rw [Dev.line_setLine, if_pos rfl]), Dev.viewByte_line h, Dev.below_setLine]
  exact byteOver_mergeBytes bs l.mask l.data i (d.below k i)

theorem Dev.viewByte_setLine_other (d : Dev) {j k : Nat} (h : j ≠ k) (l : Option Line) (i : Nat) : (d.setLine k l).viewByte j i = d.viewByte j i :=
  Dev.viewByte_congr (by rw [Dev.line_setLine, if_neg h]) (Dev.below_setLine ..)

/-! ### A write to DRAM -/

@[simp] theorem Dev.failChannel_shown (d : Dev) (ch : Nat) : (d.failChannel ch).shown = d.shown := by
  unfold Dev.failChannel
  split
  · rfl
  · exact (Dev.shown_of_mem (Dev.showHealthy_mem ..)).trans rfl

/-- Poison markers are apart from the data (R369). -/
@[simp] theorem Dev.setDramPoison_shown (d : Dev) (k h : Nat) (v : Bool) : (d.setDramPoison k h v).shown = d.shown := by
  unfold Dev.setDramPoison
  split
  · exact Dev.failChannel_shown d _
  · rfl

/-- Lines lie one after another in HBM, channel by channel (R380). -/
theorem keyHbm_eq (k : Nat) : keyHbm k = 128 * k := by
  simp only [keyHbm, keySlice, keyLine, Config.channelBytes]
  omega

/-- Bytes [lo, lo + n) of a masked line written to HBM from address `base`. -/
def storeBytes (mask data base lo n : Nat) (m : SMap Byte) : SMap Byte :=
  (List.range n).foldl (fun mm i =>
    if bitAt mask (lo + i) then SMap.set zeroByte mm (base + (lo + i)) (BitVec.ofNat 8 (bitsAt data (8 * (lo + i)) 8)) else mm) m

theorem get_storeBytes (mask data base lo n : Nat) (m : SMap Byte) (x : Nat) :
    SMap.get zeroByte (storeBytes mask data base lo n m) x =
      if base + lo ≤ x ∧ x < base + lo + n then byteOver mask data (x - base) (SMap.get zeroByte m x) else SMap.get zeroByte m x := by
  induction n with
  | zero => rw [if_neg (by omega)]; rfl
  | succ n ih =>
    have last : storeBytes mask data base lo (n + 1) m = if bitAt mask (lo + n) then SMap.set zeroByte (storeBytes mask data base lo n m)
        (base + (lo + n)) (BitVec.ofNat 8 (bitsAt data (8 * (lo + n)) 8)) else storeBytes mask data base lo n m := by
      rw [storeBytes, List.range_succ, List.foldl_append]
      rfl
    rw [last]
    by_cases here : x = base + (lo + n)
    · have off : x - base = lo + n := by omega
      have inside : base + lo ≤ x ∧ x < base + lo + (n + 1) := by omega
      rw [if_neg (by omega)] at ih
      rw [if_pos inside, off, byteOver]
      split
      · rw [here, SMap.get_set_same]
      · exact ih
    · have same : (base + lo ≤ x ∧ x < base + lo + (n + 1)) ↔ (base + lo ≤ x ∧ x < base + lo + n) := by omega
      simp only [same, ← ih]
      split
      · exact SMap.get_set_other _ _ here
      · rfl

/-- A half with no byte written and no marker is not written; any other is written with its bytes (R331). -/
theorem Dev.wbHalf_shown (d : Dev) (k h mask data poison : Nat) : (d.wbHalf k h mask data poison).shown =
    (if halfMask mask h = 0 ∧ bitAt poison h = false then d.mem.hbm else storeBytes mask data (keyHbm k) (64 * h) 64 d.mem.hbm, d.mem.lines, d.mem.wbs) := by
  unfold Dev.wbHalf
  dsimp only
  by_cases unwritten : halfMask mask h = 0 ∧ bitAt poison h = false
  · rw [if_pos unwritten, if_pos unwritten]
    rfl
  · rw [if_neg unwritten, if_neg unwritten]
    generalize hs : ({ d with mem := { d.mem with hbm := _ } } : Dev) = stored
    have shown : stored.shown = (storeBytes mask data (keyHbm k) (64 * h) 64 d.mem.hbm, d.mem.lines, d.mem.wbs) := by rw [← hs]; rfl
    generalize hc : Dev.bwCount _ _ _ _ = counted
    have keep : counted.shown = stored.shown := by
      refine Dev.shown_of_mem ?_
      rw [← hc, Dev.bwCount_mem, Dev.event_mem]
      split
      · rfl
      · exact Dev.event_mem ..
    rw [← shown, ← keep]
    split
    · exact Dev.setDramPoison_shown ..
    · split
      · exact Dev.setDramPoison_shown ..
      · rfl

theorem bitAt_of_halfMask_zero {mask h i : Nat} (empty : halfMask mask h = 0) (hi : i / 64 = h) : bitAt mask i = false := by
  have bit := testBit_bitsAt mask (64 * h) 64 (i - 64 * h)
  rw [show bitsAt mask (64 * h) 64 = 0 from empty, Nat.zero_testBit, decide_eq_true (by omega : i - 64 * h < 64), Bool.true_and,
    (by omega : 64 * h + (i - 64 * h) = i)] at bit
  rw [bitAt_eq_testBit, ← bit]

theorem Dev.wbHalf_hbmByte (d : Dev) (k h mask data poison j : Nat) {i : Nat} (hh : h < 2) (hi : i < 128) :
    (d.wbHalf k h mask data poison).hbmByte j i = if j = k ∧ i / 64 = h then byteOver mask data i (d.hbmByte j i) else d.hbmByte j i := by
  have hbm := congrArg Prod.fst (d.wbHalf_shown k h mask data poison)
  rw [Dev.hbmByte, show (d.wbHalf k h mask data poison).mem.hbm = _ from hbm]
  dsimp only
  by_cases unwritten : halfMask mask h = 0 ∧ bitAt poison h = false
  · rw [if_pos unwritten]
    split
    next here => exact (byteOver_of_clear (bitAt_of_halfMask_zero unwritten.1 here.2) data _).symm
    next => rfl
  · rw [if_neg unwritten, get_storeBytes, keyHbm_eq, keyHbm_eq]
    by_cases here : j = k ∧ i / 64 = h
    · obtain ⟨rfl, half⟩ := here
      rw [if_pos (by omega), if_pos ⟨rfl, half⟩, Nat.add_sub_cancel_left, Dev.hbmByte, keyHbm_eq]
    · rw [if_neg (by omega), if_neg here, Dev.hbmByte, keyHbm_eq]

theorem Dev.wbHalf_line (d : Dev) (k h mask data poison j : Nat) : (d.wbHalf k h mask data poison).line j = d.line j := by
  have lines := congrArg (·.2.1) (d.wbHalf_shown k h mask data poison)
  exact congrArg (SMap.get _ · j) lines

theorem Dev.wbHalf_wbOf (d : Dev) (k h mask data poison j : Nat) : (d.wbHalf k h mask data poison).wbOf j = d.wbOf j := by
  have wbs := congrArg (·.2.2) (d.wbHalf_shown k h mask data poison)
  exact congrArg (SMap.get _ · j) wbs

/-! ### A write-back and a flush -/

@[simp] theorem Dev.wbToDram_line (d : Dev) (k : Nat) (w : WriteBack) (j : Nat) : (d.wbToDram k w).line j = d.line j := by
  rw [Dev.wbToDram, Dev.wbHalf_line, Dev.wbHalf_line]

@[simp] theorem Dev.wbToDram_wbOf (d : Dev) (k : Nat) (w : WriteBack) (j : Nat) : (d.wbToDram k w).wbOf j = d.wbOf j := by
  rw [Dev.wbToDram, Dev.wbHalf_wbOf, Dev.wbHalf_wbOf]

/-- After its two halves a write-back's bytes are in HBM, and no other line's are touched (R331). -/
theorem Dev.wbToDram_hbmByte (d : Dev) (k : Nat) (w : WriteBack) (j : Nat) {i : Nat} (hi : i < 128) :
    (d.wbToDram k w).hbmByte j i = if j = k then byteOver w.mask w.data i (d.hbmByte j i) else d.hbmByte j i := by
  rw [Dev.wbToDram, Dev.wbHalf_hbmByte _ _ _ _ _ _ _ (by decide) hi, Dev.wbHalf_hbmByte _ _ _ _ _ _ _ (by decide) hi]
  by_cases here : j = k
  · have half : i / 64 = 0 ∨ i / 64 = 1 := by omega
    rcases half with half | half <;> simp [here, half]
  · rw [if_neg (fun h => here h.1), if_neg (fun h => here h.1), if_neg here]

/-- The end of a write-back moves its bytes to HBM (R331, R352). -/
theorem Dev.viewByte_wbToDram {d : Dev} {k : Nat} {w : WriteBack} (h : d.wbOf k = some w) (j : Nat) {i : Nat} (hi : i < 128) :
    ((d.setWb k none).wbToDram k w).viewByte j i = d.viewByte j i := by
  have stored := (d.setWb k none).wbToDram_hbmByte k w j hi
  have idle := Dev.wbToDram_wbOf (d.setWb k none) k w j
  refine Dev.viewByte_congr (by rw [Dev.wbToDram_line, Dev.line_setWb]) ?_
  by_cases here : j = k
  · subst here
    rw [Dev.below_wb h, Dev.below_idle (by rw [idle, Dev.wbOf_setWb, if_pos rfl]), stored, if_pos rfl, Dev.hbmByte_setWb]
  · refine Dev.below_congr ?_ ?_
    · rw [idle, Dev.wbOf_setWb, if_neg here]
    · rw [stored, if_neg here, Dev.hbmByte_setWb]

@[simp] theorem Dev.event_viewByte (d : Dev) (b ev : Nat) (part : Option Nat) (inst n k i : Nat) :
    (d.event b ev part inst n).viewByte k i = d.viewByte k i := by
  simp only [Dev.viewByte, Dev.wbOf, Dev.line, Dev.hbmByte, Dev.event_mem]

@[simp] theorem Dev.event_line (d : Dev) (b ev : Nat) (part : Option Nat) (inst n k : Nat) : (d.event b ev part inst n).line k = d.line k := by
  rw [Dev.line, Dev.event_mem, Dev.line]

@[simp] theorem Dev.event_wbOf (d : Dev) (b ev : Nat) (part : Option Nat) (inst n k : Nat) : (d.event b ev part inst n).wbOf k = d.wbOf k := by
  rw [Dev.wbOf, Dev.event_mem, Dev.wbOf]

/-- Dirty bytes that go to DRAM and leave the tag are seen there (R333, R352). -/
theorem Dev.viewByte_flushed {d : Dev} {k : Nat} {l : Line} (line : d.line k = some l) (idle : d.wbOf k = none) (poison : Nat) (x : Line)
    (clean : x.mask = 0) (j : Nat) {i : Nat} (hi : i < 128) :
    ((d.wbToDram k { mask := l.mask, data := l.data, poison := poison }).setLine k (some x)).viewByte j i = d.viewByte j i := by
  have stored := d.wbToDram_hbmByte k { mask := l.mask, data := l.data, poison := poison } j hi
  by_cases here : j = k
  · subst here
    rw [Dev.viewByte_line (by rw [Dev.line_setLine, if_pos rfl]), Dev.viewByte_line line, clean, byteOver_of_clear (bitAt_zero i), Dev.below_setLine,
      Dev.below_idle (by rw [Dev.wbToDram_wbOf, idle]), Dev.below_idle idle, stored, if_pos rfl]
  · rw [Dev.viewByte_setLine_other _ here]
    refine Dev.viewByte_congr (Dev.wbToDram_line ..) (Dev.below_congr (Dev.wbToDram_wbOf ..) ?_)
    rw [stored, if_neg here]

theorem Dev.applyHeld_of_nil {d : Dev} {k : Nat} {l : Line} (line : d.line k = some l) (held : l.held = []) : d.applyHeld k = d := by
  unfold Dev.applyHeld
  rw [line]
  exact if_pos held

theorem Dev.viewByte_flushLine {d : Dev} {k : Nat} {l : Line} (line : d.line k = some l) (held : l.held = []) (idle : d.wbOf k = none) (j : Nat) {i : Nat}
    (hi : i < 128) : (d.flushLine k).viewByte j i = d.viewByte j i := by
  unfold Dev.flushLine
  dsimp only
  rw [Dev.applyHeld_of_nil line held, line]
  dsimp only
  split
  · rw [Dev.viewByte_flushed ((Dev.event_line ..).trans line) ((Dev.event_wbOf ..).trans idle) _ _ rfl j hi, Dev.event_viewByte]
  · rfl

end Sys2Proof.Machine
end

section
/-!
Proofs, requests at a slice (R325, R326, R329 to R333, R341): what a slice answers on a dead channel, on a Clean line and on an absent one; the
statement of O52.
-/
namespace Sys2Proof.Machine

theorem keySlice_lineKey (slice : Nat) {line : Nat} (h : line < 2 ^ 24) : keySlice (lineKey slice line) = slice := by
  rw [keySlice, lineKey]
  omega

/-! ### What a slice does -/

/-- A dead channel gives poison (R325). -/
theorem Dev.viewLine_dead {d : Dev} {k : Nat} (dead : d.chanDead (keySlice k) = true) (lo n : Nat) : ∀ b ∈ d.viewLine k lo n, b.p = true := by
  intro b hb
  obtain ⟨i, -, rfl⟩ := List.mem_map.1 hb
  exact (congrArg (· || _) dead).trans (Bool.true_or _)

theorem Dev.serve_of_dead {d : Dev} {k : Nat} (dead : d.chanDead (keySlice k) = true) (q : SliceReq) : d.serve k q = d.serveDead k q := if_pos dead

theorem Dev.breakHeld_of_nil {d : Dev} {k : Nat} {l : Line} (line : d.line k = some l) (held : l.held = []) : d.breakHeld k = d := by
  unfold Dev.breakHeld
  rw [line]
  exact if_pos held

theorem Dev.demand_of_counted {d : Dev} {k : Nat} {l : Line} (line : d.line k = some l) (counted : l.pf = 0) : d.demand k = d := by
  unfold Dev.demand
  rw [line]
  exact if_pos counted

/-- A read of a line whose data is here and is not poisoned (R326, R330). -/
theorem Dev.serveHit_read {d : Dev} {k lo n : Nat} {q : SliceReq} (op : q.op = .read lo n) (clean : (d.viewLine k lo n).any (·.p) = false) :
    d.serveHit k q = (d.touch k q.hint false, .data (d.viewLine k lo n)) := by
  unfold Dev.serveHit
  rw [op]
  dsimp only
  rw [clean]
  rfl

/-- A write to a line that holds no adds (R329). -/
theorem Dev.serveHit_write {d : Dev} {k : Nat} {l : Line} {q : SliceReq} {bs : List (Nat × MByte)} (line : d.line k = some l) (held : l.held = [])
    (op : q.op = .write bs) : d.serveHit k q = (((d.setLine k (some (l.write bs))).touch k q.hint false).foldWrite k bs, .done) := by
  unfold Dev.serveHit
  rw [op]
  dsimp only
  rw [Dev.breakHeld_of_nil line held, line]

/-- A reduction is done in place (R341). -/
theorem Dev.serveHit_reduce {d : Dev} {k : Nat} {q : SliceReq} {es : List RedElem} (op : q.op = .reduce es) :
    d.serveHit k q = ((d.redElems k q.part es).1.touch k q.hint false, if es.any (·.ret) then .old (d.redElems k q.part es).2 else .done) := by
  unfold Dev.serveHit
  rw [op]

section
variable {d : Dev} {k : Nat} (alive : d.chanDead (keySlice k) = false) (calm : d.mem.refetches.any (fun x => x.key = k) = false)
  (idle : d.wbOf k = none)
include alive calm idle

/-- A request to a Clean line for which nothing waits is a hit (R326). -/
theorem Dev.serve_clean {l : Line} (line : d.line k = some l) (st : l.st = .clean) (waits : l.waits = []) (counted : l.pf = 0) (q : SliceReq) :
    d.serve k q = (d.event (chanBlock (keySlice k)) 0x500 q.part (keySlice k % 32) 1).serveHit k q := by
  unfold Dev.serve
  dsimp only
  rw [if_neg (by rw [alive]; exact Bool.false_ne_true), if_neg (by rw [calm]; exact Bool.false_ne_true), idle]
  dsimp only
  rw [line]
  dsimp only
  rw [Dev.demand_of_counted line counted, line]
  dsimp only
  rw [st]
  exact if_pos waits

variable {d' : Dev} {q : SliceReq}
  (room : (d.event (chanBlock (keySlice k)) 0x501 q.part (keySlice k % 32) 1).makeRoom k = some d') (absent : d.line k = none)
include room absent

/-- A read of an absent line makes a fill, for which it waits (R326, R330). -/
theorem Dev.serve_absent_read {lo n : Nat} (op : q.op = .read lo n) :
    d.serve k q = ((d'.install k { st := .fill, waits := [q] } q.hint).hwPrefetch k q.hint, .waiting) := by
  unfold Dev.serve
  dsimp only
  rw [if_neg (by rw [alive]; exact Bool.false_ne_true), if_neg (by rw [calm]; exact Bool.false_ne_true), idle, op]
  dsimp only
  rw [absent]
  dsimp only
  rw [if_neg (by exact Bool.false_ne_true), room]

/-- A write to an absent line makes a Dirty way without a fill (R329). -/
theorem Dev.serve_absent_write {bs : List (Nat × MByte)} (op : q.op = .write bs) :
    d.serve k q = ((d'.install k (Line.fresh bs) q.hint).foldWrite k bs, .done) := by
  unfold Dev.serve
  dsimp only
  rw [if_neg (by rw [alive]; exact Bool.false_ne_true), if_neg (by rw [calm]; exact Bool.false_ne_true), idle, op]
  dsimp only
  rw [absent]
  dsimp only
  rw [if_neg (by exact Bool.false_ne_true), room]

end

/-! ### The commands -/

/-- A command of a running module whose effect is known (R725). -/
theorem onDev_of_eq {f : Dev → Dev} {s : State} (hrun : s.running = true) {e : Dev} (effect : f s.dev = e) : onDev f s = .next (s.after e) := by
  rw [onDev_running hrun, effect]

/-- A request from outside the module's engines that reaches a slice whose channel is not in retraining is served at once (R382). -/
theorem Dev.offer_served {d : Dev} {slice line : Nat} (hs : slice < 256) (hl : line < 2 ^ 24) (trained : d.mem.retraining.contains slice = false)
    {q : SliceReq} {e : Dev} {a : Ans} (served : d.serve (lineKey slice line) q = (e, a)) : d.offer slice line q = e.answer q a := by
  unfold Dev.offer
  rw [if_neg (by omega), if_neg (by rw [trained]; exact Bool.false_ne_true), served]

section
variable {s : State} (hrun : s.running = true) (id part slice line hint : Nat)
include hrun

theorem exec_sliceRead {lo n : Nat} (asks : n ≠ 0) (fits : lo + n ≤ 128) : exec (.sliceRead id part slice line lo n hint) s =
    .next (s.after (s.dev.offer slice line { id := id, part := partOf part, op := .read lo n, hint := hint })) :=
  onDev_of_eq hrun (if_neg (by omega))

theorem exec_sliceWrite {lo : Nat} {bs : List MByte} (asks : bs ≠ []) (fits : lo + bs.length ≤ 128) : exec (.sliceWrite id part slice line lo bs hint) s =
    .next (s.after (s.dev.offer slice line
      { id := id, part := partOf part, op := .write (bs.zipIdx.map (fun e => (lo + e.2, e.1))), hint := hint })) := by
  refine onDev_of_eq hrun (if_neg ?_)
  rw [List.isEmpty_iff]
  rintro (empty | long)
  · exact asks empty
  · omega

theorem exec_sliceReduction {es : List RedElem} (asks : es ≠ []) (fits : es.all (·.fits) = true) : exec (.sliceReduction id part slice line es hint) s =
    .next (s.after (s.dev.offer slice line { id := id, part := partOf part, op := .reduce es, hint := hint })) := by
  refine onDev_of_eq hrun (if_neg ?_)
  rw [List.isEmpty_iff, fits]
  rintro (empty | bad)
  · exact asks empty
  · exact Bool.false_ne_true bad

end

/-- A range operation walks its lines one after another (R333). -/
theorem exec_rangeRequest {s : State} (hrun : s.running = true) (id : Nat) {slice base count : Nat} (op : RangeOp) (hint : Nat) (hs : slice < 256)
    (fits : base + count ≤ 2 ^ 24) : exec (.rangeRequest id slice op base count hint) s = .next (s.after
      (((List.range count).foldl (fun d i => d.rangeLine op (lineKey slice (base + i)) hint) s.dev).emit (.sliceDone id))) :=
  onDev_of_eq hrun (if_neg (by omega))

/-- Settles O52: what a slice answers by the state of its channel and its line; the view of a line through writes, write-backs and flushes is that of
the lemmas on the coherent view. -/
theorem sliceAccess : Obligations.SliceAccess := by
  unfold Obligations.SliceAccess
  refine ⟨fun s id part slice line hint hrun hs hl trained => ?requests,
    fun s id slice base count hint op hrun hs fits => exec_rangeRequest hrun id op hint hs fits,
    fun d k i l bs hline _ => ⟨Dev.viewByte_write hline bs i, fun j other => Dev.viewByte_setLine_other d other _ i⟩,
    fun d k w hw _ j i hi => Dev.viewByte_wbToDram hw j hi, fun d k l hline held idle _ j i hi => Dev.viewByte_flushLine hline held idle j hi⟩
  intro k who d
  have here : keySlice k = slice := keySlice_lineKey slice hl
  have serves {q : SliceReq} {e : Dev} {a : Ans} (served : d.serve k q = (e, a)) : d.offer slice line q = e.answer q a :=
    Dev.offer_served hs hl trained served
  refine ⟨fun dead => ?dead, fun alive calm idle => ?alive⟩
  case dead =>
    rw [← here] at dead
    refine ⟨fun lo n hn fits => ⟨?_, Dev.viewLine_dead dead lo n⟩, fun lo bs hbs fits => ?_⟩
    · rw [exec_sliceRead hrun id part slice line hint hn fits, serves (Dev.serve_of_dead dead _)]
      rfl
    · rw [exec_sliceWrite hrun id part slice line hint hbs fits, serves (Dev.serve_of_dead dead _), ← here]
      rfl
  case alive =>
    intro hit miss
    rw [← here] at alive
    have hitEq : d.event (chanBlock (keySlice k)) 0x500 who (keySlice k % 32) 1 = hit := by rw [here]
    have missEq : d.event (chanBlock (keySlice k)) 0x501 who (keySlice k % 32) 1 = miss := by rw [here]
    refine ⟨fun l hline st waits counted held => ?clean, fun absent d' room => ?absent⟩
    case clean =>
      have served (q : SliceReq) (from' : q.part = who) : d.serve k q = hit.serveHit k q := by
        rw [Dev.serve_clean alive calm idle hline st waits counted, from', hitEq]
      have hitLine : hit.line k = some l := (Dev.event_line ..).trans hline
      refine ⟨fun lo n hn fits clean => ?_, fun lo bs hbs fits => ?_, fun es hes fits => ?_⟩
      · rw [exec_sliceRead hrun id part slice line hint hn fits, serves ((served _ rfl).trans (Dev.serveHit_read rfl clean))]
        rfl
      · rw [exec_sliceWrite hrun id part slice line hint hbs fits, serves ((served _ rfl).trans (Dev.serveHit_write hitLine held rfl))]
        rfl
      · rw [exec_sliceReduction hrun id part slice line hint hes fits, serves ((served _ rfl).trans (Dev.serveHit_reduce rfl))]
        dsimp only
        split <;> rfl
    case absent =>
      rw [← missEq] at room
      refine ⟨fun lo n hn fits => ?_, fun lo bs hbs fits => ?_⟩
      · intro q
        have served := serves (Dev.serve_absent_read (q := q) alive calm idle room absent rfl)
        exact (exec_sliceRead hrun id part slice line hint hn fits).trans (congrArg (fun e => Host.Outcome.next (s.after e)) served)
      · intro ws
        have served := serves (Dev.serve_absent_write (q := { id := id, part := who, op := .write ws, hint := hint }) alive calm idle room absent rfl)
        exact (exec_sliceWrite hrun id part slice line hint hbs fits).trans (congrArg (fun e => Host.Outcome.next (s.after e)) served)

end Sys2Proof.Machine
end

section
/-!
Proofs, HBM and its lines (R326, R330, R344, R371 to R376, R380 to R382, R471 to R473): what the commands of the base dies and of a refetch do, one
lemma for each branch; the statement of O53.
-/
namespace Sys2Proof.Machine

/-- What a map reads after the entries that a predicate names are dropped. -/
theorem SMap.get_clearIf {β : Type} {d : Nat → β} (p : Nat → Bool) (m : SMap β) (k : Nat) :
    SMap.get d (SMap.clearIf p m) k = if p k then d k else SMap.get d m k := by
  induction m with
  | nil => exact (ite_self _).symm
  | cons e m ih =>
    obtain ⟨j, v⟩ := e
    rw [SMap.clearIf] at ih ⊢
    cases hj : p j with
    | true =>
      rw [List.filter_cons_of_neg (by simp [hj]), ih]
      by_cases same : k = j
      · simp [same, hj]
      · simp [SMap.get, same]
    | false =>
      rw [List.filter_cons_of_pos (by simp [hj])]
      by_cases same : k = j
      · simp [SMap.get, same, hj]
      · simp [SMap.get, same, ih]

/-! ### Half-lines without errors -/

/-- A half that comes without errors changes nothing, whether its channel's poison list holds it or not (R367). -/
theorem Dev.readHalf_clean (d : Dev) (k h : Nat) {x : HalfErr} (clean : x.errs = []) (copy : Bool) : (d.readHalf k h x copy).1 = d := by
  unfold Dev.readHalf
  dsimp only
  split
  · rfl
  · rw [clean]
    rfl

theorem Dev.scrubHalf_clean (d : Dev) (k h : Nat) {x : HalfErr} (clean : x.errs = []) : d.scrubHalf k h x = d := by
  unfold Dev.scrubHalf
  split
  · split
    · rfl
    · exact d.readHalf_clean k h clean _
  · exact d.readHalf_clean k h clean _

/-! ### Arrivals -/

theorem Dev.alive_of_serves {d : Dev} {ch : Nat} (serves : d.chanServes ch = true) : d.chanDead ch = false := by
  simp only [Dev.chanServes, Bool.and_eq_true, Bool.not_eq_true'] at serves
  exact serves.1.2

section
variable {d : Dev} {slice line : Nat}

/-- Nothing waits for the data, or the channel does not serve (R326, R376). -/
theorem cmdLineFill_ignored (h : d.chanServes slice = false ∨ d.awaitsData (lineKey slice line) = false) (errs : List HalfErr) (lost : Bool) :
    cmdLineFill slice line errs lost d = d := by
  refine if_pos (.inr ?_)
  simpa using h

variable (hl : line < 2 ^ 24) (serves : d.chanServes slice = true)
include hl serves

theorem cmdWriteBackDone_serves : cmdWriteBackDone slice line d = d.wbDone (lineKey slice line) :=
  if_pos (by rw [serves, decide_eq_true hl]; rfl)

variable (awaits : d.awaitsData (lineKey slice line) = true)
include awaits

/-- A command that still fails after its retries fails the channel (R375). -/
theorem cmdLineFill_lost (errs : List HalfErr) : cmdLineFill slice line errs true d = d.failChannel slice := by
  unfold cmdLineFill
  dsimp only
  rw [if_neg (by simpa [serves, awaits] using hl), if_pos rfl]

/-- Data without errors arrives (R326, R330). -/
theorem cmdLineFill_clean : cmdLineFill slice line [] false d = d.arrive (lineKey slice line) := by
  unfold cmdLineFill
  dsimp only
  rw [if_neg (by simpa [serves, awaits] using hl), if_neg Bool.false_ne_true]
  simp only [Dev.readHalf_clean _ _ _ (show (errsOf [] _ _).errs = [] from rfl), ite_self]
  rw [Dev.alive_of_serves serves, if_neg Bool.false_ne_true]

end

/-! ### Refetch -/

section
variable {d : Dev} {slice line : Nat} {r : Refetch}

/-- The Miller starts the oldest request while fewer than 64 are under way (R472). -/
theorem cmdRefetch_starts (oldest : d.mem.refetches.find? (fun r => !r.started) = some r) (key : r.key = lineKey slice line)
    (room : (d.mem.refetches.filter (·.started)).length < 64) :
    let r' : Refetch := { r with started := true, startedAt := d.time }
    cmdRefetch slice line d = ((d.setRefetch r').refetchRead r').1 := by
  unfold cmdRefetch
  dsimp only
  rw [oldest]
  refine if_neg ?_
  rintro (other | full)
  · exact other key
  · exact absurd room (Nat.not_lt.2 full)

variable (under : d.refetchOf (lineKey slice line) = some r)
include under

theorem cmdRefetchTimeout_past (started : r.started = true) (past : r.startedAt + d.rf F.TRN_PERIOD_ACTIVE_NS ≤ d.time) :
    cmdRefetchTimeout slice line d = d.refetchFail r := by
  unfold cmdRefetchTimeout
  rw [under]
  exact if_pos (by rw [started, Bool.true_and]; exact decide_eq_true past)

theorem cmdRefetchTimeout_early (early : d.time < r.startedAt + d.rf F.TRN_PERIOD_ACTIVE_NS) : cmdRefetchTimeout slice line d = d := by
  unfold cmdRefetchTimeout
  rw [under]
  exact if_neg (by rw [Dev.periodPast, decide_eq_false (Nat.not_le.2 early), Bool.and_false]; exact Bool.false_ne_true)

variable {d' : Dev} {bs : List MByte} (started : r.started = true) (read : d.refetchRead r = (d', some bs))
include started read

/-- A source that gives poison fails the attempt (R473). -/
theorem cmdRefetchLineArrival_poisoned (poison : bs.any (·.p) = true) : cmdRefetchLineArrival slice line d = d'.refetchFail r := by
  unfold cmdRefetchLineArrival
  dsimp only
  rw [under]
  dsimp only
  rw [started, read]
  exact if_pos poison

/-- The line is written whole and what it held is served (R472). -/
theorem cmdRefetchLineArrival_clean (clean : bs.any (·.p) = false) {e : Dev}
    (written : ({ d' with mem := { d'.mem with refetches := d'.mem.refetches.filter (fun x => decide (x.key ≠ lineKey slice line)) } } : Dev).lineWrite
      none (lineKey slice line) 0 (bs.zipIdx.map (fun e => (e.2, e.1))) = (e, true)) :
    let e' := e.sweep (millerUnit (lineKey slice line))
    cmdRefetchLineArrival slice line d =
      ((e'.bump (F.PRT_SWR_STAT_REFETCHED r.region) 1).postError (e'.swrRec (lineKey slice line) r.region 0 0x05)).serveHeld r := by
  intro e'
  unfold cmdRefetchLineArrival
  dsimp only
  rw [under]
  dsimp only
  rw [started, read]
  dsimp only
  rw [clean, written]
  rfl

end

/-! ### Scrub -/

/-- The reads of a scrub of one line in each channel of a stack, counted where the channel serves (R371, R688). -/
def Dev.scrubReads (d : Dev) (stack : Nat) : Dev :=
  (List.range 32).foldl (fun d c =>
    if d.chanServes (32 * stack + c) then d.event (chanBlock (32 * stack + c)) 0x600 none c 2 else d) d

/-- What counting an event keeps, the reads of a scrub keep. -/
theorem Dev.scrubReads_keep {β : Type} (g : Dev → β) (events : ∀ d b ev part inst n, g (Dev.event d b ev part inst n) = g d) (d : Dev) (stack : Nat) :
    g (d.scrubReads stack) = g d := by
  refine foldl_keep g _ (fun e c => ?_) _ _
  split
  · exact events ..
  · rfl

/-- The registers of a stack that show where its scrub stands (R372). -/
def Dev.scrubMoved (d : Dev) (stack line : Nat) : Dev :=
  if line + 1 = 2 ^ 24 then (d.wf (F.HBM_SCRUB_LINE stack) (line + 1)).bump (F.HBM_SCRUB_PASSES stack) 1 else d.wf (F.HBM_SCRUB_LINE stack) (line + 1)

/-- Scrub without errors (R371, R372). -/
theorem cmdScrub_clean {d : Dev} {stack : Nat} (hs : stack < 8) (enabled : d.rb (F.HBM_CTRL_SCRUB_EN stack) = true)
    (ready : d.rf (F.HBM_STATUS_STATE stack) = 2) :
    cmdScrub stack [] d = (d.scrubReads stack).scrubMoved stack (d.rf (F.HBM_SCRUB_LINE stack)) := by
  unfold cmdScrub
  dsimp only
  rw [if_neg (by simpa [enabled, ready] using hs)]
  simp only [Dev.scrubHalf_clean _ _ _ (show (errsOf [] _ _).errs = [] from rfl)]
  rfl

/-- Moving on writes set-up registers only. -/
theorem Dev.scrubMoved_keep {β : Type} (g : Dev → β) (writes : ∀ d f v, g (Dev.wf d f v) = g d) (d : Dev) (stack line : Nat) :
    g (d.scrubMoved stack line) = g d := by
  unfold Dev.scrubMoved
  split
  · exact (writes ..).trans (writes ..)
  · exact writes ..

theorem Dev.scrubMoved_line (d : Dev) (stack line : Nat) : (d.scrubMoved stack line).rf (F.HBM_SCRUB_LINE stack) = (line + 1) % 2 ^ 24 := by
  have moved : (d.wf (F.HBM_SCRUB_LINE stack) (line + 1)).rf (F.HBM_SCRUB_LINE stack) = (line + 1) % 2 ^ 24 :=
    d.rf_wf_same _ (show 0 + 24 ≤ 64 by decide)
  unfold Dev.scrubMoved
  split
  · rw [Dev.bump, if_neg Nat.one_ne_zero, Dev.rf_wf_apart _ _ (show 0 + 24 ≤ 64 by decide) (fun _ => .inr (show 0 + 24 ≤ 32 by decide)), moved]
  · exact moved

/-! ### Temperature -/

/-- Showing a stack's temperature writes its fields alone (R374). -/
theorem Dev.setTemp_rf (d : Dev) (ch temp : Nat) {f : Fld} (hf : f.inWord) (below : f.apart (F.HBM_STATUS_DRAM_TEMP (ch / 32)))
    (hot : f.apart (F.HBM_STATUS_HOT (ch / 32))) : (d.setTemp ch temp).rf f = d.rf f := by
  unfold Dev.setTemp
  dsimp only
  rw [Dev.rf_wb_apart _ _ hf hot, Dev.rf_wf_apart _ _ hf below]
  rfl

theorem Dev.setTemp_mem (d : Dev) (ch temp : Nat) :
    (d.setTemp ch temp).mem = { d.mem with temps := SMap.set (fun _ => 0) d.mem.temps ch (temp % 256) } := rfl

theorem cmdRefresh_powered {d : Dev} {ch : Nat} (hc : ch < 256) (on : d.rf (F.HBM_STATUS_STATE (ch / 32)) ≠ 0)
    (present : d.rf (F.HBM_CHAN_STATE (ch / 32) (ch % 32)) ≠ 3) (temp : Nat) :
    cmdRefresh ch temp d = (d.setTemp ch temp).event (chanBlock ch) 0x602 none (ch % 32) 1 := by
  refine if_neg ?_
  rintro (far | off | gone)
  · exact absurd hc (Nat.not_lt.2 far)
  · exact on off
  · exact present gone

/-! ### Retraining -/

/-- How far a channel's temperature is from that of its last training (R382). -/
def Dev.tempMoved (d : Dev) (ch temp : Nat) : Nat :=
  let last := SMap.get (fun _ => 0) d.mem.trainedAt ch
  (temp % 256 - last) + (last - temp % 256)

/-- A channel whose retraining has begun (R382). -/
def Dev.beginRetrain (d : Dev) (ch temp : Nat) : Dev :=
  let e := (d.setTemp ch (temp % 256)).bump (F.HBM_STATUS_RETRAINS (ch / 32)) 1
  { e with mem := { e.mem with retraining := e.mem.retraining ++ [ch] } }

theorem cmdHbmRetrain_eq {d : Dev} {ch : Nat} (hc : ch < 256) (enabled : d.rb (F.HBM_CTRL_RETRAIN_EN (ch / 32)) = true)
    (ready : d.rf (F.HBM_STATUS_STATE (ch / 32)) = 2) (serves : d.chanServes ch = true) (temp : Nat) :
    cmdHbmRetrain ch temp d =
      if d.tempMoved ch temp < max 1 (d.rf (F.HBM_CTRL_RETRAIN_DELTA (ch / 32))) then d.setTemp ch (temp % 256) else d.beginRetrain ch temp := by
  unfold cmdHbmRetrain
  rw [if_neg (by simpa [enabled, ready, serves] using hc)]
  rfl

theorem Dev.beginRetrain_retraining (d : Dev) (ch temp : Nat) : (d.beginRetrain ch temp).mem.retraining = d.mem.retraining ++ [ch] := by
  unfold Dev.beginRetrain
  dsimp only
  rw [Dev.bump_mem, Dev.setTemp_mem]

theorem Dev.beginRetrain_serves (d : Dev) (ch temp : Nat) : (d.beginRetrain ch temp).chanServes ch = false := by
  have held : (d.beginRetrain ch temp).mem.retraining.contains ch = true := by simp [Dev.beginRetrain_retraining]
  rw [Dev.chanServes, held, Bool.not_true, Bool.and_false]

theorem Dev.beginRetrain_count (d : Dev) (ch temp : Nat) :
    (d.beginRetrain ch temp).rf (F.HBM_STATUS_RETRAINS (ch / 32)) = (d.rf (F.HBM_STATUS_RETRAINS (ch / 32)) + 1) % 2 ^ 16 := by
  have fits : (F.HBM_STATUS_RETRAINS (ch / 32)).inWord := show 48 + 16 ≤ 64 by decide
  have before := d.setTemp_rf ch (temp % 256) fits (fun _ => .inl (show 16 + 8 ≤ 48 by decide)) (fun _ => .inl (show 24 + 1 ≤ 48 by decide))
  rw [← before]
  exact ((d.setTemp ch (temp % 256)).rf_wf_same _ fits)

theorem cmdHbmRetrainDone_due {d : Dev} {ch : Nat} (due : d.mem.retraining.contains ch = true) (ok : Bool) :
    let e : Dev := { d with mem := { d.mem with
      retraining := d.mem.retraining.erase ch,
      trainedAt := SMap.set (fun _ => 0) d.mem.trainedAt ch (SMap.get (fun _ => 0) d.mem.temps ch) } }
    cmdHbmRetrainDone ch ok d = if ok then e.retrySlice ch else e.failChannel ch :=
  if_neg (by rw [due]; exact Bool.false_ne_true)

/-! ### Training -/

/-- A stack's training has ended: its channels' temperatures are those of their last training (R380, R382). -/
def Dev.noteTrained (d : Dev) (stack : Nat) : Dev :=
  { d with boot := { d.boot with trained := d.boot.trained ||| 2 ^ stack },
           mem := { d.mem with trainedAt := (List.range 32).foldl (fun m c =>
             SMap.set (fun _ => 0) m (32 * stack + c) (SMap.get (fun _ => 0) d.mem.temps (32 * stack + c))) d.mem.trainedAt } }

theorem Dev.noteTrained_hbm (d : Dev) (stack : Nat) : (d.noteTrained stack).mem.hbm = d.mem.hbm := by dsimp only [Dev.noteTrained]
theorem Dev.noteTrained_lines (d : Dev) (stack : Nat) : (d.noteTrained stack).mem.lines = d.mem.lines := by dsimp only [Dev.noteTrained]
theorem Dev.noteTrained_wbs (d : Dev) (stack : Nat) : (d.noteTrained stack).mem.wbs = d.mem.wbs := by dsimp only [Dev.noteTrained]
theorem Dev.noteTrained_refetches (d : Dev) (stack : Nat) : (d.noteTrained stack).mem.refetches = d.mem.refetches := by dsimp only [Dev.noteTrained]

/-- The channels of a stack. -/
def stackChans (stack : Nat) : List Nat := (List.range 32).map (32 * stack + ·)

theorem contains_stackChans (stack ch : Nat) : (stackChans stack).contains ch = decide (ch / 32 = stack) := by
  have place : (∃ c < 32, 32 * stack + c = ch) ↔ ch / 32 = stack :=
    ⟨fun ⟨c, hc, h⟩ => by omega, fun h => ⟨ch % 32, Nat.mod_lt _ (by decide), by omega⟩⟩
  simp [stackChans, place]

/-- A training in which everything passed and no pin was bad (R380, R381). -/
theorem cmdHbmTrainingDone_passed {d : Dev} {stack : Nat} (hs : stack < 8) (trains : d.rf (F.HBM_STATUS_STATE stack) = 1)
    (first : bitAt d.boot.trained stack = false) : cmdHbmTrainingDone stack true 0 [] d =
      ((((d.noteTrained stack).zeroHbm (stackChans stack) 0 Config.channelGranules).wf (F.HBM_STATUS_STATE stack) 2).showHealthy stack).startReady := by
  unfold cmdHbmTrainingDone
  dsimp only
  rw [if_neg (by simpa [trains, first] using hs)]
  have kept : ∀ (f : Dev → Nat → Dev), (∀ e c, f e c = e) → (List.range 32).foldl f d = d := fun f same => foldl_keep id f same _ _
  rw [kept _ (fun e c => by simp [bitAt_zero])]
  rfl

section
variable {d : Dev} (lines : d.mem.lines = []) (wbs : d.mem.wbs = []) (refetches : d.mem.refetches = [])
include lines wbs refetches

/-- While no request waits for a line, a zero fill serves none, so it writes the memories and the counts of poisoned halves alone. -/
theorem Dev.zeroHbm_boot (chans : List Nat) (lo hi : Nat) : (d.zeroHbm chans lo hi).boot = d.boot := by
  unfold Dev.zeroHbm
  dsimp only
  rw [lines, wbs, refetches]
  exact foldl_keep Dev.boot _ (fun _ _ => Dev.wf_boot ..) _ _

theorem Dev.zeroHbm_hbm (chans : List Nat) (lo hi : Nat) : (d.zeroHbm chans lo hi).mem.hbm =
    SMap.clearIf (fun k => chans.contains (k / 2 ^ 31) && decide (lo ≤ k % 2 ^ 31 / 1024) && decide (k % 2 ^ 31 / 1024 < hi)) d.mem.hbm := by
  unfold Dev.zeroHbm
  dsimp only
  rw [lines, wbs, refetches]
  exact foldl_keep (fun e : Dev => e.mem.hbm) _ (fun _ _ => congrArg MemSt.hbm (Dev.wf_mem ..)) _ _

/-- A zero fill of a whole stack: its channels hold zeros, the others what they held (R380). -/
theorem Dev.zeroHbm_stack (stack ch : Nat) {j : Nat} (hj : j < 2 ^ 31) :
    SMap.get zeroByte (d.zeroHbm (stackChans stack) 0 Config.channelGranules).mem.hbm (ch * 2 ^ 31 + j) =
      if ch / 32 = stack then 0 else SMap.get zeroByte d.mem.hbm (ch * 2 ^ 31 + j) := by
  have chan : (ch * 2 ^ 31 + j) / 2 ^ 31 = ch := by omega
  have granule : (ch * 2 ^ 31 + j) % 2 ^ 31 / 1024 < Config.channelGranules := by
    rw [Config.channelGranules]
    omega
  rw [Dev.zeroHbm_hbm lines wbs refetches, SMap.get_clearIf, contains_stackChans, chan, decide_eq_true granule]
  simp [zeroByte]

end

/-- Settles O53: each command goes to the lemma of its branch. -/
theorem hbmAndLines : Obligations.HbmAndLines := by
  unfold Obligations.HbmAndLines
  intro s hrun d
  refine ⟨fun slice line hl => ⟨?fill, ?ignored, ?done, ?starts, ?arrives, ?times⟩, ?scrub, ?refresh, ?retrain, ?retrained, ?trained⟩
  case fill =>
    exact fun serves awaits => ⟨onDev_of_eq hrun (cmdLineFill_lost hl serves awaits []), onDev_of_eq hrun (cmdLineFill_clean hl serves awaits)⟩
  case ignored => exact fun h errs lost => onDev_of_eq hrun (cmdLineFill_ignored h errs lost)
  case done => exact fun serves => onDev_of_eq hrun (cmdWriteBackDone_serves hl serves)
  case starts => exact fun r oldest key room => onDev_of_eq hrun (cmdRefetch_starts oldest key room)
  case arrives =>
    exact fun r under started d' bs read => ⟨fun poison => onDev_of_eq hrun (cmdRefetchLineArrival_poisoned under started read poison),
      fun clean e written => onDev_of_eq hrun (cmdRefetchLineArrival_clean under started read clean written)⟩
  case times =>
    exact fun r under => ⟨fun started past => onDev_of_eq hrun (cmdRefetchTimeout_past under started past),
      fun early => onDev_of_eq hrun (cmdRefetchTimeout_early under early)⟩
  case scrub =>
    intro stack hs enabled ready
    have keeps {β : Type} (g : Dev → β) (writes : ∀ d f v, g (Dev.wf d f v) = g d)
        (events : ∀ d b ev part inst n, g (Dev.event d b ev part inst n) = g d) : g ((d.scrubReads stack).scrubMoved stack (d.rf (F.HBM_SCRUB_LINE stack))) = g d :=
      (Dev.scrubMoved_keep g writes ..).trans (Dev.scrubReads_keep g events ..)
    exact ⟨_, onDev_of_eq hrun (cmdScrub_clean hs enabled ready), keeps Dev.mem Dev.wf_mem Dev.event_mem, keeps Dev.err Dev.wf_err Dev.event_err,
      keeps Dev.out Dev.wf_out Dev.event_out, keeps Dev.ctl Dev.wf_ctl Dev.event_ctl, Dev.scrubMoved_line ..⟩
  case refresh =>
    exact fun ch temp hc on present => ⟨onDev_of_eq hrun (cmdRefresh_powered hc on present temp), SMap.get_set_same ..⟩
  case retrain =>
    intro ch temp hc enabled ready serves last moved
    have effect := cmdHbmRetrain_eq hc enabled ready serves temp
    exact ⟨fun near => onDev_of_eq hrun (effect.trans (if_pos near)), fun far => ⟨_, onDev_of_eq hrun (effect.trans (if_neg (Nat.not_lt.2 far))),
      d.beginRetrain_retraining ch temp, d.beginRetrain_serves ch temp, d.beginRetrain_count ch temp⟩⟩
  case retrained => exact fun ch ok due => onDev_of_eq hrun (cmdHbmRetrainDone_due due ok)
  case trained =>
    intro stack hs trains first lines wbs refetches
    have noLines := (d.noteTrained_lines stack).trans lines
    have noWbs := (d.noteTrained_wbs stack).trans wbs
    have noRefetches := (d.noteTrained_refetches stack).trans refetches
    have hbm := Dev.zeroHbm_stack noLines noWbs noRefetches stack
    refine ⟨_, onDev_of_eq hrun (cmdHbmTrainingDone_passed hs trains first), ?_, fun ch j at' hj => ?_, fun ch j other hj => ?_⟩
    · rw [Dev.zeroHbm_boot noLines noWbs noRefetches]
      rfl
    · rw [hbm ch hj, if_pos at']
    · rw [hbm ch hj, if_neg other, Dev.noteTrained_hbm]

end Sys2Proof.Machine
end

section
/-!
Proofs, the clamping of set-up writes (R477, R479): what each RW field of a written register takes. Fields are clamped one by one, but for DEFERRED of
a collective or service ring, which the ring's CLASS turns to 0; that is where the statement of O57 fails.
-/
namespace Sys2Proof.Machine

/-! ### One field after another -/

/-- A written word with one more field clamped, and the count of clamped fields. -/
def clampField (v : Nat) (x : Nat × Nat) (f : FieldSpec) : Nat × Nat :=
  if f.acc = .rw then
    (withBits x.1 f.lo f.w (f.clamp.apply (bitsAt v f.lo f.w)).1, x.2 + b2n (f.clamp.apply (bitsAt v f.lo f.w)).2)
  else x

/-- A ring whose CLASS is collective or service is written with DEFERRED set (R479). -/
abbrev RegSpec.dropsDeferred (r : RegSpec) (v : Nat) : Prop := r.base = Reg.QUE_RCTL 0 ∧ bitAt v 3 = true ∧ 2 ≤ bitsAt v 1 2

theorem RegSpec.clamp_eq (r : RegSpec) (v : Nat) :
    (r.clamp v).1 = if r.dropsDeferred v then withBits (r.fields.foldl (clampField v) (v, 0)).1 3 1 0
      else (r.fields.foldl (clampField v) (v, 0)).1 :=
  apply_ite Prod.fst _ _ _

/-- Two fields of one register have no common bit. -/
abbrev FieldSpec.apart (f g : FieldSpec) : Prop := f.lo + f.w ≤ g.lo ∨ g.lo + g.w ≤ f.lo

theorem bitsAt_clampField_same (v : Nat) (x : Nat × Nat) {f : FieldSpec} (isRw : f.acc = .rw) :
    bitsAt (clampField v x f).1 f.lo f.w = (f.clamp.apply (bitsAt v f.lo f.w)).1 % 2 ^ f.w := by
  rw [clampField, if_pos isRw]
  exact bitsAt_withBits_same ..

theorem bitsAt_clampField_apart (v : Nat) (x : Nat × Nat) {f g : FieldSpec} (h : f.apart g) :
    bitsAt (clampField v x g).1 f.lo f.w = bitsAt x.1 f.lo f.w := by
  unfold clampField
  split
  · exact bitsAt_withBits_apart _ _ h
  · rfl

theorem bitsAt_foldl_clampField_apart (v : Nat) {f : FieldSpec} (fs : List FieldSpec) (x : Nat × Nat) (h : ∀ g ∈ fs, f.apart g) :
    bitsAt (fs.foldl (clampField v) x).1 f.lo f.w = bitsAt x.1 f.lo f.w := by
  induction fs generalizing x with
  | nil => rfl
  | cons g fs ih =>
    obtain ⟨hg, hfs⟩ := List.forall_mem_cons.1 h
    rw [List.foldl_cons, ih _ hfs, bitsAt_clampField_apart v x hg]

/-- Among fields without common bits each RW field takes its own clamped value. -/
theorem bitsAt_foldl_clampField (v : Nat) {f : FieldSpec} (isRw : f.acc = .rw) (fs : List FieldSpec) (x : Nat × Nat) (hf : f ∈ fs)
    (apart : fs.Pairwise FieldSpec.apart) :
    bitsAt (fs.foldl (clampField v) x).1 f.lo f.w = (f.clamp.apply (bitsAt v f.lo f.w)).1 % 2 ^ f.w := by
  induction fs generalizing x with
  | nil => exact absurd hf List.not_mem_nil
  | cons g fs ih =>
    obtain ⟨hg, hfs⟩ := List.pairwise_cons.1 apart
    rw [List.foldl_cons]
    rcases List.mem_cons.1 hf with rfl | later
    · rw [bitsAt_foldl_clampField_apart v fs _ hg, bitsAt_clampField_same v x isRw]
    · exact ih _ later hfs

/-! ### The tables of chapter 18 -/

/-- The values a clamp may put in place of the written one are values of a field of `w` bits. -/
def Clamp.fits (w : Nat) : Clamp → Bool
  | .none | .keep _ => true
  | .range lo hi => decide (lo < 2 ^ w) && decide (hi < 2 ^ w)
  | .above _ x | .zero x | .oneTo _ x => decide (x < 2 ^ w)
  | .granules => decide (2097152 < 2 ^ w)

/-- A clamped value is the written one, one below it, or one that the clamp names. -/
theorem Clamp.apply_lt {c : Clamp} {w v : Nat} (fits : c.fits w = true) (hv : v < 2 ^ w) : (c.apply v).1 < 2 ^ w := by
  cases c with
  | none => exact hv
  | keep x => exact hv
  | range lo hi =>
    obtain ⟨hlo, hhi⟩ : lo < 2 ^ w ∧ hi < 2 ^ w := by simpa only [Clamp.fits, Bool.and_eq_true, decide_eq_true_eq] using fits
    rw [Clamp.apply]
    split
    · exact hlo
    · split
      · exact hhi
      · exact hv
  | above hi x | zero x | oneTo hi x =>
    have hx : x < 2 ^ w := of_decide_eq_true fits
    rw [Clamp.apply]
    split
    · exact hx
    · exact hv
  | granules =>
    have top : 2097152 < 2 ^ w := of_decide_eq_true fits
    rw [Clamp.apply]
    split
    · exact top
    · split
      · exact hv
      · exact Nat.lt_of_le_of_lt (Nat.sub_le ..) hv

/-- Fields without common bits, clamps that fit them, and bit 3 of QUE_RCTL a field of its own. -/
abbrev RegSpec.wellLaid (r : RegSpec) : Prop :=
  r.fields.Pairwise FieldSpec.apart ∧ (∀ f ∈ r.fields, f.clamp.fits f.w = true)
    ∧ (r.base = Reg.QUE_RCTL 0 → ∀ f ∈ r.fields, (f.lo = 3 ∧ f.w = 1) ∨ (f.lo ≠ 3 ∧ (f.lo + f.w ≤ 3 ∨ 3 + 1 ≤ f.lo)))

theorem regsAt_wellLaid (off : Nat) : ∀ r ∈ regsAt off, r.wellLaid := by
  unfold regsAt
  split <;> decide +kernel

theorem mem_of_findReg {rs : List RegSpec} {off : Nat} {r : RegSpec} {idx : List Nat} (h : findReg rs off = some (r, idx)) : r ∈ rs := by
  induction rs with
  | nil => exact absurd h nofun
  | cons a rs ih =>
    unfold findReg at h
    split at h
    · exact List.mem_cons_of_mem _ (ih h)
    · split at h
      · cases h; exact List.mem_cons_self
      · exact List.mem_cons_of_mem _ (ih h)

theorem RegSpec.wellLaid_of_regFind {off : Nat} {r : RegSpec} {idx : List Nat} (h : regFind off = some (r, idx)) : r.wellLaid :=
  regsAt_wellLaid off r (mem_of_findReg h)

/-- What an RW field of a written register takes: its own clamped value (R477), but 0 for DEFERRED of a collective or service ring (R479). -/
theorem RegSpec.bitsAt_clamp {off : Nat} {r : RegSpec} {idx : List Nat} (found : regFind off = some (r, idx)) {f : FieldSpec} (hf : f ∈ r.fields)
    (isRw : f.acc = .rw) (v : Nat) :
    bitsAt (r.clamp v).1 f.lo f.w = if r.dropsDeferred v ∧ f.lo = 3 then 0 else (f.clamp.apply (bitsAt v f.lo f.w)).1 := by
  obtain ⟨apart, fits, deferred⟩ := RegSpec.wellLaid_of_regFind found
  have small : (f.clamp.apply (bitsAt v f.lo f.w)).1 < 2 ^ f.w := Clamp.apply_lt (fits f hf) (Nat.mod_lt _ (Nat.two_pow_pos _))
  have own := bitsAt_foldl_clampField v isRw r.fields (v, 0) hf apart
  rw [Nat.mod_eq_of_lt small] at own
  rw [RegSpec.clamp_eq]
  by_cases drops : r.dropsDeferred v
  · rw [if_pos drops]
    rcases deferred drops.1 f hf with ⟨lo, w⟩ | ⟨lo, away⟩
    · rw [if_pos ⟨drops, lo⟩, lo, w]
      exact bitsAt_withBits_same ..
    · rw [if_neg fun both => lo both.2, bitsAt_withBits_apart _ _ away, own]
  · rw [if_neg drops, if_neg fun both => drops both.1, own]

/-! ### DEFERRED of a collective ring -/

/-- QUE_RCTL of the rings (R479). -/
abbrev ringControl : RegSpec := regsQue[6]

/-- Its field DEFERRED. -/
abbrev deferredField : FieldSpec := ringControl.fields[2]

/-- Refutes O57: the last part of its clause on writes has every RW field take its own clamped value. The write of 12 to QUE_RCTL0 sets DEFERRED and
CLASS 2 (collective): DEFERRED has no clamp of its own, which would leave it 1, but R479 makes it 0 on such a ring. `RegSpec.bitsAt_clamp` is that
part with DEFERRED set apart. -/
theorem not_setUpAccess : ¬ Obligations.SetUpAccess := by
  unfold Obligations.SetUpAccess
  intro h
  obtain ⟨-, -, -, -, writes, -⟩ := h
  have found : regFind (Reg.QUE_RCTL 0) = some (ringControl, [0]) := by decide +kernel
  obtain ⟨-, -, -, -, -, -, -, -, -, -, fields⟩ := writes {} (Reg.QUE_RCTL 0) 12 ringControl [0] (by decide +kernel) found
  have member : deferredField ∈ ringControl.fields := List.getElem_mem _
  have claimed : bitsAt (ringControl.clamp 12).1 3 1 = 1 := fields deferredField member rfl
  have actual : bitsAt (ringControl.clamp 12).1 3 1 = 0 :=
    (RegSpec.bitsAt_clamp found member rfl 12).trans (if_pos (by decide))
  exact absurd (claimed.symm.trans actual) (by decide)

end Sys2Proof.Machine
end

section
/-!
Proofs, the links and the control plane: a packet that the module sends leaves the control plane and the memories as they are.
-/
namespace Sys2Proof.Machine

/-! ### Sending -/

/-- The control plane and the memories: what nothing that is sent on a link changes. -/
def Dev.planes (d : Dev) : CtlSt × MemSt := (d.ctl, d.mem)

theorem Dev.planes_eq {d e : Dev} : e.planes = d.planes ↔ e.ctl = d.ctl ∧ e.mem = d.mem := Iff.of_eq (Prod.mk.injEq ..)

theorem Dev.sendFlit_planes (d : Dev) (port : Nat) : (d.sendFlit port).planes = d.planes := by
  refine Dev.planes_eq.2 ?_
  unfold Dev.sendFlit
  dsimp only
  split
  · exact ⟨rfl, rfl⟩
  · split
    · exact ⟨rfl, rfl⟩
    · split
      · exact ⟨rfl, rfl⟩
      · split <;> simp

theorem Dev.transmit_planes (d : Dev) (port vc : Nat) (bytes : List Byte) : (d.transmit port vc bytes).planes = d.planes :=
  foldl_keep Dev.planes _ (fun e _ => e.sendFlit_planes port) _ _

theorem Dev.sendCpl_planes (d : Dev) (p : CplPacket) : (d.sendCpl p).planes = d.planes := Dev.transmit_planes ..

theorem Dev.sendWrite_planes (d : Dev) : d.sendWrite.planes = d.planes := by
  unfold Dev.sendWrite
  split
  · rfl
  · split
    · exact Dev.sendCpl_planes ..
    · rfl

theorem Dev.writeCompanion_planes (d : Dev) (a : Nat) (bs : List MByte) (who : List Waiter) : (d.writeCompanion a bs who).planes = d.planes :=
  foldl_keep Dev.planes _ (fun e _ => e.sendWrite_planes) _ _

@[simp] theorem Dev.toCompanion_ctl (d : Dev) (a : Nat) (bs : List Byte) : (d.toCompanion a bs).ctl = d.ctl :=
  (Dev.planes_eq.1 (d.writeCompanion_planes ..)).1
@[simp] theorem Dev.toCompanion_mem (d : Dev) (a : Nat) (bs : List Byte) : (d.toCompanion a bs).mem = d.mem :=
  (Dev.planes_eq.1 (d.writeCompanion_planes ..)).2

@[simp] theorem Dev.fringProducer_ctl (d : Dev) (p count : Nat) : (d.fringProducer p count).ctl = d.ctl := Dev.toCompanion_ctl ..
@[simp] theorem Dev.fringProducer_mem (d : Dev) (p count : Nat) : (d.fringProducer p count).mem = d.mem := Dev.toCompanion_mem ..

/-! ### Following a line -/

theorem Dev.sendRead_planes (d : Dev) (n : Nat) (hold : Bool) (who : List Waiter) : (d.sendRead n hold who).planes = d.planes := by
  unfold Dev.sendRead
  dsimp only
  split
  · rfl
  · rw [Dev.sendCpl_planes, Dev.planes_eq]
    split <;> simp

theorem Dev.follow_planes (d : Dev) (n : Nat) : (d.follow n).planes = d.planes := by
  unfold Dev.follow
  dsimp only
  split
  · rfl
  · split
    · rfl
    · split
      · rfl
      · split
        · rfl
        · exact Dev.sendRead_planes ..

@[simp] theorem Dev.follow_ctl (d : Dev) (n : Nat) : (d.follow n).ctl = d.ctl := (Dev.planes_eq.1 (d.follow_planes n)).1
@[simp] theorem Dev.follow_mem (d : Dev) (n : Nat) : (d.follow n).mem = d.mem := (Dev.planes_eq.1 (d.follow_planes n)).2

@[simp] theorem Dev.unfollow_mem (d : Dev) (n : Nat) : (d.unfollow n).mem = d.mem := by
  unfold Dev.unfollow
  dsimp only
  split
  · rfl
  · split <;> rfl

end Sys2Proof.Machine
end

section
/-!
Proofs, fault records (R399 to R402, R404, R405): how a fault makes a record or attaches to one, what closing a record leaves, and what an answer and
a timeout do; the statement of O37.
-/
namespace Sys2Proof.Machine

/-! ### The open records -/

/-- The numbers of the open records: posting changes none. -/
def Dev.faultKeys (d : Dev) : List Nat := d.mem.faults.map (·.key)

@[simp] theorem Dev.postFaults_ctl (d : Dev) (p : Nat) : (d.postFaults p).ctl = d.ctl := by
  refine foldl_keep Dev.ctl _ (fun e f => ?_) _ _
  dsimp only
  split
  · rfl
  · simp

theorem Dev.postFaults_faultKeys (d : Dev) (p : Nat) : (d.postFaults p).faultKeys = d.faultKeys := by
  refine foldl_keep Dev.faultKeys _ (fun e f => ?_) _ _
  dsimp only
  split
  · rfl
  · simp only [Dev.faultKeys, Dev.follow_mem, Dev.fringProducer_mem, Dev.wf_mem, Dev.toCompanion_mem, List.map_map]
    refine List.map_congr_left fun g _ => ?_
    dsimp only [Function.comp_apply]
    split
    · next same => exact same.symm
    · rfl

/-! ### A fault on a walk -/

/-- The open record that a fault of partition `p` attaches to (R402): same cause, same 64 KiB page. -/
def Dev.openFault (d : Dev) (p : Nat) (f : FaultInfo) : Option FaultRec :=
  d.mem.faults.find? (fun r => decide (r.part = p) && decide (r.cause = f.cause) && decide (r.va / 65536 = f.va / 65536))

section
variable {d : Dev} {f : FaultInfo} {p : Nat} (engine unit tag ring position slot lanes : Nat) (w : Waiter)

@[simp] theorem Dev.raiseFault_ctl : (d.raiseFault f p engine unit tag ring position slot lanes w).1.ctl = d.ctl := by
  unfold Dev.raiseFault
  split
  · exact Dev.bump_ctl ..
  · dsimp only
    split <;> simp

/-- A further fault attaches to the open record (R402). -/
theorem Dev.raiseFault_attaches {g : FaultRec} (found : d.openFault p f = some g) :
    (d.raiseFault f p engine unit tag ring position slot lanes w).2 = g.key ∧
      (d.raiseFault f p engine unit tag ring position slot lanes w).1.mem.faults =
        d.mem.faults.map (fun h => if h.key = g.key then { h with waiters := h.waiters ++ [w] } else h) := by
  rw [Dev.openFault] at found
  unfold Dev.raiseFault
  rw [found]
  exact ⟨rfl, congrArg MemSt.faults (Dev.bump_mem ..)⟩

/-- The record that a fault makes (R400). -/
def Dev.newFault (d : Dev) (f : FaultInfo) (p engine unit tag ring position slot lanes : Nat) (w : Waiter) : FaultRec :=
  { key := d.mem.nextFault, id := 0, part := p, cause := f.cause, engine := engine, unit := unit, access := f.access, level := f.level, va := f.va,
    tag := tag, ring := ring, turn := d.turn, position := position, slot := slot, lanes := lanes, time := d.time, entry := f.entry, posted := false,
    bounds := 0, waiters := [w] }

/-- Record `g` becomes the last of the open records. -/
def Dev.openRecord (d : Dev) (g : FaultRec) : Dev := { d with mem := { d.mem with nextFault := d.mem.nextFault + 1, faults := d.mem.faults ++ [g] } }

/-- The first fault of its page and cause makes a record, which is posted when a slot is free (R400, R404). -/
theorem Dev.raiseFault_makes (unmatched : d.openFault p f = none) :
    (d.raiseFault f p engine unit tag ring position slot lanes w).2 = d.mem.nextFault ∧
      (d.raiseFault f p engine unit tag ring position slot lanes w).1.mem =
        ((d.openRecord (d.newFault f p engine unit tag ring position slot lanes w)).postFaults p).mem := by
  rw [Dev.openFault] at unmatched
  unfold Dev.raiseFault
  rw [unmatched]
  dsimp only
  refine ⟨rfl, ?_⟩
  split
  · rfl
  · exact Dev.bump_mem ..

end

/-- Translation changes no item. -/
theorem Dev.translate_ctl (d : Dev) (p va : Nat) (acc : Acc) : (d.translate p va acc).1.ctl = d.ctl := by
  have ticked : ∀ b : Bool, (if b then d.tick else d).ctl = d.ctl := by rintro (_ | _) <;> rfl
  unfold Dev.translate
  dsimp only
  split
  · rfl
  · split
    · rfl
    · split
      · exact ticked _
      · exact ticked _
      · split
        · exact ticked _
        · split
          · split <;> exact ticked _
          · split <;> exact ticked _

/-- A running engine's item has a place whose access faults (R400). -/
theorem Item.faultSite_some {it : Item} (site : Nat) (h : it.engine = .stones ∨ it.engine = .press ∨ it.engine = .sluice ∨ it.engine = .bolter) :
    ∃ e u, it.faultSite site = some (e, u) := by
  unfold Item.faultSite
  obtain h | h | h | h := h <;> rw [h] <;> exact ⟨_, _, rfl⟩

/-- A running item whose access faults on its walk waits on a record (R394, R400). -/
theorem Dev.itemFaults_of_fault {d d' : Dev} {id va site : Nat} {acc : Acc} {it : Item} {f : FaultInfo} {e u : Nat} (hit : d.item id = some it)
    (runs : it.place = .running) (free : it.fault = none) (goes : it.early = none) (place : it.faultSite site = some (e, u))
    (walk : d.translate it.part va acc = (d', .fault f)) : d.itemFaults id va site acc = d'.itemFault it f e u := by
  simp [Dev.itemFaults, hit, place, runs, free, goes, walk]

/-- What the fault of an item's access leaves: the item waits on the record, which the fault attaches to or makes (R400, R402). -/
theorem Dev.itemFault_spec {d : Dev} {it : Item} {f : FaultInfo} (hit : d.item it.id = some it) (e u : Nat) : ∃ key,
    (d.itemFault it f e u).item it.id = some { it with fault := some key }
    ∧ (∀ g, d.openFault it.part f = some g → key = g.key ∧ (d.itemFault it f e u).mem.faults =
        d.mem.faults.map (fun h => if h.key = g.key then { h with waiters := h.waiters ++ [.item it.id] } else h))
    ∧ (d.openFault it.part f = none → key = d.mem.nextFault ∧ (d.itemFault it f e u).mem =
        ((d.openRecord (d.newFault f it.part e u it.desc.tag it.ring it.position 0 0 (.item it.id))).postFaults it.part).mem) := by
  refine ⟨(d.raiseFault f it.part e u it.desc.tag it.ring it.position 0 0 (.item it.id)).2, ?_, fun g found => ?_, fun unmatched => ?_⟩
  · exact Dev.item_setItem (it := { it with fault := some _ }) ((Dev.item_congr (Dev.raiseFault_ctl ..) _).trans hit)
  · exact Dev.raiseFault_attaches _ _ _ _ _ _ _ _ found
  · exact Dev.raiseFault_makes _ _ _ _ _ _ _ _ unmatched

/-! ### Closing a record -/

theorem Dev.freeFaults_faults (n p : Nat) (d : Dev) : (Dev.freeFaults n p d).mem.faults = d.mem.faults := by
  induction n generalizing d with
  | zero => rfl
  | succ n ih =>
    rw [Dev.freeFaults]
    dsimp only
    split
    · rw [ih]; rfl
    · rfl

/-- A closed record is open no longer (R402, R404). -/
theorem Dev.closeFault_closes (d : Dev) (r : FaultRec) : ∀ f ∈ (d.closeFault r).mem.faults, f.key ≠ r.key := by
  intro f hf
  have stillOpen : f.key ∈ (d.closeFault r).faultKeys := List.mem_map_of_mem hf
  rw [Dev.closeFault, Dev.postFaults_faultKeys, Dev.faultKeys, Dev.freeFaults_faults] at stillOpen
  obtain ⟨g, hg, same⟩ := List.mem_map.1 stillOpen
  rw [← same]
  exact of_decide_eq_true (List.mem_filter.1 hg).2

/-! ### Answers -/

/-- The word names record `id` twice, once as the complement (R401). -/
abbrev answerNames (word id : Nat) : Prop := word % 2 ^ 16 = id ∧ word / 2 ^ 16 % 2 ^ 16 = 2 ^ 16 - 1 - id

/-- ACTION of an answer (R401). -/
abbrev answerAction (word : Nat) : Nat := word / 2 ^ 32 % 4

theorem bitsAt_eq (x lo w : Nat) : bitsAt x lo w = x / 2 ^ lo % 2 ^ w := by rw [bitsAt, Nat.shiftRight_eq_div_pow]

section
variable {d : Dev} {p id word : Nat} {r : FaultRec} (posted : d.postedFault p id = some r)
include posted

theorem cmdFaultAnswer_of_posted : cmdFaultAnswer p id word d =
    if word % 2 ^ 64 = 0 then d
    else if ¬ answerNames word id ∨ answerAction word = 0 ∨ answerAction word = 3 then d.bump F.MMU_STATUS_BAD_REPLY 1
    else (if answerAction word = 1 then d.retryFault r.key else d.abortFault r.key id).closeFault r := by
  have low : bitsAt word 0 16 = word % 2 ^ 16 := by rw [bitsAt_eq, Nat.pow_zero, Nat.div_one]
  have high : bitsAt word 16 16 = word / 2 ^ 16 % 2 ^ 16 := bitsAt_eq ..
  have action : bitsAt word 32 2 = answerAction word := bitsAt_eq ..
  have invalid : word % 2 ^ 16 ≠ id ∨ word / 2 ^ 16 % 2 ^ 16 ≠ 2 ^ 16 - 1 - id ∨ answerAction word = 0 ∨ answerAction word = 3 ↔
      ¬ answerNames word id ∨ answerAction word = 0 ∨ answerAction word = 3 := by
    rw [answerNames, Decidable.not_and_iff_not_or_not, or_assoc]
  unfold cmdFaultAnswer
  rw [posted]
  dsimp only
  rw [low, high, action]
  exact ite_congr rfl (fun _ => rfl) fun _ => ite_congr (propext invalid) (fun _ => rfl) fun _ => rfl

/-- RETRY and ABORT are answers (R401). -/
theorem cmdFaultAnswer_of_good (names : answerNames word id) (acts : answerAction word = 1 ∨ answerAction word = 2) :
    cmdFaultAnswer p id word d = (if answerAction word = 1 then d.retryFault r.key else d.abortFault r.key id).closeFault r := by
  have written : ¬ word % 2 ^ 64 = 0 := by unfold answerAction at acts; omega
  have valid : ¬ (¬ answerNames word id ∨ answerAction word = 0 ∨ answerAction word = 3) := by
    rintro (bad | zero | three)
    · exact bad names
    all_goals omega
  rw [cmdFaultAnswer_of_posted posted, if_neg written, if_neg valid]

theorem cmdFaultAnswer_of_retry (names : answerNames word id) (retry : answerAction word = 1) :
    cmdFaultAnswer p id word d = (d.retryFault r.key).closeFault r := by
  rw [cmdFaultAnswer_of_good posted names (.inl retry), if_pos retry]

theorem cmdFaultAnswer_of_abort (names : answerNames word id) (abort : answerAction word = 2) :
    cmdFaultAnswer p id word d = (d.abortFault r.key id).closeFault r := by
  rw [cmdFaultAnswer_of_good posted names (.inr abort), if_neg fun retry => absurd (retry.symm.trans abort) (by decide)]

/-- A word that is no answer is counted (R401). -/
theorem cmdFaultAnswer_of_bad (written : word % 2 ^ 64 ≠ 0) (bad : ¬ answerNames word id ∨ answerAction word = 0 ∨ answerAction word = 3) :
    cmdFaultAnswer p id word d = d.bump F.MMU_STATUS_BAD_REPLY 1 := by
  rw [cmdFaultAnswer_of_posted posted, if_neg written, if_pos bad]

/-- A record whose FAULT_TURNS boundaries have passed is aborted (R405). -/
theorem cmdFaultTimeout_of_due (due : max 1 (d.rf F.MMU_CTRL_FAULT_TURNS) ≤ r.bounds) :
    cmdFaultTimeout p id d = ((d.bump F.MMU_STATUS_TIMEOUTS 1).abortFault r.key id).closeFault r := by
  unfold cmdFaultTimeout
  rw [posted]
  exact if_neg (Nat.not_lt.2 due)

theorem cmdFaultTimeout_of_early (early : r.bounds < max 1 (d.rf F.MMU_CTRL_FAULT_TURNS)) : cmdFaultTimeout p id d = d := by
  unfold cmdFaultTimeout
  rw [posted]
  exact if_pos early

end

/-- A counter field counts by one and wraps. -/
theorem Dev.rf_bump_one (d : Dev) {f : Fld} (h : f.inWord) : (d.bump f 1).rf f = (d.rf f + 1) % 2 ^ f.w := d.rf_wf_same _ h

/-! ### RETRY -/

theorem SMap.get_map {β : Type} {dflt : Nat → β} (g : β → β) (fixed : ∀ k, g (dflt k) = dflt k) (m : SMap β) (k : Nat) :
    SMap.get dflt (m.map fun e => (e.1, g e.2)) k = g (SMap.get dflt m k) := by
  induction m with
  | nil => exact (fixed k).symm
  | cons e m ih =>
    obtain ⟨j, v⟩ := e
    simp only [List.map_cons, SMap.get, ih]
    split <;> rfl

theorem Dev.skein_retryFault (d : Dev) (key k : Nat) : (d.retryFault key).skein k = (d.skein k).map (·.retry key) :=
  SMap.get_map (Option.map fun t : Skein => t.retry key) (fun _ => rfl) d.spl.skeins k

/-- A cleared wait on a record waits on it no longer. -/
theorem ite_none_ne_some {α : Type} [DecidableEq α] (o : Option α) (a : α) : (if o = some a then none else o) ≠ some a := by
  split
  · exact nofun
  · assumption

/-- After a RETRY no access of the skein waits on the record (R402). -/
theorem Skein.retry_frees (s : Skein) (key : Nat) :
    (s.retry key).fetchFault ≠ some key ∧ ∀ q ∈ (s.retry key).reqs, ∀ x ∈ q.parts, x.fault ≠ some key := by
  refine ⟨ite_none_ne_some _ _, fun q hq x hx => ?_⟩
  obtain ⟨q0, -, rfl⟩ := List.mem_map.1 hq
  obtain ⟨x0, -, rfl⟩ := List.mem_map.1 hx
  split
  · exact nofun
  · assumption

/-- Settles O37: the answers and the timeout are their commands' lemmas, each ending with a closed record; a fault attaches or makes a record. -/
theorem faultRecords : Obligations.FaultRecords := by
  unfold Obligations.FaultRecords
  intro s p id word r hrun
  refine ⟨fun posted => ⟨fun names retry => ?retry, fun names abort => ?abort, fun written bad => ?bad, fun due => ?due, fun early => ?early⟩,
    fun item va site acc it d' f hit runs free goes engine walk => ?fault⟩
  case retry =>
    refine ⟨_, s.dev.retryFault r.key, onDev_of_eq hrun (cmdFaultAnswer_of_retry posted names retry), ⟨rfl, Dev.closeFault_closes _ r⟩, rfl, rfl, rfl,
      fun k t ht => ?_⟩
    rw [Dev.skein_retryFault] at ht
    obtain ⟨t0, -, rfl⟩ := Option.map_eq_some_iff.1 ht
    exact t0.retry_frees r.key
  case abort =>
    exact ⟨_, s.dev.abortFault r.key id, onDev_of_eq hrun (cmdFaultAnswer_of_abort posted names abort), ⟨rfl, Dev.closeFault_closes _ r⟩, rfl⟩
  case bad => exact ⟨_, onDev_of_eq hrun (cmdFaultAnswer_of_bad posted written bad), rfl, Dev.rf_bump_one _ (by decide)⟩
  case due =>
    exact ⟨_, _, onDev_of_eq hrun (cmdFaultTimeout_of_due posted due), ⟨rfl, Dev.closeFault_closes _ r⟩, _, rfl, rfl, Dev.rf_bump_one _ (by decide)⟩
  case early => exact onDev_of_eq hrun (cmdFaultTimeout_of_early posted early)
  case fault =>
    obtain rfl := Dev.id_of_item hit
    obtain ⟨e, u, place⟩ := it.faultSite_some site engine
    have same : d'.ctl = s.dev.ctl := by rw [← s.dev.translate_ctl it.part va acc, walk]
    obtain ⟨key, waits, attaches, makes⟩ := Dev.itemFault_spec (f := f) ((Dev.item_congr same _).trans hit) e u
    refine ⟨_, key, _, onDev_of_eq hrun (Dev.itemFaults_of_fault hit runs free goes place walk), waits, rfl, attaches, fun unmatched => ?_⟩
    obtain ⟨rfl, mem⟩ := makes unmatched
    exact ⟨rfl, _, rfl, rfl, rfl, rfl, rfl, rfl, rfl, rfl, rfl, rfl, mem⟩

end Sys2Proof.Machine
end

section
/-!
Proofs, the Granary and the control plane: whatever a slice does (R319 to R349), the rings and items stay as they are; so do they when bytes are
written to the context-save area.
-/
namespace Sys2Proof.Machine

variable (d : Dev) (k : Nat)

/-! ### Lines and their write-back -/

@[simp] theorem Dev.setLine_ctl (l : Option Line) : (d.setLine k l).ctl = d.ctl := rfl
@[simp] theorem Dev.setWb_ctl (w : Option WriteBack) : (d.setWb k w).ctl = d.ctl := rfl

@[simp] theorem Dev.setAge_ctl (a : Nat) : (d.setAge k a).ctl = d.ctl := by
  unfold Dev.setAge
  split <;> rfl

@[simp] theorem Dev.giveKeep_ctl : (d.giveKeep k).ctl = d.ctl := by
  unfold Dev.giveKeep
  extract_lets kw keeps e
  have kept : e.ctl = d.ctl := by
    subst e
    split
    · split <;> rfl
    · rfl
  split
  · rfl
  · split <;> exact kept

@[simp] theorem Dev.touch_ctl (hint : Nat) (alloc : Bool) : (d.touch k hint alloc).ctl = d.ctl := by
  unfold Dev.touch
  split
  · split <;> simp
  · dsimp only
    split <;> simp
  · dsimp only
    split
    · split <;> simp
    · simp

@[simp] theorem Dev.countPf_ctl (l : Line) (what : Nat) : (d.countPf k l what).ctl = d.ctl := by
  unfold Dev.countPf
  split <;> simp

@[simp] theorem Dev.beginWb_ctl (l : Line) : (d.beginWb k l).ctl = d.ctl := by simp [Dev.beginWb]

@[simp] theorem Dev.showHealthy_ctl (stack : Nat) : (d.showHealthy stack).ctl = d.ctl := by
  unfold Dev.showHealthy
  dsimp only
  split <;> simp

@[simp] theorem Dev.failChannel_ctl (ch : Nat) : (d.failChannel ch).ctl = d.ctl := by
  unfold Dev.failChannel
  split <;> simp

@[simp] theorem Dev.setDramPoison_ctl (h : Nat) (v : Bool) : (d.setDramPoison k h v).ctl = d.ctl := by
  unfold Dev.setDramPoison
  split <;> simp

@[simp] theorem Dev.wbHalf_ctl (h mask data poison : Nat) : (d.wbHalf k h mask data poison).ctl = d.ctl := by
  simp [Dev.wbHalf, apply_ite Dev.ctl]

@[simp] theorem Dev.wbToDram_ctl (w : WriteBack) : (d.wbToDram k w).ctl = d.ctl := by simp [Dev.wbToDram]

/-- Making room for a line moves the victim alone (R328). -/
theorem Dev.makeRoom_ctl {d e : Dev} {k : Nat} (h : d.makeRoom k = some e) : e.ctl = d.ctl := by
  unfold Dev.makeRoom at h
  split at h
  · rw [← Option.some.inj h]
  · cases h
  · rw [← Option.some.inj h, Dev.setLine_ctl]
    split <;> simp [apply_ite Dev.ctl]

@[simp] theorem Dev.install_ctl (l : Line) (hint : Nat) : (d.install k l hint).ctl = d.ctl := by simp [Dev.install]

/-! ### Digest folding and reductions -/

@[simp] theorem Dev.foldByte_ctl (r : Region) (x : Nat) (v : Byte) : (d.foldByte r x v).ctl = d.ctl := by
  unfold Dev.foldByte
  split
  · split <;> rfl
  · rfl

@[simp] theorem Dev.foldWrite_ctl (bs : List (Nat × MByte)) : (d.foldWrite k bs).ctl = d.ctl := by
  unfold Dev.foldWrite
  split
  · split
    · exact foldl_keep Dev.ctl _ (fun e b => e.foldByte_ctl ..) _ _
    · rfl
  · rfl

@[simp] theorem Dev.redOne_ctl (part : Option Nat) (e : RedElem) : (d.redOne k part e).1.ctl = d.ctl := by
  unfold Dev.redOne
  split
  · rfl
  · dsimp only
    split <;> simp

@[simp] theorem Dev.applyHeld_ctl : (d.applyHeld k).ctl = d.ctl := by
  unfold Dev.applyHeld
  split
  · rfl
  · split
    · rfl
    · rw [Dev.bump_ctl]
      exact foldl_keep Dev.ctl _ (fun e o => foldl_keep Dev.ctl _ (fun x a => x.redOne_ctl ..) _ _) _ _

@[simp] theorem Dev.breakHeld_ctl : (d.breakHeld k).ctl = d.ctl := by
  unfold Dev.breakHeld
  split
  · split <;> simp
  · rfl

@[simp] theorem Dev.holdAdd_ctl (e : RedElem) (seq : Nat) : (d.holdAdd k e seq).ctl = d.ctl := by
  unfold Dev.holdAdd
  extract_lets slice a holds others b
  have roomy : a.ctl = d.ctl := by
    subst a
    split
    · split <;> simp
    · rfl
  have pinned : b.ctl = a.ctl := by
    subst b
    split
    · split <;> simp
    · rfl
  split <;> exact pinned.trans roomy

@[simp] theorem Dev.redElem_ctl (part : Option Nat) (e : RedElem) : (d.redElem k part e).1.ctl = d.ctl := by
  unfold Dev.redElem
  dsimp only
  split
  · split <;> simp
  · split <;> simp

@[simp] theorem Dev.redElems_ctl (part : Option Nat) (es : List RedElem) : (d.redElems k part es).1.ctl = d.ctl := by
  induction es generalizing d with
  | nil => rfl
  | cons e es ih => exact (ih _).trans (d.redElem_ctl k part e)

/-! ### Serving a request -/

@[simp] theorem Dev.swrPoisonRecord_ctl : (d.swrPoisonRecord k).ctl = d.ctl := by
  unfold Dev.swrPoisonRecord
  split
  · split <;> simp
  · rfl

@[simp] theorem Dev.holdForRefetch_ctl (r : Nat) (q : SliceReq) : (d.holdForRefetch k r q).ctl = d.ctl := by
  unfold Dev.holdForRefetch
  dsimp only
  split <;> rfl

@[simp] theorem Dev.serveHit_ctl (q : SliceReq) : (d.serveHit k q).1.ctl = d.ctl := by
  unfold Dev.serveHit
  split
  · dsimp only
    split
    · split <;> simp
    · simp
  · dsimp only
    split <;> simp
  · dsimp only
    simp

@[simp] theorem Dev.serveDead_ctl (q : SliceReq) : (d.serveDead k q).1.ctl = d.ctl := by
  unfold Dev.serveDead
  split <;> simp

@[simp] theorem Dev.hwPrefetch_ctl (hint : Nat) : (d.hwPrefetch k hint).ctl = d.ctl := by
  unfold Dev.hwPrefetch
  split
  · dsimp only
    split
    · refine foldl_keep Dev.ctl _ (fun e j => ?_) _ _
      split
      · split
        · next room => simp [Dev.makeRoom_ctl room]
        · rfl
      · rfl
    · rfl
  · rfl

@[simp] theorem Dev.waitOnLine_ctl (l : Line) (q : SliceReq) : (d.waitOnLine k l q).ctl = d.ctl := rfl

@[simp] theorem Dev.waitAtSlice_ctl (q : SliceReq) : (d.waitAtSlice k q).ctl = d.ctl := by
  unfold Dev.waitAtSlice
  split <;> rfl

@[simp] theorem Dev.demand_ctl : (d.demand k).ctl = d.ctl := by
  unfold Dev.demand
  split
  · split <;> simp
  · rfl

@[simp] theorem Dev.serve_ctl (q : SliceReq) : (d.serve k q).1.ctl = d.ctl := by
  unfold Dev.serve
  extract_lets ch blk isRed ordered missed met reread checked
  have missedCtl : missed.ctl = d.ctl := Dev.event_ctl ..
  have metCtl : met.ctl = d.ctl := d.demand_ctl k
  have rereadCtl : reread.ctl = d.ctl := by simp [reread, metCtl]
  split
  · exact d.serveDead_ctl ..
  · split
    · exact d.holdForRefetch_ctl ..
    · split
      · split <;> simp
      · split
        · split -- the line is absent
          · exact (missed.waitAtSlice_ctl ..).trans missedCtl
          · split
            · exact (missed.waitAtSlice_ctl ..).trans missedCtl
            · next room => split <;> simp [(Dev.makeRoom_ctl room).trans missedCtl]
        · split -- the line is present
          · exact metCtl
          · split
            case h_1 => -- in Fill
              split
              · split <;> simp [metCtl]
              · split <;> simp [metCtl]
            case h_2 => -- a tombstone
              split
              · simp [metCtl]
              · split <;> simp [rereadCtl]
              · split <;> simp [metCtl]
            case h_3 => split <;> simp [metCtl] -- Clean
            case h_4 => -- Dirty
              split
              · exact metCtl
              · split <;> simp [metCtl]

@[simp] theorem Dev.answer_ctl (q : SliceReq) (a : Ans) : (d.answer q a).ctl = d.ctl := by
  unfold Dev.answer
  split
  · rfl
  · split <;> simp

@[simp] theorem Dev.serveWaits_ctl (qs : List SliceReq) : (d.serveWaits k qs).ctl = d.ctl := by
  induction qs generalizing d with
  | nil => rfl
  | cons q qs ih => rw [Dev.serveWaits, ih, Dev.answer_ctl, Dev.serveHit_ctl]

@[simp] theorem Dev.retrySlice_ctl (slice : Nat) : (d.retrySlice slice).ctl = d.ctl :=
  foldl_keep Dev.ctl _ (fun e x => by rw [Dev.answer_ctl, Dev.serve_ctl]) _ _

/-! ### Bringing a line to rest -/

@[simp] theorem Dev.lineHere_ctl (l : Line) : (d.lineHere k l).ctl = d.ctl := by simp [Dev.lineHere]

@[simp] theorem Dev.arrive_ctl : (d.arrive k).ctl = d.ctl := by
  unfold Dev.arrive
  split
  · rfl
  · split
    · dsimp only
      rw [Dev.retrySlice_ctl]
      split
      · split <;> simp
      · simp
    · rfl

@[simp] theorem Dev.applyForwarded_ctl (qs : List SliceReq) : (d.applyForwarded k qs).ctl = d.ctl := by
  induction qs generalizing d with
  | nil => rfl
  | cons q qs ih =>
    rw [Dev.applyForwarded]
    split
    · rw [ih, Dev.answer_ctl]
      generalize reduced : List.foldl _ _ _ = x
      have kept : x.1.ctl = d.ctl := by
        rw [← reduced]
        exact foldl_keep (fun x : Dev × List (Nat × Bool) => x.1.ctl) _ (fun x e => by simp) _ _
      split <;> simp [kept]
    · exact ih d

@[simp] theorem Dev.wbDone_ctl : (d.wbDone k).ctl = d.ctl := by
  unfold Dev.wbDone
  split
  · rfl
  · extract_lets a b c e
    have written : b.ctl = d.ctl := by simp [a, b]
    have marked : c.ctl = b.ctl := by
      subst c
      split
      · split
        · next room => simp [Dev.makeRoom_ctl room]
        · rfl
      · rfl
    have served : e.ctl = c.ctl := foldl_keep Dev.ctl _ (fun x q => by simp) _ _
    simp [served, marked, written]

@[simp] theorem Dev.settle_ctl : (d.settle k).ctl = d.ctl :=
  (foldl_keep Dev.ctl _ (fun e (x : Nat × Line) => e.arrive_ctl x.1) _ _).trans (d.wbDone_ctl k)

@[simp] theorem Dev.engineServe_ctl (q : SliceReq) : (d.engineServe k q).1.ctl = d.ctl := by
  have served : ((d.settle k).serve k q).1.ctl = d.ctl := by simp
  unfold Dev.engineServe
  split
  · rfl
  · dsimp only
    split
    · split
      · simp
      · exact served
    · exact served

@[simp] theorem Dev.lineWrite_ctl (part : Option Nat) (hint : Nat) (bs : List (Nat × MByte)) : (d.lineWrite part k hint bs).1.ctl = d.ctl :=
  Dev.engineServe_ctl ..

end Sys2Proof.Machine
end

section
/-!
Proofs, saving an item and the item table (R38, R421, R425 to R428): what is written to the context-save area and to the completion ring changes no
item; a pre-emption moves the one item that it names.
-/
namespace Sys2Proof.Machine

/-! ### The context-save area -/

@[simp] theorem Dev.setBundle_ctl (d : Dev) (b : Bundle) : (d.setBundle b).ctl = d.ctl := rfl

@[simp] theorem Dev.parkBundles_ctl (d : Dev) (keep : Bundle → Bool) : (d.parkBundles keep).ctl = d.ctl :=
  foldl_keep Dev.ctl _ (fun _ _ => (Dev.setBundle_ctl ..).trans (foldl_keep Dev.ctl _ (fun x _ => x.setSkein_ctl ..) _ _)) _ _

@[simp] theorem Dev.physLine_ctl (d : Dev) (p a : Nat) (bs : List MByte) : (d.physLine p a bs).ctl = d.ctl := by
  unfold Dev.physLine
  split <;> simp

@[simp] theorem Dev.physParts_ctl (d : Dev) (p : Nat) (ps : List (Nat × Nat)) (bs : List MByte) : (d.physParts p ps bs).ctl = d.ctl := by
  induction ps generalizing d bs with
  | nil => rfl
  | cons x ps ih => rw [Dev.physParts, ih, Dev.physLine_ctl]

@[simp] theorem Dev.csaWrite_ctl (d : Dev) (p off : Nat) (bs : List MByte) : (d.csaWrite p off bs).ctl = d.ctl := Dev.physParts_ctl ..

@[simp] theorem Dev.csaRecords_ctl (d : Dev) (p : Nat) : (d.csaRecords p).ctl = d.ctl :=
  foldl_keep (fun x : Dev × Nat × Nat => x.1.ctl) _ (fun x _ => x.1.csaWrite_ctl ..) _ _

@[simp] theorem Dev.csaSums_ctl (d : Dev) (it : Item) : (d.csaSums it).ctl = d.ctl :=
  foldl_keep Dev.ctl _ (fun _ _ => foldl_keep Dev.ctl _ (fun _ _ => foldl_keep Dev.ctl _ (fun e _ => e.csaWrite_ctl ..) _ _) _ _) _ _

@[simp] theorem Dev.csaLanes_ctl (d : Dev) (p : Nat) : (d.csaLanes p).ctl = d.ctl := by simp [Dev.csaLanes]

@[simp] theorem Dev.csaSkeins_ctl (d : Dev) (p slot0 : Nat) (ss : List Skein) : (d.csaSkeins p slot0 ss).ctl = d.ctl := by
  unfold Dev.csaSkeins
  rw [foldl_keep Dev.ctl]
  intro e s
  dsimp only
  rw [Dev.csaWrite_ctl]

@[simp] theorem Dev.csaSave_ctl (d : Dev) (it : Item) : (d.csaSave it).ctl = d.ctl := by
  unfold Dev.csaSave
  dsimp only
  split <;> simp

/-! ### Records and the item table -/

@[simp] theorem Dev.setRing_items (d : Dev) (n : Nat) (r : Ring) : (d.setRing n r).ctl.items = d.ctl.items := rfl

@[simp] theorem Dev.writeRecord_items (d : Dev) (n status progress : Nat) (it : Item) :
    (d.writeRecord n status progress it).ctl.items = d.ctl.items := by
  unfold Dev.writeRecord
  extract_lets r base slot e prod f
  have record : e.ctl = d.ctl := d.toCompanion_ctl ..
  have producer : f.ctl = e.ctl := e.toCompanion_ctl ..
  clear_value e f
  rw [Dev.event_ctl, Dev.setRing_items, producer, record]

@[simp] theorem Dev.resumedRecord_items (d : Dev) (it : Item) : (d.resumedRecord it).ctl.items = d.ctl.items := by
  unfold Dev.resumedRecord
  extract_lets n e
  have counted : e.ctl = d.ctl := d.bump_ctl ..
  clear_value e
  split
  · rw [Dev.writeRecord_items, counted]
  · rw [Dev.bump_ctl, counted]

theorem Dev.parkStones_ctl (d : Dev) (it : Item) : (d.parkStones it).1.ctl = d.ctl := by
  unfold Dev.parkStones
  dsimp only
  split
  · split <;> rfl
  · rfl

theorem Dev.parkStones_id (d : Dev) (it : Item) : (d.parkStones it).2.id = it.id := by
  unfold Dev.parkStones
  dsimp only
  split
  · split <;> rfl
  · rfl

/-- A saved item takes its own place in the item table (R38). -/
theorem Dev.saveItem_items (d : Dev) (it : Item) : ∃ x : Item, x.id = it.id ∧ (d.saveItem it).ctl.items = (d.setItem x).ctl.items := by
  obtain ⟨parked, hparked⟩ : ∃ x, x = if it.engine = .stones then d.parkStones it else (d, it) := ⟨_, rfl⟩
  have parkedCtl : parked.1.ctl = d.ctl := by
    rw [hparked]
    split
    · exact d.parkStones_ctl it
    · rfl
  have parkedId : parked.2.id = it.id := by
    rw [hparked]
    split
    · exact d.parkStones_id it
    · rfl
  unfold Dev.saveItem
  rw [← hparked]
  dsimp -zeta only
  extract_lets e y f
  have bundles : e.ctl = d.ctl := by simp [e, apply_ite Dev.ctl, parkedCtl]
  have written : f.ctl.items = (d.setItem y).ctl.items := by
    rw [Dev.csaSave_ctl, Dev.setItem_ctl_congr bundles]
  refine ⟨y, parkedId, ?_⟩
  split
  · exact written
  · rw [Dev.resumedRecord_items, written]

/-! ### Which item a command moves -/

/-- `e` is `d` but for what the item of number `id` holds. -/
def Dev.movesItem (d e : Dev) (id : Nat) : Prop := (∀ j, j ≠ id → e.item j = d.item j) ∧ ((d.item id).isSome = true → (e.item id).isSome = true)

theorem Dev.movesItem_of_same {d e : Dev} (h : e.ctl.items = d.ctl.items) (id : Nat) : d.movesItem e id := by
  have same (j : Nat) : e.item j = d.item j := by rw [Dev.item, h, Dev.item]
  exact ⟨fun j _ => same j, fun there => (same id).symm ▸ there⟩

theorem Dev.item_setItem_other (d : Dev) {it : Item} {j : Nat} (h : j ≠ it.id) : (d.setItem it).item j = d.item j := by
  unfold Dev.item Dev.setItem
  dsimp only
  induction d.ctl.items with
  | nil => rfl
  | cons x xs ih =>
    rw [List.map_cons, List.find?_cons, List.find?_cons, ih]
    by_cases hx : x.id = it.id
    · simp [hx, h.symm]
    · simp [hx]

theorem Dev.movesItem_of_set {d e : Dev} {it : Item} {id : Nat} (h : e.ctl.items = (d.setItem it).ctl.items) (hid : it.id = id) :
    d.movesItem e id := by
  subst hid
  have same (j : Nat) : e.item j = (d.setItem it).item j := by rw [Dev.item, h, Dev.item]
  refine ⟨fun j other => (same j).trans (d.item_setItem_other other), fun there => ?_⟩
  obtain ⟨x, hx⟩ := Option.isSome_iff_exists.1 there
  rw [same, Dev.item_setItem hx]
  rfl

/-- A pre-emption moves its item alone (R38, R421). -/
theorem Dev.preemptItem_moves (d : Dev) (it : Item) (cause : SaveCause) (held : Bool) : d.movesItem (d.preemptItem it cause held) it.id := by
  unfold Dev.preemptItem
  split
  case h_2 =>
    obtain ⟨x, same, saved⟩ := d.saveItem_items { it with cause := cause, held := held }
    exact Dev.movesItem_of_set saved same
  case h_5 => exact Dev.movesItem_of_same rfl _
  all_goals exact Dev.movesItem_of_set rfl rfl

end Sys2Proof.Machine
end

section
/-!
Proofs, the service operations (R397, R421, R457, R458): TLB_INVAL, RESTART, DRAIN, RESUME and PREEMPT at the head of their ring; the statement of
O36.
-/
namespace Sys2Proof.Machine

/-! ### The head of a service ring -/

/-- What a service command acts on: an item of its number and operation that is in its queue and has not ended (R458). -/
theorem Dev.serviceWork_some {d : Dev} {op id : Nat} {it : Item} (h : d.serviceWork op id = some it) :
    d.item id = some it ∧ it.desc.opcode = op ∧ it.early = none := by
  unfold Dev.serviceWork at h
  split at h
  · next x hx =>
    split at h
    · next c =>
      obtain rfl := Option.some.inj h
      exact ⟨hx, c.1, Option.isNone_iff_eq_none.1 c.2.1⟩
    · exact absurd h (by simp)
  · exact absurd h (by simp)

theorem Item.engine_preempt {it : Item} (h : it.desc.opcode = 0x61) : it.engine = .service := by
  unfold Item.engine
  rw [h]
  rfl

/-! ### TLB_INVAL -/

/-- The addresses of page `pre` of size `size` and the range from `lo` to `hi` overlap when the page begins below `hi` and ends above `lo`. -/
theorem overlaps_iff {lo hi size pre : Nat} (range : lo < hi) (pos : 0 < size) :
    pre * size < hi ∧ lo < (pre + 1) * size ↔ ∃ va, lo ≤ va ∧ va < hi ∧ va / size = pre := by
  have ends : (pre + 1) * size = pre * size + size := Nat.succ_mul pre size
  constructor
  · rintro ⟨below, above⟩
    refine ⟨max lo (pre * size), Nat.le_max_left .., Nat.max_lt.2 ⟨range, below⟩, Nat.div_eq_of_lt_le (Nat.le_max_right ..) ?_⟩
    exact Nat.max_lt.2 ⟨above, by omega⟩
  · rintro ⟨va, above, below, rfl⟩
    exact ⟨Nat.lt_of_le_of_lt (Nat.div_mul_le_self va size) below,
      Nat.lt_of_le_of_lt above (Nat.lt_mul_of_div_lt (Nat.lt_succ_self _) pos)⟩

/-- Of the translation cache stays what does not overlap the range (R397). -/
theorem Dev.mem_dropTlb (d : Dev) (p : Nat) {lo hi : Nat} (range : lo < hi) (t : TlbEntry) : t ∈ (d.dropTlb p lo (hi - lo)).mem.tlb ↔
    t ∈ d.mem.tlb ∧ ¬(t.part = p ∧ ∃ va, lo ≤ va ∧ va < hi ∧ va / 2 ^ levelShift t.level = t.pre) := by
  have whole : lo + (hi - lo) = hi := Nat.add_sub_of_le (Nat.le_of_lt range)
  rw [Dev.dropTlb, List.mem_filter, ← overlaps_iff range (Nat.two_pow_pos _)]
  simp only [whole, Bool.not_eq_true', Bool.and_eq_false_iff, decide_eq_false_iff_not, Decidable.not_and_iff_not_or_not, or_assoc]

/-- The range of TLB_INVAL (R397): all ones as the length names the whole space, another base is aligned down to 64 KiB. -/
def Desc.invalFrom (c : Desc) : Nat := if c.word 2 = 2 ^ 64 - 1 then 0 else c.fld 1 0 52 / 65536 * 65536
def Desc.invalTo (c : Desc) : Nat := if c.word 2 = 2 ^ 64 - 1 then 2 ^ 52 else min (c.fld 1 0 52 + c.word 2) (2 ^ 52)

/-- A range that names something is not empty. -/
theorem Desc.invalFrom_lt_invalTo {c : Desc} (names : c.word 2 ≠ 0) : c.invalFrom < c.invalTo := by
  have inMap : c.fld 1 0 52 < 2 ^ 52 := Nat.mod_lt _ (Nat.two_pow_pos 52)
  unfold Desc.invalFrom Desc.invalTo
  split
  · exact Nat.two_pow_pos 52
  · have aligned := Nat.div_mul_le_self (c.fld 1 0 52) 65536
    omega

/-- TLB_INVAL as it ends: the bytes of the range, and the mark of one cut at the end of the space (R397). -/
def Item.invalidated (it : Item) : Item :=
  { it with
    prog := it.desc.invalTo - it.desc.invalFrom
    clamped := decide (it.desc.word 2 ≠ 2 ^ 64 - 1) && decide (2 ^ 52 < it.desc.fld 1 0 52 + it.desc.word 2) }

section
variable {d : Dev} {item : Nat} {it : Item} (work : d.serviceWork 0x60 item = some it)
include work

theorem cmdTlbInval_of_empty (empty : it.desc.word 2 = 0) : cmdTlbInval item d = d.finishItem it := by
  unfold cmdTlbInval
  rw [work]
  exact if_pos empty

theorem cmdTlbInval_of_range (names : it.desc.word 2 ≠ 0) : cmdTlbInval item d =
    (d.dropTlb it.part it.desc.invalFrom (it.desc.invalTo - it.desc.invalFrom)).finishItem it.invalidated := by
  unfold cmdTlbInval Item.invalidated Desc.invalFrom Desc.invalTo
  rw [work]
  refine (if_neg names).trans ?_
  simp only [decide_eq_true_eq, decide_not]

end

/-! ### RESTART -/

theorem cmdRestart_of_work {d : Dev} {item : Nat} {it : Item} (work : d.serviceWork 0x63 item = some it) : cmdRestart item d =
    (d.wb (F.QUE_RSTAT_STOPPED (ringIndex it.part (it.desc.fld 1 0 6))) false).finishItem it := by
  unfold cmdRestart
  rw [work]

/-- A write to one register changes no field of another. -/
theorem Dev.rf_wb_elsewhere (d : Dev) {f g : Fld} (v : Bool) (h : g.off ≠ f.off) : (d.wb f v).rf g = d.rf g := by
  rw [Dev.rf, Dev.wb, Dev.reg_wf, if_neg h, ← Dev.rf]

/-! ### DRAIN -/

section
variable {d : Dev} {item : Nat} {it : Item} (work : d.serviceWork 0x64 item = some it)
include work

/-- A DRAIN whose items have their final records stores VALUE and ends (R457). -/
theorem cmdDrain_of_ended (ended : ∀ i ∈ it.aux, d.item i = none) : cmdDrain item d =
    (if it.desc.fld 2 0 52 = 0 then d else d.toCompanion (it.desc.fld 2 0 52) (leBytes 8 (it.desc.word 3))).finishItem it := by
  unfold cmdDrain
  rw [work]
  refine if_neg ?_
  rw [List.any_eq_true]
  rintro ⟨i, hi, there⟩
  rw [ended i hi] at there
  exact Bool.false_ne_true there

theorem cmdDrain_of_waiting (waits : ∃ i ∈ it.aux, d.item i ≠ none) : cmdDrain item d = d := by
  obtain ⟨i, hi, there⟩ := waits
  unfold cmdDrain
  rw [work]
  exact if_pos (List.any_eq_true.2 ⟨i, hi, Option.isSome_iff_ne_none.2 there⟩)

end

/-! ### The rings that RESUME and PREEMPT name -/

theorem Dev.namedRing_congr {d e : Dev} (h : e.regs = d.regs) (p : Nat) (c : Desc) (r : Nat) : e.namedRing p c r = d.namedRing p c r := by
  have same : e.ringClass (ringIndex p r) = d.ringClass (ringIndex p r) := by
    rw [Dev.ringClass, Dev.rf, Dev.reg, h, ← Dev.reg, ← Dev.rf, ← Dev.ringClass]
  rw [Dev.namedRing, same, Dev.namedRing]

/-- One ring is held or released, when it is named. -/
def Dev.holdRing (p : Nat) (c : Desc) (v : Bool) (d : Dev) (r : Nat) : Dev :=
  if d.namedRing p c r then d.setRing (ringIndex p r) { d.ring (ringIndex p r) with held := v } else d

theorem Dev.holdRings_eq (d : Dev) (p : Nat) (c : Desc) (v : Bool) : d.holdRings p c v = (List.range 64).foldl (Dev.holdRing p c v) d := rfl

theorem Dev.holdRings_keep {β : Type} (g : Dev → β) (set : ∀ (d : Dev) (n : Nat) (r : Ring), g (d.setRing n r) = g d) (d : Dev) (p : Nat) (c : Desc)
    (v : Bool) : g (d.holdRings p c v) = g d := by
  refine foldl_keep g _ (fun e r => ?_) _ _
  split
  · exact set ..
  · rfl

theorem Dev.ring_setRing (d : Dev) (n j : Nat) (r : Ring) : (d.setRing n r).ring j = if j = n then r else d.ring j := SMap.get_set ..

theorem Dev.holdRing_keeps_held {d : Dev} {n : Nat} {v : Bool} (h : (d.ring n).held = v) (p : Nat) (c : Desc) (r : Nat) :
    ((d.holdRing p c v r).ring n).held = v := by
  unfold Dev.holdRing
  split
  · rw [Dev.ring_setRing]
    split
    · rfl
    · exact h
  · exact h

theorem Dev.foldl_holdRing_held (p : Nat) (c : Desc) (v : Bool) (rs : List Nat) (d : Dev) {r : Nat} (named : d.namedRing p c r = true)
    (h : r ∈ rs ∨ (d.ring (ringIndex p r)).held = v) : ((rs.foldl (Dev.holdRing p c v) d).ring (ringIndex p r)).held = v := by
  induction rs generalizing d with
  | nil => exact h.resolve_left List.not_mem_nil
  | cons q rs ih =>
    have same : (d.holdRing p c v q).regs = d.regs := by
      unfold Dev.holdRing
      split <;> rfl
    refine ih _ ((Dev.namedRing_congr same ..).trans named) ?_
    rw [List.mem_cons] at h
    obtain (rfl | later) | held := h
    · right
      rw [Dev.holdRing, if_pos named, Dev.ring_setRing, if_pos rfl]
    · exact .inl later
    · exact .inr (Dev.holdRing_keeps_held held p c q)

/-- Every named ring has the hold asked for (R421). -/
theorem Dev.holdRings_held {d : Dev} {p r : Nat} {c : Desc} (named : d.namedRing p c r = true) (hr : r < 64) (v : Bool) :
    ((d.holdRings p c v).ring (ringIndex p r)).held = v := by
  rw [Dev.holdRings_eq]
  exact Dev.foldl_holdRing_held p c v _ d named (.inl (List.mem_range.2 hr))

/-! ### RESUME -/

/-- The module that RESUME leaves beside its record: the holds of the named rings and of their items are cleared (R421), and a held service goes on. -/
def Dev.released (d : Dev) (it : Item) : Dev :=
  let e := (d.holdRings it.part it.desc false).srvResume it.part
  { e with ctl := { e.ctl with items := d.ctl.items.map (fun x =>
      if x.part = it.part ∧ d.namedRing it.part it.desc x.ring then { x with held := false } else x) } }

theorem Dev.srvResume_keep {β : Type} (g : Dev → β) (set : ∀ (d : Dev) (p : Nat) (v : Srv), g (d.setSrv p v) = g d) (d : Dev) (p : Nat) :
    g (d.srvResume p) = g d := by
  unfold Dev.srvResume
  dsimp only
  split
  · exact set ..
  · rfl

theorem cmdResume_of_work {d : Dev} {item : Nat} {it : Item} (work : d.serviceWork 0x62 item = some it) :
    cmdResume item d = (d.released it).finishItem it := by
  have regs : ((d.holdRings it.part it.desc false).srvResume it.part).regs = d.regs :=
    (Dev.srvResume_keep Dev.regs (fun _ _ _ => rfl) ..).trans (Dev.holdRings_keep Dev.regs (fun _ _ _ => rfl) ..)
  have items : ((d.holdRings it.part it.desc false).srvResume it.part).ctl.items = d.ctl.items :=
    (Dev.srvResume_keep (fun e : Dev => e.ctl.items) (fun _ _ _ => rfl) ..).trans
      (Dev.holdRings_keep (fun e : Dev => e.ctl.items) (fun _ _ _ => rfl) ..)
  unfold cmdResume Dev.released
  rw [work]
  simp only [Dev.namedRing_congr regs, items]

section
variable (d : Dev) (it : Item)

theorem Dev.released_regs : (d.released it).regs = d.regs :=
  (Dev.srvResume_keep Dev.regs (fun _ _ _ => rfl) ..).trans (Dev.holdRings_keep Dev.regs (fun _ _ _ => rfl) ..)
theorem Dev.released_mem : (d.released it).mem = d.mem :=
  (Dev.srvResume_keep Dev.mem (fun _ _ _ => rfl) ..).trans (Dev.holdRings_keep Dev.mem (fun _ _ _ => rfl) ..)
theorem Dev.released_spl : (d.released it).spl = d.spl :=
  (Dev.srvResume_keep Dev.spl (fun _ _ _ => rfl) ..).trans (Dev.holdRings_keep Dev.spl (fun _ _ _ => rfl) ..)

theorem Dev.released_held {r : Nat} (hr : r < 64) (named : d.namedRing it.part it.desc r = true) :
    ((d.released it).ring (ringIndex it.part r)).held = false :=
  (congrArg Ring.held (Dev.srvResume_keep (fun e : Dev => e.ring (ringIndex it.part r)) (fun _ _ _ => rfl) ..)).trans
    (Dev.holdRings_held named hr false)

end

/-! ### PREEMPT -/

/-- The items that PREEMPT takes (R421). -/
def Dev.preempted (d : Dev) (it : Item) : List Item :=
  d.ctl.items.filter (fun x => decide (x.part = it.part) && d.namedRing it.part it.desc x.ring && decide (x.engine ≠ .collective)
    && decide (x.engine ≠ .service))

/-- HOLD of a PREEMPT (R421). -/
abbrev Desc.hold (c : Desc) : Bool := decide (c.fld 1 7 1 = 1)

/-- The module with the rings held and the service paused that PREEMPT names. -/
def Dev.preemptPaused (d : Dev) (it : Item) : Dev :=
  let d := if it.desc.hold then d.holdRings it.part it.desc true else d
  if it.desc.fld 1 6 1 = 1 then d.srvPause it.part it.desc.hold else d

/-- PREEMPT meets one item. -/
def Dev.preemptOne (hold : Bool) (d : Dev) (x : Item) : Dev :=
  match d.item x.id with
  | some y => if y.early.isSome then d else d.preemptItem y .preempt hold
  | none => d

theorem Dev.preemptTake_eq (d : Dev) (it : Item) : d.preemptTake it =
    ((d.preempted it).foldl (Dev.preemptOne it.desc.hold) (d.preemptPaused it)).setItem
      { it with place := .running, aux := (d.preempted it).map (·.id) } := rfl

theorem Dev.preemptPaused_items (d : Dev) (it : Item) : (d.preemptPaused it).ctl.items = d.ctl.items := by
  have held : (if it.desc.hold then d.holdRings it.part it.desc true else d).ctl.items = d.ctl.items := by
    split
    · exact Dev.holdRings_keep (fun e : Dev => e.ctl.items) (fun _ _ _ => rfl) ..
    · rfl
  unfold Dev.preemptPaused
  extract_lets e
  split
  · unfold Dev.srvPause
    extract_lets v f
    split
    · exact held
    · split <;> exact held
  · exact held

/-- A running item as PREEMPT leaves it (R421). -/
def Item.drainedBy (x : Item) (hold : Bool) : Item := { x with place := .draining, cause := .preempt, held := hold }

theorem Dev.preemptOne_moves (hold : Bool) (d : Dev) (x : Item) : d.movesItem (d.preemptOne hold x) x.id := by
  unfold Dev.preemptOne
  split
  · next y hy =>
    split
    · exact Dev.movesItem_of_same rfl _
    · exact Dev.id_of_item hy ▸ d.preemptItem_moves y .preempt hold
  · exact Dev.movesItem_of_same rfl _

section
variable {d : Dev} {x : Item} (hold : Bool) (goes : x.early = none)
include goes

/-- A running item that PREEMPT meets begins to drain (R421). -/
theorem Dev.preemptOne_of_running (hx : d.item x.id = some x) (runs : x.place = .running) {z : Item} (hz : z.id = x.id) :
    (d.preemptOne hold z).item x.id = some (x.drainedBy hold) := by
  unfold Dev.preemptOne
  rw [hz, hx]
  dsimp only
  rw [goes, if_neg (by simp), Dev.preemptItem, runs]
  exact Dev.item_setItem (it := x.drainedBy hold) hx

/-- Met again, it goes on draining as it did. -/
theorem Dev.preemptOne_of_drained (hx : d.item x.id = some (x.drainedBy hold)) (z : Item) :
    (d.preemptOne hold z).item x.id = some (x.drainedBy hold) := by
  by_cases hz : z.id = x.id
  · unfold Dev.preemptOne
    rw [hz, hx]
    have again : d.preemptItem (x.drainedBy hold) .preempt hold = d.setItem (x.drainedBy hold) := by
      cases hold <;> rfl
    dsimp only
    rw [if_neg (by simp [Item.drainedBy, goes]), again]
    exact Dev.item_setItem (it := x.drainedBy hold) hx
  · exact ((d.preemptOne_moves hold z).1 _ (Ne.symm hz)).trans hx

/-- Every running item among those that PREEMPT meets drains in the end. -/
theorem Dev.foldl_preemptOne_drains (zs : List Item) (runs : x.place = .running)
    (h : (d.item x.id = some x ∧ ∃ z ∈ zs, z.id = x.id) ∨ d.item x.id = some (x.drainedBy hold)) :
    (zs.foldl (Dev.preemptOne hold) d).item x.id = some (x.drainedBy hold) := by
  induction zs generalizing d with
  | nil => exact h.resolve_left (by simp)
  | cons z zs ih =>
    refine ih ?_
    obtain ⟨hx, w, hw, same⟩ | drained := h
    · by_cases hz : z.id = x.id
      · exact .inr (Dev.preemptOne_of_running hold goes hx runs hz)
      · have later : w ∈ zs := (List.mem_cons.1 hw).resolve_left (fun first => hz (first ▸ same))
        exact .inl ⟨((d.preemptOne_moves hold z).1 _ (Ne.symm hz)).trans hx, w, later, same⟩
    · exact .inr (Dev.preemptOne_of_drained hold goes drained z)

end

theorem Dev.foldl_preemptOne_isSome (hold : Bool) (zs : List Item) {d : Dev} {id : Nat} (there : (d.item id).isSome = true) :
    ((zs.foldl (Dev.preemptOne hold) d).item id).isSome = true := by
  induction zs generalizing d with
  | nil => exact there
  | cons z zs ih =>
    obtain ⟨others, own⟩ := d.preemptOne_moves hold z
    refine ih ?_
    by_cases hz : id = z.id
    · subst hz
      exact own there
    · rwa [others id hz]

/-- PREEMPT itself runs once it has taken its items (R457). -/
theorem Dev.preemptTake_runs {d : Dev} {it : Item} (hit : d.item it.id = some it) :
    (d.preemptTake it).item it.id = some { it with place := .running, aux := (d.preempted it).map (·.id) } := by
  have there : ((d.preemptPaused it).item it.id).isSome = true := by
    rw [Dev.item, d.preemptPaused_items it, ← Dev.item, hit]
    rfl
  obtain ⟨y, hy⟩ := Option.isSome_iff_exists.1 (Dev.foldl_preemptOne_isSome it.desc.hold (d.preempted it) there)
  rw [Dev.preemptTake_eq]
  exact Dev.item_setItem (it := { it with place := .running, aux := (d.preempted it).map (·.id) }) hy

/-- Every running item that PREEMPT takes drains (R421). -/
theorem Dev.preemptTake_drains {d : Dev} {it x : Item} (other : x.id ≠ it.id) (taken : x ∈ d.preempted it) (hx : d.item x.id = some x)
    (goes : x.early = none) (runs : x.place = .running) : (d.preemptTake it).item x.id = some (x.drainedBy it.desc.hold) := by
  have paused : (d.preemptPaused it).item x.id = some x := by
    rw [Dev.item, d.preemptPaused_items it, ← Dev.item, hx]
  rw [Dev.preemptTake_eq]
  refine (Dev.item_setItem_other (it := { it with place := .running, aux := (d.preempted it).map (·.id) }) _ other).trans ?_
  exact Dev.foldl_preemptOne_drains _ goes _ runs (.inl ⟨paused, x, taken, rfl⟩)

section
variable {d : Dev} {item : Nat} {it : Item} (work : d.serviceWork 0x61 item = some it)
include work

/-- A PREEMPT that has taken its items waits while one of them drains (R457). -/
theorem cmdPreempt_of_draining (taken : it.place ≠ .queued) (drains : ∃ i ∈ it.aux, ∃ x, d.item i = some x ∧ x.place = .draining) :
    cmdPreempt item d = d := by
  obtain ⟨hit, -, -⟩ := Dev.serviceWork_some work
  obtain ⟨i, hi, x, hx, place⟩ := drains
  unfold cmdPreempt
  rw [work]
  dsimp only
  rw [if_neg taken, hit]
  refine if_pos (List.any_eq_true.2 ⟨i, hi, ?_⟩)
  rw [hx]
  exact decide_eq_true place

/-- It ends when none does (R457). -/
theorem cmdPreempt_of_saved (taken : it.place ≠ .queued) (saved : ∀ i ∈ it.aux, ∀ x, d.item i = some x → x.place ≠ .draining) :
    cmdPreempt item d = d.finishItem it := by
  obtain ⟨hit, -, -⟩ := Dev.serviceWork_some work
  unfold cmdPreempt
  rw [work]
  dsimp only
  rw [if_neg taken, hit]
  refine if_neg ?_
  rw [List.any_eq_true]
  rintro ⟨i, hi, drains⟩
  cases hx : d.item i with
  | none => rw [hx] at drains; exact Bool.false_ne_true drains
  | some x => rw [hx] at drains; exact saved i hi x hx (of_decide_eq_true drains)

/-- A PREEMPT that takes a running item waits for it (R421, R457). -/
theorem cmdPreempt_of_queued (queued : it.place = .queued) {x : Item} (taken : x ∈ d.preempted it) (drains : (d.preemptTake it).item x.id =
    some (x.drainedBy it.desc.hold)) : cmdPreempt item d = d.preemptTake it := by
  obtain ⟨hit, -, -⟩ := Dev.serviceWork_some work
  obtain rfl := Dev.id_of_item hit
  unfold cmdPreempt
  rw [work]
  dsimp only
  rw [if_pos queued, Dev.preemptTake_runs hit]
  refine if_pos (List.any_eq_true.2 ⟨x.id, List.mem_map_of_mem taken, ?_⟩)
  rw [drains]
  rfl

end

theorem Dev.mem_preempted {d : Dev} {it x : Item} : x ∈ d.preempted it ↔ x ∈ d.ctl.items ∧ x.part = it.part ∧
    d.namedRing it.part it.desc x.ring = true ∧ x.engine ≠ .collective ∧ x.engine ≠ .service := by
  simp only [Dev.preempted, List.mem_filter, Bool.and_eq_true, decide_eq_true_eq, and_assoc]

/-- Settles O36: each clause is its command's lemma above. -/
theorem serviceOperations : Obligations.ServiceOperations := by
  unfold Obligations.ServiceOperations
  intro s item it hrun _ _
  refine ⟨fun work empty => ?empty, fun work names => ?range, fun work => ?restart, fun work ended => ?ended, fun work waits => ?waits,
    fun work => ?resume, fun work taken => ⟨fun saved => ?saved, fun drains => ?drains⟩, fun work queued takes => ?takes⟩
  case empty => exact onDev_of_eq hrun (cmdTlbInval_of_empty work empty)
  case range =>
    exact ⟨_, onDev_of_eq hrun (cmdTlbInval_of_range work names), rfl, Dev.mem_dropTlb _ _ (Desc.invalFrom_lt_invalTo names)⟩
  case restart =>
    exact ⟨_, onDev_of_eq hrun (cmdRestart_of_work work), rfl, Dev.rb_wb_same _ _ (show 32 + 1 ≤ 64 by decide) rfl,
      fun f other => Dev.rf_wb_elsewhere _ _ other⟩
  case ended => exact onDev_of_eq hrun (cmdDrain_of_ended work ended)
  case waits => exact onDev_of_eq hrun (cmdDrain_of_waiting work waits)
  case resume =>
    exact ⟨_, onDev_of_eq hrun (cmdResume_of_work work), fun r hr named => s.dev.released_held it hr named, rfl, s.dev.released_regs it,
      s.dev.released_mem it, s.dev.released_spl it⟩
  case saved => exact onDev_of_eq hrun (cmdPreempt_of_saved work taken saved)
  case drains => exact onDev_of_eq hrun (cmdPreempt_of_draining work taken drains)
  case takes =>
    obtain ⟨hit, op, -⟩ := Dev.serviceWork_some work
    have own := Dev.id_of_item hit
    have drains (x : Item) (mem : x ∈ s.dev.preempted it) (hx : s.dev.item x.id = some x) (goes : x.early = none) (runs : x.place = .running) :
        (s.dev.preemptTake it).item x.id = some (x.drainedBy it.desc.hold) := by
      refine Dev.preemptTake_drains (fun same => ?_) mem hx goes runs
      rw [same, own, hit] at hx
      obtain rfl := Option.some.inj hx
      exact (Dev.mem_preempted.1 mem).2.2.2.2 (Item.engine_preempt op)
    obtain ⟨x, listed, hx, part, named, collective, service, goes, runs⟩ := takes
    have mem := Dev.mem_preempted.2 ⟨listed, part, named, collective, service⟩
    refine ⟨_, onDev_of_eq hrun (cmdPreempt_of_queued work queued mem (drains x mem hx goes runs)), ?_, ?_⟩
    · subst own
      exact ⟨_, Dev.preemptTake_runs hit, rfl⟩
    · exact fun y listed hy part named collective service goes runs =>
        drains y (Dev.mem_preempted.2 ⟨listed, part, named, collective, service⟩) hy goes runs

end Sys2Proof.Machine
end

section
/-!
Proofs, sending (R492 to R496, R642 to R648): what a message of the module leaves beside the links, the queue of the Companion Link and the counts of
events.
-/
namespace Sys2Proof.Machine

/-! ### What leaves the module on a link -/

/-- A flit, or a packet for the companion. -/
def Out.onLink : Out → Bool
  | .flit _ _ | .link _ => true
  | _ => false

/-- `e` is `d` after messages have been sent: the links, the requests to the companion, the bytes and events counted, and what has left the module. -/
structure Dev.sends (d e : Dev) : Prop where
  same : e = { d with regs := e.regs, pmu := e.pmu, out := e.out, cpl := e.cpl, fab := { d.fab with links := e.fab.links } }
  reg : ∀ off, countReg off = false → e.reg off = d.reg off
  out : ∃ os, e.out = d.out ++ os ∧ os.all Out.onLink = true

theorem Dev.sends_refl (d : Dev) : d.sends d := ⟨rfl, fun _ _ => rfl, [], by simp⟩

theorem Dev.sends.trans {a b c : Dev} (hab : a.sends b) (hbc : b.sends c) : a.sends c := by
  obtain ⟨bs, hbs, linkB⟩ := hab.out
  obtain ⟨cs, hcs, linkC⟩ := hbc.out
  exact ⟨by rw [hbc.same, hab.same], fun off h => (hbc.reg off h).trans (hab.reg off h), bs ++ cs, by rw [hcs, hbs, List.append_assoc],
    by rw [List.all_append, linkB, linkC, Bool.and_self]⟩

theorem Dev.sends_foldl {α : Type} (f : Dev → α → Dev) (h : ∀ e x, Dev.sends e (f e x)) (l : List α) (d : Dev) : d.sends (l.foldl f d) :=
  List.foldlRecOn l f d.sends_refl (fun e sofar x _ => sofar.trans (h e x))

theorem Dev.countsOnly.sends {d e : Dev} (h : d.countsOnly e) : d.sends e :=
  ⟨by rw [h.1], h.2, [], by rw [h.1]; simp⟩

theorem Dev.sends_emit (d : Dev) {o : Out} (h : o.onLink = true) : d.sends (d.emit o) := ⟨rfl, fun _ _ => rfl, [o], rfl, by simp [h]⟩

theorem Dev.sends_setLink (d : Dev) (n : Nat) (l : LinkSt) : d.sends (d.setLink n l) := ⟨rfl, fun _ _ => rfl, [], by simp⟩

theorem Dev.sends_cpl (d : Dev) (c : CplSt) : d.sends { d with cpl := c } := ⟨rfl, fun _ _ => rfl, [], by simp⟩

theorem Dev.sends_bwCount (d : Dev) (port : Nat) (isOut : Bool) (n : Nat) : d.sends (d.bwCount port isOut n) :=
  (d.countsOnly_pmu _).sends

theorem Dev.sends_event (d : Dev) {b : Nat} (hb : b < 42) (ev : Nat) (part : Option Nat) (inst n : Nat) : d.sends (d.event b ev part inst n) :=
  (d.countsOnly_event hb ev part inst n).sends

theorem Dev.sends_ite {d a b : Dev} {c : Prop} [Decidable c] (ha : d.sends a) (hb : d.sends b) : d.sends (if c then a else b) := by
  split
  · exact ha
  · exact hb

/-! ### Flits, packets and writes -/

/-- The PMU block of a port's link is one of the 42 (R688). -/
theorem Dev.sends_sendFlit (d : Dev) {port : Nat} (hport : port < 7) : d.sends (d.sendFlit port) := by
  unfold Dev.sendFlit
  dsimp only
  refine Dev.sends_ite d.sends_refl ?_
  split
  · exact d.sends_refl
  · split
    · exact d.sends_refl
    · exact (((d.sends_setLink port _).trans (Dev.sends_emit _ rfl)).trans (Dev.sends_bwCount _ _ _ _)).trans
        (Dev.sends_ite (Dev.sends_event _ (by decide) _ _ _ _) (Dev.sends_event _ (by omega) _ _ _ _))

theorem Dev.sends_transmit (d : Dev) {port : Nat} (hport : port < 7) (vc : Nat) (bytes : List Byte) : d.sends (d.transmit port vc bytes) :=
  (d.sends_setLink port _).trans (Dev.sends_foldl _ (fun e _ => e.sends_sendFlit hport) _ _)

theorem Dev.sends_sendCpl (d : Dev) (p : CplPacket) : d.sends (d.sendCpl p) :=
  (d.sends_emit rfl).trans (Dev.sends_transmit _ (by decide) _ _)

theorem Dev.sends_sendWrite (d : Dev) : d.sends d.sendWrite := by
  unfold Dev.sendWrite
  split
  · exact d.sends_refl
  · exact Dev.sends_ite (((d.sends_cpl _).trans (Dev.sends_cpl _ _)).trans (Dev.sends_sendCpl _ _)) d.sends_refl

theorem Dev.sends_toCompanion (d : Dev) (a : Nat) (bs : List Byte) : d.sends (d.toCompanion a bs) :=
  (d.sends_cpl _).trans (Dev.sends_foldl _ (fun e _ => e.sends_sendWrite) _ _)

/-! ### What stays -/

section
variable {d e : Dev} (h : d.sends e)
include h

theorem Dev.sends.rf {f : Fld} (hf : countReg f.off = false) : e.rf f = d.rf f := by rw [Dev.rf, h.reg _ hf, Dev.rf]
theorem Dev.sends.rb {f : Fld} (hf : countReg f.off = false) : e.rb f = d.rb f := by rw [Dev.rb, h.rf hf, Dev.rb]
theorem Dev.sends.time : e.time = d.time := by rw [h.same]
theorem Dev.sends.ctl : e.ctl = d.ctl := by rw [h.same]
theorem Dev.sends.mem : e.mem = d.mem := by rw [h.same]
theorem Dev.sends.err : e.err = d.err := by rw [h.same]
theorem Dev.sends.col : e.col = d.col := by rw [h.same]
theorem Dev.sends.spl : e.spl = d.spl := by rw [h.same]
theorem Dev.sends.srv : e.srv = d.srv := by rw [h.same]
theorem Dev.sends.fab : e.fab = { d.fab with links := e.fab.links } := by rw [h.same]

end

end Sys2Proof.Machine
end

section
/-!
Proofs, the end of an item (R452, R453, R456): where its final record and the producer word go, and what its end leaves alone; the statement of O33.
-/
namespace Sys2Proof.Machine

theorem length_leBytes (n x : Nat) : (leBytes n x).length = n := by
  induction n generalizing x with
  | zero => rfl
  | succ n ih => rw [leBytes, List.length_cons, ih]

/-- Posting an error record writes ERR_STATUS alone (R576, R579). -/
theorem Dev.reg_postError (d : Dev) (r : ErrRec) {off : Nat} (h : off ≠ Reg.ERR_STATUS) : (d.postError r).reg off = d.reg off := by
  unfold Dev.postError
  extract_lets a _ b
  have status (e : Dev) {f : Fld} (v : Nat) (hf : f.off = Reg.ERR_STATUS) : (e.wf f v).reg off = e.reg off := by
    rw [Dev.reg_wf, if_neg (hf ▸ h)]
  have marked : a.reg off = d.reg off := by
    subst a
    split
    · exact status d _ rfl
    · split
      · exact status d _ rfl
      · rfl
  have counted : b.reg off = a.reg off := by
    subst b
    split <;> rfl
  rw [← marked, ← counted]
  split
  · exact status b _ rfl
  · rfl

theorem Dev.rf_postError (d : Dev) (r : ErrRec) {f : Fld} (h : f.off ≠ Reg.ERR_STATUS) : (d.postError r).rf f = d.rf f := by
  rw [Dev.rf, d.reg_postError r h, Dev.rf]

/-- The registers below the counters of the PMU count no event, but for SPL_EVENTS. -/
theorem countReg_low {off : Nat} (h : off ≠ Reg.SPL_EVENTS) (low : off < 0x1102000) : countReg off = false := by
  have first : Reg.PMU_CNT 0 0 = 0x1102000 := rfl
  rw [← Bool.not_eq_true]
  simp only [countReg, Bool.or_eq_true, Bool.and_eq_true, decide_eq_true_eq]
  omega

/-- The registers of a ring are neither counters of events nor ERR_STATUS. -/
theorem ringReg_plain {n : Nat} (hn : n < 256) {off : Nat} (lo : Reg.QUE_RBASE n ≤ off) (hi : off ≤ Reg.QUE_RSTAT n) :
    countReg off = false ∧ off ≠ Reg.ERR_STATUS := by
  have low : 0xD00000 ≤ off := by dsimp only [Reg.QUE_RBASE] at lo; omega
  have high : off < 0xD08000 := by dsimp only [Reg.QUE_RSTAT] at hi; omega
  exact ⟨countReg_low (by unfold Reg.SPL_EVENTS; omega) (by omega), by unfold Reg.ERR_STATUS; omega⟩

/-! ### The record -/

/-- A final record goes to its slot and the producer word after it, and the ring counts one record more (R453). -/
theorem Dev.writeRecord_eq (d : Dev) {n : Nat} (hn : n < 256) (status progress : Nat) (it : Item) : d.writeRecord n status progress it =
    (((d.toCompanion (d.rf (F.QUE_CBASE_BASE n) * 64 + 32 * ((d.ring n).prod % 2 ^ d.cplLog2 n))
      (completionBytes status it.desc.opcode it.desc.tag it.ring it.part it d.turn progress d.time)).toCompanion
      (d.rf (F.QUE_CPROD_ADDR n) * 8) (leBytes 8 (doorbellWord (((d.ring n).prod + 1) % 2 ^ 32)))).setRing n
      { d.ring n with prod := ((d.ring n).prod + 1) % 2 ^ 32 }).event 41 0x904 (some it.part) it.ring 1 := by
  unfold Dev.writeRecord
  extract_lets r base slot a prod b x
  have first : d.sends a := d.sends_toCompanion _ _
  have addr : a.rf (F.QUE_CPROD_ADDR n) = d.rf (F.QUE_CPROD_ADDR n) :=
    first.rf (ringReg_plain hn (show Reg.QUE_RBASE n ≤ Reg.QUE_CPROD n by unfold Reg.QUE_RBASE Reg.QUE_CPROD; omega)
      (show Reg.QUE_CPROD n ≤ Reg.QUE_RSTAT n by unfold Reg.QUE_CPROD Reg.QUE_RSTAT; omega)).1
  have ring : x = d.ring n := show b.ring n = d.ring n by rw [Dev.ring, (first.trans (a.sends_toCompanion _ _)).ctl, Dev.ring]
  clear_value x
  subst ring
  rw [show b = a.toCompanion (d.rf (F.QUE_CPROD_ADDR n) * 8) _ from congrArg (fun v => a.toCompanion (v * 8) _) addr]

theorem Dev.writeRecord_ring (d : Dev) {n : Nat} (hn : n < 256) (status progress : Nat) (it : Item) (m : Nat) :
    (d.writeRecord n status progress it).ring m = if m = n then { d.ring n with prod := ((d.ring n).prod + 1) % 2 ^ 32 } else d.ring m := by
  rw [d.writeRecord_eq hn, Dev.ring, Dev.event_ctl, ← Dev.ring, Dev.ring_setRing]
  refine if_congr Iff.rfl rfl ?_
  rw [Dev.ring, ((d.sends_toCompanion _ _).trans (Dev.sends_toCompanion _ _ _)).ctl, Dev.ring]

/-! ### The end of an item -/

theorem Dev.item_dropItem_ne (d : Dev) {i id : Nat} (h : i ≠ id) : (d.dropItem id).item i = d.item i := by
  unfold Dev.item Dev.dropItem
  rw [List.find?_filter]
  congr 1
  funext x
  by_cases hx : x.id = i
  · simp [hx, h]
  · simp [hx]

/-- The module with what the end of an item notes before its record is written: a poison record, and the links that name the item (R220, R573). -/
def Dev.endNoted (d : Dev) (it : Item) : Dev := (if it.status = 0x11 then d.poisonRecord it else d).noteLinks it

section
variable (d : Dev) (it : Item)

theorem Dev.endNoted_rf {f : Fld} (h : f.off ≠ Reg.ERR_STATUS) : (d.endNoted it).rf f = d.rf f := by
  unfold Dev.endNoted
  split
  · exact d.rf_postError _ h
  · rfl

@[simp] theorem Dev.poisonRecord_ctl : (d.poisonRecord it).ctl = d.ctl := Dev.postError_ctl ..
@[simp] theorem Dev.poisonRecord_time : (d.poisonRecord it).time = d.time := Dev.postError_time ..
@[simp] theorem Dev.poisonRecord_spl : (d.poisonRecord it).spl = d.spl := Dev.postError_spl ..

@[simp] theorem Dev.endNoted_ctl : (d.endNoted it).ctl = d.ctl := by simp [Dev.endNoted, apply_ite Dev.ctl]
@[simp] theorem Dev.endNoted_time : (d.endNoted it).time = d.time := by simp [Dev.endNoted, apply_ite Dev.time]
@[simp] theorem Dev.endNoted_spl : (d.endNoted it).spl = d.spl := by simp [Dev.endNoted, apply_ite Dev.spl]

@[simp] theorem Dev.endNoted_ring (n : Nat) : (d.endNoted it).ring n = d.ring n := by rw [Dev.ring, d.endNoted_ctl, Dev.ring]

theorem Dev.finishItem_eq : d.finishItem it =
    (((d.endNoted it).writeRecord (ringIndex it.part it.ring) it.status (it.prog - it.short) it).forgetWaiter (.item it.id)).dropItem it.id := rfl

end

/-- Settles O33: `writeRecord_eq`, on the state in which the end of the item has been noted. -/
theorem completionRecord : Obligations.CompletionRecord := by
  unfold Obligations.CompletionRecord
  intro d it hpart hring
  extract_lets n status d0 count word0 record w e
  have hn : n < 256 := by omega
  have kept {f : Fld} (lo : Reg.QUE_RBASE n ≤ f.off) (hi : f.off ≤ Reg.QUE_RSTAT n) : d0.rf f = d.rf f :=
    d.endNoted_rf it (ringReg_plain hn lo hi).2
  have base : d0.rf (F.QUE_CBASE_BASE n) = d.rf (F.QUE_CBASE_BASE n) :=
    kept (show Reg.QUE_RBASE n ≤ Reg.QUE_CBASE n by unfold Reg.QUE_RBASE Reg.QUE_CBASE; omega)
      (show Reg.QUE_CBASE n ≤ Reg.QUE_RSTAT n by unfold Reg.QUE_CBASE Reg.QUE_RSTAT; omega)
  have size : d0.cplLog2 n = d.rf (F.QUE_RCTL_CLOG2SIZE n) :=
    kept (show Reg.QUE_RBASE n ≤ Reg.QUE_RCTL n by unfold Reg.QUE_RBASE Reg.QUE_RCTL; omega)
      (show Reg.QUE_RCTL n ≤ Reg.QUE_RSTAT n by unfold Reg.QUE_RCTL Reg.QUE_RSTAT; omega)
  have addr : d0.rf (F.QUE_CPROD_ADDR n) = d.rf (F.QUE_CPROD_ADDR n) :=
    kept (show Reg.QUE_RBASE n ≤ Reg.QUE_CPROD n by unfold Reg.QUE_RBASE Reg.QUE_CPROD; omega)
      (show Reg.QUE_CPROD n ≤ Reg.QUE_RSTAT n by unfold Reg.QUE_CPROD Reg.QUE_RSTAT; omega)
  have turn : d0.turn = d.rf F.TRN_COUNT_COUNT := d.endNoted_rf it (by decide)
  have ring : d0.ring n = d.ring n := d.endNoted_ring it n
  have time : d0.time = d.time := d.endNoted_time it
  have written := d0.writeRecord_eq hn status (it.prog - it.short) it
  rw [base, size, addr, ring] at written
  have bytes : completionBytes status it.desc.opcode it.desc.tag it.ring it.part it d0.turn (it.prog - it.short) d0.time = record := by
    rw [turn, time]; rfl
  rw [bytes] at written
  obtain ⟨v, hv⟩ : ∃ v, v = d0.writeRecord n status (it.prog - it.short) it := ⟨_, rfl⟩
  have ended : e = (v.forgetWaiter (.item it.id)).dropItem it.id := hv ▸ d.finishItem_eq it
  rw [← hv] at written
  have sent : d0.sends w := (d0.sends_toCompanion _ _).trans (Dev.sends_toCompanion _ _ _)
  have rings (m : Nat) : e.ring m = if m = n then { d.ring n with prod := (count + 1) % 2 ^ 32 } else d.ring m := by
    have same : e.ring m = v.ring m := by rw [ended]; rfl
    rw [same, hv, d0.writeRecord_ring hn, ring, show d0.ring m = d.ring m from d.endNoted_ring it m]
  have items : v.ctl.items = d.ctl.items := by
    rw [written, Dev.event_ctl, Dev.setRing_items, sent.ctl, show d0.ctl = d.ctl from d.endNoted_ctl it]
  have item (id : Nat) : v.item id = d.item id := by rw [Dev.item, items, Dev.item]
  rw [ended] at rings ⊢
  refine ⟨?_, ?_, ?_, ?_, ?_, fun m hm => ?_, ?_, fun id hid => ?_, ?_, ?_⟩
  · simp only [record, List.length_append, length_leBytes]
  · rw [Dev.dropItem_cpl, Dev.forgetWaiter_cpl, written, Dev.event_cpl, Dev.setRing_cpl]
  · rw [Dev.dropItem_out, Dev.forgetWaiter_out, written, Dev.event_out, Dev.setRing_out]
  · rw [Dev.dropItem_fab, Dev.forgetWaiter_fab, written, Dev.event_fab, Dev.setRing_fab]
  · rw [rings, if_pos rfl]
  · rw [rings, if_neg hm]
  · rw [Dev.item_dropItem]
  · rw [Dev.item_dropItem_ne _ hid, ← item id]
    rfl
  · rw [Dev.dropItem_spl, Dev.forgetWaiter_spl, written, Dev.event_spl, Dev.setRing_spl, sent.spl]
    exact d.endNoted_spl it
  · rw [Dev.dropItem_time, Dev.forgetWaiter_time, written, Dev.event_time, Dev.setRing_time, sent.time]
    exact time

end Sys2Proof.Machine
end

section
/-!
Proofs, the words of a ring (R436, R438, R454): a doorbell or consumer word of an active ring; the statement of O34.
-/
namespace Sys2Proof.Machine

/-- `e` is `d` with ring `n` at `x`: no other ring and no item has moved, and no register has changed but the counts of events. -/
structure Dev.turnsRing (d e : Dev) (n : Nat) (x : Ring) : Prop where
  ring : e.ring n = x
  rings : ∀ m, m ≠ n → e.ring m = d.ring m
  items : e.ctl.items = d.ctl.items
  mem : e.mem = d.mem
  spl : e.spl = d.spl
  rf : ∀ f : Fld, countReg f.off = false → e.rf f = d.rf f

/-- What a word of ring `n` leaves: the ring at `x`, no other ring and no item moved, and `k` more in the counter `f`. -/
def Dev.ringJudged (d e : Dev) (n : Nat) (x : Ring) (f : Fld) (k : Nat) : Prop :=
  ((∀ m, m ≠ n → e.ring m = d.ring m) ∧ e.ctl.items = d.ctl.items ∧ e.mem = d.mem ∧ e.spl = d.spl)
    ∧ e.ring n = x ∧ e.rf f = (d.rf f + k) % 2 ^ f.w

section
variable {d e : Dev} {n : Nat} {x : Ring}

theorem Dev.turnsRing_counts (h : d.countsOnly e) (n : Nat) : d.turnsRing e n (d.ring n) := by
  have ctl : e.ctl = d.ctl := by rw [h.1]
  have rings (m : Nat) : e.ring m = d.ring m := by rw [Dev.ring, ctl, Dev.ring]
  exact ⟨rings n, fun m _ => rings m, by rw [ctl], by rw [h.1], h.spl, fun f hf => by rw [Dev.rf, h.2 _ hf, Dev.rf]⟩

theorem Dev.turnsRing.setRing (h : d.turnsRing e n x) (y : Ring) : d.turnsRing (e.setRing n y) n y :=
  ⟨by rw [Dev.ring_setRing, if_pos rfl], fun m hm => by rw [Dev.ring_setRing, if_neg hm, h.rings m hm], h.items, h.mem, h.spl, h.rf⟩

theorem Dev.turnsRing.cpl (h : d.turnsRing e n x) (c : CplSt) : d.turnsRing { e with cpl := c } n x :=
  ⟨h.ring, h.rings, h.items, h.mem, h.spl, h.rf⟩

theorem Dev.turnsRing.pollAgain (h : d.turnsRing e n x) (line : Nat) : d.turnsRing (e.pollAgain line) n x := by
  unfold Dev.pollAgain
  split
  · exact h
  · exact h.cpl _

theorem Dev.turnsRing.pollEnd (h : d.turnsRing e n x) (line : Nat) : d.turnsRing (e.pollEnd line) n x := by
  unfold Dev.pollEnd
  dsimp only
  split
  · exact h
  · exact h.cpl _

theorem Dev.turnsRing.judged (h : d.turnsRing e n x) {f : Fld} (hf : countReg f.off = false) : d.ringJudged e n x f 0 :=
  ⟨⟨h.rings, h.items, h.mem, h.spl⟩, h.ring, by rw [h.rf f hf, Nat.add_zero, Nat.mod_eq_of_lt (d.rf_lt f)]⟩

theorem Dev.turnsRing.counted (h : d.turnsRing e n x) {f : Fld} (hf : countReg f.off = false) (word : f.inWord) : d.ringJudged (e.bump f 1) n x f 1 := by
  have rings (m : Nat) : (e.bump f 1).ring m = e.ring m := by rw [Dev.ring, Dev.bump_ctl, Dev.ring]
  refine ⟨⟨fun m hm => (rings m).trans (h.rings m hm), ?_, ?_, ?_⟩, (rings n).trans h.ring, ?_⟩
  · rw [Dev.bump_ctl, h.items]
  · rw [Dev.bump_mem, h.mem]
  · rw [Dev.bump_spl, h.spl]
  · rw [Dev.rf_bump_one _ word, h.rf f hf]

/-- A failed read marks the ring and is counted, unless the ring was marked already (R436). -/
theorem Dev.turnsRing.failed (h : d.turnsRing e n x) {marked : Bool} {y : Ring} (kept : marked = true → y = x) {f : Fld} (hf : countReg f.off = false)
    (word : f.inWord) (line : Nat) :
    d.ringJudged (if marked then e else ((e.setRing n y).pollAgain line).bump f 1) n y f (if marked then 0 else 1) := by
  cases marked with
  | true => exact kept rfl ▸ h.judged hf
  | false => exact ((h.setRing y).pollAgain line).counted hf word

/-- A good read takes the mark of the ring away (R436). -/
theorem Dev.turnsRing.cleared (h : d.turnsRing e n x) {marked : Bool} {y : Ring} (kept : marked = false → y = x) (line : Nat) :
    d.turnsRing (if marked then (e.setRing n y).pollEnd line else e) n y := by
  cases marked with
  | true => exact (h.setRing y).pollEnd line
  | false => exact kept rfl ▸ h

/-- A word that passes its test moves the ring, any other is counted. -/
theorem Dev.turnsRing.word (h : d.turnsRing e n x) {ok test : Prop} [Decidable test] (same : test ↔ ok) (y : Ring) {f : Fld}
    (hf : countReg f.off = false) (word : f.inWord) :
    (ok → d.ringJudged (if test then e.setRing n y else e.bump f 1) n y f 0) ∧ (¬ok → d.ringJudged (if test then e.setRing n y else e.bump f 1) n x f 1) := by
  refine ⟨fun taken => ?_, fun refused => ?_⟩
  · rw [if_pos (same.mpr taken)]
    exact (h.setRing y).judged hf
  · rw [if_neg (mt same.mp refused)]
    exact h.counted hf word

theorem Dev.turnsRing.ringReg (h : d.turnsRing e n x) (hn : n < 256) {f : Fld} (lo : Reg.QUE_RBASE n ≤ f.off) (hi : f.off ≤ Reg.QUE_RSTAT n) :
    e.rf f = d.rf f := h.rf f (ringReg_plain hn lo hi).1

theorem Dev.turnsRing.pendingOf (h : d.turnsRing e n x) (hn : n < 256) (t : Nat) : e.pendingOf n t = d.pendingOf n t := by
  unfold Dev.pendingOf
  rw [h.ringReg hn (show Reg.QUE_RBASE n ≤ Reg.QUE_RSTAT n by unfold Reg.QUE_RBASE Reg.QUE_RSTAT; omega) le_rfl]

theorem Dev.turnsRing.ringLog2 (h : d.turnsRing e n x) (hn : n < 256) : e.ringLog2 n = d.ringLog2 n :=
  h.ringReg hn (show Reg.QUE_RBASE n ≤ Reg.QUE_RCTL n by unfold Reg.QUE_RBASE Reg.QUE_RCTL; omega)
    (show Reg.QUE_RCTL n ≤ Reg.QUE_RSTAT n by unfold Reg.QUE_RCTL Reg.QUE_RSTAT; omega)

end

/-! ### One word -/

/-- A word of a ring whose halves are complements (R436). -/
theorem doorbellOk_iff (w : Nat) : doorbellOk w = true ↔ w / 2 ^ 32 % 2 ^ 32 + w % 2 ^ 32 = 2 ^ 32 - 1 := by
  unfold doorbellOk
  rw [decide_eq_true_eq]
  omega

theorem Ring.badDb_self {x : Ring} {b : Bool} (h : x.badDb = b) : { x with badDb := b } = x := by rw [← h]

theorem Ring.badCons_self {x : Ring} {b : Bool} (h : x.badCons = b) : { x with badCons := b } = x := by rw [← h]

theorem inWord_badDb {n : Nat} : (F.QUE_RSTAT_BAD_DB n).inWord := show 48 + 16 ≤ 64 by decide

theorem countReg_badConsumer : countReg F.QUE_EVENTS_BAD_CONSUMER.off = false := by decide

section
variable (d : Dev) {p r : Nat} (hp : p < 4) (hr : r < 64)
include hp hr

omit d in
theorem countReg_badDb : countReg (F.QUE_RSTAT_BAD_DB (ringIndex p r)).off = false :=
  (ringReg_plain (by unfold ringIndex; omega) (show Reg.QUE_RBASE _ ≤ Reg.QUE_RSTAT _ by unfold Reg.QUE_RBASE Reg.QUE_RSTAT; omega) le_rfl).1

variable (active : d.rb (F.QUE_RSTAT_ACTIVE (ringIndex p r)) = true)
include active

theorem Dev.ringWord_active : ¬(4 ≤ p ∨ 64 ≤ r ∨ (!d.rb (F.QUE_RSTAT_ACTIVE (ringIndex p r))) = true) := by
  rw [active]
  simp
  omega

omit hp hr active in
theorem Dev.turnsRing_word (p r : Nat) : d.turnsRing (d.event 41 0x903 (some p) r 1) (ringIndex p r) (d.ring (ringIndex p r)) :=
  Dev.turnsRing_counts (d.countsOnly_event (by decide) _ _ _ _) _

theorem Dev.doorbell_failed (word : Nat) :
    let x := d.ring (ringIndex p r)
    d.ringJudged (cmdDoorbell p r 0 word true d) (ringIndex p r) { x with badDb := true } (F.QUE_RSTAT_BAD_DB (ringIndex p r)) (if x.badDb then 0 else 1) := by
  have counted := d.turnsRing_word p r
  unfold cmdDoorbell
  rw [if_neg (by decide), if_neg (d.ringWord_active hp hr active)]
  generalize d.event 41 0x903 (some p) r 1 = e at counted
  have ring := counted.ring
  simp only [if_pos, ring]
  exact counted.failed Ring.badDb_self (countReg_badDb hp hr) inWord_badDb _

theorem Dev.consumer_failed (word : Nat) :
    let x := d.ring (ringIndex p r)
    d.ringJudged (cmdDoorbell p r 1 word true d) (ringIndex p r) { x with badCons := true } F.QUE_EVENTS_BAD_CONSUMER (if x.badCons then 0 else 1) := by
  have counted := d.turnsRing_word p r
  unfold cmdDoorbell
  rw [if_neg (by decide), if_neg (d.ringWord_active hp hr active)]
  generalize d.event 41 0x903 (some p) r 1 = e at counted
  have ring := counted.ring
  simp only [if_pos, ring]
  exact counted.failed Ring.badCons_self countReg_badConsumer (by decide) _

/-- A doorbell within the ring is taken, any other is counted (R436, R438). -/
theorem Dev.doorbell_judged (word : Nat) :
    let n := ringIndex p r
    let x := d.ring n
    let c := word % 2 ^ 32
    let ok := word / 2 ^ 32 % 2 ^ 32 + c = 2 ^ 32 - 1 ∧ d.pendingOf n c ≤ 2 ^ d.ringLog2 n ∧ d.pendingOf n x.tail ≤ d.pendingOf n c
    (ok → d.ringJudged (cmdDoorbell p r 0 word false d) n { x with badDb := false, tail := c } (F.QUE_RSTAT_BAD_DB n) 0)
      ∧ (¬ok → d.ringJudged (cmdDoorbell p r 0 word false d) n { x with badDb := false } (F.QUE_RSTAT_BAD_DB n) 1) := by
  intro n x c ok
  have hn : n < 256 := by unfold n ringIndex; omega
  have counted := d.turnsRing_word p r
  unfold cmdDoorbell
  rw [if_neg (by decide), if_neg (d.ringWord_active hp hr active)]
  generalize d.event 41 0x903 (some p) r 1 = e at counted
  have ring : e.ring n = x := counted.ring
  have cleared := counted.cleared (marked := x.badDb) Ring.badDb_self (e.dbLine n)
  dsimp only
  rw [if_pos rfl, if_neg (by decide), ring]
  refine cleared.word ?_ _ (countReg_badDb hp hr) inWord_badDb
  rw [cleared.pendingOf hn, cleared.pendingOf hn, cleared.ringLog2 hn, doorbellOk_iff]

/-- A consumer count within the records written is taken, any other is counted (R454). -/
theorem Dev.consumer_judged (word : Nat) :
    let n := ringIndex p r
    let x := d.ring n
    let c := word % 2 ^ 32
    let ok := word / 2 ^ 32 % 2 ^ 32 + c = 2 ^ 32 - 1 ∧ (c + 2 ^ 32 - x.cons) % 2 ^ 32 ≤ x.unconsumed
    (ok → d.ringJudged (cmdDoorbell p r 1 word false d) n { x with badCons := false, cons := c } F.QUE_EVENTS_BAD_CONSUMER 0)
      ∧ (¬ok → d.ringJudged (cmdDoorbell p r 1 word false d) n { x with badCons := false } F.QUE_EVENTS_BAD_CONSUMER 1) := by
  intro n x c ok
  have counted := d.turnsRing_word p r
  unfold cmdDoorbell
  rw [if_neg (by decide), if_neg (d.ringWord_active hp hr active)]
  generalize d.event 41 0x903 (some p) r 1 = e at counted
  have ring : e.ring n = x := counted.ring
  have cleared := counted.cleared (marked := x.badCons) Ring.badCons_self (e.consLine n)
  dsimp only
  rw [if_neg (by decide), if_neg (by decide), ring]
  refine cleared.word ?_ _ countReg_badConsumer (by decide)
  rw [doorbellOk_iff]
  rfl

end

/-- What both of two cases say holds in any case. -/
theorem and_of_either {ok a b c : Prop} (h : (ok → a ∧ b) ∧ (¬ok → a ∧ c)) : a ∧ (ok → b) ∧ (¬ok → c) := by
  obtain ⟨taken, refused⟩ := h
  exact ⟨(em ok).elim (fun x => (taken x).1) (fun x => (refused x).1), fun x => (taken x).2, fun x => (refused x).2⟩

/-- Settles O34: the four words of a ring, each by the module that has judged it. -/
theorem ringWords : Obligations.RingWords := by
  unfold Obligations.RingWords
  intro s p r word hrun hp hr active
  have ran (which : Nat) (bad : Bool) : exec (.doorbell p r which word bad) s = .next (s.after (cmdDoorbell p r which word bad s.dev)) := onDev_running hrun
  refine ⟨⟨_, ran 0 false, ?_⟩, ⟨_, ran 1 false, ?_⟩, ⟨_, ran 0 true, ?_⟩, ⟨_, ran 1 true, ?_⟩⟩
  · exact and_of_either (s.dev.doorbell_judged hp hr active word)
  · exact and_of_either (s.dev.consumer_judged hp hr active word)
  · exact s.dev.doorbell_failed hp hr active word
  · exact s.dev.consumer_failed hp hr active word

end Sys2Proof.Machine
end

section
/-!
Proofs, descriptors and deferred entries (R440 to R451): what a descriptor's arrival leaves in its ring, and a pool entry that enters its engine queue;
the statement of O35.
-/
namespace Sys2Proof.Machine

section
variable (d : Dev) (n : Nat) (f : Fetched)

/-- The module after ring `n` has taken one more fetched descriptor (R443). -/
def Dev.fetchedMore : Dev :=
  let e := d.sweep (fetchUnit n)
  e.setRing n { e.ring n with fetched := (e.ring n).fetched ++ [f] }

theorem Dev.fetchedMore_spec (b : Dev) (rings : d.ctl.rings = b.ctl.rings) (items : d.ctl.items = b.ctl.items) (mem : d.mem = b.mem) (spl : d.spl = b.spl) :
    let e := d.fetchedMore n f
    e.ring n = { b.ring n with fetched := (b.ring n).fetched ++ [f] } ∧ (∀ m, m ≠ n → e.ring m = b.ring m) ∧ e.ctl.items = b.ctl.items
      ∧ e.mem = b.mem ∧ e.spl = b.spl := by
  have ring (m : Nat) : (d.sweep (fetchUnit n)).ring m = b.ring m := by rw [Dev.ring, Dev.sweep_ctl, rings, Dev.ring]
  refine ⟨?_, fun m hm => ?_, items, mem, spl⟩
  · rw [Dev.fetchedMore, Dev.ring_setRing, if_pos rfl, ring]
  · rw [Dev.fetchedMore, Dev.ring_setRing, if_neg hm, ring]

end

/-- What ring `n` takes of descriptor `c`, number `seq`, once its checks have been made: they have waited for a table, failed, found poison, or passed
(R442, R443). -/
def fetchJudged (n seq : Nat) (c : Desc) : Dev × Check × List Nat → Dev
  | (d, .wait, _) => d
  | (d, .fail, _) => d.fetchedMore n { seq := seq % 2 ^ 32, desc := c, bad := some 0x03, ext := [] }
  | (d, .poison _, _) => d.fetchedMore n { seq := seq % 2 ^ 32, desc := c, bad := some 0x11, ext := [] }
  | (d, .pass, ext) => (d.clamped (descClampCount c)).fetchedMore n { seq := seq % 2 ^ 32, desc := c, bad := none, ext := ext }

section
variable (d : Dev) {p r : Nat} (hp : p < 4) (hr : r < 64) (active : d.rb (F.QUE_RSTAT_ACTIVE (ringIndex p r)) = true) (c : Desc)
include hp hr active

/-- A descriptor that the ring has asked for joins it as its fetch and its checks judge it (R441 to R443). -/
theorem Dev.descriptorFetch_asked (room : (d.ring (ringIndex p r)).fetched.length < 32)
    (ahead : (d.ring (ringIndex p r)).fetched.length < d.pendingOf (ringIndex p r) (d.ring (ringIndex p r)).tail) (bad : Bool) :
    let n := ringIndex p r
    cmdDescriptorFetch p r c bad d = fetchJudged n (d.rf (F.QUE_RSTAT_HEAD n) + (d.ring n).fetched.length) c
      (if bad then (d, .poison 0, []) else d.checkDesc p n c (d.ring n).fetched.getLast?) := by
  have asked : ¬(4 ≤ p ∨ 64 ≤ r ∨ (!d.rb (F.QUE_RSTAT_ACTIVE (ringIndex p r))) = true ∨ 32 ≤ (d.ring (ringIndex p r)).fetched.length
      ∨ d.pendingOf (ringIndex p r) (d.ring (ringIndex p r)).tail ≤ (d.ring (ringIndex p r)).fetched.length) := by
    rw [active]
    simp
    omega
  unfold cmdDescriptorFetch
  dsimp only
  rw [if_neg asked]
  cases bad <;> rfl

end

theorem Dev.checkDesc_header (d : Dev) (p n : Nat) {c : Desc} (prev : Option Fetched)
    (h : c.w7 ≠ ~~~c.w0 ∨ classAccepts (d.rf (F.QUE_RCTL_CLASS n)) (engineOf c.opcode) = false) : d.checkDesc p n c prev = (d, .fail, []) := by
  unfold Dev.checkDesc
  refine if_pos ?_
  rw [Bool.or_eq_true, Bool.not_eq_true', Bool.not_eq_true', Desc.headerOk, decide_eq_false_iff_not]
  exact h

/-- An engine queue holds nothing when no item of the partition holds a place in it (R447). -/
theorem Dev.queueUsed_eq_zero (d : Dev) (p : Nat) (e : Engine) : d.queueUsed p e = 0 ↔
    d.ctl.items.any (fun y => decide (y.part = p) && decide (y.engine = e)
      && (if e = .sluice then decide (y.place = .queued) else y.place.inQueue && (decide (e ≠ .launch) || !launchDispatched y))) = false := by
  unfold Dev.queueUsed Dev.queueOf
  rw [List.length_eq_zero_iff, List.filter_filter, List.filter_eq_nil_iff, List.any_eq_false]
  refine forall₂_congr fun y _ => not_congr (iff_of_eq (congrArg (· = true) ?_))
  by_cases sluice : e = .sluice
  · simp [sluice]
  · simp [sluice, Bool.and_comm, Bool.and_left_comm]

section
variable (d : Dev) (p : Nat)

/-- A pool entry that may enter its engine queue, which is empty (R449, R450). -/
def Dev.mayEnter (it : Item) : Bool :=
  decide (it.part = p) && decide (it.place = .pool) && !(d.ring (ringIndex p it.ring)).held && d.engineOpen p it.engine
    && decide (d.queueUsed p it.engine = 0)

theorem Dev.mayEnter_eq (x : Item) : d.mayEnter p x =
    (decide (x.part = p) && decide (x.place = .pool) && !(d.ring (64 * x.part + x.ring)).held && d.engineOpen p x.engine
      && !d.ctl.items.any (fun y => decide (y.part = p) && decide (y.engine = x.engine)
        && (if x.engine = .sluice then decide (y.place = .queued) else y.place.inQueue && (decide (x.engine ≠ .launch) || !launchDispatched y)))) := by
  have empty := d.queueUsed_eq_zero p x.engine
  rw [← Bool.not_eq_true', ← decide_eq_true_iff (p := d.queueUsed p x.engine = 0), ← Bool.eq_iff_iff] at empty
  unfold Dev.mayEnter
  rw [empty]
  by_cases own : x.part = p
  · rw [own, ringIndex]
  · simp [own]

/-- The control plane once the pool entry `it` has entered its engine queue (R450, R451). -/
def Dev.entered (it : Item) : Dev :=
  let apart := (d.queueOf p it.engine (· = .saved)).map (·.id)
  { d with ctl := { d.ctl with items := d.ctl.items.filter (fun x => decide (x.id ≠ it.id)) ++ [{ it with place := .queued, apart := apart }] } }

/-- The pool entry that enters is the oldest that may (R449, R450). -/
theorem Dev.deferredEntry_eq (admits : d.partAdmits p = true) {it : Item} (oldest : d.ctl.items.find? (d.mayEnter p) = some it) :
    cmdDeferredEntry p d = (d.entered p it).event 41 0x902 (some p) it.ring 1 := by
  unfold cmdDeferredEntry
  rw [if_neg (by rw [admits]; decide)]
  change (match d.ctl.items.find? (d.mayEnter p) with | some it => (d.entered p it).event 41 0x902 (some p) it.ring 1 | none => d) = _
  rw [oldest]

end

/-- Settles O35: the ring takes the descriptor as its checks judge it; the oldest pool entry that may enter its queue becomes the last. -/
theorem descriptorFetches : Obligations.DescriptorFetches := by
  unfold Obligations.DescriptorFetches
  refine ⟨fun s p r c hrun hp hr active => ?_, fun s p it hrun admits oldest => ?_⟩
  · intro n x k room ahead joined
    have asked (bad : Bool) := s.dev.descriptorFetch_asked hp hr active c room ahead bad
    have ran {bad : Bool} {e : Dev} (h : cmdDescriptorFetch p r c bad s.dev = e) : exec (.descriptorFetch p r c bad) s = .next (s.after e) :=
      onDev_of_eq hrun h
    have judged {e : Dev × Check × List Nat} (h : s.dev.checkDesc p n c x.fetched.getLast? = e) :
        exec (.descriptorFetch p r c false) s = .next (s.after (fetchJudged n (s.dev.rf (F.QUE_RSTAT_HEAD n) + k) c e)) :=
      ran ((asked false).trans (congrArg _ h))
    refine ⟨⟨_, ran (asked true), Dev.fetchedMore_spec _ _ _ s.dev rfl rfl rfl rfl⟩, fun bad => ?_, fun d' ext pass => ?_, fun d' ext fail => ?_,
      fun d' a ext poison => ?_⟩
    · exact ⟨_, judged (s.dev.checkDesc_header _ _ _ bad), Dev.fetchedMore_spec _ _ _ s.dev rfl rfl rfl rfl⟩
    · exact ⟨_, judged pass, Dev.fetchedMore_spec _ _ _ d' (by rw [Dev.clamped_ctl]) (by rw [Dev.clamped_ctl]) (Dev.clamped_mem _ _) (Dev.clamped_spl _ _)⟩
    · exact ⟨_, judged fail, Dev.fetchedMore_spec _ _ _ d' rfl rfl rfl rfl⟩
    · exact ⟨_, judged poison, Dev.fetchedMore_spec _ _ _ d' rfl rfl rfl rfl⟩
  · intro apart
    simp only [← s.dev.mayEnter_eq p] at oldest
    have counts := (s.dev.entered p it).countsOnly_event (b := 41) (by decide) 0x902 (some p) it.ring 1
    refine ⟨_, onDev_of_eq hrun (s.dev.deferredEntry_eq p admits oldest), ?_, counts.spl, Dev.event_ctl ..⟩
    rw [Dev.event_ctl]
    exact counts.sameElsewhere

end Sys2Proof.Machine
end

section
/-!
Proofs, a sample in a register file out of canonical form (R688, R701): a channel list names channel 62,912, whose counter 8 would stand where
PMU_SAMP_STAT stands, and the register file lists that counter's selection 32,770 times; the refutation of O60.
-/
namespace Sys2Proof.Machine

/-! ### One event, counted once for every entry of its selection -/

/-- Adding `n` times 1 to a counter. -/
def Dev.countTimes (d : Dev) (c : Fld) : Nat → Dev
  | 0 => d
  | n + 1 => (d.wf c (d.rf c + 1)).countTimes c n

theorem Dev.countTimes_rf {c : Fld} (word : c.inWord) (d : Dev) {n : Nat} (h : d.rf c + n < 2 ^ c.w) : (d.countTimes c n).rf c = d.rf c + n := by
  induction n generalizing d with
  | zero => rfl
  | succ n ih =>
    have one : (d.wf c (d.rf c + 1)).rf c = d.rf c + 1 := by rw [d.rf_wf_same _ word, Nat.mod_eq_of_lt (by omega)]
    rw [Dev.countTimes, ih _ (by rw [one]; omega), one]
    omega

theorem Dev.countTimes_mem (d : Dev) (c : Fld) (n : Nat) : (d.countTimes c n).mem = d.mem := by
  induction n generalizing d with
  | zero => rfl
  | succ n ih => exact ih _

theorem Dev.countTimes_reg (d : Dev) {c : Fld} (n : Nat) {off : Nat} (h : off ≠ c.off) : (d.countTimes c n).reg off = d.reg off := by
  induction n generalizing d with
  | zero => rfl
  | succ n ih => rw [Dev.countTimes, ih, Dev.reg_wf, if_neg h]

/-- Selection of event 0x501, of no partition. -/
def missSel : Word := BitVec.ofNat 64 (0x501 + 2 ^ 16 + 2 ^ 25)

/-- A miss counts once for each entry of its selection. -/
theorem Dev.event_miss (d : Dev) {n b k : Nat} (hb : 42 ≤ b) (h : d.pmuSelected b = List.replicate n (k, missSel))
    (small : d.rf (F.PMU_CNT_COUNT b k) + n < 2 ^ 48) : d.event b 0x501 none 0 1 = d.countTimes (F.PMU_CNT_COUNT b k) n := by
  unfold Dev.event
  rw [if_neg (by decide), h]
  clear h
  induction n generalizing d with
  | zero => rfl
  | succ n ih =>
    have unfiltered : (decide (8 ≤ b) && decide (b < 34) && decide (b ≠ 25) || decide (b = 41)) = false := by
      rw [Bool.or_eq_false_iff, Bool.and_eq_false_iff, Bool.and_eq_false_iff]
      exact ⟨.inl (.inr (decide_eq_false (by omega))), decide_eq_false (by omega)⟩
    have one : (d.wf (F.PMU_CNT_COUNT b k) (d.rf (F.PMU_CNT_COUNT b k) + 1)).rf (F.PMU_CNT_COUNT b k) = d.rf (F.PMU_CNT_COUNT b k) + 1 := by
      rw [d.rf_wf_same _ (show 0 + 48 ≤ 64 by decide)]
      exact Nat.mod_eq_of_lt (show _ < 2 ^ 48 by omega)
    rw [List.replicate_succ, List.foldl_cons, Dev.countTimes, ← ih _ (by rw [one]; omega)]
    congr 1
    simp only [unfiltered, Dev.pmuAdd]
    rw [if_pos (by decide), if_neg (by omega), if_neg (by omega)]

/-- A sample whose record is written, and not the buffer's last (R701, R702). -/
theorem Dev.sample_written {d e : Dev} {x : Sample} {rest : List Sample} {base i : Nat} (listed : d.pmu.samples = x :: rest)
    (taken : { d with pmu := { d.pmu with samples := rest } } = e) (start : e.rf (F.PMU_SAMP_BASE_BASE x.part) = base)
    (index : e.rf (F.PMU_SAMP_STAT_INDEX x.part) = i) (inside : e.outsideRegion x.part (base * 2 ^ 20) (2 ^ 20) = false)
    (room : e.rb (F.PMU_SAMP_STAT_FULL x.part) = false) (early : i + 1 < 32768) :
    cmdSample false d = (e.physWords x.part (base * 2 ^ 20 + 32 * i) (e.sampleWords x)).tick.wf (F.PMU_SAMP_STAT_INDEX x.part) (i + 1) := by
  subst start index
  unfold cmdSample
  rw [listed]
  dsimp only
  rw [taken, if_neg (by rw [inside]; exact Bool.false_ne_true), if_neg (by rw [room]; decide), if_pos early]

/-! ### The state -/

/-- A sample of partition 0. -/
def firstSample : Sample :=
  { part := 0, spool := 0, slot := 0, pc := 0, event := 0, daddr := 0, sp := false, noReg := false, lane := 0, tag := 0, ring := 0 }

/-- The memory as after reset but for partition 0's channel list. -/
def sampledMem : MemSt := { MemSt.reset with chanLists := [[62912], [], [], []] }

/-- Record 32,766 of partition 0's samples is next. -/
def missSampled (n : Nat) : Dev :=
  { regs := (Reg.PMU_SAMP_STAT 0, 32766) :: List.replicate n (Reg.PMU_SEL 1992 8, missSel),
    mem := sampledMem, pmu := { samples := [firstSample] } }

theorem missSampled_reg (n : Nat) {off : Nat} (stat : off ≠ Reg.PMU_SAMP_STAT 0) (sel : off ≠ Reg.PMU_SEL 1992 8) :
    (missSampled n).reg off = regReset off := by
  have listed : SMap.get regReset (List.replicate n (Reg.PMU_SEL 1992 8, missSel)) off = regReset off := by
    induction n with
    | zero => rfl
    | succ n ih => rw [List.replicate_succ, SMap.get, if_neg sel, ih]
  change SMap.get regReset (_ :: _) off = _
  rw [SMap.get, if_neg stat, listed]

theorem missSampled_selected (n : Nat) : (missSampled n).pmuSelected 1992 = List.replicate n (8, missSel) := by
  change ((_ :: _ : SMap Word).filter _).map _ = _
  rw [List.filter_cons_of_neg (by decide), List.filter_replicate_of_pos (by decide), List.map_replicate]
  rfl

theorem missSampled_alive (n : Nat) : (missSampled n).chanDead 62912 = false := by
  have zero {f : Fld} (stat : f.off ≠ Reg.PMU_SAMP_STAT 0) (sel : f.off ≠ Reg.PMU_SEL 1992 8) (reset : regReset f.off = 0) : (missSampled n).rf f = 0 := by
    rw [Dev.rf, missSampled_reg n stat sel, reset, bitsAt]; simp
  unfold Dev.chanDead Dev.rb
  rw [zero (by decide) (by decide) (by decide), zero (by decide) (by decide) (by decide), zero (by decide) (by decide) (by decide)]
  rfl

/-! ### A write to an absent line -/

/-- The module with other lines in its slices. -/
def Dev.relined (d : Dev) (ls : SMap (Option Line)) : Dev := { d with mem := { d.mem with lines := ls } }

section
variable (d : Dev) (k : Nat)

theorem Dev.setLine_relined (l : Option Line) : ∃ ls, d.setLine k l = d.relined ls := ⟨_, rfl⟩

theorem Dev.setAge_relined (a : Nat) : ∃ ls, d.setAge k a = d.relined ls := by
  unfold Dev.setAge
  split
  · exact ⟨d.mem.lines, rfl⟩
  · exact ⟨_, rfl⟩

/-- A touch without a hint changes the lines of the Granary alone (R327). -/
theorem Dev.touch_relined (alloc : Bool) : ∃ ls, d.touch k 0 alloc = d.relined ls := by
  obtain ⟨ls, aged⟩ := d.setAge_relined k 0
  unfold Dev.touch
  simp only [aged]
  split
  · split
    · exact ⟨_, rfl⟩
    · exact ⟨ls, rfl⟩
  · exact ⟨ls, rfl⟩

theorem Dev.install_relined (l : Line) : ∃ ls, d.install k l 0 = d.relined ls := by
  obtain ⟨ls, set⟩ := d.setLine_relined k (some { l with age := min 15 (d.waysOf (keySet k)).length })
  obtain ⟨ks, touched⟩ := (d.relined ls).touch_relined k true
  exact ⟨ks, by rw [Dev.install, set, touched]; rfl⟩

theorem Dev.foldWrite_off (off : d.rb F.TST_DIG_CTL_ENABLE = false) (bs : List (Nat × MByte)) : d.foldWrite k bs = d :=
  if_neg (by rw [off]; exact Bool.false_ne_true)

end

/-- A write to an absent line of an empty slice: beside the lines, it counts the miss (R326, R329). -/
theorem Dev.lineWrite_fresh {d : Dev} {k : Nat} (bs : List (Nat × MByte)) (alive : d.chanDead (keySlice k) = false) (trained : d.mem.retraining = [])
    (calm : d.mem.refetches = []) (idle : d.mem.wbs = []) (empty : d.mem.lines = [])
    (plain : (d.event (chanBlock (keySlice k)) 0x501 none (keySlice k % 32) 1).rb F.TST_DIG_CTL_ENABLE = false) :
    ∃ ls, (d.lineWrite none k 0 bs).1 = (d.event (chanBlock (keySlice k)) 0x501 none (keySlice k % 32) 1).relined ls := by
  have settled : d.settle k = d := by
    unfold Dev.settle Dev.wbDone
    have noWb : d.wbOf k = none := by rw [Dev.wbOf, idle]; rfl
    have noWay : d.waysOf (keySet k) = [] := by rw [Dev.waysOf, empty]; rfl
    rw [noWb]
    simp only [noWay, List.filter_nil, List.foldl_nil]
  have room : (d.event (chanBlock (keySlice k)) 0x501 none (keySlice k % 32) 1).makeRoom k =
      some (d.event (chanBlock (keySlice k)) 0x501 none (keySlice k % 32) 1) := by
    have free : (d.event (chanBlock (keySlice k)) 0x501 none (keySlice k % 32) 1).victim k = none := by
      unfold Dev.victim Dev.waysOf
      rw [Dev.event_mem, empty]
      rfl
    unfold Dev.makeRoom
    rw [free]
  have served := Dev.serve_absent_write (q := { id := 0, part := none, op := .write bs, hint := 0, own := true }) alive (by rw [calm]; rfl)
    (by rw [Dev.wbOf, idle]; rfl) room (by rw [Dev.line, empty]; rfl) rfl
  unfold Dev.lineWrite Dev.engineServe
  rw [if_neg (by rw [trained]; exact Bool.false_ne_true), settled, served]
  obtain ⟨ls, installed⟩ := Dev.install_relined (d.event (chanBlock (keySlice k)) 0x501 none (keySlice k % 32) 1) k (Line.fresh bs)
  rw [installed, ((d.event (chanBlock (keySlice k)) 0x501 none (keySlice k % 32) 1).relined ls).foldWrite_off k plain]
  exact ⟨ls, rfl⟩

/-- The module while the sample is written: it is no longer listed. -/
def missTaken (n : Nat) : Dev := { missSampled n with pmu := {} }

section
variable {n : Nat} (small : n < 2 ^ 40)
include small

/-- Every entry of the selection has counted the miss, in the register that the counter shares with PMU_SAMP_STAT. -/
theorem missTaken_event : (missTaken n).event 1992 0x501 none 0 1 = (missTaken n).countTimes (F.PMU_CNT_COUNT 1992 8) n := by
  refine Dev.event_miss _ (by decide) (missSampled_selected n) ?_
  have first : (missTaken n).rf (F.PMU_CNT_COUNT 1992 8) = 32766 := by rfl
  omega

/-- The record's line is written (R701). -/
theorem missTaken_written : ∃ ls, (missTaken n).physWords 0 (32 * 32766) ((missTaken n).sampleWords firstSample) =
    ((missTaken n).countTimes (F.PMU_CNT_COUNT 1992 8) n).relined ls := by
  obtain ⟨bs, line⟩ : ∃ bs, (missTaken n).physWords 0 (32 * 32766) ((missTaken n).sampleWords firstSample) =
      ((missTaken n).lineWrite none (lineKey 62912 8183) 0 bs).1 := by
    have part : linesOf (32 * 32766) (8 * ((missTaken n).sampleWords firstSample).length) = [(32 * 32766, 32)] := by rfl
    have channel : (missTaken n).channelOf (.part 0) (32 * 32766) = some (62912, 1047488) :=
      (show (missTaken n).channelOf (.part 0) (32 * 32766) = ({ mem := sampledMem } : Dev).channelOf (.part 0) (32 * 32766) from rfl).trans (by decide)
    rw [Dev.physWords, part, Dev.physParts, Dev.physParts, Dev.physLine, channel]
    exact ⟨_, rfl⟩
  have slice : keySlice (lineKey 62912 8183) = 62912 := by decide
  have plain : ((missTaken n).countTimes (F.PMU_CNT_COUNT 1992 8) n).rb F.TST_DIG_CTL_ENABLE = false := by
    rw [Dev.rb, Dev.rf, Dev.countTimes_reg _ _ (by decide)]
    change decide (bitsAt ((missSampled n).reg F.TST_DIG_CTL_ENABLE.off).toNat F.TST_DIG_CTL_ENABLE.lo F.TST_DIG_CTL_ENABLE.w = 1) = false
    rw [missSampled_reg n (by decide) (by decide)]
    decide
  obtain ⟨ls, written⟩ := (missTaken n).lineWrite_fresh (k := lineKey 62912 8183) bs (by rw [slice]; exact missSampled_alive n) rfl rfl rfl rfl
    (by rw [slice]; exact (congrArg (·.rb F.TST_DIG_CTL_ENABLE) (missTaken_event small)).trans plain)
  rw [slice] at written
  exact ⟨ls, by rw [line, written, ← missTaken_event small]; rfl⟩

theorem missTaken_due {a : Nat} (h : a = 32 * 32766) : ((missTaken n).physWords 0 a ((missTaken n).sampleWords firstSample)).mem.fenceDue = [] := by
  obtain ⟨ls, written⟩ := missTaken_written small
  rw [h, written]
  exact congrArg MemSt.fenceDue ((missTaken n).countTimes_mem (F.PMU_CNT_COUNT 1992 8) n)

end

theorem missSampled_base (n : Nat) : (missSampled n).rf (F.PMU_SAMP_BASE_BASE 0) = 0 := by
  rw [Dev.rf, missSampled_reg _ (by decide) (by decide)]
  decide

/-- The sampling buffer lies in the partition's region. -/
theorem missSampled_inside (n : Nat) :
    decide ((missSampled n).regionSize (.part 0) < (missSampled n).rf (F.PMU_SAMP_BASE_BASE 0) * 2 ^ 20 + 2 ^ 20) = false := by
  have size : (missSampled n).regionSize (.part 0) = ({ mem := sampledMem } : Dev).regionSize (.part 0) := rfl
  rw [missSampled_base, size]
  decide

theorem missSampled_index (n : Nat) : (missSampled n).rf (F.PMU_SAMP_STAT_INDEX 0) = 32766 := rfl

theorem missSampled_place (n : Nat) :
    (missSampled n).rf (F.PMU_SAMP_BASE_BASE 0) * 2 ^ 20 + 32 * (missSampled n).rf (F.PMU_SAMP_STAT_INDEX 0) = 32 * 32766 := by
  rw [missSampled_base, missSampled_index, Nat.zero_mul, Nat.zero_add]

theorem missSampled_room (n : Nat) : (missSampled n).rb (F.PMU_SAMP_STAT_FULL 0) = false := by
  have stat : (missSampled n).reg (Reg.PMU_SAMP_STAT 0) = 32766 := rfl
  change decide (bitsAt ((missSampled n).reg (Reg.PMU_SAMP_STAT 0)).toNat 16 1 = 1) = false
  rw [stat]
  decide

/-- What the command leaves: the record written, the misses counted, the index moved (R701, R702). -/
theorem missSampled_left {n : Nat} (small : n < 2 ^ 40) : ∃ ls, cmdSample false (missSampled n) =
    (((missTaken n).countTimes (F.PMU_CNT_COUNT 1992 8) n).relined ls).tick.wf (F.PMU_SAMP_STAT_INDEX 0) 32767 := by
  obtain ⟨ls, written⟩ := missTaken_written small
  have inside : (missTaken n).outsideRegion 0 (0 * 2 ^ 20) (2 ^ 20) = false := by
    have region := missSampled_inside n
    rw [missSampled_base] at region
    exact region
  have left := Dev.sample_written (d := missSampled n) (e := missTaken n) (x := firstSample) (rest := []) (i := 32766) rfl rfl (missSampled_base n) rfl
    inside (missSampled_room n) (by decide)
  exact ⟨ls, left.trans (congrArg (fun e => e.tick.wf (F.PMU_SAMP_STAT_INDEX 0) 32767) written)⟩

/-- 32,770 misses on an index of 32,766 carry into bit 16, which is FULL. -/
theorem missSampled_full {n : Nat} (entries : n = 32770) (ls : SMap (Option Line)) :
    ((((missTaken n).countTimes (F.PMU_CNT_COUNT 1992 8) n).relined ls).tick.wf (F.PMU_SAMP_STAT_INDEX 0) 32767).rb (F.PMU_SAMP_STAT_FULL 0) = true := by
  have first : (missTaken n).rf (F.PMU_CNT_COUNT 1992 8) = 32766 := rfl
  have counted : ((missTaken n).countTimes (F.PMU_CNT_COUNT 1992 8) n).rf (F.PMU_CNT_COUNT 1992 8) = 65536 := by
    rw [Dev.countTimes_rf (by decide) _ (by rw [first]; change _ < 2 ^ 48; omega), first, entries]
  rw [Dev.rb_wf_apart _ _ (by decide) (by decide)]
  change decide ((((missTaken n).countTimes (F.PMU_CNT_COUNT 1992 8) n).reg (Reg.PMU_SAMP_STAT 0)).toNat >>> 16 % 2 ^ 1 = 1) = true
  change (((missTaken n).countTimes (F.PMU_CNT_COUNT 1992 8) n).reg (Reg.PMU_SAMP_STAT 0)).toNat >>> 0 % 2 ^ 48 = 65536 at counted
  rw [Nat.shiftRight_eq_div_pow] at counted ⊢
  rw [decide_eq_true_eq]
  omega

/-- The running module of the refutation, with `n` entries of the selection. -/
def missSampledState (n : Nat) : State := { State.reset with dev := missSampled n }

/-- Refutes O60, at the clause on SAMPLE: the register file lists a selection 32,770 times, out of canonical form, and the channel list names channel
62,912, whose PMU block would hold PMU_SAMP_STAT as counter 8. The record that makes the index 32,767 also counts 32,770 misses there, which carries
into FULL. -/
theorem not_servingAndCounters : ¬ Obligations.ServingAndCounters := by
  unfold Obligations.ServingAndCounters
  intro ⟨_, _, _, _, hold⟩
  obtain ⟨n, entries⟩ : ∃ n, n = 32770 := ⟨_, rfl⟩
  obtain ⟨_, _, _, _, sampled⟩ := hold (missSampledState n) rfl
  obtain ⟨_, _, taken⟩ := sampled false firstSample [] rfl (by decide)
  obtain ⟨e, ran, -, full, mem, -⟩ := taken (missSampled_inside n) rfl (missSampled_room n)
  obtain ⟨ls, left⟩ := missSampled_left (n := n) (by omega)
  have runs : exec (.sample false) (missSampledState n) = .next ((missSampledState n).after (cmdSample false (missSampled n))) := onDev_running rfl
  have same : e.fenceAll = (cmdSample false (missSampled n)).fenceAll := congrArg State.dev (Host.Outcome.next.inj (ran.symm.trans runs))
  have due : e.mem.fenceDue = [] := by
    rw [mem]
    exact missTaken_due (by omega) (missSampled_place n)
  have calm : (cmdSample false (missSampled n)).mem.fenceDue = [] := by
    rw [left]
    exact congrArg MemSt.fenceDue ((missTaken n).countTimes_mem (F.PMU_CNT_COUNT 1992 8) n)
  rw [Dev.fenceAll_of_nil due, Dev.fenceAll_of_nil calm, left] at same
  have carried : e.rb (F.PMU_SAMP_STAT_FULL 0) = true := by rw [same, missSampled_full entries ls]
  rw [show e.rb (F.PMU_SAMP_STAT_FULL 0) = false from full] at carried
  exact Bool.false_ne_true carried

end Sys2Proof.Machine
end

section
/-!
Proofs, the logs and the error ring (R576 to R580): where the record at the head of the intake goes, and how the next one reaches the error ring.
-/
namespace Sys2Proof.Machine

section
variable {d : Dev} {r : ErrRec} {rest : List ErrRec} (head : d.err.intake = r :: rest)

/-- The records still to be copied to the error ring once `r` has been logged (R580). -/
def Dev.copied (d : Dev) (r : ErrRec) : List ErrRec :=
  if d.rb F.ERR_CTRL_RING_EN = true ∧ d.rf F.ERR_CTRL_RING_MIN ≤ r.cls then d.err.toCopy ++ [r] else d.err.toCopy

theorem Dev.queueCopy_err (d : Dev) (r : ErrRec) : (d.queueCopy r).err = { d.err with toCopy := d.copied r } := by
  unfold Dev.queueCopy Dev.copied
  split <;> rfl

theorem Dev.queueCopy_rf (d : Dev) (r : ErrRec) (f : Fld) : (d.queueCopy r).rf f = d.rf f := by
  unfold Dev.queueCopy
  split <;> rfl

/-- The registers that say which records are copied are not those of the logs. -/
theorem Dev.copied_wf (d : Dev) (r : ErrRec) {f : Fld} (v : Nat) (hf : f.off ≠ F.ERR_CTRL_RING_EN.off) : (d.wf f v).copied r = d.copied r := by
  have same (g : Fld) (hg : g.off = F.ERR_CTRL_RING_EN.off) : (d.wf f v).rf g = d.rf g := by
    rw [Dev.rf, Dev.reg_wf, if_neg (hg ▸ hf.symm), ← Dev.rf]
  unfold Dev.copied Dev.rb
  rw [same F.ERR_CTRL_RING_EN rfl, same F.ERR_CTRL_RING_MIN rfl]
  rfl

/-- A record that has entered a log: the log's register is written, and the record may be copied to the error ring. -/
theorem Dev.logged_spec (d : Dev) (r : ErrRec) (e : ErrSt) {f : Fld} (v : Nat) (kept : e.toCopy = d.err.toCopy) (hf : f.off ≠ F.ERR_CTRL_RING_EN.off)
    (word : f.inWord) :
    (((({ d with err := e } : Dev).wf f v).queueCopy r).err = { e with toCopy := d.copied r })
      ∧ ((({ d with err := e } : Dev).wf f v).queueCopy r).rf f = v % 2 ^ f.w := by
  constructor
  · rw [Dev.queueCopy_err, Dev.copied_wf _ _ _ hf]
    change { e with toCopy := Dev.copied { d with err := e } r } = _
    unfold Dev.copied
    rw [kept]
    rfl
  · rw [Dev.queueCopy_rf, Dev.rf_wf_same _ _ word]

include head

theorem Dev.logWrite_fatal_full (fatal : 3 ≤ r.cls) (full : 64 ≤ d.err.flog.length) :
    cmdLogWrite d = ({ d with err := { d.err with intake := rest } } : Dev).bump F.ERR_FLOG_STAT_OVERFLOW 1 := by
  unfold cmdLogWrite
  rw [head]
  exact (if_pos fatal).trans (if_pos full)

theorem Dev.logWrite_fatal (fatal : 3 ≤ r.cls) (room : d.err.flog.length < 64) :
    cmdLogWrite d = (({ d with err := { d.err with intake := rest, flog := d.err.flog ++ [r] } } : Dev).wf F.ERR_FLOG_STAT_ENTRIES
      (d.err.flog ++ [r]).length).queueCopy r := by
  unfold cmdLogWrite
  rw [head]
  exact (if_pos fatal).trans (if_neg (Nat.not_le.2 room))

/-- A record that repeats the last one of the log is counted with it (R577). -/
theorem Dev.logWrite_repeat {x : ErrRec} (mild : r.cls < 3) (last : d.err.clog.getLast? = some x) (same : r.repeats x = true) :
    cmdLogWrite d =
      { d with err := { d.err with intake := rest, clog := d.err.clog.dropLast ++ [{ x with count := min (x.count + 1) 0xFFFF }] } } := by
  unfold cmdLogWrite
  rw [head]
  refine (if_neg (Nat.not_le.2 mild)).trans ?_
  dsimp only
  rw [last]
  exact if_pos same

theorem Dev.logWrite_new (mild : r.cls < 3) (new : ∀ x ∈ d.err.clog.getLast?, r.repeats x = false) (room : d.err.clog.length < 4096) :
    cmdLogWrite d = (({ d with err := { d.err with intake := rest, clog := d.err.clog ++ [r] } } : Dev).wf F.ERR_CLOG_STAT_ENTRIES
      (d.err.clog ++ [r]).length).queueCopy r := by
  unfold cmdLogWrite
  rw [head]
  refine (if_neg (Nat.not_le.2 mild)).trans ?_
  dsimp only
  split
  · next x last =>
    rw [if_neg (by rw [new x last]; exact Bool.false_ne_true)]
    exact if_neg (Nat.not_le.2 room)
  · next last =>
    rw [List.getLast?_eq_none_iff.1 last]
    rfl

theorem Dev.logWrite_full (mild : r.cls < 3) (new : ∀ x ∈ d.err.clog.getLast?, r.repeats x = false) (full : 4096 ≤ d.err.clog.length) :
    cmdLogWrite d = (({ d with err := { d.err with intake := rest, clog := d.err.clog.drop 1 ++ [r] } } : Dev).bump F.ERR_CLOG_STAT_OVERFLOW 1).queueCopy r := by
  unfold cmdLogWrite
  rw [head]
  refine (if_neg (Nat.not_le.2 mild)).trans ?_
  dsimp only
  split
  · next x last =>
    rw [if_neg (by rw [new x last]; exact Bool.false_ne_true)]
    exact if_pos full
  · next last =>
    rw [List.getLast?_eq_none_iff.1 last] at full
    exact absurd full (by decide)

end

/-! ### The error ring -/

/-- The module once the consumer word of the error ring has been judged (R580). -/
def Dev.consumerJudged (d : Dev) (ok : Bool) : Dev := if ok then d else d.bump F.ERR_STATUS_BAD_CONSUMER 1

theorem Dev.consumerJudged_err (d : Dev) (ok : Bool) : (d.consumerJudged ok).err = d.err := by
  cases ok with
  | true => rfl
  | false => exact d.bump_err F.ERR_STATUS_BAD_CONSUMER 1

theorem Dev.consumerJudged_rf (d : Dev) (ok : Bool) {f : Fld} (hf : f.off ≠ Reg.ERR_STATUS) : (d.consumerJudged ok).rf f = d.rf f := by
  cases ok with
  | true => rfl
  | false =>
    change (d.wf F.ERR_STATUS_BAD_CONSUMER _).rf f = d.rf f
    rw [Dev.rf, Dev.reg_wf, if_neg (show f.off ≠ F.ERR_STATUS_BAD_CONSUMER.off from hf), ← Dev.rf]

/-- A record is written to its slot of the error ring; the producer word and an ERROR_RING notice follow (R580, R657). -/
def Dev.errorSent (d : Dev) (base producer size : Nat) (r : ErrRec) : Dev :=
  let prod := (d.err.ringProd + 1) % 2 ^ 32
  let e := d.toCompanion (base * 64 + 64 * (d.err.ringProd % size)) r.bytes
  (({ e with err := { e.err with ringProd := prod } } : Dev).toCompanion (producer * 32) (leBytes 8 (doorbellWord prod))).sendCpl
    { op := 0x4B, arg := 2, addr := prod }

/-- The next record goes to its slot, unless the ring is full (R580). -/
theorem Dev.errorRingCopy_next {d : Dev} {r : ErrRec} {rest : List ErrRec} (next : d.err.toCopy = r :: rest) (word : Nat) (bad : Bool) :
    let size := 2 ^ d.rf F.ERR_RING_CTL_LOG2SIZE
    let c := word % 2 ^ 32
    let ok := !bad && doorbellOk word && decide ((c + 2 ^ 32 - d.err.ringCons) % 2 ^ 32 ≤ (d.err.ringProd + 2 ^ 32 - d.err.ringCons) % 2 ^ 32)
    let cons := if ok then c else d.err.ringCons
    let e : Dev := { d.consumerJudged ok with err := { d.err with toCopy := rest, ringCons := cons } }
    cmdErrorRingCopy word bad d = if size ≤ (d.err.ringProd + 2 ^ 32 - cons) % 2 ^ 32 then e.bump F.ERR_STATUS_RING_DROPPED 1
      else e.errorSent (d.rf F.ERR_RING_BASE_BASE) (d.rf F.ERR_RING_CTL_PRODUCER) size r := by
  intro size c ok cons e
  have judged : ({ d.consumerJudged ok with err := { (d.consumerJudged ok).err with toCopy := rest, ringCons := cons } } : Dev) = e := by
    rw [Dev.consumerJudged_err]
  have base : e.rf F.ERR_RING_BASE_BASE = d.rf F.ERR_RING_BASE_BASE := d.consumerJudged_rf ok (by decide)
  have producer (a : Nat) (bs : List Byte) : (e.toCompanion a bs).rf F.ERR_RING_CTL_PRODUCER = d.rf F.ERR_RING_CTL_PRODUCER :=
    ((e.sends_toCompanion a bs).rf (by decide)).trans (d.consumerJudged_rf ok (by decide))
  rw [← judged] at base producer ⊢
  rw [← base, ← producer _ r.bytes]
  unfold cmdErrorRingCopy
  rw [next]
  rfl

end Sys2Proof.Machine
end

section
/-!
Proofs, bits of register fields: what one bit of a field reads after another, or the same one, has been written.
-/
namespace Sys2Proof.Machine

/-- Bit `i` of a field, as a field. -/
def Fld.bit (f : Fld) (i : Nat) : Fld := { f with lo := f.lo + i, w := 1 }

section
variable (d : Dev) {f : Fld} {i j : Nat}

theorem Dev.wbit_eq (v : Bool) : d.wbit f i v = d.wb (f.bit i) v := rfl

theorem Dev.rbit_eq_rb (hi : i < f.w) : d.rbit f i = d.rb (f.bit i) := by
  have one : bitsAt (d.reg f.off).toNat (f.lo + i) 1 = ((d.reg f.off).toNat.testBit (f.lo + i)).toNat := by
    rw [bitsAt, Nat.toNat_testBit, Nat.shiftRight_eq_div_pow, pow_one]
  rw [Dev.rbit, bitAt_eq_testBit, Dev.rf, testBit_bitsAt, decide_eq_true hi, Bool.true_and, Dev.rb, Dev.rf]
  change _ = decide (bitsAt (d.reg f.off).toNat (f.lo + i) 1 = 1)
  rw [one]
  cases (d.reg f.off).toNat.testBit (f.lo + i) <;> rfl

theorem Dev.rbit_wbit (word : f.inWord) (hi : i < f.w) (hj : j < f.w) (v : Bool) :
    (d.wbit f i v).rbit f j = if j = i then v else d.rbit f j := by
  have inside : (f.bit j).inWord := by change f.lo + j + 1 ≤ 64; have := word; unfold Fld.inWord at this; omega
  rw [Dev.rbit_eq_rb _ hj, Dev.rbit_eq_rb _ hj, Dev.wbit_eq]
  by_cases same : j = i
  · subst same
    rw [if_pos rfl, d.rb_wb_same v inside rfl]
  · rw [if_neg same, d.rb_wb_apart v inside]
    intro _
    change f.lo + i + 1 ≤ f.lo + j ∨ f.lo + j + 1 ≤ f.lo + i
    omega

/-- A field of another register, or of other bits, keeps its value when a bit is written. -/
theorem Dev.rf_wbit_apart {g : Fld} (v : Bool) (word : g.inWord) (h : g.apart (f.bit i)) : (d.wbit f i v).rf g = d.rf g := d.rf_wb_apart v word h

end

end Sys2Proof.Machine
end

section
/-!
Proofs, moorings (R479, R516, R528): the part of the state that says who a module is to its neighbours and which of its rings are stopped. Neither the
work of the Granary nor the end of an item touches it.
-/
namespace Sys2Proof.Machine

/-! ### Fields that stay -/

/-- The fields that record a job stop and the state of the rings. HBM_CHANn of a stack beyond the eighth could stand on RCTL of rings 4 to 7; the class of
a ring of partition 0 is not listed for that reason. -/
inductive Fld.steady : Fld → Prop
  | stops : Fld.steady F.FAB_EVENTS_STOPS
  | ingress : Fld.steady F.FAB_ING_STOP_STOPPED
  | ringStopped {n : Nat} (h : n < 256) : Fld.steady (F.QUE_RSTAT_STOPPED n)
  | ringActive {n : Nat} (h : n < 256) : Fld.steady (F.QUE_RSTAT_ACTIVE n)
  | ringClass {n : Nat} (other : 64 ≤ n) (h : n < 256) : Fld.steady (F.QUE_RCTL_CLASS n)

/-- A field that shares no bit with a steady one. -/
def Fld.loose (g : Fld) : Prop := ∀ f : Fld, f.steady → f.apart g

theorem Fld.steady.inWord {f : Fld} (h : f.steady) : f.inWord := by
  cases h with
  | stops | ingress => decide
  | ringStopped => exact (by decide : 32 + 1 ≤ 64)
  | ringActive => exact (by decide : 33 + 1 ≤ 64)
  | ringClass => exact (by decide : 1 + 2 ≤ 64)

theorem Fld.steady.plain {f : Fld} (h : f.steady) : countReg f.off = false ∧ f.off ≠ Reg.ERR_STATUS := by
  cases h with
  | stops => decide
  | ingress => decide
  | @ringStopped n h =>
    exact ringReg_plain h (show Reg.QUE_RBASE n ≤ Reg.QUE_RSTAT n by unfold Reg.QUE_RBASE Reg.QUE_RSTAT; omega) le_rfl
  | @ringActive n h =>
    exact ringReg_plain h (show Reg.QUE_RBASE n ≤ Reg.QUE_RSTAT n by unfold Reg.QUE_RBASE Reg.QUE_RSTAT; omega) le_rfl
  | @ringClass n _ h =>
    exact ringReg_plain h (show Reg.QUE_RBASE n ≤ Reg.QUE_RCTL n by unfold Reg.QUE_RBASE Reg.QUE_RCTL; omega)
      (show Reg.QUE_RCTL n ≤ Reg.QUE_RSTAT n by unfold Reg.QUE_RCTL Reg.QUE_RSTAT; omega)

theorem Fld.loose_of {g : Fld} (events : g.off = 0xE00418 → g.lo + g.w ≤ 56) (ingress : g.off ≠ 0xE00430)
    (stat : ∀ n, n < 256 → g.off = 0xD00038 + 0x40 * n → g.lo + g.w ≤ 32 ∨ 34 ≤ g.lo) (ctl : ∀ n, 64 ≤ n → n < 256 → g.off ≠ 0xD00030 + 0x40 * n) :
    g.loose := by
  intro f hf same
  cases hf with
  | stops => exact .inl (events same.symm)
  | ingress => exact absurd same.symm ingress
  | @ringStopped n h => exact (stat n h same.symm).imp id (fun above => show 32 + 1 ≤ g.lo by omega)
  | @ringActive n h => exact (stat n h same.symm).imp (fun below => show g.lo + g.w ≤ 33 by omega) id
  | @ringClass n other h => exact absurd same.symm (ctl n other h)

/-- Registers outside the ranges of the control plane and of the fabric. -/
theorem Fld.loose_of_off {g : Fld} (h : g.off < 0xD00000 ∨ 0xE00430 < g.off) : g.loose :=
  Fld.loose_of (by omega) (by omega) (by omega) (by omega)

section
variable (n k : Nat)

@[simp] theorem Fld.loose_pmuCount : (F.PMU_CNT_COUNT n k).loose := Fld.loose_of_off (.inr (show _ < 0x1102000 + 0x80 * n + 0x8 * k by omega))
@[simp] theorem Fld.loose_pmuOvf : (F.PMU_CNT_OVF n k).loose := Fld.loose_of_off (.inr (show _ < 0x1102000 + 0x80 * n + 0x8 * k by omega))
@[simp] theorem Fld.loose_deadReread : F.GRN_DEAD_REREAD_COUNT.loose := Fld.loose_of_off (by decide)
@[simp] theorem Fld.loose_ordBroken : F.GRN_ORD_EVENTS_BROKEN.loose := Fld.loose_of_off (by decide)
@[simp] theorem Fld.loose_ordTies : F.GRN_ORD_EVENTS_TIES.loose := Fld.loose_of_off (by decide)
@[simp] theorem Fld.loose_ordUnkeyed : F.GRN_ORD_EVENTS_UNKEYED.loose := Fld.loose_of_off (by decide)
@[simp] theorem Fld.loose_ordSeen : F.GRN_ORD_EVENTS_BROKEN_SEEN.loose := Fld.loose_of_off (by decide)

/-- A slice's status stands at a multiple of 4 KiB, apart from the registers of rings and of the fabric. -/
theorem Fld.loose_of_slice {g : Fld} (h : g.off = 0x800000 + 0x1000 * n) : g.loose :=
  Fld.loose_of (by omega) (by omega) (by omega) (by omega)

@[simp] theorem Fld.loose_sliceFenced : (F.GRN_SLICE_STATUS_FENCED n).loose := Fld.loose_of_slice n rfl
@[simp] theorem Fld.loose_sliceDiscarded : (F.GRN_SLICE_STATUS_DISCARDED n).loose := Fld.loose_of_slice n rfl

@[simp] theorem Fld.loose_hbmHealthy : (F.HBM_STATUS_HEALTHY n).loose := by
  have off : (F.HBM_STATUS_HEALTHY n).off = 0xA00000 + 0x10000 * n := rfl
  exact Fld.loose_of (by omega) (by omega) (by omega) (by omega)

@[simp] theorem Fld.loose_hbmState : (F.HBM_STATUS_STATE n).loose := by
  have off : (F.HBM_STATUS_STATE n).off = 0xA00000 + 0x10000 * n := rfl
  exact Fld.loose_of (by omega) (by omega) (by omega) (by omega)

theorem Fld.loose_of_channel {g : Fld} (h : g.off = 0xA00100 + 0x10000 * n + 0x8 * (k % 32)) (low : g.lo + g.w ≤ 32) : g.loose :=
  Fld.loose_of (by omega) (by omega) (fun _ _ _ => .inl low) (by omega)

@[simp] theorem Fld.loose_chanState : (F.HBM_CHAN_STATE n (k % 32)).loose := Fld.loose_of_channel n k rfl (show 0 + 2 ≤ 32 by decide)
@[simp] theorem Fld.loose_chanPoison : (F.HBM_CHAN_POISON n (k % 32)).loose := Fld.loose_of_channel n k rfl (show 14 + 10 ≤ 32 by decide)

theorem Fld.loose_swrPoisoned {n : Nat} (h : n < 16) : (F.PRT_SWR_STAT_POISONED n).loose :=
  Fld.loose_of_off (.inl (show 0x300280 + 0x8 * n < _ by omega))

end

/-! ### Moorings -/

/-- A packet handed to a port of the fabric. -/
def Out.isFabric : Out → Bool
  | .fabric _ _ => true
  | _ => false

/-- Who the module is in the fabric, the stops it knows, the packets it has put on its ports, and the steady fields. -/
structure Moorings where
  node : Option Nat
  ing : SMap Nat
  jobStops : List (Nat × Nat)
  grpA : SMap Nat
  grpB : SMap Nat
  packets : List Out
  field : (f : Fld) → f.steady → Nat

def Dev.moorings (d : Dev) : Moorings :=
  { node := d.fab.node, ing := d.fab.ing, jobStops := d.fab.jobStops, grpA := d.col.grpA, grpB := d.col.grpB, packets := d.out.filter Out.isFabric,
    field := fun f _ => d.rf f }

section
variable {d e : Dev} (h : e.moorings = d.moorings)
include h

theorem Dev.node_of_moorings : e.fab.node = d.fab.node := congrArg Moorings.node h
theorem Dev.ing_of_moorings : e.fab.ing = d.fab.ing := congrArg Moorings.ing h
theorem Dev.jobStops_of_moorings : e.fab.jobStops = d.fab.jobStops := congrArg Moorings.jobStops h
theorem Dev.grpA_of_moorings : e.col.grpA = d.col.grpA := congrArg Moorings.grpA h
theorem Dev.grpB_of_moorings : e.col.grpB = d.col.grpB := congrArg Moorings.grpB h
theorem Dev.packets_of_moorings : e.out.filter Out.isFabric = d.out.filter Out.isFabric := congrArg Moorings.packets h
theorem Dev.rf_of_moorings {f : Fld} (hf : f.steady) : e.rf f = d.rf f := congrArg (fun m => m.field f hf) h

end

section
variable (d : Dev)

/-- Changes of other parts of the state leave the moorings. -/
theorem Dev.moorings_congr {d e : Dev} (fab : e.fab = d.fab) (col : e.col = d.col) (out : e.out.filter Out.isFabric = d.out.filter Out.isFabric)
    (rf : ∀ f : Fld, f.steady → e.rf f = d.rf f) : e.moorings = d.moorings := by
  unfold Dev.moorings
  rw [fab, col, out]
  congr 1
  funext f hf
  exact rf f hf

theorem Dev.mem_moorings (m : MemSt) : ({ d with mem := m } : Dev).moorings = d.moorings := rfl

@[simp] theorem Dev.wf_moorings {f : Fld} (h : f.loose) (v : Nat) : (d.wf f v).moorings = d.moorings :=
  Dev.moorings_congr rfl rfl rfl (fun g hg => d.rf_wf_apart v hg.inWord (h g hg))

@[simp] theorem Dev.wb_moorings {f : Fld} (h : f.loose) (v : Bool) : (d.wb f v).moorings = d.moorings := d.wf_moorings h _

@[simp] theorem Dev.bump_moorings {f : Fld} (h : f.loose) (n : Nat) : (d.bump f n).moorings = d.moorings := by
  unfold Dev.bump
  split
  · rfl
  · exact d.wf_moorings h _

@[simp] theorem Dev.pmuAdd_moorings (b k n : Nat) : (d.pmuAdd (F.PMU_CNT_COUNT b k) (F.PMU_CNT_OVF b k) n).moorings = d.moorings := by
  unfold Dev.pmuAdd
  dsimp only
  split <;> simp

theorem Dev.ite_moorings {d a b : Dev} {c : Prop} [Decidable c] (ha : a.moorings = d.moorings) (hb : b.moorings = d.moorings) :
    (if c then a else b).moorings = d.moorings := by
  split
  · exact ha
  · exact hb

@[simp] theorem Dev.event_moorings (b ev : Nat) (part : Option Nat) (inst n : Nat) : (d.event b ev part inst n).moorings = d.moorings := by
  unfold Dev.event
  split
  · rfl
  · refine foldl_keep Dev.moorings _ (fun e x => ?_) _ _
    have counted := e.pmuAdd_moorings b x.1 n
    dsimp only
    generalize e.pmuAdd (F.PMU_CNT_COUNT b x.1) (F.PMU_CNT_OVF b x.1) n = c at counted ⊢
    exact Dev.ite_moorings (Dev.ite_moorings counted counted) rfl

@[simp] theorem Dev.bwCount_moorings (port : Nat) (isOut : Bool) (n : Nat) : (d.bwCount port isOut n).moorings = d.moorings := rfl

@[simp] theorem Dev.postError_moorings (r : ErrRec) : (d.postError r).moorings = d.moorings :=
  Dev.moorings_congr (by simp) (by simp) (by simp) (fun _ hf => d.rf_postError r hf.plain.2)

theorem Dev.emit_moorings {o : Out} (h : o.isFabric = false) : (d.emit o).moorings = d.moorings :=
  Dev.moorings_congr rfl rfl (by simp [Dev.emit, h]) (fun _ _ => rfl)

end

theorem Dev.sends.moorings {d e : Dev} (h : d.sends e) : e.moorings = d.moorings := by
  obtain ⟨os, out, links⟩ := h.out
  have quiet : os.filter Out.isFabric = [] := by
    rw [List.filter_eq_nil_iff]
    intro o ho
    have onLink := List.all_eq_true.1 links o ho
    cases o <;> simp_all [Out.onLink, Out.isFabric]
  unfold Dev.moorings
  rw [h.col, h.fab, out, List.filter_append, quiet, List.append_nil]
  congr 1
  funext f hf
  exact h.rf hf.plain.1

end Sys2Proof.Machine
end

section
/-!
Proofs, the Granary and the moorings: whatever a slice does (R319 to R349), the module's place in the fabric and the state of its rings stay as they
are.
-/
namespace Sys2Proof.Machine

variable (d : Dev) (k : Nat)

/-! ### Lines and their write-back -/

@[simp] theorem Dev.setLine_moorings (l : Option Line) : (d.setLine k l).moorings = d.moorings := rfl
@[simp] theorem Dev.setWb_moorings (w : Option WriteBack) : (d.setWb k w).moorings = d.moorings := rfl

@[simp] theorem Dev.setAge_moorings (a : Nat) : (d.setAge k a).moorings = d.moorings := by
  unfold Dev.setAge
  split <;> rfl

@[simp] theorem Dev.giveKeep_moorings : (d.giveKeep k).moorings = d.moorings := by
  unfold Dev.giveKeep
  extract_lets kw keeps e
  have kept : e.moorings = d.moorings := by
    subst e
    split
    · split <;> rfl
    · rfl
  split
  · rfl
  · split <;> exact kept

@[simp] theorem Dev.touch_moorings (hint : Nat) (alloc : Bool) : (d.touch k hint alloc).moorings = d.moorings := by
  unfold Dev.touch
  split
  · split <;> simp
  · dsimp only
    split <;> simp
  · dsimp only
    split
    · split <;> simp
    · simp

@[simp] theorem Dev.countPf_moorings (l : Line) (what : Nat) : (d.countPf k l what).moorings = d.moorings := by
  unfold Dev.countPf
  split <;> simp

@[simp] theorem Dev.beginWb_moorings (l : Line) : (d.beginWb k l).moorings = d.moorings := by simp [Dev.beginWb]

@[simp] theorem Dev.showHealthy_moorings (stack : Nat) : (d.showHealthy stack).moorings = d.moorings := by
  unfold Dev.showHealthy
  dsimp only
  split <;> simp

@[simp] theorem Dev.failChannel_moorings (ch : Nat) : (d.failChannel ch).moorings = d.moorings := by
  unfold Dev.failChannel
  split
  · rfl
  · rw [Dev.showHealthy_moorings]
    exact (Dev.wb_moorings _ (Fld.loose_sliceFenced ch) _).trans (d.wf_moorings (Fld.loose_chanState _ ch) _)

@[simp] theorem Dev.setDramPoison_moorings (h : Nat) (v : Bool) : (d.setDramPoison k h v).moorings = d.moorings := by
  unfold Dev.setDramPoison
  split
  · simp
  · rw [Dev.wf_moorings _ (Fld.loose_chanPoison _ _)]
    rfl

@[simp] theorem Dev.wbHalf_moorings (h mask data poison : Nat) : (d.wbHalf k h mask data poison).moorings = d.moorings := by
  unfold Dev.wbHalf
  extract_lets m ch hbm mem a whole b c
  have half : b.moorings = d.moorings := Dev.ite_moorings (d := d) rfl (a.event_moorings ..)
  have counted : c.moorings = d.moorings := (Dev.bwCount_moorings ..).trans ((b.event_moorings ..).trans half)
  clear_value c
  exact Dev.ite_moorings rfl (Dev.ite_moorings ((c.setDramPoison_moorings ..).trans counted)
    (Dev.ite_moorings ((c.setDramPoison_moorings ..).trans counted) counted))

@[simp] theorem Dev.wbToDram_moorings (w : WriteBack) : (d.wbToDram k w).moorings = d.moorings := by simp [Dev.wbToDram]

/-- Making room for a line moves the victim alone (R328). -/
theorem Dev.makeRoom_moorings {d e : Dev} {k : Nat} (h : d.makeRoom k = some e) : e.moorings = d.moorings := by
  unfold Dev.makeRoom at h
  split at h
  · rw [← Option.some.inj h]
  · cases h
  · rw [← Option.some.inj h, Dev.setLine_moorings]
    split <;> simp [apply_ite Dev.moorings]

@[simp] theorem Dev.install_moorings (l : Line) (hint : Nat) : (d.install k l hint).moorings = d.moorings := by simp [Dev.install]

/-! ### Digest folding and reductions -/

@[simp] theorem Dev.foldByte_moorings (r : Region) (x : Nat) (v : Byte) : (d.foldByte r x v).moorings = d.moorings := by
  unfold Dev.foldByte
  split
  · split
    · exact d.mem_moorings _
    · rfl
  · rfl

@[simp] theorem Dev.foldWrite_moorings (bs : List (Nat × MByte)) : (d.foldWrite k bs).moorings = d.moorings := by
  unfold Dev.foldWrite
  split
  · split
    · exact foldl_keep Dev.moorings _ (fun e b => e.foldByte_moorings ..) _ _
    · rfl
  · rfl

@[simp] theorem Dev.redOne_moorings (part : Option Nat) (e : RedElem) : (d.redOne k part e).1.moorings = d.moorings := by
  unfold Dev.redOne
  split
  · rfl
  · dsimp only
    split <;> simp

@[simp] theorem Dev.applyHeld_moorings : (d.applyHeld k).moorings = d.moorings := by
  unfold Dev.applyHeld
  split
  · rfl
  · split
    · rfl
    · rw [Dev.bump_moorings _ Fld.loose_ordTies]
      exact foldl_keep Dev.moorings _ (fun e o => foldl_keep Dev.moorings _ (fun x a => x.redOne_moorings ..) _ _) _ _

@[simp] theorem Dev.breakHeld_moorings : (d.breakHeld k).moorings = d.moorings := by
  unfold Dev.breakHeld
  split
  · split <;> simp
  · rfl

@[simp] theorem Dev.holdAdd_moorings (e : RedElem) (seq : Nat) : (d.holdAdd k e seq).moorings = d.moorings := by
  unfold Dev.holdAdd
  extract_lets slice a holds others b
  have roomy : a.moorings = d.moorings := by
    subst a
    split
    · split <;> simp
    · rfl
  have pinned : b.moorings = a.moorings := by
    subst b
    split
    · split <;> simp
    · rfl
  split <;> exact pinned.trans roomy

@[simp] theorem Dev.redElem_moorings (part : Option Nat) (e : RedElem) : (d.redElem k part e).1.moorings = d.moorings := by
  unfold Dev.redElem
  dsimp only
  split
  · split <;> simp
  · split <;> simp

@[simp] theorem Dev.redElems_moorings (part : Option Nat) (es : List RedElem) : (d.redElems k part es).1.moorings = d.moorings := by
  induction es generalizing d with
  | nil => rfl
  | cons e es ih => exact (ih _).trans (d.redElem_moorings k part e)

/-! ### Serving a request -/

/-- There are 16 shared-weight regions (R468). -/
theorem Dev.swrOfLine_lt {r : Nat} (h : d.swrOfLine k = some r) : r < 16 := by
  unfold Dev.swrOfLine at h
  split at h
  · exact List.mem_range.1 (List.mem_of_find?_eq_some h)
  · cases h

@[simp] theorem Dev.swrPoisonRecord_moorings : (d.swrPoisonRecord k).moorings = d.moorings := by
  unfold Dev.swrPoisonRecord
  split
  · next r region =>
    split
    · rfl
    · rw [Dev.postError_moorings, Dev.bump_moorings _ (Fld.loose_swrPoisoned (d.swrOfLine_lt k region))]
      rfl
  · rfl

@[simp] theorem Dev.holdForRefetch_moorings (r : Nat) (q : SliceReq) : (d.holdForRefetch k r q).moorings = d.moorings := by
  unfold Dev.holdForRefetch
  dsimp only
  split <;> rfl

@[simp] theorem Dev.serveHit_moorings (q : SliceReq) : (d.serveHit k q).1.moorings = d.moorings := by
  unfold Dev.serveHit
  split
  · dsimp only
    split
    · split <;> simp
    · simp
  · dsimp only
    split <;> simp
  · dsimp only
    simp

@[simp] theorem Dev.serveDead_moorings (q : SliceReq) : (d.serveDead k q).1.moorings = d.moorings := by
  unfold Dev.serveDead
  split <;> simp

@[simp] theorem Dev.hwPrefetch_moorings (hint : Nat) : (d.hwPrefetch k hint).moorings = d.moorings := by
  unfold Dev.hwPrefetch
  split
  · dsimp only
    split
    · refine foldl_keep Dev.moorings _ (fun e j => ?_) _ _
      split
      · split
        · next room => simp [Dev.makeRoom_moorings room]
        · rfl
      · rfl
    · rfl
  · rfl

@[simp] theorem Dev.waitOnLine_moorings (l : Line) (q : SliceReq) : (d.waitOnLine k l q).moorings = d.moorings := rfl

@[simp] theorem Dev.waitAtSlice_moorings (q : SliceReq) : (d.waitAtSlice k q).moorings = d.moorings := by
  unfold Dev.waitAtSlice
  split <;> rfl

@[simp] theorem Dev.demand_moorings : (d.demand k).moorings = d.moorings := by
  unfold Dev.demand
  split
  · split <;> simp
  · rfl

@[simp] theorem Dev.serve_moorings (q : SliceReq) : (d.serve k q).1.moorings = d.moorings := by
  unfold Dev.serve
  extract_lets ch blk isRed ordered missed met reread checked
  have missedSame : missed.moorings = d.moorings := Dev.event_moorings ..
  have metSame : met.moorings = d.moorings := d.demand_moorings k
  have rereadSame : reread.moorings = d.moorings := by simp [reread, metSame]
  split
  · exact d.serveDead_moorings ..
  · split
    · exact d.holdForRefetch_moorings ..
    · split
      · split <;> simp
      · split
        · split -- the line is absent
          · exact (missed.waitAtSlice_moorings ..).trans missedSame
          · split
            · exact (missed.waitAtSlice_moorings ..).trans missedSame
            · next room => split <;> simp [(Dev.makeRoom_moorings room).trans missedSame]
        · split -- the line is present
          · exact metSame
          · split
            case h_1 => -- in Fill
              split
              · split <;> simp [metSame]
              · split <;> simp [metSame]
            case h_2 => -- a tombstone
              split
              · simp [metSame]
              · split <;> simp [rereadSame]
              · split <;> simp [metSame]
            case h_3 => split <;> simp [metSame] -- Clean
            case h_4 => -- Dirty
              split
              · exact metSame
              · split <;> simp [metSame]

@[simp] theorem Dev.answer_moorings (q : SliceReq) (a : Ans) : (d.answer q a).moorings = d.moorings := by
  unfold Dev.answer
  split
  · rfl
  · split
    · exact d.emit_moorings rfl
    · exact d.emit_moorings rfl
    · exact d.emit_moorings rfl
    · rfl

@[simp] theorem Dev.serveWaits_moorings (qs : List SliceReq) : (d.serveWaits k qs).moorings = d.moorings := by
  induction qs generalizing d with
  | nil => rfl
  | cons q qs ih => rw [Dev.serveWaits, ih, Dev.answer_moorings, Dev.serveHit_moorings]

@[simp] theorem Dev.retrySlice_moorings (slice : Nat) : (d.retrySlice slice).moorings = d.moorings :=
  foldl_keep Dev.moorings _ (fun e x => by rw [Dev.answer_moorings, Dev.serve_moorings]) _ _

/-! ### Bringing a line to rest -/

@[simp] theorem Dev.lineHere_moorings (l : Line) : (d.lineHere k l).moorings = d.moorings := by simp [Dev.lineHere]

@[simp] theorem Dev.arrive_moorings : (d.arrive k).moorings = d.moorings := by
  unfold Dev.arrive
  split
  · rfl
  · split
    · dsimp only
      rw [Dev.retrySlice_moorings]
      split
      · split <;> simp
      · simp
    · rfl

@[simp] theorem Dev.applyForwarded_moorings (qs : List SliceReq) : (d.applyForwarded k qs).moorings = d.moorings := by
  induction qs generalizing d with
  | nil => rfl
  | cons q qs ih =>
    rw [Dev.applyForwarded]
    split
    · rw [ih, Dev.answer_moorings]
      generalize reduced : List.foldl _ _ _ = x
      have kept : x.1.moorings = d.moorings := by
        rw [← reduced]
        exact foldl_keep (fun x : Dev × List (Nat × Bool) => x.1.moorings) _ (fun x e => by simp) _ _
      split <;> simp [kept]
    · exact ih d

@[simp] theorem Dev.wbDone_moorings : (d.wbDone k).moorings = d.moorings := by
  unfold Dev.wbDone
  split
  · rfl
  · extract_lets a b c e
    have written : b.moorings = d.moorings := by simp [a, b]
    have marked : c.moorings = b.moorings := by
      subst c
      split
      · split
        · next room => simp [Dev.makeRoom_moorings room]
        · rfl
      · rfl
    have served : e.moorings = c.moorings := foldl_keep Dev.moorings _ (fun x q => by simp) _ _
    simp [served, marked, written]

@[simp] theorem Dev.settle_moorings : (d.settle k).moorings = d.moorings :=
  (foldl_keep Dev.moorings _ (fun e (x : Nat × Line) => e.arrive_moorings x.1) _ _).trans (d.wbDone_moorings k)

@[simp] theorem Dev.engineServe_moorings (q : SliceReq) : (d.engineServe k q).1.moorings = d.moorings := by
  have served : ((d.settle k).serve k q).1.moorings = d.moorings := by simp
  unfold Dev.engineServe
  split
  · rfl
  · dsimp only
    split
    · split
      · simp
      · exact served
    · exact served

@[simp] theorem Dev.lineWrite_moorings (part : Option Nat) (hint : Nat) (bs : List (Nat × MByte)) : (d.lineWrite part k hint bs).1.moorings = d.moorings :=
  Dev.engineServe_moorings ..

end Sys2Proof.Machine
end

section
/-!
Proofs, stopping a partition and the moorings (R425, R528): saved records, the end of items and of a service leave the module's place in the fabric and
the state of its rings as they are; the rings of the partition are stopped.
-/
namespace Sys2Proof.Machine

/-! ### The context-save area -/

@[simp] theorem Dev.physLine_moorings (d : Dev) (p a : Nat) (bs : List MByte) : (d.physLine p a bs).moorings = d.moorings := by
  unfold Dev.physLine
  split <;> simp

@[simp] theorem Dev.physParts_moorings (d : Dev) (p : Nat) (ps : List (Nat × Nat)) (bs : List MByte) : (d.physParts p ps bs).moorings = d.moorings := by
  induction ps generalizing d bs with
  | nil => rfl
  | cons x ps ih => rw [Dev.physParts, ih, Dev.physLine_moorings]

@[simp] theorem Dev.csaWrite_moorings (d : Dev) (p off : Nat) (bs : List MByte) : (d.csaWrite p off bs).moorings = d.moorings := Dev.physParts_moorings ..

@[simp] theorem Dev.csaRecords_moorings (d : Dev) (p : Nat) : (d.csaRecords p).moorings = d.moorings :=
  foldl_keep (fun x : Dev × Nat × Nat => x.1.moorings) _ (fun x _ => x.1.csaWrite_moorings ..) _ _

@[simp] theorem Dev.csaFollow_moorings (d d0 : Dev) : (d.csaFollow d0).moorings = d.moorings :=
  foldl_keep Dev.moorings _ (fun e _ => Dev.ite_moorings rfl ((Dev.csaRecords_moorings ..).trans (e.csaWrite_moorings ..))) _ _

/-! ### The end of items -/

@[simp] theorem Dev.toCompanion_moorings (d : Dev) (a : Nat) (bs : List Byte) : (d.toCompanion a bs).moorings = d.moorings :=
  (d.sends_toCompanion a bs).moorings

@[simp] theorem Dev.setRing_moorings (d : Dev) (n : Nat) (r : Ring) : (d.setRing n r).moorings = d.moorings := rfl

@[simp] theorem Dev.writeRecord_moorings (d : Dev) (n status progress : Nat) (it : Item) : (d.writeRecord n status progress it).moorings = d.moorings := by
  simp [Dev.writeRecord]

@[simp] theorem Dev.poisonRecord_moorings (d : Dev) (it : Item) : (d.poisonRecord it).moorings = d.moorings := Dev.postError_moorings ..

@[simp] theorem Dev.forgetWaiter_moorings (d : Dev) (w : Waiter) : (d.forgetWaiter w).moorings = d.moorings := rfl

@[simp] theorem Dev.dropItem_moorings (d : Dev) (id : Nat) : (d.dropItem id).moorings = d.moorings := rfl

@[simp] theorem Dev.endNoted_moorings (d : Dev) (it : Item) : (d.endNoted it).moorings = d.moorings := by
  unfold Dev.endNoted
  split
  · exact d.poisonRecord_moorings it
  · rfl

@[simp] theorem Dev.finishItem_moorings (d : Dev) (it : Item) : (d.finishItem it).moorings = d.moorings := by simp [Dev.finishItem_eq]

@[simp] theorem Dev.unfollow_moorings (d : Dev) (n : Nat) : (d.unfollow n).moorings = d.moorings := by
  unfold Dev.unfollow
  dsimp only
  split
  · rfl
  · split <;> rfl

@[simp] theorem Dev.setSkein_moorings (d : Dev) (k : Nat) (o : Option Skein) : (d.setSkein k o).moorings = d.moorings := rfl

@[simp] theorem Dev.clearLaunch_moorings (d : Dev) (launch : Nat) : (d.clearLaunch launch).moorings = d.moorings :=
  foldl_keep Dev.moorings _ (fun e _ => e.setSkein_moorings ..) _ _

@[simp] theorem Dev.ticketDone_moorings (d : Dev) (it : Item) (q : Posted) : (d.ticketDone it q).moorings = d.moorings := by
  unfold Dev.ticketDone
  extract_lets done mark e f
  have marked : e.moorings = d.moorings := by
    subst e
    split
    · split <;> rfl
    · rfl
  have noted : f.moorings = e.moorings := Dev.ite_moorings (e.poisonRecord_moorings it) rfl
  exact noted.trans marked

@[simp] theorem Dev.dropStones_moorings (d : Dev) (it : Item) : (d.dropStones it).moorings = d.moorings := rfl

@[simp] theorem Dev.endCol_moorings (d : Dev) (it : Item) (status : Nat) : (d.endCol it status).moorings = d.moorings := by
  unfold Dev.endCol
  rw [Dev.finishItem_moorings]
  exact Dev.ite_moorings (d.unfollow_moorings _) rfl

@[simp] theorem Dev.killPlain_moorings (d : Dev) (it : Item) (status detail : Nat) : (d.killPlain it status detail).moorings = d.moorings := by
  unfold Dev.killPlain
  dsimp only
  split
  · split <;> simp -- a Stones operation
  · rw [Dev.finishItem_moorings] -- a service operation
    exact Dev.ite_moorings rfl rfl
  · split -- a message or a collective
    · exact Dev.finishItem_moorings ..
    · simp
  · simp

@[simp] theorem Dev.killItem_moorings (d : Dev) (it : Item) (status detail : Nat) : (d.killItem it status detail).moorings = d.moorings := by
  unfold Dev.killItem
  split
  · rw [Dev.finishItem_moorings, Dev.clearLaunch_moorings]
    exact foldl_keep Dev.moorings _ (fun e x => e.killPlain_moorings ..) _ _
  · simp

@[simp] theorem Dev.killAll_moorings (d : Dev) (f : Item → Bool) (status : Nat) : (d.killAll f status).moorings = d.moorings := by
  refine foldl_keep Dev.moorings _ (fun e x => ?_) _ _
  split <;> simp

/-! ### The end of a service -/

/-- A view of the module that the end of a service of partition `p` leaves: neither the service, the Companion Link nor MIL_SRV is in it. -/
structure Dev.overlooksService {β : Type} (g : Dev → β) (p : Nat) : Prop where
  srv : ∀ (d : Dev) (q : Nat) (v : Srv), g (d.setSrv q v) = g d
  cpl : ∀ (d : Dev) (c : CplSt), g { d with cpl := c } = g d
  sent : ∀ (d : Dev) (a : Nat) (bs : List Byte), g (d.toCompanion a bs) = g d
  reg : ∀ (d : Dev) (f : Fld) (v : Nat), f.off = Reg.MIL_SRV_CTL p ∨ f.off = Reg.MIL_SRV_STAT p → g (d.wf f v) = g d

section
variable {β : Type} {g : Dev → β} {p : Nat} (h : Dev.overlooksService g p) (d : Dev)
include h

theorem Dev.overlooksService.unfollow (n : Nat) : g (d.unfollow n) = g d := by
  unfold Dev.unfollow
  dsimp only
  split
  · exact h.cpl d _
  · split
    · exact h.cpl d _
    · exact h.cpl d _

theorem Dev.overlooksService.srvPump (n : Nat) : g (Dev.srvPump p n d) = g d := by
  induction n generalizing d with
  | zero => rfl
  | succ n ih =>
    rw [Dev.srvPump]
    dsimp only
    split
    · rfl
    · split
      · rfl
      · rw [ih, h.srv, h.sent, h.sent]

theorem Dev.overlooksService.srvEndReq (req : SrvReq) (status : Nat) : g (d.srvEndReq p req status) = g d := (h.srvPump _ _).trans (h.srv ..)

theorem Dev.overlooksService.srvRelease : g (d.srvRelease p) = g d := by
  unfold Dev.srvRelease
  dsimp only
  split
  · rw [h.srv, h.unfollow, h.unfollow]
  · rfl

theorem Dev.overlooksService.srvShow : g (d.srvShow p) = g d := by
  unfold Dev.srvShow
  dsimp only
  rw [h.reg _ _ _ (.inr rfl), h.reg _ _ _ (.inr rfl), h.reg _ _ _ (.inr rfl)]

theorem Dev.overlooksService.srvStop : g (d.srvStop p) = g d := by
  unfold Dev.srvStop
  dsimp only
  rw [h.srvShow, h.srvRelease, h.reg _ _ _ (.inr rfl), h.reg _ _ _ (.inr rfl), foldl_keep g _ (fun e r => h.srvEndReq e r _), h.srv]

/-- A service that is killed (R528). -/
theorem Dev.overlooksService.srvKill : g (d.srvKill p) = g d := by
  unfold Dev.srvKill
  dsimp only
  split
  · rw [h.srvStop, Dev.wb, h.reg _ _ _ (.inl rfl), h.srv]
  · split
    · rw [Dev.wb, h.reg _ _ _ (.inl rfl), h.srv]
    · exact h.srv ..

end

theorem Dev.moorings_overlooksService {p : Nat} (hp : p < 8) : Dev.overlooksService Dev.moorings p where
  srv _ _ _ := rfl
  cpl _ _ := rfl
  sent := Dev.toCompanion_moorings
  reg d f v h := d.wf_moorings (Fld.loose_of_off (by unfold Reg.MIL_SRV_CTL Reg.MIL_SRV_STAT at h; omega)) v

/-- A field of the registers of rings. -/
theorem Dev.ringField_overlooksService {p : Nat} (hp : p < 8) {n : Nat} (hn : n < 256) {f : Fld} (lo : Reg.QUE_RBASE n ≤ f.off)
    (hi : f.off ≤ Reg.QUE_RSTAT n) : Dev.overlooksService (fun d => d.rf f) p where
  srv _ _ _ := rfl
  cpl _ _ := rfl
  sent d a bs := (d.sends_toCompanion a bs).rf (ringReg_plain hn lo hi).1
  reg d g v h := by
    unfold Reg.MIL_SRV_CTL Reg.MIL_SRV_STAT at h
    unfold Reg.QUE_RBASE at lo
    rw [Dev.rf, Dev.reg_wf, if_neg (by omega), ← Dev.rf]

/-! ### Rings that stop -/

/-- From `d` to `e` rings may have stopped; the module has kept its place in the fabric, and no ring has left that state. -/
structure Dev.stopsMore (d e : Dev) : Prop where
  node : e.fab.node = d.fab.node
  ing : e.fab.ing = d.fab.ing
  jobStops : e.fab.jobStops = d.fab.jobStops
  packets : e.out.filter Out.isFabric = d.out.filter Out.isFabric
  stops : e.rf F.FAB_EVENTS_STOPS = d.rf F.FAB_EVENTS_STOPS
  ingress : e.rf F.FAB_ING_STOP_STOPPED = d.rf F.FAB_ING_STOP_STOPPED
  active : ∀ n, n < 256 → e.rb (F.QUE_RSTAT_ACTIVE n) = d.rb (F.QUE_RSTAT_ACTIVE n)
  ringClass : ∀ n, 64 ≤ n → n < 256 → e.ringClass n = d.ringClass n
  stopped : ∀ n, n < 256 → d.rb (F.QUE_RSTAT_STOPPED n) = true → e.rb (F.QUE_RSTAT_STOPPED n) = true

theorem Dev.stopsMore_of_moorings {d e : Dev} (h : e.moorings = d.moorings) : d.stopsMore e where
  node := Dev.node_of_moorings h
  ing := Dev.ing_of_moorings h
  jobStops := Dev.jobStops_of_moorings h
  packets := Dev.packets_of_moorings h
  stops := Dev.rf_of_moorings h .stops
  ingress := Dev.rf_of_moorings h .ingress
  active n hn := by rw [Dev.rb, Dev.rf_of_moorings h (.ringActive hn), Dev.rb]
  ringClass n other hn := Dev.rf_of_moorings h (.ringClass other hn)
  stopped n hn was := by rwa [Dev.rb, Dev.rf_of_moorings h (.ringStopped hn), ← Dev.rb]

theorem Dev.stopsMore.trans {a b c : Dev} (hab : a.stopsMore b) (hbc : b.stopsMore c) : a.stopsMore c where
  node := hbc.node.trans hab.node
  ing := hbc.ing.trans hab.ing
  jobStops := hbc.jobStops.trans hab.jobStops
  packets := hbc.packets.trans hab.packets
  stops := hbc.stops.trans hab.stops
  ingress := hbc.ingress.trans hab.ingress
  active n hn := (hbc.active n hn).trans (hab.active n hn)
  ringClass n other hn := (hbc.ringClass n other hn).trans (hab.ringClass n other hn)
  stopped n hn was := hbc.stopped n hn (hab.stopped n hn was)

theorem Dev.stopsMore_foldl {α : Type} (f : Dev → α → Dev) (l : List α) (h : ∀ e x, x ∈ l → Dev.stopsMore e (f e x)) (d : Dev) :
    d.stopsMore (l.foldl f d) :=
  List.foldlRecOn l f (Dev.stopsMore_of_moorings rfl) (fun e sofar x hx => sofar.trans (h e x hx))

/-- The fields that stopping ring `n` writes are those of its status word. -/
theorem Dev.rf_stopRing (d : Dev) {n status : Nat} {f : Fld} (word : f.inWord) (stopped : f.apart (F.QUE_RSTAT_STOPPED n))
    (why : f.apart (F.QUE_RSTAT_STOP_STATUS n)) : (d.stopRing n status).rf f = d.rf f := by
  rw [Dev.stopRing, Dev.rf_wf_apart _ _ word why, Dev.rf_wb_apart _ _ word stopped]

theorem Dev.stopRing_stops (d : Dev) (n status : Nat) : (d.stopRing n status).rb (F.QUE_RSTAT_STOPPED n) = true := by
  rw [Dev.stopRing, Dev.rb_wf_apart _ _ (show 32 + 1 ≤ 64 by decide) (fun _ => .inr (show 32 + 1 ≤ 40 by decide))]
  exact d.rb_wb_same _ (show 32 + 1 ≤ 64 by decide) rfl

theorem Dev.stopsMore_stopRing (d : Dev) {n : Nat} (hn : n < 512) (status : Nat) : d.stopsMore (d.stopRing n status) := by
  have off (m : Nat) : (F.QUE_RSTAT_STOPPED m).off = 0xD00038 + 0x40 * m := rfl
  have away {f : Fld} (word : f.inWord) (h : f.off ≠ 0xD00038 + 0x40 * n) : (d.stopRing n status).rf f = d.rf f :=
    d.rf_stopRing word (fun same => absurd same h) (fun same => absurd same h)
  refine ⟨rfl, rfl, rfl, rfl, away (by decide) (show 0xE00418 ≠ _ by omega), away (by decide) (show 0xE00430 ≠ _ by omega), fun m _ => ?_,
    fun m _ _ => away (show 1 + 2 ≤ 64 by decide) (show 0xD00030 + 0x40 * m ≠ _ by omega), fun m _ was => ?_⟩
  · rw [Dev.rb, d.rf_stopRing (f := F.QUE_RSTAT_ACTIVE m) (show 33 + 1 ≤ 64 by decide) (fun _ => .inl (show 32 + 1 ≤ 33 by decide)) (fun _ => .inr (show 33 + 1 ≤ 40 by decide)),
      Dev.rb]
  · by_cases same : m = n
    · rw [same]
      exact d.stopRing_stops n status
    · rwa [Dev.rb, away (show 32 + 1 ≤ 64 by decide) (show 0xD00038 + 0x40 * m ≠ _ by omega), ← Dev.rb]

/-! ### A partition that stops -/

/-- Where the step of one element makes `P`, from states in which `Q` holds: every step keeps both, so the fold makes `P`. -/
theorem foldl_reaches {α σ : Type} {f : σ → α → σ} (Q P : σ → Prop) {l : List α} {a : α} (keep : ∀ e x, x ∈ l → Q e → Q (f e x))
    (stay : ∀ e x, x ∈ l → P e → P (f e x)) (make : ∀ e, Q e → P (f e a)) (mem : a ∈ l) {d : σ} (start : Q d) : P (l.foldl f d) := by
  obtain ⟨before, after, rfl⟩ := List.append_of_mem mem
  rw [List.foldl_append, List.foldl_cons]
  have ready : Q (before.foldl f d) := List.foldlRecOn before f start (fun e h x hx => keep e x (by simp [hx]) h)
  exact List.foldlRecOn after f (make _ ready) (fun e h x hx => stay e x (by simp [hx]) h)

/-- The rings of partition `p` that a job stop stops (R528). -/
def Dev.stopRings (d : Dev) (p : Nat) : Dev :=
  (List.range 64).foldl (fun d r =>
    if d.rb (F.QUE_RSTAT_ACTIVE (ringIndex p r)) && decide (d.ringClass (ringIndex p r) ≠ 3) then d.stopRing (ringIndex p r) 0x30 else d) d

theorem Dev.stopPart_eq (d : Dev) (p : Nat) : d.stopPart p = (((d.srvKill p).stopRings p).killAll (fun it => decide (it.part = p)
    && (decide (it.engine ≠ .service) || (decide (it.desc.opcode = 0x65) && decide (it.place = .running)))) 0x30).csaFollow d := rfl

section
variable (d : Dev) {p : Nat}

theorem Dev.stopsMore_stopRings (hp : p < 8) : d.stopsMore (d.stopRings p) := by
  refine Dev.stopsMore_foldl _ _ (fun e r hr => ?_) d
  have bound := List.mem_range.1 hr
  split
  · exact e.stopsMore_stopRing (by unfold ringIndex; omega) _
  · exact Dev.stopsMore_of_moorings rfl

theorem Dev.stopsMore_stopPart (hp : p < 8) : d.stopsMore (d.stopPart p) := by
  have ended := Dev.stopsMore_of_moorings ((Dev.moorings_overlooksService hp).srvKill d)
  refine (ended.trans (Dev.stopsMore_stopRings _ hp)).trans (Dev.stopsMore_of_moorings ?_)
  rw [Dev.stopPart_eq, Dev.csaFollow_moorings, Dev.killAll_moorings]

/-- The status word and the control word of a ring are kept when other rings stop. -/
theorem Dev.ringClass_stopRing {n m : Nat} (status : Nat) : (d.stopRing n status).ringClass m = d.ringClass m :=
  d.rf_stopRing (show 1 + 2 ≤ 64 by decide) (fun same => absurd same (show 0xD00030 + 0x40 * m ≠ 0xD00038 + 0x40 * n by omega))
    (fun same => absurd same (show 0xD00030 + 0x40 * m ≠ 0xD00038 + 0x40 * n by omega))

/-- Every active ring of the partition stops, but for its service rings (R528). -/
theorem Dev.stopRings_stops (hp : p < 4) {r : Nat} (hr : r < 64) (active : d.rb (F.QUE_RSTAT_ACTIVE (ringIndex p r)) = true)
    (other : d.ringClass (ringIndex p r) ≠ 3) : (d.stopRings p).rb (F.QUE_RSTAT_STOPPED (ringIndex p r)) = true := by
  have mine : ringIndex p r < 256 := by unfold ringIndex; omega
  have index (x : Nat) (hx : x ∈ List.range 64) : ringIndex p x < 256 ∧ ringIndex p x < 512 := by
    have bound := List.mem_range.1 hx
    unfold ringIndex
    omega
  refine foldl_reaches (fun e : Dev => e.rb (F.QUE_RSTAT_ACTIVE (ringIndex p r)) = true ∧ e.ringClass (ringIndex p r) ≠ 3)
    (fun e : Dev => e.rb (F.QUE_RSTAT_STOPPED (ringIndex p r)) = true) (fun e x hx ready => ?_) (fun e x hx stopped => ?_) (fun e ready => ?_)
    (List.mem_range.2 hr) ⟨active, other⟩
  · obtain ⟨on, cls⟩ := ready
    split
    · exact ⟨((e.stopsMore_stopRing (index x hx).2 0x30).active _ mine).trans on, by rwa [Dev.ringClass_stopRing]⟩
    · exact ⟨on, cls⟩
  · split
    · exact (e.stopsMore_stopRing (index x hx).2 0x30).stopped _ mine stopped
    · exact stopped
  · obtain ⟨on, cls⟩ := ready
    rw [if_pos (by rw [on, decide_eq_true cls]; rfl)]
    exact e.stopRing_stops _ _

/-- The rings that a partition's stop must stop (R528). -/
theorem Dev.stopPart_stops (hp : p < 4) {r : Nat} (hr : r < 64) (active : d.rb (F.QUE_RSTAT_ACTIVE (ringIndex p r)) = true)
    (other : d.ringClass (ringIndex p r) ≠ 3) : (d.stopPart p).rb (F.QUE_RSTAT_STOPPED (ringIndex p r)) = true := by
  have mine : ringIndex p r < 256 := by unfold ringIndex; omega
  have killed := Dev.stopsMore_of_moorings ((Dev.moorings_overlooksService (p := p) (by omega)).srvKill d)
  have cls : (d.srvKill p).ringClass (ringIndex p r) = d.ringClass (ringIndex p r) :=
    (Dev.ringField_overlooksService (by omega) mine (f := F.QUE_RCTL_CLASS _)
      (show Reg.QUE_RBASE (ringIndex p r) ≤ Reg.QUE_RCTL (ringIndex p r) by unfold Reg.QUE_RBASE Reg.QUE_RCTL; omega)
      (show Reg.QUE_RCTL (ringIndex p r) ≤ Reg.QUE_RSTAT (ringIndex p r) by unfold Reg.QUE_RCTL Reg.QUE_RSTAT; omega)).srvKill d
  have stopped := (d.srvKill p).stopRings_stops hp hr ((killed.active _ mine).trans active) (by rwa [cls])
  rw [Dev.stopPart_eq]
  refine (Dev.stopsMore_of_moorings ?_).stopped _ mine stopped
  rw [Dev.csaFollow_moorings, Dev.killAll_moorings]

end

end Sys2Proof.Machine
end

section
/-!
Proofs, job stops (R528): a new job stop is recorded, sent on, and stops the partitions and the ingress entries of its job.
-/
namespace Sys2Proof.Machine

/-! ### Sending a stop on -/

/-- `e` is `d` after packets have been put on ports: the links, the counts of events and what has left the module may differ. -/
structure Dev.floods (d e : Dev) : Prop where
  fab : e.fab = { d.fab with links := e.fab.links }
  rf : ∀ f : Fld, countReg f.off = false → e.rf f = d.rf f
  out : ∀ o ∈ d.out, o ∈ e.out

theorem Dev.floods_refl (d : Dev) : d.floods d := ⟨rfl, fun _ _ => rfl, fun _ ho => ho⟩

theorem Dev.floods.trans {a b c : Dev} (hab : a.floods b) (hbc : b.floods c) : a.floods c :=
  ⟨by rw [hbc.fab, hab.fab], fun f h => (hbc.rf f h).trans (hab.rf f h), fun o ho => hbc.out o (hab.out o ho)⟩

theorem Dev.sends.floods {d e : Dev} (h : d.sends e) : d.floods e := by
  obtain ⟨os, out, -⟩ := h.out
  exact ⟨h.fab, fun _ hf => h.rf hf, fun o ho => by rw [out]; exact List.mem_append_left _ ho⟩

/-- A packet of a known kind is handed to its port and leaves on the link (R510). -/
theorem Dev.putOnPort_eq (d : Dev) (n : Nat) (b : Bool) {pkt : Packet} {c : Nat} (known : kindClass pkt.kind = some c) :
    d.putOnPort n b pkt = (d.emit (.fabric n pkt)).transmit n (2 * c + b2n b) pkt.bytes := by
  unfold Dev.putOnPort
  rw [known]

theorem Dev.floods_putOnPort (d : Dev) {n : Nat} (hn : n < 6) (b : Bool) (pkt : Packet) : d.floods (d.putOnPort n b pkt) := by
  have handed : d.floods (d.emit (.fabric n pkt)) := ⟨rfl, fun _ _ => rfl, fun o ho => List.mem_append_left _ ho⟩
  unfold Dev.putOnPort
  split
  · exact handed.trans (Dev.sends_transmit _ (by omega) _ _).floods
  · exact d.floods_refl

theorem Dev.floods.ownNode {d e : Dev} (h : d.floods e) : e.ownNode = d.ownNode := by rw [Dev.ownNode, h.fab, Dev.ownNode]

/-- Only a port's status says whether it runs. -/
theorem Dev.floods.portRunning {d e : Dev} (h : d.floods e) {n : Nat} (hn : n < 6) : e.portRunning n = d.portRunning n := by
  have plain : countReg (F.FAB_PORT_STAT_STATE n).off = false :=
    countReg_low (show 0xE00040 + 0x8 * n ≠ Reg.SPL_EVENTS by unfold Reg.SPL_EVENTS; omega) (show 0xE00040 + 0x8 * n < _ by omega)
  rw [Dev.portRunning, h.rf _ plain, Dev.portRunning]

/-- A job stop goes out on every running port but the one it came on. -/
def Dev.flood (d : Dev) (job id : Nat) (port : Option Nat) : Dev :=
  (List.range 6).foldl (fun d n =>
    if d.portRunning n && decide (port ≠ some n) then d.putOnPort n false { kind := 0xF, src := d.ownNode, job := job, aux := id } else d) d

section
variable (d : Dev) (job id : Nat) (port : Option Nat)

theorem Dev.floods_step (e : Dev) {n : Nat} (hn : n < 6) : e.floods (if e.portRunning n && decide (port ≠ some n) then
    e.putOnPort n false { kind := 0xF, src := e.ownNode, job := job, aux := id } else e) := by
  split
  · exact e.floods_putOnPort hn _ _
  · exact e.floods_refl

theorem Dev.floods_flood : d.floods (d.flood job id port) :=
  List.foldlRecOn _ _ d.floods_refl (fun e sofar _ hx => sofar.trans (Dev.floods_step job id port e (List.mem_range.1 hx)))

theorem Dev.flood_out {n : Nat} (hn : n < 6) (running : d.portRunning n = true) (other : port ≠ some n) :
    Out.fabric n { kind := 0xF, src := d.ownNode, job := job, aux := id } ∈ (d.flood job id port).out := by
  refine foldl_reaches (fun e : Dev => d.floods e) (fun e : Dev => Out.fabric n { kind := 0xF, src := d.ownNode, job := job, aux := id } ∈ e.out)
    (fun e x hx sofar => sofar.trans (Dev.floods_step job id port e (List.mem_range.1 hx)))
    (fun e x hx sent => (Dev.floods_step job id port e (List.mem_range.1 hx)).out _ sent) (fun e sofar => ?_) (List.mem_range.2 hn) d.floods_refl
  rw [if_pos (by rw [sofar.portRunning hn, running, decide_eq_true other]; rfl), sofar.ownNode, Dev.putOnPort_eq _ _ _ (c := 3) rfl]
  exact (Dev.sends_transmit _ (by omega) _ _).floods.out _ (List.mem_append_right _ (List.mem_singleton_self _))

end

/-! ### Ingress entries -/

/-- The ingress entries of the job are stopped (R516, R528). -/
def Dev.stopIngress (d : Dev) (job : Nat) : Dev :=
  (List.range 64).foldl (fun d i => if bitsAt (SMap.get (fun _ => 0) d.fab.ing i) 0 16 = job then d.wbit F.FAB_ING_STOP_STOPPED i true else d) d

section
variable (d : Dev) (job : Nat)

/-- Stopping the ingress entries of a job writes their stop bits alone. -/
theorem Dev.stopIngress_fab : (d.stopIngress job).fab = d.fab :=
  foldl_keep Dev.fab _ (fun e i => by split <;> rfl) _ _

theorem Dev.stopIngress_out : (d.stopIngress job).out = d.out :=
  foldl_keep Dev.out _ (fun e i => by split <;> rfl) _ _

theorem Dev.stopIngress_rf {f : Fld} (h : f.off ≠ F.FAB_ING_STOP_STOPPED.off) : (d.stopIngress job).rf f = d.rf f := by
  refine foldl_keep (fun e : Dev => e.rf f) _ (fun e i => ?_) _ _
  split
  · exact Dev.rf_wb_elsewhere e true h
  · rfl

theorem Dev.stopIngress_rbit {i : Nat} (hi : i < 64) : (d.stopIngress job).rbit F.FAB_ING_STOP_STOPPED i =
    (d.rbit F.FAB_ING_STOP_STOPPED i || decide (bitsAt (SMap.get (fun _ => 0) d.fab.ing i) 0 16 = job)) := by
  have bits (l : List Nat) (sub : ∀ x ∈ l, x < 64) (e : Dev) (same : e.fab = d.fab) :
      (l.foldl (fun d i => if bitsAt (SMap.get (fun _ => 0) d.fab.ing i) 0 16 = job then d.wbit F.FAB_ING_STOP_STOPPED i true else d) e).rbit
        F.FAB_ING_STOP_STOPPED i = (e.rbit F.FAB_ING_STOP_STOPPED i || (l.contains i && decide (bitsAt (SMap.get (fun _ => 0) d.fab.ing i) 0 16 = job))) := by
    induction l generalizing e with
    | nil => simp
    | cons x xs ih =>
      have hx := sub x (by simp)
      rw [List.foldl_cons, ih (fun y hy => sub y (by simp [hy])) _ (by split <;> exact same), same]
      by_cases own : bitsAt (SMap.get (fun _ => 0) d.fab.ing x) 0 16 = job
      · rw [if_pos own, e.rbit_wbit (by decide) hx hi]
        by_cases at' : i = x
        · subst at'
          simp [own]
        · simp [at']
      · rw [if_neg own]
        by_cases at' : i = x
        · subst at'
          simp [own]
        · simp [at']
  rw [Dev.stopIngress, bits _ (fun x hx => List.mem_range.1 hx) d rfl]
  simp [hi]

end

/-! ### The stop -/

section
variable (d : Dev) (job id : Nat) (port : Option Nat)

/-- A job stop that the module knows changes nothing (R528). -/
theorem Dev.jobStop_known (known : d.fab.jobStops.contains (job, id) = true) : d.jobStop job id port = d := if_pos known

/-- The module that has noted a new job stop among the last 16. -/
def Dev.stopNoted : Dev :=
  let stops := d.fab.jobStops ++ [(job, id)]
  ({ d with fab := { d.fab with jobStops := stops.drop (stops.length - 16) } } : Dev).bump F.FAB_EVENTS_STOPS 1

/-- The partitions of the job. -/
def Dev.jobParts : List Nat := (List.range d.parts).filter (fun p => decide (d.jobOf p = job))

/-- The module in which the partitions of the job have stopped, after the record `r`. -/
def Dev.partsStopped (r : ErrRec) : Dev := (d.jobParts job).foldl (fun d p => d.stopPart p) (d.postError r)

theorem Dev.jobStop_new (new : d.fab.jobStops.contains (job, id) = false) :
    ∃ r : ErrRec, d.jobStop job id port = (((d.stopNoted job id).flood job id port).partsStopped job r).stopIngress job :=
  ⟨_, if_neg (by rw [new]; exact Bool.false_ne_true)⟩

theorem Dev.stopNoted_fab : (d.stopNoted job id).fab =
    { d.fab with jobStops := (d.fab.jobStops ++ [(job, id)]).drop ((d.fab.jobStops ++ [(job, id)]).length - 16) } := by
  simp only [Dev.stopNoted, Dev.bump_fab]

theorem Dev.stopNoted_rf {f : Fld} (h : f.off ≠ F.FAB_EVENTS_STOPS.off) : (d.stopNoted job id).rf f = d.rf f := by
  rw [Dev.stopNoted, Dev.bump, if_neg (by decide), Dev.rf, Dev.reg_wf, if_neg h, ← Dev.rf]
  rfl

/-- What a new job stop leaves as it was before the partitions are stopped: all but FAB_EVENTS and the counts of events. -/
theorem Dev.rf_flooded {f : Fld} (plain : countReg f.off = false) (h : f.off ≠ F.FAB_EVENTS_STOPS.off) :
    ((d.stopNoted job id).flood job id port).rf f = d.rf f :=
  (((d.stopNoted job id).floods_flood job id port).rf f plain).trans (d.stopNoted_rf job id h)

theorem Dev.parts_le : d.parts ≤ 8 := by
  have layout := d.rf_lt F.PRT_LAYOUT_ACTIVE
  exact Nat.pow_le_pow_right (by decide) (Nat.le_of_lt_succ (show d.layout < 4 from layout))

theorem Dev.jobParts_lt {p : Nat} (h : p ∈ d.jobParts job) : p < 8 := by
  have le := d.parts_le
  have mem := List.mem_range.1 (List.mem_filter.1 h).1
  omega

theorem Dev.jobParts_flooded {p : Nat} : p ∈ ((d.stopNoted job id).flood job id port).jobParts job ↔ p < d.parts ∧ d.rf (F.PRT_PART_JOB p) = job := by
  have layout := d.rf_flooded job id port (f := F.PRT_LAYOUT_ACTIVE) (by decide) (by decide)
  have parts : ((d.stopNoted job id).flood job id port).parts = d.parts := congrArg (2 ^ ·) layout
  rw [Dev.jobParts, List.mem_filter, List.mem_range, parts, decide_eq_true_eq]
  refine and_congr_right fun hp => ?_
  have le := d.parts_le
  have plain : countReg (F.PRT_PART_JOB p).off = false :=
    countReg_low (show 0x300020 + 0x8 * p ≠ Reg.SPL_EVENTS by unfold Reg.SPL_EVENTS; omega) (show 0x300020 + 0x8 * p < _ by omega)
  rw [Dev.jobOf, d.rf_flooded job id port plain (show 0x300020 + 0x8 * p ≠ 0xE00418 by omega)]

theorem Dev.jobParts_head (h : 0 ∈ d.jobParts job) : (d.jobParts job).head? = some 0 := by
  obtain ⟨n, parts⟩ : ∃ n, d.parts = n + 1 := ⟨d.parts - 1, by have := Nat.two_pow_pos d.layout; unfold Dev.parts; omega⟩
  have own := (List.mem_filter.1 h).2
  rw [Dev.jobParts, parts, List.range_succ_eq_map, List.filter_cons, if_pos own]
  rfl

end

/-- Ring `n` is one that a job stop stops (R528). -/
def Dev.mustStop (d : Dev) (n : Nat) : Prop := d.rb (F.QUE_RSTAT_ACTIVE n) = true ∧ d.ringClass n ≠ 3

/-- The partitions of a job that stop in turn: each stops its rings, and no ring leaves that state. Partition 0 is the first to stop. -/
theorem Dev.stopParts_stops (d : Dev) {l : List Nat} (hl : ∀ p ∈ l, p < 8) {q : Nat} (hq : q ∈ l) (hq4 : q < 4) (first : q = 0 → l.head? = some 0)
    {r : Nat} (hr : r < 64) (active : d.rb (F.QUE_RSTAT_ACTIVE (ringIndex q r)) = true) (other : d.ringClass (ringIndex q r) ≠ 3) :
    (l.foldl (fun d p => d.stopPart p) d).rb (F.QUE_RSTAT_STOPPED (ringIndex q r)) = true := by
  have mine : ringIndex q r < 256 := by unfold ringIndex; omega
  by_cases zero : q = 0
  · obtain ⟨xs, rfl⟩ : ∃ xs, l = 0 :: xs := by
      cases l with
      | nil => cases hq
      | cons x xs => exact ⟨xs, by rw [Option.some.inj (first zero)]⟩
    subst zero
    have later := Dev.stopsMore_foldl (fun d p => d.stopPart p) xs (fun e p hp => e.stopsMore_stopPart (hl p (by simp [hp]))) (d.stopPart 0)
    have now := d.stopPart_stops hq4 hr active other
    rw [List.foldl_cons]
    exact later.stopped _ mine now
  · have keep (e : Dev) (p : Nat) (hp : p ∈ l) (ready : e.mustStop (ringIndex q r)) : (e.stopPart p).mustStop (ringIndex q r) := by
      obtain ⟨on, cls⟩ := ready
      have more := e.stopsMore_stopPart (hl p hp)
      exact ⟨(more.active _ mine).trans on, by rwa [more.ringClass _ (by unfold ringIndex; omega) mine]⟩
    have stay (e : Dev) (p : Nat) (hp : p ∈ l) (stopped : e.rb (F.QUE_RSTAT_STOPPED (ringIndex q r)) = true) :=
      (e.stopsMore_stopPart (hl p hp)).stopped _ mine stopped
    have make (e : Dev) (ready : e.mustStop (ringIndex q r)) := e.stopPart_stops hq4 hr ready.1 ready.2
    exact foldl_reaches (f := fun (d : Dev) p => d.stopPart p) (fun e : Dev => e.mustStop (ringIndex q r))
      (fun e : Dev => e.rb (F.QUE_RSTAT_STOPPED (ringIndex q r)) = true) keep stay make hq ⟨active, other⟩

section
variable (d : Dev) (job id : Nat) (port : Option Nat)

theorem Dev.stopsMore_partsStopped (r : ErrRec) : d.stopsMore (d.partsStopped job r) := by
  have noted : d.stopsMore (d.postError r) := Dev.stopsMore_of_moorings (d.postError_moorings r)
  exact noted.trans (Dev.stopsMore_foldl (fun d p => d.stopPart p) _ (fun e p hp => e.stopsMore_stopPart (d.jobParts_lt job hp)) _)

theorem Dev.partsStopped_stops (rec : ErrRec) {q r : Nat} (hit : q ∈ d.jobParts job) (hq : q < 4) (hr : r < 64) (must : d.mustStop (ringIndex q r)) :
    (d.partsStopped job rec).rb (F.QUE_RSTAT_STOPPED (ringIndex q r)) = true := by
  obtain ⟨active, other⟩ := must
  have mine : ringIndex q r < 256 := by unfold ringIndex; omega
  have cls : (d.postError rec).ringClass (ringIndex q r) = d.ringClass (ringIndex q r) :=
    d.rf_postError rec (show 0xD00030 + 0x40 * ringIndex q r ≠ Reg.ERR_STATUS by unfold Reg.ERR_STATUS; omega)
  refine (d.postError rec).stopParts_stops (fun p hp => d.jobParts_lt job hp) hit hq (fun zero => d.jobParts_head job (zero ▸ hit)) hr ?_ (by rwa [cls])
  rwa [Dev.rb, d.rf_postError rec (Fld.steady.ringActive mine).plain.2, ← Dev.rb]

/-- What a new job stop leaves (R528): the stop among the last 16, its packets on the running ports, the stopped ingress entries, the stopped rings. -/
theorem Dev.jobStop_spec (new : d.fab.jobStops.contains (job, id) = false) :
    let e := d.jobStop job id port
    let stops := d.fab.jobStops ++ [(job, id)]
    e.fab.jobStops = stops.drop (stops.length - 16) ∧ e.rf F.FAB_EVENTS_STOPS = (d.rf F.FAB_EVENTS_STOPS + 1) % 2 ^ 8
      ∧ (∀ n, n < 6 → d.portRunning n = true → port ≠ some n → Out.fabric n { kind := 0xF, src := d.ownNode, job := job, aux := id } ∈ e.out)
      ∧ (∀ i, i < 64 → e.rbit F.FAB_ING_STOP_STOPPED i = (d.rbit F.FAB_ING_STOP_STOPPED i
          || decide (bitsAt (SMap.get (fun _ => 0) d.fab.ing i) 0 16 = job)))
      ∧ ∀ q r, q < d.parts → q < 4 → r < 64 → d.rf (F.PRT_PART_JOB q) = job → d.rb (F.QUE_RSTAT_ACTIVE (64 * q + r)) = true → d.ringClass (64 * q + r) ≠ 3 →
          e.rb (F.QUE_RSTAT_STOPPED (64 * q + r)) = true := by
  intro e stops
  obtain ⟨rec, left⟩ := d.jobStop_new job id port new
  have flooded := (d.stopNoted job id).floods_flood job id port
  have ports {n : Nat} := (d.stopNoted job id).flood_out job id port (n := n)
  have kept {f : Fld} := d.rf_flooded job id port (f := f)
  have parts {p : Nat} := d.jobParts_flooded job id port (p := p)
  generalize (d.stopNoted job id).flood job id port = a at flooded ports kept parts left
  have stopped := a.stopsMore_partsStopped job rec
  have rings {q r : Nat} := a.partsStopped_stops job rec (q := q) (r := r)
  generalize a.partsStopped job rec = b at stopped left rings
  have fab : b.fab.ing = d.fab.ing := by rw [stopped.ing, flooded.fab, Dev.stopNoted_fab]
  rw [show e = b.stopIngress job from left]
  refine ⟨?_, ?_, fun n hn running other => ?_, fun i hi => ?_, fun q r hq hq4 hr own active other => ?_⟩
  · rw [Dev.stopIngress_fab, stopped.jobStops, flooded.fab, Dev.stopNoted_fab]
  · rw [Dev.stopIngress_rf _ _ (by decide), stopped.stops, flooded.rf _ (by decide)]
    exact Dev.rf_bump_one _ (by decide)
  · have noted : (d.stopNoted job id).portRunning n = true := by
      rwa [Dev.portRunning, d.stopNoted_rf job id (show 0xE00040 + 0x8 * n ≠ 0xE00418 by omega), ← Dev.portRunning]
    have own : (d.stopNoted job id).ownNode = d.ownNode := by rw [Dev.ownNode, Dev.stopNoted_fab, Dev.ownNode]
    have sent := ports hn noted other
    rw [own] at sent
    have packet := (List.mem_filter (p := Out.isFabric)).2 ⟨sent, rfl⟩
    rw [← stopped.packets] at packet
    rw [Dev.stopIngress_out]
    exact List.mem_of_mem_filter packet
  · rw [Dev.stopIngress_rbit _ _ hi, fab, Dev.rbit, stopped.ingress, kept (by decide) (by decide), ← Dev.rbit]
  · have mine : 64 * q + r < 256 := by omega
    have on : a.rb (F.QUE_RSTAT_ACTIVE (64 * q + r)) = true := by
      rwa [Dev.rb, kept (Fld.steady.ringActive mine).plain.1 (show 0xD00038 + 0x40 * (64 * q + r) ≠ 0xE00418 by omega), ← Dev.rb]
    have plain : countReg (F.QUE_RCTL_CLASS (64 * q + r)).off = false :=
      countReg_low (show 0xD00030 + 0x40 * (64 * q + r) ≠ Reg.SPL_EVENTS by unfold Reg.SPL_EVENTS; omega)
        (show 0xD00030 + 0x40 * (64 * q + r) < 0x1102000 by omega)
    have cls : a.ringClass (64 * q + r) = d.ringClass (64 * q + r) := kept plain (show 0xD00030 + 0x40 * (64 * q + r) ≠ 0xE00418 by omega)
    rw [Dev.rb, Dev.stopIngress_rf _ _ (show 0xD00038 + 0x40 * (64 * q + r) ≠ 0xE00430 by omega), ← Dev.rb]
    exact rings (parts.2 ⟨hq, own⟩) hq4 hr ⟨on, by rwa [show a.ringClass (ringIndex q r) = _ from cls]⟩

end

end Sys2Proof.Machine
end

section
/-!
Proofs, weight digests (R596 to R598): what a digest record leaves, and how a complete pass is compared.
-/
namespace Sys2Proof.Machine

/-! ### A digest record -/

theorem Dev.sends_takePacket (d : Dev) (port : Nat) (p : Packet) : d.sends (d.takePacket port p) := by
  unfold Dev.takePacket
  dsimp only
  split
  · unfold Dev.returnCredits
    dsimp only
    exact (d.sends_setLink port _).trans (Dev.sends_ite (Dev.sends_refl _) ((Dev.sends_setLink _ _ _).trans (Dev.sends_emit _ rfl)))
  · exact d.sends_refl

section
variable {d e : Dev} (h : d.sends e)
include h

theorem Dev.sends.grpA (g : Nat) : e.grpA g = d.grpA g := by rw [Dev.grpA, h.col, Dev.grpA]
theorem Dev.sends.grpB (g : Nat) : e.grpB g = d.grpB g := by rw [Dev.grpB, h.col, Dev.grpB]

/-- The checks of R553 read the groups, the place in the fabric and the state of the rings. -/
theorem Dev.sends.colHead (p : Packet) : e.colHead p = d.colHead p := by
  have coord : e.coordValid = d.coordValid := by rw [Dev.coordValid, h.fab, Dev.coordValid]
  have dims : e.fab.dims = d.fab.dims := by rw [h.fab]
  have valid (g : Nat) : e.grpValid g = d.grpValid g := by
    simp only [Dev.grpValid, Dev.grpRank, Dev.grpSize, Dev.grpNext, Dev.grpPrev, h.grpA, h.grpB, coord, dims]
    rfl
  have stopped (q : Nat) (hq : q < 4) : e.colStopped q = d.colStopped q := by
    unfold Dev.colStopped
    rw [Bool.eq_iff_iff, List.any_eq_true, List.any_eq_true]
    refine exists_congr fun r => and_congr_right fun hr => ?_
    have mine : ringIndex q r < 256 := by have := List.mem_range.1 hr; unfold ringIndex; omega
    have word {f : Fld} (lo : Reg.QUE_RCTL (ringIndex q r) ≤ f.off) (hi : f.off ≤ Reg.QUE_RSTAT (ringIndex q r)) : e.rf f = d.rf f :=
      h.rf (ringReg_plain mine (le_trans (by unfold Reg.QUE_RBASE Reg.QUE_RCTL; omega) lo) hi).1
    have below : Reg.QUE_RCTL (ringIndex q r) ≤ Reg.QUE_RSTAT (ringIndex q r) := by unfold Reg.QUE_RCTL Reg.QUE_RSTAT; omega
    have cls : e.ringClass (ringIndex q r) = d.ringClass (ringIndex q r) := word le_rfl below
    have stop : e.rf (F.QUE_RSTAT_STOPPED (ringIndex q r)) = d.rf (F.QUE_RSTAT_STOPPED (ringIndex q r)) := word below le_rfl
    have why : e.rf (F.QUE_RSTAT_STOP_STATUS (ringIndex q r)) = d.rf (F.QUE_RSTAT_STOP_STATUS (ringIndex q r)) := word below le_rfl
    dsimp only
    rw [cls, Dev.rb, stop, why, ← Dev.rb]
  have part : d.grpPart (colGrp p) < 4 := Nat.mod_lt _ (by decide)
  have own (g : Nat) : e.grpPart g = d.grpPart g := by rw [Dev.grpPart, h.grpA, Dev.grpPart]
  unfold Dev.colHead
  dsimp only
  rw [valid, own, stopped _ part, Dev.grpJob, Dev.grpGen, h.grpB, ← Dev.grpJob, ← Dev.grpGen]

end

section
variable {d e : Dev} (h : e.moorings = d.moorings) (g : Nat)
include h

/-- What a group's entries say follows from the moorings. -/
theorem Dev.grpA_moored : e.grpA g = d.grpA g := by rw [Dev.grpA, Dev.grpA_of_moorings h, Dev.grpA]
theorem Dev.grpB_moored : e.grpB g = d.grpB g := by rw [Dev.grpB, Dev.grpB_of_moorings h, Dev.grpB]
theorem Dev.grpRank_moored : e.grpRank g = d.grpRank g := by rw [Dev.grpRank, Dev.grpA_moored h, Dev.grpRank]
theorem Dev.grpNext_moored : e.grpNext g = d.grpNext g := by rw [Dev.grpNext, Dev.grpA_moored h, Dev.grpNext]
theorem Dev.grpPrev_moored : e.grpPrev g = d.grpPrev g := by rw [Dev.grpPrev, Dev.grpA_moored h, Dev.grpPrev]
theorem Dev.grpSize_moored : e.grpSize g = d.grpSize g := by rw [Dev.grpSize, Dev.grpB_moored h, Dev.grpSize]

omit g in
theorem Dev.ownNode_moored : e.ownNode = d.ownNode := by rw [Dev.ownNode, Dev.node_of_moorings h, Dev.ownNode]

end

/-- Noting a digest record writes the table and the pass: the groups and the place in the fabric stay (R597). -/
theorem Dev.digNote_moorings (d : Dev) (g r dig gen : Nat) : (d.digNote g r dig gen).moorings = d.moorings := d.physParts_moorings ..

section
variable (d : Dev) {port : Nat} {p : Packet} (hport : port < 6) (running : d.portRunning port = true) (mine : d.forMe p = true) (kind : p.kind = 0xC)
  (sub : p.sub = 6)
include hport running mine kind sub

/-- A digest record for this module (R597): the checks of R553 decide first. -/
theorem Dev.digestRecord_taken : cmdDigestRecord port p d =
    match d.colHead p with
    | some true => (d.takePacket port p).bump F.COL_EVENTS_STALE 1
    | some false => (d.takePacket port p).bump F.COL_EVENTS_DROP 1
    | none =>
      if p.src ≠ d.grpPrev (colGrp p) ∨ d.grpSize (colGrp p) ≤ colIndex p then (d.takePacket port p).bump F.COL_EVENTS_DROP 1
      else
        let e := (d.takePacket port p).digNote (colGrp p) (colIndex p) (leNat (p.payload.take 32)) (leNat ((p.payload.drop 32).take 4))
        (if colIndex p = (d.grpRank (colGrp p) + 1) % d.grpSize (colGrp p) then e
          else e.sendOn { p with dst := d.grpNext (colGrp p), src := d.ownNode } none).digFinish (colGrp p) := by
  have taken := d.sends_takePacket port p
  have head := taken.colHead p
  have noted := (d.takePacket port p).digNote_moorings (colGrp p) (colIndex p) (leNat (p.payload.take 32)) (leNat ((p.payload.drop 32).take 4))
  have arrives : ¬((!d.arrives port 0xC p || decide (p.sub ≠ 6) || !d.forMe p) = true) := by
    rw [mine, Dev.arrives, decide_eq_true hport, decide_eq_true kind, running]
    simp [sub]
  unfold cmdDigestRecord
  rw [if_neg arrives]
  dsimp only
  rw [head]
  rcases d.colHead p with _ | _ | _
  · dsimp only
    rw [Dev.grpPrev_moored taken.moorings, Dev.grpSize_moored taken.moorings, Dev.grpRank_moored (noted.trans taken.moorings),
      Dev.grpSize_moored (noted.trans taken.moorings), Dev.grpNext_moored (noted.trans taken.moorings), Dev.ownNode_moored (noted.trans taken.moorings)]
  · rfl
  · rfl

end

end Sys2Proof.Machine
end

section
/-!
Proofs, the comparison of a complete pass (R598) and the slices of a checkpoint (R592, R593).
-/
namespace Sys2Proof.Machine

/-! ### The comparison of a pass -/

/-- The entries of a pass (R597): rank and value. -/
def DigPass.entries (x : DigPass) : List (Nat × Nat) := x.table.filterMap (fun e => e.2.map (fun v => (e.1, v)))

/-- The entries with value v. -/
def votes (mine : List (Nat × Nat)) (v : Nat) : Nat := (mine.filter (fun e => decide (e.2 = v))).length

/-- The first entry whose value more than half of the entries have. -/
def majority (mine : List (Nat × Nat)) : Option (Nat × Nat) := mine.find? (fun e => decide (mine.length < 2 * votes mine e.2))

theorem votes_add_votes_le {u v : Nat} (apart : u ≠ v) (mine : List (Nat × Nat)) : votes mine u + votes mine v ≤ mine.length := by
  unfold votes
  induction mine with
  | nil => exact le_rfl
  | cons e rest ih =>
    simp only [List.filter_cons, decide_eq_true_eq, List.length_cons]
    split
    · rename_i hu
      rw [if_neg (fun hv => apart (hu.symm.trans hv)), List.length_cons]
      omega
    · split
      · rw [List.length_cons]; omega
      · omega

theorem majority_eq_none {mine : List (Nat × Nat)} (h : ∀ v, 2 * votes mine v ≤ mine.length) : majority mine = none :=
  List.find?_eq_none.2 fun e _ => by rw [decide_eq_true_eq, not_lt]; exact h e.2

/-- Of one value only can more than half of the entries be: the majority found has it. -/
theorem exists_majority {mine : List (Nat × Nat)} {v : Nat} (h : mine.length < 2 * votes mine v) : ∃ m, majority mine = some m ∧ m.2 = v := by
  cases found : majority mine with
  | none =>
    have some : (mine.filter (fun e => decide (e.2 = v))) ≠ [] := fun h0 => by rw [votes, h0, List.length_nil] at h; omega
    obtain ⟨e, he⟩ := List.exists_mem_of_ne_nil _ some
    obtain ⟨mem, value⟩ := List.mem_filter.1 he
    have no := List.find?_eq_none.1 found e mem
    rw [decide_eq_true_eq, of_decide_eq_true value] at no
    exact absurd h no
  | some m =>
    refine ⟨m, rfl, by_contra fun apart => ?_⟩
    have hm : mine.length < 2 * votes mine m.2 := of_decide_eq_true (List.find?_some (p := fun e : Nat × Nat => decide (mine.length < 2 * votes mine e.2)) (show List.find? _ mine = some m from found))
    have := votes_add_votes_le apart mine
    omega

section
variable (d : Dev) (f : Fld) (n g : Nat)

@[simp] theorem Dev.grpRank_bump : (d.bump f n).grpRank g = d.grpRank g := by unfold Dev.grpRank Dev.grpA; rw [Dev.bump_col]
@[simp] theorem Dev.grpSize_bump : (d.bump f n).grpSize g = d.grpSize g := by unfold Dev.grpSize Dev.grpB; rw [Dev.bump_col]
@[simp] theorem Dev.grpPart_bump : (d.bump f n).grpPart g = d.grpPart g := by unfold Dev.grpPart Dev.grpA; rw [Dev.bump_col]

end

section
variable (d : Dev) (x : DigPass) {mine : List (Nat × Nat)} {o : Nat × Nat}
  (same : x.entries.filter (fun e => decide (e.2 / 2 ^ 256 = d.rf F.TST_DIG_STAT_SNAP_GEN)) = mine)
  (own : mine.find? (fun e => decide (e.1 = d.grpRank x.group)) = some o)
include same own

/-- The comparison (R598), with the own generation's entries and the own one named. -/
theorem Dev.digCompare_eq : d.digCompare x =
    let d1 := d.bump F.TST_DIG_STAT_SKEW (x.entries.length - mine.length)
    let d2 := d1.bump F.TST_DIG_STAT_MISMATCH 1
    if mine.all (fun e => decide (some e.2 = some o.2)) then d1.bump F.TST_DIG_STAT_AGREED 1
    else match majority mine with
      | some m =>
        if d.grpSize x.group < 3 then d2.oddMember x.group (d.rf F.TST_DIG_STAT_SNAP_GEN)
        else
          let odd := mine.filter (fun e => decide (e.2 ≠ m.2))
          let d3 := d2.postError { cls := 1, source := 0x0C, event := 0x01, inst := x.group, parts := 2 ^ d.grpPart x.group, detail0 := odd.length,
                                   detail1 := ((odd.map (·.1)).min?).getD 0 }
          if some o.2 = some m.2 then d3 else d3.oddMember x.group (d.rf F.TST_DIG_STAT_SNAP_GEN)
      | none => d2.oddMember x.group (d.rf F.TST_DIG_STAT_SNAP_GEN) := by
  subst same
  unfold Dev.digCompare
  dsimp only
  simp only [Dev.grpRank_bump, Dev.grpSize_bump, Dev.grpPart_bump]
  rw [show x.table.filterMap (fun e => e.2.map (fun v => (e.1, v))) = x.entries from rfl, own]
  rfl

theorem Dev.digCompare_agreed (agree : ∀ e ∈ mine, e.2 = o.2) :
    d.digCompare x = (d.bump F.TST_DIG_STAT_SKEW (x.entries.length - mine.length)).bump F.TST_DIG_STAT_AGREED 1 := by
  rw [d.digCompare_eq x same own]
  exact if_pos (List.all_eq_true.2 fun e he => decide_eq_true (congrArg some (agree e he)))

variable (differ : ∃ e ∈ mine, e.2 ≠ o.2)
include differ

theorem Dev.digCompare_differing : d.digCompare x =
    let d2 := (d.bump F.TST_DIG_STAT_SKEW (x.entries.length - mine.length)).bump F.TST_DIG_STAT_MISMATCH 1
    match majority mine with
      | some m =>
        if d.grpSize x.group < 3 then d2.oddMember x.group (d.rf F.TST_DIG_STAT_SNAP_GEN)
        else
          let odd := mine.filter (fun e => decide (e.2 ≠ m.2))
          let d3 := d2.postError { cls := 1, source := 0x0C, event := 0x01, inst := x.group, parts := 2 ^ d.grpPart x.group, detail0 := odd.length,
                                   detail1 := ((odd.map (·.1)).min?).getD 0 }
          if some o.2 = some m.2 then d3 else d3.oddMember x.group (d.rf F.TST_DIG_STAT_SNAP_GEN)
      | none => d2.oddMember x.group (d.rf F.TST_DIG_STAT_SNAP_GEN) := by
  obtain ⟨e, he, apart⟩ := differ
  rw [d.digCompare_eq x same own]
  exact if_neg fun all => apart (Option.some.inj (of_decide_eq_true (List.all_eq_true.1 all e he)))

theorem Dev.digCompare_small (small : d.grpSize x.group < 3) : d.digCompare x =
    ((d.bump F.TST_DIG_STAT_SKEW (x.entries.length - mine.length)).bump F.TST_DIG_STAT_MISMATCH 1).oddMember x.group (d.rf F.TST_DIG_STAT_SNAP_GEN) := by
  rw [d.digCompare_differing x same own differ]
  cases majority mine with
  | none => rfl
  | some m => exact if_pos small

theorem Dev.digCompare_majority {v : Nat} (large : 3 ≤ d.grpSize x.group) (most : mine.length < 2 * votes mine v) :
    let odd := mine.filter (fun e => decide (e.2 ≠ v))
    let d3 := ((d.bump F.TST_DIG_STAT_SKEW (x.entries.length - mine.length)).bump F.TST_DIG_STAT_MISMATCH 1).postError
      { cls := 1, source := 0x0C, event := 0x01, inst := x.group, parts := 2 ^ d.grpPart x.group, detail0 := odd.length,
        detail1 := ((odd.map (·.1)).min?).getD 0 }
    d.digCompare x = if o.2 = v then d3 else d3.oddMember x.group (d.rf F.TST_DIG_STAT_SNAP_GEN) := by
  obtain ⟨m, found, rfl⟩ := exists_majority most
  dsimp only
  rw [d.digCompare_differing x same own differ, found]
  refine (if_neg (Nat.not_lt.2 large)).trans ?_
  simp only [Option.some.injEq]

theorem Dev.digCompare_split (even : ∀ v, 2 * votes mine v ≤ mine.length) : d.digCompare x =
    ((d.bump F.TST_DIG_STAT_SKEW (x.entries.length - mine.length)).bump F.TST_DIG_STAT_MISMATCH 1).oddMember x.group (d.rf F.TST_DIG_STAT_SNAP_GEN) := by
  rw [d.digCompare_differing x same own differ, majority_eq_none even]

end

/-! ### The slices of a checkpoint -/

/-- Part i of m parts of a slice (R593): equal multiples of a line, the last takes the rest. -/
def ckptPart (it : Item) (start k m i : Nat) : CkptPart :=
  { src := ckptSrc it.desc + start + i * (k / 128 / m * 128), dst := ckptDst it.desc + start + i * (k / 128 / m * 128),
    len := if i + 1 = m then k - (m - 1) * (k / 128 / m * 128) else k / 128 / m * 128 }

/-- The parts of a slice. -/
def ckptParts (it : Item) (start k m : Nat) : List CkptPart := (List.range m).map (ckptPart it start k m)

theorem ckptParts_length (it : Item) (start k m : Nat) : (ckptParts it start k m).length = m := by simp [ckptParts]

theorem ckptParts_get {it : Item} {start k m i : Nat} {x : CkptPart} (h : (ckptParts it start k m)[i]? = some x) : i < m ∧ x = ckptPart it start k m i := by
  unfold ckptParts at h
  rw [List.getElem?_map, Option.map_eq_some_iff] at h
  obtain ⟨j, hj, rfl⟩ := h
  obtain ⟨lt, rfl⟩ := List.getElem?_eq_some_iff.1 hj
  rw [List.getElem_range]
  exact ⟨by simpa using lt, rfl⟩

theorem ckptParts_take (it : Item) (start k : Nat) {m i : Nat} (hi : i < m) :
    (((ckptParts it start k m).take i).map (·.len)).sum = i * (k / 128 / m * 128) := by
  have each : ∀ j ∈ List.range i, ((·.len) ∘ ckptPart it start k m) j = k / 128 / m * 128 := fun j hj =>
    if_neg (by have := List.mem_range.1 hj; omega)
  rw [ckptParts, ← List.map_take, List.take_range, min_eq_left hi.le, List.map_map, List.map_congr_left (g := fun _ => k / 128 / m * 128) each,
    List.map_const', List.sum_replicate, List.length_range, smul_eq_mul]

theorem ckptParts_sum (it : Item) (start k : Nat) {m : Nat} (hm : 0 < m) : ((ckptParts it start k m).map (·.len)).sum = k := by
  obtain ⟨n, rfl⟩ : ∃ n, m = n + 1 := ⟨m - 1, by omega⟩
  have front := ckptParts_take it start k (Nat.lt_add_one n)
  have last : (ckptParts it start k (n + 1)).drop n = [ckptPart it start k (n + 1) n] := by
    rw [ckptParts, ← List.map_drop, List.range_succ, List.drop_append_of_le_length (by simp), List.drop_of_length_le (by simp)]
    rfl
  have fits : n * (k / 128 / (n + 1) * 128) ≤ k := by
    calc n * (k / 128 / (n + 1) * 128) ≤ (n + 1) * (k / 128 / (n + 1) * 128) := Nat.mul_le_mul_right _ (Nat.le_succ n)
      _ = (n + 1) * (k / 128 / (n + 1)) * 128 := by ring
      _ ≤ k / 128 * 128 := Nat.mul_le_mul_right _ (Nat.mul_div_le _ _)
      _ ≤ k := Nat.div_mul_le_self _ _
  have len : (ckptPart it start k (n + 1) n).len = k - n * (k / 128 / (n + 1) * 128) := if_pos rfl
  rw [← List.take_append_drop n (ckptParts it start k (n + 1)), List.map_append, List.sum_append, front, last]
  simp only [List.map_cons, List.map_nil, List.sum_cons, List.sum_nil, len]
  omega

/-- The next slice, when no part of the last one is left (R45, R593). -/
theorem Dev.ckptRelease_next {d : Dev} {c : CkptRun} {it : Item} (has : d.tst.ckpt = some c) (idle : c.parts = []) (more : c.released < c.total)
    (item : d.item c.item = some it) :
    let k := min (min (d.rf F.TRN_CKPT_SLICE_SLICE_BYTES) 0x40000000) (c.total - c.released)
    d.ckptRelease = d.setCkpt (some { c with parts := ckptParts it c.released k (max 1 d.sluiceCount), released := c.released + k }) := by
  unfold Dev.ckptRelease
  rw [has]
  dsimp only
  rw [if_pos ⟨idle, more⟩, item]
  rfl

end Sys2Proof.Machine
end

section
/-!
Proofs, tests: the result of a scan slot (R601, R602), a port that goes down (R491) and the end of the start-up test (R662).
-/
namespace Sys2Proof.Machine

/-! ### A port goes down -/

/-- Work on a link that may post a record: memory, tests and boot stay, and so do the registers but for ERR_STATUS and FAB_TIMEOUTS. -/
structure Dev.overLinks (d e : Dev) : Prop where
  mem : e.mem = d.mem
  tst : e.tst = d.tst
  boot : e.boot = d.boot
  rf : ∀ f : Fld, f.off ≠ Reg.ERR_STATUS → f.off ≠ F.FAB_TIMEOUTS_TIMEOUTS.off → e.rf f = d.rf f

theorem Dev.overLinks_refl (d : Dev) : d.overLinks d := ⟨rfl, rfl, rfl, fun _ _ _ => rfl⟩

theorem Dev.overLinks.trans {a b c : Dev} (hab : a.overLinks b) (hbc : b.overLinks c) : a.overLinks c where
  mem := hbc.mem.trans hab.mem
  tst := hbc.tst.trans hab.tst
  boot := hbc.boot.trans hab.boot
  rf := fun f err timeouts => (hbc.rf f err timeouts).trans (hab.rf f err timeouts)

theorem Dev.overLinks_postError (d : Dev) (r : ErrRec) : d.overLinks (d.postError r) :=
  ⟨by simp, by simp, by simp, fun _ err _ => d.rf_postError r err⟩

theorem Dev.overLinks_setLink (d : Dev) (n : Nat) (l : LinkSt) : d.overLinks (d.setLink n l) := ⟨rfl, rfl, rfl, fun _ _ _ => rfl⟩

theorem Dev.rf_bump_elsewhere (d : Dev) {f g : Fld} (n : Nat) (h : g.off ≠ f.off) : (d.bump f n).rf g = d.rf g := by
  unfold Dev.bump
  split
  · rfl
  · rw [Dev.rf, Dev.reg_wf, if_neg h, ← Dev.rf]

theorem Dev.overLinks_timeOutWins (d : Dev) (port : Nat) (f : WinReq → Bool) : d.overLinks (d.timeOutWins port f) := by
  have counted (wins : List WinReq) (n : Nat) :
      d.overLinks (({ d with fab := { d.fab with wins := wins } } : Dev).bump F.FAB_TIMEOUTS_TIMEOUTS n) :=
    ⟨by simp, by simp, by simp, fun _ _ timeouts => Dev.rf_bump_elsewhere _ _ timeouts⟩
  unfold Dev.timeOutWins
  dsimp only
  split
  · exact d.overLinks_refl
  · split
    · exact counted _ _
    · exact ((counted _ _).trans (Dev.overLinks_setLink ..)).trans (Dev.overLinks_postError ..)

/-- The link state dropped, its requests timed out and the record posted, before the registers of the port are written. -/
def Dev.linkDropped (d : Dev) (port : Nat) : Dev :=
  ((d.setLink port { timeoutPosted := (d.linkOf port).timeoutPosted, groupsOwn := (d.linkOf port).groupsOwn }).timeOutWins port (fun _ => true)).postError
    { cls := 1, source := 0x08, event := 0x02, inst := port }

theorem Dev.portDown_eq (d : Dev) (port : Nat) : d.portDown port =
    ((((d.linkDropped port).wf (F.FAB_PORT_STAT_STATE port) 0).wf (F.FAB_PORT_STAT_GROUPS port) 0).wf (F.FAB_PORT_STAT_WIDTH port) 0).wb
      (F.FAB_PORT_STAT_DEGRADED port) false := rfl

theorem Dev.overLinks_linkDropped (d : Dev) (port : Nat) : d.overLinks (d.linkDropped port) :=
  ((d.overLinks_setLink ..).trans (Dev.overLinks_timeOutWins ..)).trans (Dev.overLinks_postError ..)

section
variable (d : Dev) (port : Nat)

theorem Dev.portDown_mem : (d.portDown port).mem = d.mem := (d.overLinks_linkDropped port).mem
theorem Dev.portDown_tst : (d.portDown port).tst = d.tst := (d.overLinks_linkDropped port).tst
theorem Dev.portDown_boot : (d.portDown port).boot = d.boot := (d.overLinks_linkDropped port).boot

theorem Dev.portDown_state : (d.portDown port).rf (F.FAB_PORT_STAT_STATE port) = 0 := by
  have word : (F.FAB_PORT_STAT_STATE port).inWord := show 0 + 3 ≤ 64 by decide
  have below : ∀ f : Fld, 3 ≤ f.lo → (F.FAB_PORT_STAT_STATE port).apart f := fun f hf _ => .inr (show 0 + 3 ≤ f.lo by omega)
  rw [Dev.portDown_eq, Dev.rf_wb_apart _ _ word (below _ (show 3 ≤ 13 by decide)), Dev.rf_wf_apart _ _ word (below _ (show 3 ≤ 7 by decide)),
    Dev.rf_wf_apart _ _ word (below _ (show 3 ≤ 3 by decide)), Dev.rf_wf_same _ _ word, Nat.zero_mod]

theorem Dev.portDown_state_other {n : Nat} (hn : n < 6) (other : n ≠ port) :
    (d.portDown port).rf (F.FAB_PORT_STAT_STATE n) = d.rf (F.FAB_PORT_STAT_STATE n) := by
  have off : (F.FAB_PORT_STAT_STATE n).off = 0xE00040 + 0x8 * n := rfl
  have word : (F.FAB_PORT_STAT_STATE n).inWord := show 0 + 3 ≤ 64 by decide
  have apart : ∀ f : Fld, f.off = 0xE00040 + 0x8 * port → (F.FAB_PORT_STAT_STATE n).apart f := fun f hf same => by omega
  rw [Dev.portDown_eq, Dev.rf_wb_apart _ _ word (apart _ rfl), Dev.rf_wf_apart _ _ word (apart _ rfl), Dev.rf_wf_apart _ _ word (apart _ rfl),
    Dev.rf_wf_apart _ _ word (apart _ rfl)]
  exact (d.overLinks_linkDropped port).rf _ (by rw [off]; unfold Reg.ERR_STATUS; omega) (by rw [off]; show _ ≠ 0xE00428; omega)

end

/-! ### Bad units found by in-field scan -/

/-- A mask of units spread over 64-bit registers: which register, which bit. -/
structure Fld.mask (F : Nat → Fld) : Prop where
  lo : ∀ n, (F n).lo = 0
  width : ∀ n, (F n).w = 64
  apart : ∀ m n, m ≠ n → (F m).off ≠ (F n).off
  plain : ∀ n, n < 4 → (F n).off ≠ Reg.ERR_STATUS

theorem Fld.mask_pendingGroups : Fld.mask F.STN_PENDING_GROUPS where
  lo _ := rfl
  width _ := rfl
  apart m n h := show 0x400018 + 0x8 * m ≠ 0x400018 + 0x8 * n by omega
  plain n h := show 0x400018 + 0x8 * n ≠ 0x1300018 by omega

theorem Fld.mask_pendingSpools : Fld.mask F.SPL_PENDING_SPOOLS where
  lo _ := rfl
  width _ := rfl
  apart m n h := show 0x600020 + 0x8 * m ≠ 0x600020 + 0x8 * n by omega
  plain n h := show 0x600020 + 0x8 * n ≠ 0x1300018 by omega

/-- Bit c of a mask of units. -/
def Dev.unitBit (d : Dev) (F : Nat → Fld) (c : Nat) : Bool := d.rbit (F (c / 64)) (c % 64)

section
variable {F : Nat → Fld} (mask : Fld.mask F) (d : Dev)
include mask

theorem Dev.unitBit_wbit (c j : Nat) : (d.wbit (F (c / 64)) (c % 64) true).unitBit F j = (d.unitBit F j || decide (j = c)) := by
  have bits : c % 64 < 64 ∧ j % 64 < 64 := ⟨Nat.mod_lt _ (by decide), Nat.mod_lt _ (by decide)⟩
  have word (n : Nat) : (F n).inWord := by unfold Fld.inWord; rw [mask.lo, mask.width]
  unfold Dev.unitBit
  by_cases same : j / 64 = c / 64
  · rw [same, d.rbit_wbit (word _) (by rw [mask.width]; exact bits.1) (by rw [mask.width]; exact bits.2)]
    by_cases hj : j % 64 = c % 64
    · rw [if_pos hj, decide_eq_true (by omega : j = c), Bool.or_true]
    · rw [if_neg hj, decide_eq_false (by omega : ¬j = c), Bool.or_false]
  · rw [decide_eq_false (by rintro rfl; exact same rfl : ¬j = c), Bool.or_false, Dev.rbit, Dev.rf_wbit_apart _ _ (word _)
      (fun off => absurd off (mask.apart _ _ same)), ← Dev.rbit]

theorem Dev.unitBit_postError (r : ErrRec) {j : Nat} (hj : j < 256) : (d.postError r).unitBit F j = d.unitBit F j := by
  unfold Dev.unitBit Dev.rbit
  rw [d.rf_postError r (mask.plain _ (by omega))]

end

/-- Unit i of a group found bad is marked pending and reported (R602). -/
def Dev.unitFails (F : Nat → Fld) (bad base : Nat) (ref : Nat × Nat) (rec : Nat → ErrRec) (d : Dev) (i : Nat) : Dev :=
  if bitAt bad i then (d.wbit (F ((base + i) / 64)) ((base + i) % 64) true).badUnit (rec (base + i)) ref true else d

section
variable {F : Nat → Fld} (bad base : Nat) (ref : Nat × Nat) (rec : Nat → ErrRec) (d : Dev)

theorem Dev.unitFails_mem (i : Nat) : (Dev.unitFails F bad base ref rec d i).mem = d.mem := by
  unfold Dev.unitFails
  split
  · exact (Dev.overLinks_postError ..).mem
  · rfl

theorem Dev.unitsFail_mem (l : List Nat) : (l.foldl (Dev.unitFails F bad base ref rec) d).mem = d.mem :=
  foldl_keep Dev.mem _ (fun e i => Dev.unitFails_mem bad base ref rec e i) l d

theorem Dev.unitFails_bit (mask : Fld.mask F) (i : Nat) {j : Nat} (hj : j < 256) :
    (Dev.unitFails F bad base ref rec d i).unitBit F j = (d.unitBit F j || (decide (j = base + i) && bitAt bad i)) := by
  unfold Dev.unitFails
  split
  next hit => rw [Dev.badUnit, Dev.unitBit_postError mask _ _ hj, Dev.unitBit_wbit mask, hit, Bool.and_true]
  next miss => rw [Bool.eq_false_iff.2 miss, Bool.and_false, Bool.or_false]

theorem Dev.unitsFail_bit (mask : Fld.mask F) {n i : Nat} (hi : base + i < 256) :
    ((List.range n).foldl (Dev.unitFails F bad base ref rec) d).unitBit F (base + i) = (d.unitBit F (base + i) || (decide (i < n) && bitAt bad i)) := by
  induction n with
  | zero => simp
  | succ n ih =>
    rw [List.range_succ, List.foldl_append, List.foldl_cons, List.foldl_nil, Dev.unitFails_bit bad base ref rec _ mask n hi, ih, Bool.or_assoc]
    congr 1
    rcases Nat.lt_trichotomy i n with below | rfl | above
    · simp [below, below.ne, Nat.lt_succ_of_lt below]
    · simp
    · simp [above.ne', Nat.not_lt.2 above.le, show ¬i < n + 1 by omega]

end

section
variable (d : Dev) {g bad : Nat}

theorem Dev.scanFail_columns (hg : g < 16) : d.scanFail g bad =
    let e := (List.range 8).foldl (Dev.unitFails F.STN_PENDING_GROUPS bad (8 * g) (d.scanReference g)
      (fun c => { cls := 1, source := 0x02, event := 0x01, inst := c, parts := partsMask (d.scanOwners g) })) d
    { e with tst := { e.tst with stnWithheld := e.tst.stnWithheld ||| partsMask (d.scanOwners g) } } := if_pos hg

theorem Dev.scanFail_spools (lo : 16 ≤ g) (hi : g < 32) : d.scanFail g bad =
    (List.range 16).foldl (Dev.unitFails F.SPL_PENDING_SPOOLS bad (16 * (g - 16)) (d.scanReference g)
      (fun s => { cls := 1, source := 0x04, event := 0x01, inst := s, parts := partsMask (d.scanOwners g) })) d :=
  (if_neg (Nat.not_lt.2 lo)).trans (if_pos hi)

theorem Dev.scanFail_press (lo : 32 ≤ g) (hi : g < 36) : d.scanFail g bad =
    ({ d with tst := { d.tst with pressDead := d.tst.pressDead ||| 2 ^ (g - 32) } }).badUnit
      { cls := 3, source := 0x03, event := 0x01, inst := g, parts := partsMask (d.scanOwners g) } (d.scanReference g) true :=
  (if_neg (by omega)).trans ((if_neg (by omega)).trans (if_pos hi))

theorem Dev.scanFail_copy : d.scanFail 36 bad =
    ({ d with tst := { d.tst with copyDead := true } }).postError
      { cls := 3, source := 0x0A, event := 0x01, parts := partsMask (d.scanOwners 36), scan := true } := rfl

theorem Dev.scanFail_collective (lo : 37 ≤ g) : d.scanFail g bad =
    (({ d with tst := { d.tst with colDead := d.tst.colDead ||| 2 ^ (g - 37) } } : Dev).postError
      { cls := 1, source := 0x09, event := 0x02, inst := g - 37, scan := true }).portDown (g - 37) :=
  (if_neg (by omega)).trans ((if_neg (by omega)).trans ((if_neg (by omega)).trans (if_neg (by omega))))

theorem bitAt_or_two_pow (m k : Nat) : bitAt (m ||| 2 ^ k) k = true := by
  rw [bitAt_eq_testBit, Nat.testBit_or, Nat.testBit_two_pow_self, Bool.or_true]

theorem Dev.scanFail_mem : (d.scanFail g bad).mem = d.mem := by
  by_cases columns : g < 16
  · rw [d.scanFail_columns columns]
    exact Dev.unitsFail_mem _ _ _ _ d _
  by_cases spools : g < 32
  · rw [d.scanFail_spools (by omega) spools, Dev.unitsFail_mem]
  by_cases press : g < 36
  · rw [d.scanFail_press (by omega) press, Dev.badUnit]
    exact (Dev.overLinks_postError ..).mem
  by_cases copy : g = 36
  · rw [copy, Dev.scanFail_copy]
    exact (Dev.overLinks_postError ..).mem
  · rw [d.scanFail_collective (by omega), Dev.portDown_mem]
    exact (Dev.overLinks_postError ..).mem

theorem Dev.scanFail_columnBit (hg : g < 16) {i : Nat} (hi : i < 8) :
    (d.scanFail g bad).unitBit F.STN_PENDING_GROUPS (8 * g + i) = (d.unitBit F.STN_PENDING_GROUPS (8 * g + i) || bitAt bad i) := by
  have bits := Dev.unitsFail_bit bad (8 * g) (d.scanReference g)
    (fun c => { cls := 1, source := 0x02, event := 0x01, inst := c, parts := partsMask (d.scanOwners g) }) d Fld.mask_pendingGroups
    (n := 8) (i := i) (by omega)
  rw [decide_eq_true hi, Bool.true_and] at bits
  rw [d.scanFail_columns hg]
  exact bits

theorem Dev.scanFail_spoolBit (lo : 16 ≤ g) (hi : g < 32) {i : Nat} (h : i < 16) :
    (d.scanFail g bad).unitBit F.SPL_PENDING_SPOOLS (16 * (g - 16) + i) = (d.unitBit F.SPL_PENDING_SPOOLS (16 * (g - 16) + i) || bitAt bad i) := by
  rw [d.scanFail_spools lo hi, Dev.unitsFail_bit _ _ _ _ _ Fld.mask_pendingSpools (by omega), decide_eq_true h, Bool.true_and]

theorem Dev.scanFail_pressDead (lo : 32 ≤ g) (hi : g < 36) : bitAt (d.scanFail g bad).tst.pressDead (g - 32) = true := by
  rw [d.scanFail_press lo hi, Dev.badUnit, (Dev.overLinks_postError ..).tst]
  exact bitAt_or_two_pow _ _

theorem Dev.scanFail_copyDead : (d.scanFail 36 bad).tst.copyDead = true := by
  rw [Dev.scanFail_copy, (Dev.overLinks_postError ..).tst]

theorem Dev.scanFail_colDead (lo : 37 ≤ g) :
    bitAt (d.scanFail g bad).tst.colDead (g - 37) = true ∧ (d.scanFail g bad).rf (F.FAB_PORT_STAT_STATE (g - 37)) = 0 := by
  rw [d.scanFail_collective lo, Dev.portDown_tst, (Dev.overLinks_postError ..).tst]
  exact ⟨bitAt_or_two_pow _ _, Dev.portDown_state _ _⟩

end

/-! ### The result of a slot -/

/-- The slot is closed. -/
def Dev.slotClosed (d : Dev) : Dev :=
  ({ d with tst := { d.tst with slot := none }, spl := { d.spl with scanning := [] } } : Dev).wb F.TST_SCAN_STAT_OPEN false

/-- Its result is counted and shown; a pass notes the slot's moment (R602). -/
def Dev.slotCounted (d : Dev) (x : ScanSlot) (bad : Nat) : Dev :=
  if bad = 0 then
    let e := (d.slotClosed.bump F.TST_SCAN_STAT_PASSES 1).wbit F.TST_SCAN_FAIL_GROUPS x.group false
    { e with tst := { e.tst with slotPass := SMap.set (fun _ => none) e.tst.slotPass x.group (some (x.turn, x.time)) } }
  else (d.slotClosed.bump F.TST_SCAN_STAT_FAILS 1).wbit F.TST_SCAN_FAIL_GROUPS x.group true

section
variable (d : Dev) {x : ScanSlot}

theorem Dev.scanSlotResult_waits (bad : Nat) (runs : ∀ x ∈ d.tst.slot, x.left ≠ 0) : cmdScanSlotResult bad d = d := by
  unfold cmdScanSlotResult
  cases slot : d.tst.slot with
  | none => rfl
  | some x => exact if_pos (runs x slot)

theorem Dev.scanSlotResult_eq (bad : Nat) (slot : d.tst.slot = some x) (ended : x.left = 0) :
    cmdScanSlotResult bad d = if bad = 0 then d.slotCounted x bad else (d.slotCounted x bad).scanFail x.group bad := by
  unfold cmdScanSlotResult
  rw [slot]
  dsimp only
  rw [if_neg (fun h => h ended)]
  by_cases pass : bad = 0
  · rw [if_pos pass, if_pos pass, Dev.slotCounted, if_pos pass]
    rfl
  · rw [if_neg pass, if_neg pass, Dev.slotCounted, if_neg pass]
    rfl

theorem Dev.slotClosed_rf {f : Fld} (word : f.inWord) (h : f.apart F.TST_SCAN_STAT_OPEN) : d.slotClosed.rf f = d.rf f :=
  Dev.rf_wb_apart _ _ word h

/-- A counter of TST_SCAN_STAT and the group's bit of TST_SCAN_FAIL written after the slot has closed. -/
theorem Dev.slotShown_spec {count : Fld} (off : count.off = 0x1400008) (above : 16 ≤ count.lo) (group : Nat) (v : Bool) (hg : group < 43) :
    let e := (d.slotClosed.bump count 1).wbit F.TST_SCAN_FAIL_GROUPS group v
    e.tst = { d.tst with slot := none } ∧ e.spl.scanning = [] ∧ e.rb F.TST_SCAN_STAT_OPEN = false
      ∧ (∀ g, g < 43 → e.rbit F.TST_SCAN_FAIL_GROUPS g = if g = group then v else d.rbit F.TST_SCAN_FAIL_GROUPS g)
      ∧ ∀ f : Fld, f.off = 0x1400008 → e.rf f = (d.slotClosed.bump count 1).rf f := by
  have stat {f : Fld} (hf : f.off = 0x1400008) : ((d.slotClosed.bump count 1).wbit F.TST_SCAN_FAIL_GROUPS group v).rf f = (d.slotClosed.bump count 1).rf f :=
    Dev.rf_wb_elsewhere _ v (by rw [hf]; exact (by decide : (0x1400008 : Nat) ≠ 0x1400010))
  refine ⟨by simp [Dev.slotClosed], by simp [Dev.slotClosed], ?_, fun g lt => ?_, fun f hf => stat hf⟩
  · rw [Dev.rb, stat rfl]
    change decide ((d.slotClosed.wf count _).rf _ = 1) = false
    rw [Dev.rf_wf_apart _ _ (by decide) (fun _ => .inr (show 6 + 1 ≤ count.lo by omega))]
    exact Dev.rb_wb_same _ false (by decide) rfl
  · rw [Dev.rbit_wbit _ (by decide) hg lt]
    congr 1
    rw [Dev.rbit, Dev.rf_bump_elsewhere _ _ (by rw [off]; exact (by decide : (0x1400010 : Nat) ≠ 0x1400008)),
      d.slotClosed_rf (by decide) (by decide), ← Dev.rbit]

theorem Dev.slotCounted_spec {bad : Nat} (hg : x.group < 43) :
    let e := d.slotCounted x bad
    e.tst.slot = none ∧ e.spl.scanning = [] ∧ e.rb F.TST_SCAN_STAT_OPEN = false ∧ e.rbit F.TST_SCAN_FAIL_GROUPS x.group = decide (bad ≠ 0)
      ∧ (∀ g, g < 43 → g ≠ x.group → e.rbit F.TST_SCAN_FAIL_GROUPS g = d.rbit F.TST_SCAN_FAIL_GROUPS g)
      ∧ e.rf F.TST_SCAN_STAT_PASSES = (d.rf F.TST_SCAN_STAT_PASSES + (if bad = 0 then 1 else 0)) % 2 ^ 16
      ∧ e.rf F.TST_SCAN_STAT_FAILS = (d.rf F.TST_SCAN_STAT_FAILS + (if bad = 0 then 0 else 1)) % 2 ^ 16 := by
  have passes := d.slotClosed_rf (f := F.TST_SCAN_STAT_PASSES) (by decide) (by decide)
  have fails := d.slotClosed_rf (f := F.TST_SCAN_STAT_FAILS) (by decide) (by decide)
  dsimp only
  unfold Dev.slotCounted
  by_cases pass : bad = 0
  · obtain ⟨tst, scanning, closed, bits, stat⟩ := d.slotShown_spec (count := F.TST_SCAN_STAT_PASSES) rfl (by decide) x.group false hg
    rw [if_pos pass, if_pos pass, if_pos pass]
    refine ⟨congrArg TstSt.slot tst, scanning, closed, ?_, fun g lt other => ?_, (stat _ rfl).trans ?_, (stat _ rfl).trans ?_⟩
    · rw [decide_eq_false (not_not.2 pass)]
      exact (bits _ hg).trans (if_pos rfl)
    · exact (bits g lt).trans (if_neg other)
    · rw [Dev.rf_bump_one _ (by decide), passes]
      rfl
    · refine Eq.trans ?_ (Nat.mod_eq_of_lt (d.rf_lt F.TST_SCAN_STAT_FAILS)).symm
      rw [← fails]
      exact Dev.rf_wf_apart _ _ (by decide) (by decide)
  · obtain ⟨tst, scanning, closed, bits, stat⟩ := d.slotShown_spec (count := F.TST_SCAN_STAT_FAILS) rfl (by decide) x.group true hg
    rw [if_neg pass, if_neg pass, if_neg pass]
    refine ⟨congrArg TstSt.slot tst, scanning, closed, ?_, fun g lt other => ?_, (stat _ rfl).trans ?_, (stat _ rfl).trans ?_⟩
    · rw [decide_eq_true pass]
      exact (bits _ hg).trans (if_pos rfl)
    · exact (bits g lt).trans (if_neg other)
    · refine Eq.trans ?_ (Nat.mod_eq_of_lt (d.rf_lt F.TST_SCAN_STAT_PASSES)).symm
      rw [← passes]
      exact Dev.rf_wf_apart _ _ (by decide) (by decide)
    · rw [Dev.rf_bump_one _ (by decide), fails]
      rfl

end

/-! ### The start-up test -/

/-- What the built-in test found, noted (R662 step 5a). -/
def Dev.testNoted (d : Dev) (r : TestResult) : Dev :=
  { d with boot := { d.boot with tested := true },
           tst := { d.tst with badStones := r.stones % 2 ^ 128, badSpools := r.spools % 2 ^ 256, badBanks := r.banks % 2 ^ 512,
                               pressDead := r.press % 16, copyDead := r.copy, colDead := r.col % 64 } }

/-- The ports with a dead collective engine go down. -/
def Dev.deadPortsDown (d : Dev) (m : Nat) : Dev := d.forMask 6 m (fun d n => d.portDown n)

/-- One port of the mask. -/
def Dev.deadPortDown (m : Nat) (d : Dev) (n : Nat) : Dev := if bitAt m n then d.portDown n else d

theorem Dev.deadPortsDown_eq (d : Dev) (m : Nat) : d.deadPortsDown m = (List.range 6).foldl (Dev.deadPortDown m) d := rfl

theorem Dev.deadPortsDown_keep {α : Type} (g : Dev → α) (keep : ∀ d n, g (Dev.portDown d n) = g d) (d : Dev) (m : Nat) : g (d.deadPortsDown m) = g d := by
  rw [Dev.deadPortsDown_eq]
  refine foldl_keep g _ (fun e n => ?_) _ d
  unfold Dev.deadPortDown
  split
  · exact keep e n
  · rfl

theorem Dev.deadPortsDown_state (d : Dev) {m n : Nat} (hn : n < 6) (dead : bitAt m n = true) : (d.deadPortsDown m).rf (F.FAB_PORT_STAT_STATE n) = 0 := by
  rw [Dev.deadPortsDown_eq]
  refine foldl_reaches (σ := Dev) (fun _ => True) (fun e => e.rf (F.FAB_PORT_STAT_STATE n) = 0) (a := n) (fun _ _ _ _ => trivial) ?stays ?falls
    (List.mem_range.2 hn) trivial
  case falls => exact fun e _ => by rw [Dev.deadPortDown, if_pos dead, e.portDown_state]
  case stays =>
    intro e k _ down
    unfold Dev.deadPortDown
    split
    · by_cases same : n = k
      · rw [same, e.portDown_state]
      · rw [e.portDown_state_other k hn same, down]
    · exact down

theorem Dev.notePass_eq (d : Dev) (r : TestResult) (f : Nat → Bool) : ∃ passed, d.notePass r f = { d with tst := { d.tst with testPass := passed } } := by
  refine List.foldlRecOn (motive := fun e : Dev => ∃ passed, e = { d with tst := { d.tst with testPass := passed } }) (List.range 36) _ ⟨d.tst.testPass, rfl⟩ ?_
  rintro e ⟨passed, rfl⟩ g _
  dsimp only
  split
  · exact ⟨_, rfl⟩
  · exact ⟨_, rfl⟩

/-- The state in which the start-up test leaves the module, before it may become ready (R662 step 5a). -/
def Dev.startTested (d : Dev) (r : TestResult) : Dev := ((d.testNoted r).notePass r (fun _ => true)).deadPortsDown r.col

section
variable (d : Dev) (r : TestResult)

theorem Dev.startupTestDone_done (done : d.rf F.SEC_STATUS_STAGE ≠ 4 ∨ d.boot.tested = true) : cmdStartupTestDone r d = d := if_pos done

theorem Dev.startupTestDone_eq (stage : d.rf F.SEC_STATUS_STAGE = 4) (first : d.boot.tested = false) :
    cmdStartupTestDone r d = (d.startTested r).startReady := if_neg (by rw [stage, first]; simp)

theorem Dev.startTested_spec :
    let e := d.startTested r
    e.boot.tested = true ∧ e.tst.badStones = r.stones % 2 ^ 128 ∧ e.tst.badSpools = r.spools % 2 ^ 256 ∧ e.tst.badBanks = r.banks % 2 ^ 512
      ∧ e.tst.pressDead = r.press % 16 ∧ e.tst.copyDead = r.copy ∧ e.tst.colDead = r.col % 64 ∧ e.mem = d.mem
      ∧ ∀ n, n < 6 → bitAt r.col n = true → e.rf (F.FAB_PORT_STAT_STATE n) = 0 := by
  obtain ⟨passed, noted⟩ := (d.testNoted r).notePass_eq r (fun _ => true)
  have boot := Dev.deadPortsDown_keep Dev.boot Dev.portDown_boot ((d.testNoted r).notePass r (fun _ => true)) r.col
  have tst := Dev.deadPortsDown_keep Dev.tst Dev.portDown_tst ((d.testNoted r).notePass r (fun _ => true)) r.col
  have mem := Dev.deadPortsDown_keep Dev.mem Dev.portDown_mem ((d.testNoted r).notePass r (fun _ => true)) r.col
  dsimp only
  unfold Dev.startTested
  rw [boot, tst, mem, noted]
  exact ⟨rfl, rfl, rfl, rfl, rfl, rfl, rfl, rfl, fun n hn dead => Dev.deadPortsDown_state _ hn dead⟩

end

end Sys2Proof.Machine
end

section
/-!
Proofs, the end of a partition reset (R464, R743): the share is cleared, its counts are zero and the partition is ready.
-/
namespace Sys2Proof.Machine

/-! ### What stays from the zeroed counts on -/

/-- Work that writes no memory and no ring, and no registers but the event counts, ERR_STATUS, PRT_STATUS and SEC_STATUS. -/
structure Dev.spares (d e : Dev) : Prop where
  mem : e.mem = d.mem
  rings : e.ctl.rings = d.ctl.rings
  rf : ∀ f : Fld, countReg f.off = false → f.off ≠ Reg.ERR_STATUS → f.off ≠ F.PRT_STATUS_READY.off → f.off ≠ F.SEC_STATUS_STAGE.off → e.rf f = d.rf f

theorem Dev.spares_refl (d : Dev) : d.spares d := ⟨rfl, rfl, fun _ _ _ _ _ => rfl⟩

theorem Dev.spares.trans {a b c : Dev} (hab : a.spares b) (hbc : b.spares c) : a.spares c where
  mem := hbc.mem.trans hab.mem
  rings := hbc.rings.trans hab.rings
  rf := fun f count err status stage => (hbc.rf f count err status stage).trans (hab.rf f count err status stage)

theorem Dev.sends.spares {d e : Dev} (h : d.sends e) : d.spares e :=
  ⟨h.mem, congrArg CtlSt.rings h.ctl, fun _ count _ _ _ => h.rf count⟩

theorem Dev.spares_ite {d a b : Dev} {c : Prop} [Decidable c] (ha : d.spares a) (hb : d.spares b) : d.spares (if c then a else b) := by
  split
  · exact ha
  · exact hb

section
variable (d : Dev)

theorem Dev.spares_postError (r : ErrRec) : d.spares (d.postError r) := ⟨by simp, by simp, fun _ _ err _ _ => d.rf_postError r err⟩
theorem Dev.spares_test (t : TstSt) : d.spares { d with tst := t } := ⟨rfl, rfl, fun _ _ _ _ _ => rfl⟩
theorem Dev.spares_boot (b : BootSt) : d.spares { d with boot := b } := ⟨rfl, rfl, fun _ _ _ _ _ => rfl⟩
theorem Dev.spares_tick : d.spares d.tick := ⟨rfl, rfl, fun _ _ _ _ _ => rfl⟩

theorem Dev.spares_resets (l : List ResetRun) : d.spares { d with ctl := { d.ctl with resets := l } } := ⟨rfl, rfl, fun _ _ _ _ _ => rfl⟩

theorem Dev.rf_wf_elsewhere {f g : Fld} (v : Nat) (h : g.off ≠ f.off) : (d.wf f v).rf g = d.rf g := by
  rw [Dev.rf, Dev.reg_wf, if_neg h, ← Dev.rf]

theorem Dev.spares_degraded (v : Bool) : d.spares (d.wb F.ERR_STATUS_DEGRADED v) := ⟨rfl, rfl, fun _ _ err _ _ => d.rf_wf_elsewhere _ err⟩
theorem Dev.spares_status {f : Fld} (i : Nat) (h : f.off = F.PRT_STATUS_READY.off) (v : Bool) : d.spares (d.wbit f i v) :=
  ⟨rfl, rfl, fun _ _ _ status _ => d.rf_wf_elsewhere (f := f.bit i) _ (fun same => status (same.trans h))⟩

theorem Dev.spares_bootStage (n : Nat) : d.spares (d.bootStage n) :=
  Dev.spares.trans (b := d.wf F.SEC_STATUS_STAGE n) ⟨rfl, rfl, fun _ _ _ _ stage => d.rf_wf_elsewhere _ stage⟩ (Dev.sends_sendCpl _ _).spares

theorem Dev.spares_reportReady : d.spares d.reportReady :=
  Dev.spares_ite ((d.spares_boot _).trans (Dev.spares_bootStage _ _)) d.spares_refl

theorem Dev.spares_checkCompute (p : Nat) : d.spares (d.checkCompute p) := by
  have noted : d.spares (if d.computeSet d.layout p then
      { d with tst := { d.tst with serviceOnly := if d.computeSet d.layout p then without d.tst.serviceOnly (2 ^ p) else d.tst.serviceOnly ||| 2 ^ p } }
      else ({ d with tst := { d.tst with serviceOnly := if d.computeSet d.layout p then without d.tst.serviceOnly (2 ^ p) else d.tst.serviceOnly ||| 2 ^ p } }
        : Dev).postError { cls := 1, source := 0x0D, event := 0x02, inst := p, parts := 2 ^ p }) :=
    Dev.spares_ite (d.spares_test _) ((d.spares_test _).trans (Dev.spares_postError _ _))
  exact Dev.spares_ite noted (((noted.trans (Dev.spares_degraded _ true)).trans (Dev.spares_tick _)).trans (Dev.spares_postError _ _))

end

/-! ### The share -/

section
variable (d : Dev) (p : Nat)

/-- What stays of the translation cache and the scratchpad; the registers written afterwards are those of HBM channels. -/
theorem Dev.clearShare_mem : (d.clearShare p).mem.tlb = d.mem.tlb.filter (fun t => decide (t.part ≠ p))
    ∧ (d.clearShare p).mem.spad = SMap.clearIf (fun k => decide (k / Config.spadBankBytes / d.spadB = p)) d.mem.spad := by
  unfold Dev.clearShare
  dsimp only
  rw [foldl_keep Dev.mem _ (fun e ch => Dev.wf_mem e _ _)]
  split <;> exact ⟨rfl, rfl⟩

theorem Dev.clearShare_layout : (d.clearShare p).rf F.PRT_LAYOUT_ACTIVE = d.rf F.PRT_LAYOUT_ACTIVE := by
  have chan (e : Dev) (ch : Nat) : (e.wf (F.HBM_CHAN_UNCORR (ch / 32) (ch % 32)) 0).rf F.PRT_LAYOUT_ACTIVE = e.rf F.PRT_LAYOUT_ACTIVE :=
    e.rf_wf_elsewhere _ (show 0x300000 ≠ 0xA00100 + 0x10000 * (ch / 32) + 0x8 * (ch % 32) by omega)
  unfold Dev.clearShare
  dsimp only
  rw [foldl_keep (fun e => Dev.rf e F.PRT_LAYOUT_ACTIVE) _ chan]
  split <;> rfl

/-- No translation of the partition, and no byte of its scratchpad, is left (R398, R310). -/
theorem Dev.clearShare_clears : (∀ t ∈ (d.clearShare p).mem.tlb, t.part ≠ p)
    ∧ ∀ k, k / Config.spadBankBytes / (d.clearShare p).spadB = p → SMap.get zeroByte (d.clearShare p).mem.spad k = 0 := by
  obtain ⟨tlb, spad⟩ := d.clearShare_mem p
  have banks : (d.clearShare p).spadB = d.spadB := by
    rw [Dev.spadB, Dev.parts, Dev.layout, d.clearShare_layout p, ← Dev.layout, ← Dev.parts, ← Dev.spadB]
  rw [tlb, spad, banks]
  refine ⟨fun t ht => of_decide_eq_true (List.mem_filter.1 ht).2, fun k hk => ?_⟩
  rw [SMap.get_clearIf, decide_eq_true hk]
  rfl

/-! ### The counts -/

/-- Ring r of the partition is new again. -/
def Dev.ringZeroed (d : Dev) (r : Nat) : Dev :=
  ((d.setRing (ringIndex p r) {}).wf (F.QUE_RSTAT_HEAD (ringIndex p r)) 0).wb (F.QUE_RSTAT_STOPPED (ringIndex p r)) false

/-- The rings are new and the fault ring's counts are zero. -/
def Dev.countsZeroed : Dev :=
  (((List.range 64).foldl (Dev.ringZeroed p) d).wf (F.MMU_FRING_STAT_POSTED p) 0).wf (F.MMU_FRING_STAT_FREED p) 0

theorem Dev.zeroCounts_eq : d.zeroCounts p =
    (if (d.countsZeroed p).rf (F.MMU_FRING_CTL_PRODUCER p) = 0 then d.countsZeroed p else (d.countsZeroed p).fringProducer p 0).wbit
      F.PRT_STATUS_STOPPED p false := rfl

theorem Dev.spares_zeroCounts : (d.countsZeroed p).spares (d.zeroCounts p) := by
  rw [Dev.zeroCounts_eq]
  have written : (d.countsZeroed p).spares ((d.countsZeroed p).fringProducer p 0) := (Dev.sends_toCompanion _ _ _).spares
  exact (Dev.spares_ite (Dev.spares_refl _) written).trans (Dev.spares_status _ (f := F.PRT_STATUS_STOPPED) p rfl false)

/-- The head and the state of ring n are those of a new ring. -/
def Dev.ringNew (d : Dev) (n : Nat) : Prop := d.rf (F.QUE_RSTAT_HEAD n) = 0 ∧ d.ring n = {}

theorem Dev.ringZeroed_same (r : Nat) : (Dev.ringZeroed p d r).ringNew (ringIndex p r) := by
  have word : (F.QUE_RSTAT_HEAD (ringIndex p r)).inWord := show 0 + 32 ≤ 64 by decide
  constructor
  · rw [Dev.ringZeroed, Dev.rf_wb_apart _ (f := F.QUE_RSTAT_STOPPED (ringIndex p r)) _ word (fun _ => .inr (show 0 + 32 ≤ 32 by decide)),
      Dev.rf_wf_same _ _ word, Nat.zero_mod]
  · exact SMap.get_set_same ..

theorem Dev.ringZeroed_other {n r : Nat} (other : n ≠ ringIndex p r) (new : d.ringNew n) : (Dev.ringZeroed p d r).ringNew n := by
  have off : (F.QUE_RSTAT_HEAD n).off ≠ 0xD00038 + 0x40 * ringIndex p r := show 0xD00038 + 0x40 * n ≠ _ by omega
  obtain ⟨head, ring⟩ := new
  constructor
  · rw [Dev.ringZeroed, Dev.rf_wb_elsewhere _ _ off, Dev.rf_wf_elsewhere _ _ off]
    exact head
  · exact (SMap.get_set_other _ _ other).trans ring

theorem Dev.countsZeroed_ring (hp : p < 4) {q : Nat} (hq : q < 64) : (d.countsZeroed p).ringNew (ringIndex p q) := by
  have zeroed : ((List.range 64).foldl (Dev.ringZeroed p) d).ringNew (ringIndex p q) := by
    refine foldl_reaches (σ := Dev) (fun _ => True) (fun e => e.ringNew (ringIndex p q)) (fun _ _ _ _ => trivial) (fun e r _ new => ?_)
      (fun e _ => e.ringZeroed_same p q) (List.mem_range.2 hq) trivial
    by_cases same : q = r
    · exact same ▸ e.ringZeroed_same p q
    · exact e.ringZeroed_other p (by unfold ringIndex; omega) new
  have off (f : Fld) (hf : f.off = 0xB00080 + 0x8 * p) : (F.QUE_RSTAT_HEAD (ringIndex p q)).off ≠ f.off := by
    rw [hf]; show 0xD00038 + 0x40 * ringIndex p q ≠ _; omega
  unfold Dev.countsZeroed
  generalize (List.range 64).foldl (Dev.ringZeroed p) d = e at zeroed
  obtain ⟨head, ring⟩ := zeroed
  refine ⟨?_, ring⟩
  rw [Dev.rf_wf_elsewhere _ _ (off _ rfl), Dev.rf_wf_elsewhere _ _ (off _ rfl), head]

theorem Dev.countsZeroed_fring : (d.countsZeroed p).rf (F.MMU_FRING_STAT_POSTED p) = 0 ∧ (d.countsZeroed p).rf (F.MMU_FRING_STAT_FREED p) = 0 := by
  have posted : (F.MMU_FRING_STAT_POSTED p).inWord := show 0 + 32 ≤ 64 by decide
  have freed : (F.MMU_FRING_STAT_FREED p).inWord := show 32 + 32 ≤ 64 by decide
  unfold Dev.countsZeroed
  constructor
  · rw [Dev.rf_wf_apart _ (f := F.MMU_FRING_STAT_FREED p) _ posted (fun _ => .inr (show 0 + 32 ≤ 32 by decide)), Dev.rf_wf_same _ _ posted, Nat.zero_mod]
  · rw [Dev.rf_wf_same _ _ freed, Nat.zero_mod]

theorem Dev.countsZeroed_mem : (d.countsZeroed p).mem = d.mem := by
  have ring (e : Dev) (r : Nat) : (Dev.ringZeroed p e r).mem = e.mem := rfl
  rw [Dev.countsZeroed, Dev.wf_mem, Dev.wf_mem, foldl_keep Dev.mem _ ring]

theorem Dev.countsZeroed_layout (hp : p < 4) : (d.countsZeroed p).rf F.PRT_LAYOUT_ACTIVE = d.rf F.PRT_LAYOUT_ACTIVE := by
  have ring (e : Dev) (r : Nat) : (Dev.ringZeroed p e r).rf F.PRT_LAYOUT_ACTIVE = e.rf F.PRT_LAYOUT_ACTIVE := by
    have off : F.PRT_LAYOUT_ACTIVE.off ≠ 0xD00038 + 0x40 * ringIndex p r := show 0x300000 ≠ _ by omega
    rw [Dev.ringZeroed, Dev.rf_wb_elsewhere _ _ off, Dev.rf_wf_elsewhere _ _ off]
    rfl
  have off : F.PRT_LAYOUT_ACTIVE.off ≠ 0xB00080 + 0x8 * p := show 0x300000 ≠ _ by omega
  rw [Dev.countsZeroed, Dev.rf_wf_elsewhere _ _ off, Dev.rf_wf_elsewhere _ _ off, foldl_keep (fun e => Dev.rf e F.PRT_LAYOUT_ACTIVE) _ ring]

/-! ### The reset ends -/

/-- The share is tested and rebuilt (R464 steps 3 and 4). -/
def Dev.shareRebuilt (r : TestResult) (x : ResetRun) : Dev :=
  (((((d.testStones p r).testSpools p r).testPress p r).notePass r
    (fun g => ((((d.testStones p r).testSpools p r).testPress p r).scanOwners g).contains p)).showLayout).rebuild x

/-- Its reset is no longer listed. -/
def Dev.resetDropped : Dev := { d with ctl := { d.ctl with resets := d.ctl.resets.filter (fun y => decide (y.part ≠ p)) } }

/-- PRT_STATUS says that the partition is ready. -/
def Dev.shownReady : Dev := (d.wbit F.PRT_STATUS_RESETTING p false).wbit F.PRT_STATUS_READY p true

/-- The end of a reset whose share has been rebuilt (R464 steps 5 and 6). -/
def Dev.resetEnded : Dev := ((((d.clearShare p).zeroCounts p).checkCompute p).resetDropped p |>.shownReady p).reportReady

theorem Dev.partitionResetDone_none (r : TestResult) (idle : d.ctl.resets.all (fun x => decide (x.part ≠ p)) = true) : cmdPartitionResetDone p r d = d := by
  have absent : d.ctl.resets.find? (fun x => decide (x.part = p)) = none :=
    List.find?_eq_none.2 fun x hx => by
      rw [decide_eq_true_eq]
      exact of_decide_eq_true (List.all_eq_true.1 idle x hx)
  unfold cmdPartitionResetDone
  rw [absent]

theorem Dev.partitionResetDone_some (r : TestResult) (runs : d.ctl.resets.any (fun x => decide (x.part = p)) = true) :
    ∃ x, cmdPartitionResetDone p r d = (d.shareRebuilt p r x).resetEnded p := by
  obtain ⟨x, found⟩ : ∃ x, d.ctl.resets.find? (fun x => decide (x.part = p)) = some x := by
    rw [← Option.isSome_iff_exists, List.find?_isSome]
    exact List.any_eq_true.1 runs
  refine ⟨x, ?_⟩
  unfold cmdPartitionResetDone
  rw [found]
  rfl

theorem Dev.spares_resetDropped : d.spares (d.resetDropped p) := d.spares_resets _

theorem Dev.spares_shownReady : d.spares (d.shownReady p) :=
  (d.spares_status (f := F.PRT_STATUS_RESETTING) p rfl false).trans (Dev.spares_status _ (f := F.PRT_STATUS_READY) p rfl true)

theorem Dev.spares_resetEnded : ((d.clearShare p).countsZeroed p).spares (d.resetEnded p) := by
  have zeroed := (d.clearShare p).spares_zeroCounts p
  have checked := zeroed.trans (Dev.spares_checkCompute _ p)
  have dropped := checked.trans (Dev.spares_resetDropped _ p)
  have shown := dropped.trans (Dev.spares_shownReady _ p)
  exact shown.trans (Dev.spares_reportReady _)

/-- What a report that the module is ready leaves. -/
theorem Dev.reportReady_keeps : d.reportReady.ctl = d.ctl ∧ ∀ f : Fld, f.off = F.PRT_STATUS_READY.off → d.reportReady.rf f = d.rf f := by
  unfold Dev.reportReady
  split
  · have sent (e : Dev) := e.sends_sendCpl { op := 0x4B, arg := 1, addr := 6 }
    refine ⟨(sent _).ctl, fun f hf => ((sent _).rf (by rw [hf]; decide)).trans ?_⟩
    exact Dev.rf_wf_elsewhere _ _ (by rw [hf]; decide)
  · exact ⟨rfl, fun _ _ => rfl⟩

theorem Dev.shownReady_bits (hp : p < 4) :
    (d.shownReady p).rbit F.PRT_STATUS_READY p = true ∧ (d.shownReady p).rbit F.PRT_STATUS_RESETTING p = false := by
  unfold Dev.shownReady
  constructor
  · rw [Dev.rbit_wbit _ (by decide) hp hp, if_pos rfl]
  · rw [Dev.rbit, Dev.rf_wbit_apart _ (f := F.PRT_STATUS_READY) (g := F.PRT_STATUS_RESETTING) (i := p) _ (by decide) (fun _ => .inl (show 0 + p + 1 ≤ 4 by omega)), ← Dev.rbit,
      Dev.rbit_wbit _ (by decide) hp hp, if_pos rfl]

theorem Dev.resetEnded_status (hp : p < 4) :
    (d.resetEnded p).rbit F.PRT_STATUS_READY p = true ∧ (d.resetEnded p).rbit F.PRT_STATUS_RESETTING p = false
      ∧ ∀ y ∈ (d.resetEnded p).ctl.resets, y.part ≠ p := by
  obtain ⟨ctl, fields⟩ := ((((d.clearShare p).zeroCounts p).checkCompute p).resetDropped p |>.shownReady p).reportReady_keeps
  obtain ⟨ready, resetting⟩ := (((d.clearShare p).zeroCounts p).checkCompute p |>.resetDropped p).shownReady_bits p hp
  refine ⟨?_, ?_, fun y hy => ?_⟩
  · rw [Dev.resetEnded, Dev.rbit, fields F.PRT_STATUS_READY rfl]
    exact ready
  · rw [Dev.resetEnded, Dev.rbit, fields F.PRT_STATUS_RESETTING rfl]
    exact resetting
  · rw [Dev.resetEnded, ctl] at hy
    exact of_decide_eq_true (List.mem_filter.1 hy).2

theorem Dev.resetEnded_share (hp : p < 4) : (∀ t ∈ (d.resetEnded p).mem.tlb, t.part ≠ p)
    ∧ ∀ k, k / Config.spadBankBytes / (d.resetEnded p).spadB = p → SMap.get zeroByte (d.resetEnded p).mem.spad k = 0 := by
  have spared := d.spares_resetEnded p
  have banks : (d.resetEnded p).spadB = (d.clearShare p).spadB := by
    rw [Dev.spadB, Dev.parts, Dev.layout, spared.rf _ (by decide) (by decide) (by decide) (by decide), Dev.countsZeroed_layout _ p hp,
      ← Dev.layout, ← Dev.parts, ← Dev.spadB]
  rw [banks, spared.mem, Dev.countsZeroed_mem]
  exact d.clearShare_clears p

theorem Dev.resetEnded_counts (hp : p < 4) :
    (∀ q, q < 64 → (d.resetEnded p).ringNew (64 * p + q))
      ∧ (d.resetEnded p).rf (F.MMU_FRING_STAT_POSTED p) = 0 ∧ (d.resetEnded p).rf (F.MMU_FRING_STAT_FREED p) = 0 := by
  have spared := d.spares_resetEnded p
  have fring (f : Fld) (hf : f.off = 0xB00080 + 0x8 * p) : (d.resetEnded p).rf f = ((d.clearShare p).countsZeroed p).rf f :=
    spared.rf f (countReg_low (by rw [hf]; unfold Reg.SPL_EVENTS; omega) (by omega)) (by rw [hf]; unfold Reg.ERR_STATUS; omega)
      (by rw [hf]; show _ ≠ 0x300010; omega) (by rw [hf]; show _ ≠ 0x1200000; omega)
  obtain ⟨posted, freed⟩ := (d.clearShare p).countsZeroed_fring p
  refine ⟨fun q hq => ?_, (fring _ rfl).trans posted, (fring _ rfl).trans freed⟩
  obtain ⟨head, ring⟩ := (d.clearShare p).countsZeroed_ring p hp hq
  have off : (F.QUE_RSTAT_HEAD (64 * p + q)).off = 0xD00038 + 0x40 * (64 * p + q) := rfl
  refine ⟨(spared.rf _ (countReg_low (by rw [off]; unfold Reg.SPL_EVENTS; omega) (by omega)) (by rw [off]; unfold Reg.ERR_STATUS; omega)
    (by rw [off]; show _ ≠ 0x300010; omega) (by rw [off]; show _ ≠ 0x1200000; omega)).trans head, ?_⟩
  rw [Dev.ring, spared.rings, ← Dev.ring]
  exact ring

end

end Sys2Proof.Machine
end

section
/-!
Proofs, the commands of the resilience chapter: one lemma for each way a command of checkpoints goes, and for each command the clauses of O59 about it.
-/
namespace Sys2Proof.Machine

/-! ### CKPT (R592, R593) -/

section
variable (d : Dev) (item n : Nat) {it : Item}

theorem Dev.ckpt_starts (work : d.serviceWork 0x65 item = some it) (idle : d.tst.ckpt = none)
    (first : (d.ctl.items.takeWhile (fun x => decide (x.id ≠ item))).any (fun x => decide (x.desc.opcode = 0x65)) = false) :
    let b := ckptBytes it.desc
    let it' : Item := { it with place := .running, clamped := decide (b < ckptLen it.desc) }
    cmdCkpt item n d = if b = 0 then d.finishItem it' else (d.setItem it').setCkpt (some { item := item, total := b }) := by
  unfold cmdCkpt
  rw [work]
  dsimp only
  rw [idle]
  dsimp only
  rw [first]
  rfl

variable {c : CkptRun} (work : d.serviceWork 0x65 item = some it) (runs : d.tst.ckpt = some c)
include work runs

theorem Dev.ckpt_other (other : c.item ≠ item) : cmdCkpt item n d = d := by
  unfold cmdCkpt
  rw [work]
  dsimp only
  rw [runs]
  exact if_pos other

theorem Dev.ckpt_lost (mine : c.item = item) (lost : c.lost = true) : cmdCkpt item n d = d.endCkpt { it with poison := true } := by
  unfold cmdCkpt
  rw [work]
  dsimp only
  rw [runs]
  exact (if_neg (not_not.2 mine)).trans (if_pos lost)

/-- A round moves a line of every part that can go on (R593). -/
theorem Dev.ckpt_round {d' : Dev} {it' : Item} {c' : CkptRun} (mine : c.item = item) (safe : c.lost = false) (clean : it.poison = false)
    (round : d.ckptRound it c = (d', it', c')) :
    let e := (d'.sweep (.item item)).setItem it'
    cmdCkpt item 1 d = if it'.poison then e.endCkpt it' else e.setCkpt (some c') := by
  have once : (List.range 1).foldl (fun (acc : Dev × Item × CkptRun) _ => if acc.2.1.poison then acc else acc.1.ckptRound acc.2.1 acc.2.2) (d, it, c)
      = (d', it', c') := by
    rw [List.range_one, List.foldl_cons, List.foldl_nil, ← round]
    exact if_neg (by rw [clean]; exact Bool.false_ne_true)
  unfold cmdCkpt
  rw [work]
  dsimp only
  rw [runs]
  dsimp only
  rw [if_neg (not_not.2 mine), if_neg (by rw [safe]; exact Bool.false_ne_true), once]

end

/-- The slice of a CKPT still moves: a part is not complete, or a write is not yet performed (R593). -/
def Dev.sliceWaits (d : Dev) (c : CkptRun) : Bool :=
  decide (c.parts = []) || !c.parts.all (fun x => decide (x.len ≤ x.pos)) || d.cplWriting (.item c.item) || d.winPending (.item c.item)

theorem Dev.ckptSliceDone_eq {d : Dev} {c : CkptRun} {it : Item} (runs : d.tst.ckpt = some c) (item : d.item c.item = some it) :
    cmdCkptSliceDone d = if d.sliceWaits c then d else if c.lost then d.endCkpt { it with poison := true }
      else if c.total ≤ c.released then d.endCkpt it else d.setCkpt (some { c with parts := [] }) := by
  unfold cmdCkptSliceDone
  rw [runs]
  dsimp only
  rw [item]
  dsimp only
  congr 1
  simp only [Dev.sliceWaits, Bool.or_eq_true, decide_eq_true_eq, or_assoc]

/-! ### The clauses of O59 -/

theorem State.miller_of_running {s : State} (h : s.running = true) : s.miller = true := by
  unfold State.running at h
  rw [Bool.and_eq_true, Bool.and_eq_true] at h
  exact h.1.1

section
variable {s : State} (running : s.running = true)
include running

/-- The log writer (R576 to R579). -/
theorem exec_logWrite_head {r : ErrRec} {rest : List ErrRec} (head : s.dev.err.intake = r :: rest) :
    (3 ≤ r.cls → 64 ≤ s.dev.err.flog.length → exec .logWrite s =
        .next (s.after (({ s.dev with err := { s.dev.err with intake := rest } } : Dev).bump F.ERR_FLOG_STAT_OVERFLOW 1)))
      ∧ (3 ≤ r.cls → s.dev.err.flog.length < 64 → ∃ e, exec .logWrite s = .next (s.after e)
          ∧ e.err = { s.dev.err with intake := rest, flog := s.dev.err.flog ++ [r], toCopy := s.dev.copied r }
          ∧ e.rf F.ERR_FLOG_STAT_ENTRIES = s.dev.err.flog.length + 1)
      ∧ (r.cls < 3 → (∀ x ∈ s.dev.err.clog.getLast?, r.repeats x = false) →
          (s.dev.err.clog.length < 4096 → ∃ e, exec .logWrite s = .next (s.after e)
            ∧ e.err = { s.dev.err with intake := rest, clog := s.dev.err.clog ++ [r], toCopy := s.dev.copied r }
            ∧ e.rf F.ERR_CLOG_STAT_ENTRIES = s.dev.err.clog.length + 1)
          ∧ (4096 ≤ s.dev.err.clog.length → ∃ e, exec .logWrite s = .next (s.after e)
            ∧ e.err = { s.dev.err with intake := rest, clog := s.dev.err.clog.drop 1 ++ [r], toCopy := s.dev.copied r }
            ∧ e.rf F.ERR_CLOG_STAT_OVERFLOW = (s.dev.rf F.ERR_CLOG_STAT_OVERFLOW + 1) % 2 ^ 32))
      ∧ (∀ x, r.cls < 3 → s.dev.err.clog.getLast? = some x → r.repeats x = true → exec .logWrite s = .next (s.after
          { s.dev with err := { s.dev.err with intake := rest, clog := s.dev.err.clog.dropLast ++ [{ x with count := min (x.count + 1) 0xFFFF }] } })) := by
  have logs {e : Dev} (effect : cmdLogWrite s.dev = e) : exec .logWrite s = .next (s.after e) :=
    (onMiller_runs (State.miller_of_running running)).trans (by rw [effect])
  refine ⟨fun fatal full => logs (Dev.logWrite_fatal_full head fatal full), fun fatal room => ?_, fun mild new => ⟨fun room => ?_, fun full => ?_⟩,
    fun x mild last same => logs (Dev.logWrite_repeat head mild last same)⟩
  · obtain ⟨err, entries⟩ := s.dev.logged_spec r { s.dev.err with intake := rest, flog := s.dev.err.flog ++ [r] } (s.dev.err.flog ++ [r]).length rfl
      (f := F.ERR_FLOG_STAT_ENTRIES) (by decide) (by decide)
    refine ⟨_, logs (Dev.logWrite_fatal head fatal room), err, entries.trans ?_⟩
    rw [List.length_append, List.length_singleton]
    exact Nat.mod_eq_of_lt (show s.dev.err.flog.length + 1 < 2 ^ 13 by omega)
  · obtain ⟨err, entries⟩ := s.dev.logged_spec r { s.dev.err with intake := rest, clog := s.dev.err.clog ++ [r] } (s.dev.err.clog ++ [r]).length rfl
      (f := F.ERR_CLOG_STAT_ENTRIES) (by decide) (by decide)
    refine ⟨_, logs (Dev.logWrite_new head mild new room), err, entries.trans ?_⟩
    rw [List.length_append, List.length_singleton]
    exact Nat.mod_eq_of_lt (show s.dev.err.clog.length + 1 < 2 ^ 13 by omega)
  · obtain ⟨err, entries⟩ := s.dev.logged_spec r { s.dev.err with intake := rest, clog := s.dev.err.clog.drop 1 ++ [r] }
      (s.dev.rf F.ERR_CLOG_STAT_OVERFLOW + 1) rfl (f := F.ERR_CLOG_STAT_OVERFLOW) (by decide) (by decide)
    exact ⟨_, logs (Dev.logWrite_full head mild new full), err, entries⟩

/-- The error ring (R580). -/
theorem exec_errorRingCopy_next {r : ErrRec} {rest : List ErrRec} (word : Nat) (bad : Bool) (next : s.dev.err.toCopy = r :: rest) :
    let size := 2 ^ s.dev.rf F.ERR_RING_CTL_LOG2SIZE
    let c := word % 2 ^ 32
    let ok := !bad && doorbellOk word
      && decide ((c + 2 ^ 32 - s.dev.err.ringCons) % 2 ^ 32 ≤ (s.dev.err.ringProd + 2 ^ 32 - s.dev.err.ringCons) % 2 ^ 32)
    let cons := if ok then c else s.dev.err.ringCons
    let e : Dev := { s.dev.consumerJudged ok with err := { s.dev.err with toCopy := rest, ringCons := cons } }
    let full := decide (size ≤ (s.dev.err.ringProd + 2 ^ 32 - cons) % 2 ^ 32)
    (full = true → exec (.errorRingCopy word bad) s = .next (s.after (e.bump F.ERR_STATUS_RING_DROPPED 1)))
      ∧ (full = false → exec (.errorRingCopy word bad) s =
          .next (s.after (e.errorSent (s.dev.rf F.ERR_RING_BASE_BASE) (s.dev.rf F.ERR_RING_CTL_PRODUCER) size r))) := by
  intro size c ok cons e full
  have copied := Dev.errorRingCopy_next next word bad
  exact ⟨fun no => onDev_of_eq running (copied.trans (if_pos (of_decide_eq_true no))),
    fun yes => onDev_of_eq running (copied.trans (if_neg (of_decide_eq_false yes)))⟩

theorem exec_ckptSliceDone {c : CkptRun} {it : Item} (runs : s.dev.tst.ckpt = some c) (item : s.dev.item c.item = some it) :
    (s.dev.sliceWaits c = true → exec .ckptSliceDone s = .next (s.after s.dev))
      ∧ (s.dev.sliceWaits c = false → c.lost = true → exec .ckptSliceDone s = .next (s.after (s.dev.endCkpt { it with poison := true })))
      ∧ (s.dev.sliceWaits c = false → c.lost = false → exec .ckptSliceDone s =
          .next (s.after (if c.total ≤ c.released then s.dev.endCkpt it else s.dev.setCkpt (some { c with parts := [] })))) := by
  have done := Dev.ckptSliceDone_eq runs item
  refine ⟨fun waits => onDev_of_eq running (done.trans (if_pos waits)), fun past lost => onDev_of_eq running ?_, fun past safe => onDev_of_eq running ?_⟩
  · rw [done, past, lost]
    rfl
  · rw [done, past, safe]
    rfl

/-- A digest record that reaches the module (R597). -/
theorem exec_digestRecord {port : Nat} {p : Packet} (hport : port < 6) (runs : s.dev.portRunning port = true) (mine : s.dev.forMe p = true)
    (kind : p.kind = 0xC) (sub : p.sub = 6) :
    let d := s.dev
    let d1 := d.takePacket port p
    (d.colHead p = some true → exec (.digestRecord port p) s = .next (s.after (d1.bump F.COL_EVENTS_STALE 1)))
      ∧ (d.colHead p = some false ∨ (d.colHead p = none ∧ (p.src ≠ d.grpPrev (colGrp p) ∨ d.grpSize (colGrp p) ≤ colIndex p)) →
          exec (.digestRecord port p) s = .next (s.after (d1.bump F.COL_EVENTS_DROP 1)))
      ∧ (d.colHead p = none → p.src = d.grpPrev (colGrp p) → colIndex p < d.grpSize (colGrp p) →
          let d2 := d1.digNote (colGrp p) (colIndex p) (leNat (p.payload.take 32)) (leNat ((p.payload.drop 32).take 4))
          exec (.digestRecord port p) s = .next (s.after ((if colIndex p = (d.grpRank (colGrp p) + 1) % d.grpSize (colGrp p) then d2
            else d2.sendOn { p with dst := d.grpNext (colGrp p), src := d.ownNode } none).digFinish (colGrp p)))) := by
  have taken := s.dev.digestRecord_taken hport runs mine kind sub
  intro d d1
  refine ⟨fun stale => onDev_of_eq running ?_, fun drop => onDev_of_eq running ?_, fun good prev inside => onDev_of_eq running ?_⟩
  · rw [taken, stale]
  · rcases drop with bad | ⟨good, wrong⟩
    · rw [taken, bad]
    · rw [taken, good]
      exact if_pos wrong
  · rw [taken, good]
    exact if_neg (by rw [not_or, not_not]; exact ⟨prev, Nat.not_le.2 inside⟩)

/-- A job stop arrives at a port, whatever the port's state (R528): its packet is one of control. -/
theorem exec_jobStop {port : Nat} {p : Packet} (hport : port < 6) (kind : p.kind = 0xF) :
    exec (.jobStop port p) s = .next (s.after ((s.dev.takePacket port p).jobStop p.job p.aux (some port))) := by
  have arrives : s.dev.arrives port 0xF p = true := by
    rw [Dev.arrives, decide_eq_true hport, decide_eq_true kind, show kindClass 0xF = some 3 from rfl]
    simp
  exact onDev_of_eq running (if_neg (by rw [arrives]; exact Bool.false_ne_true))

/-- The result of a scan slot that has run its Turns (R602). -/
theorem exec_scanSlotResult {x : ScanSlot} (bad : Nat) (slot : s.dev.tst.slot = some x) (ended : x.left = 0) :
    exec (.scanSlotResult bad) s = .next (s.after (if bad = 0 then s.dev.slotCounted x bad else (s.dev.slotCounted x bad).scanFail x.group bad)) :=
  onDev_of_eq running (s.dev.scanSlotResult_eq bad slot ended)

/-- The end of a partition reset (R464). -/
theorem exec_partitionResetDone {p : Nat} (r : TestResult) (hp : p < 4) (runs : s.dev.ctl.resets.any (fun x => decide (x.part = p)) = true) :
    ∃ e, exec (.partitionResetDone p r) s = .next (s.after e)
      ∧ e.rbit F.PRT_STATUS_READY p = true ∧ e.rbit F.PRT_STATUS_RESETTING p = false ∧ (∀ y ∈ e.ctl.resets, y.part ≠ p)
      ∧ (∀ t ∈ e.mem.tlb, t.part ≠ p) ∧ (∀ k, k / Config.spadBankBytes / e.spadB = p → SMap.get zeroByte e.mem.spad k = 0)
      ∧ (∀ q, q < 64 → e.rf (F.QUE_RSTAT_HEAD (64 * p + q)) = 0 ∧ e.ring (64 * p + q) = {})
      ∧ e.rf (F.MMU_FRING_STAT_POSTED p) = 0 ∧ e.rf (F.MMU_FRING_STAT_FREED p) = 0 := by
  obtain ⟨x, effect⟩ := s.dev.partitionResetDone_some p r runs
  obtain ⟨ready, resetting, resets⟩ := (s.dev.shareRebuilt p r x).resetEnded_status p hp
  obtain ⟨tlb, spad⟩ := (s.dev.shareRebuilt p r x).resetEnded_share p hp
  exact ⟨_, onDev_of_eq running effect, ready, resetting, resets, tlb, spad, (s.dev.shareRebuilt p r x).resetEnded_counts p hp⟩

end

/-- The parts of the next slice of a checkpoint (R593): of whole lines, one after the other, over the slice. -/
theorem Dev.ckptRelease_parts {d : Dev} {c : CkptRun} {it : Item} (has : d.tst.ckpt = some c) (idle : c.parts = []) (more : c.released < c.total)
    (item : d.item c.item = some it) :
    let k := min (min (d.rf F.TRN_CKPT_SLICE_SLICE_BYTES) 0x40000000) (c.total - c.released)
    ∃ ps : List CkptPart, d.ckptRelease = d.setCkpt (some { c with parts := ps, released := c.released + k }) ∧ ps.length = max 1 d.sluiceCount
      ∧ (ps.map (·.len)).sum = k ∧ ∀ i x, ps[i]? = some x → x.src = it.desc.fld 1 0 52 + c.released + ((ps.take i).map (·.len)).sum
        ∧ x.dst = it.desc.fld 2 0 52 + c.released + ((ps.take i).map (·.len)).sum ∧ x.pos = 0 ∧ x.fault = none ∧ (i + 1 < ps.length → x.len % 128 = 0) := by
  intro k
  refine ⟨_, Dev.ckptRelease_next has idle more item, ckptParts_length .., ckptParts_sum it c.released k (by omega), fun i x found => ?_⟩
  obtain ⟨inside, rfl⟩ := ckptParts_get found
  rw [ckptParts_take it c.released k inside, ckptParts_length]
  refine ⟨rfl, rfl, rfl, rfl, fun below => ?_⟩
  rw [ckptPart, if_neg (by omega)]
  exact Nat.mul_mod_left _ _

/-- The last 16 of a list with a new element: it is the last of them. -/
theorem getLast?_last_sixteen {α : Type} (l : List α) (x : α) :
    let stops := l ++ [x]
    (stops.drop (stops.length - 16)).getLast? = some x ∧ (stops.drop (stops.length - 16)).length ≤ 16
      ∧ (l.length < 16 → stops.drop (stops.length - 16) = stops) := by
  intro stops
  have len : stops.length = l.length + 1 := by rw [List.length_append, List.length_singleton]
  refine ⟨?_, ?_, fun few => ?_⟩
  · rw [List.drop_append_of_le_length (by omega), List.getLast?_concat]
  · rw [List.length_drop]
    omega
  · rw [show stops.length - 16 = 0 by omega, List.drop_zero]

end Sys2Proof.Machine
end

section
/-!
Proofs, the statement of O59.
-/
namespace Sys2Proof.Machine

/-- Settles O59: each clause is the lemma above about its command or its part of the state. -/
theorem resilienceWork : Obligations.ResilienceWork := by
  unfold Obligations.ResilienceWork
  refine ⟨fun s running => ⟨?empty, ?logs, ?copies, ?nothing, ?ckpt, ?slice, ?digest, ?stops, ?slot, ?result, ?tested, ?starts, ?reset⟩,
    ?release, ?compare, ?fails, ?stop⟩
  case empty =>
    intro empty
    refine (onMiller_runs (State.miller_of_running running)).trans ?_
    rw [cmdLogWrite, empty]
  case logs => exact fun r rest head => exec_logWrite_head running head
  case copies => exact fun r rest word bad next => exec_errorRingCopy_next running word bad next
  case nothing =>
    intro nothing word bad
    exact onDev_of_eq running (by rw [cmdErrorRingCopy, nothing])
  case ckpt =>
    exact fun item n it work => ⟨fun idle first => onDev_of_eq running (s.dev.ckpt_starts item n work idle first),
      fun c runs other => onDev_of_eq running (s.dev.ckpt_other item n work runs other),
      fun c runs mine lost => onDev_of_eq running (s.dev.ckpt_lost item n work runs mine lost),
      fun c d' it' c' runs mine safe clean round => onDev_of_eq running (s.dev.ckpt_round item work runs mine safe clean round)⟩
  case slice => exact fun c it runs item => exec_ckptSliceDone running runs item
  case digest => exact fun port p hport runs mine kind sub => exec_digestRecord running hport runs mine kind sub
  case stops => exact fun port p hport kind => exec_jobStop running hport kind
  case slot => exact fun bad runs => onDev_of_eq running (s.dev.scanSlotResult_waits bad runs)
  case result =>
    intro bad x slot ended group
    obtain ⟨closed, scanning, shown, bit, others, passes, fails⟩ := s.dev.slotCounted_spec (x := x) (bad := bad) group
    exact ⟨_, closed, scanning, shown, bit, others, passes, fails, exec_scanSlotResult running bad slot ended⟩
  case tested => exact fun r done => onDev_of_eq running (s.dev.startupTestDone_done r done)
  case starts => exact fun r stage first => ⟨_, onDev_of_eq running (s.dev.startupTestDone_eq r stage first), s.dev.startTested_spec r⟩
  case reset =>
    exact fun p r hp => ⟨fun idle => onDev_of_eq running (s.dev.partitionResetDone_none p r idle), exec_partitionResetDone running r hp⟩
  case release => exact fun d c it has idle more item => Dev.ckptRelease_parts has idle more item
  case compare =>
    intro d x gen entries mine own d1 d2 o found
    exact ⟨d.digCompare_agreed x rfl found, fun differ small => d.digCompare_small x rfl found differ small,
      fun v differ large most => d.digCompare_majority x rfl found differ large most, fun differ even => d.digCompare_split x rfl found differ even⟩
  case fails =>
    exact fun d g bad _ _ => ⟨fun columns i hi => d.scanFail_columnBit columns hi, fun lo hi i h => d.scanFail_spoolBit lo hi h,
      fun lo hi => d.scanFail_pressDead lo hi, fun copy => copy ▸ d.scanFail_copyDead, fun lo => d.scanFail_colDead lo, d.scanFail_mem⟩
  case stop =>
    intro d job id port e
    refine ⟨d.jobStop_known job id port, fun new => ?_⟩
    obtain ⟨stops, count, sent, ingress, rings⟩ := d.jobStop_spec job id port new
    obtain ⟨last, most, few⟩ := getLast?_last_sixteen d.fab.jobStops (job, id)
    rw [show e.fab.jobStops = _ from stops]
    exact ⟨last, most, few, count, sent, ingress, rings⟩

end Sys2Proof.Machine
end

section
/-!
Proofs, the surroundings: which commands move power, reset and the trip, what a trip stops and what it takes with it (R725 to R727, R737, R738).
-/
namespace Sys2Proof.Machine

open Sys2Proof

/-- A module that has lost its power or RESET_N, or has tripped, does not run. -/
theorem State.not_running_of_tripped {s : State} (tripped : s.board.tripped = true) : s.running = false := by
  simp [State.running, tripped]

/-- Settles O1: `step` on a queue with a front. -/
theorem stepRunsFrontCommand : Obligations.StepRunsFrontCommand := by
  unfold Obligations.StepRunsFrontCommand
  intro s c rest front
  simp only [step, front]

/-- Settles O2: `step` on an empty queue idles. -/
theorem idleStepCountsOneNanosecond : Obligations.IdleStepCountsOneNanosecond := by
  unfold Obligations.IdleStepCountsOneNanosecond
  intro s empty
  have idles : step s = .next s.idle := by simp only [step, empty]
  exact ⟨fun running => by rw [idles, State.idle, if_pos running], fun stopped => by simp [idles, State.idle, stopped]⟩

/-- Settles O4: the board has power and RESET_N is high, and no channel is marked. -/
theorem invariantAtReset : Obligations.InvariantAtReset := by
  unfold Obligations.InvariantAtReset
  rfl

/-! ### What a trip takes -/

/-- A run of whole-field writes of zero touches the registers alone. -/
theorem Dev.foldl_wf_zero (F : Nat → Fld) (l : List Nat) (d : Dev) : ∃ rs, l.foldl (fun d n => d.wf (F n) 0) d = { d with regs := rs } := by
  induction l generalizing d with
  | nil => exact ⟨d.regs, rfl⟩
  | cons n l ih =>
    obtain ⟨rs, h⟩ := ih (d.wf (F n) 0)
    exact ⟨rs, h⟩

/-- A module whose powered units have stopped: their work and their memories are gone (R737). -/
def Dev.unpowered (d : Dev) (l : LinkSt) : Dev :=
  { d with mem := { MemSt.reset with temps := d.mem.temps }, stn := {}, prs := {}, spl := {}, col := {}, srv := [{}, {}, {}, {}],
           ctl := { d.ctl with rings := [], items := [], prioStart := [], changing := false, resetReq := 0, resets := [] },
           tst := { d.tst with slot := none, ckpt := none, forced := [] },
           pmu := { d.pmu with samples := [] },
           fab := { d.fab with links := [{}, {}, {}, {}, {}, {}, l], pairs := [], wins := [], msgs := [], putRx := [] },
           cpl := {}, staged := [] }

/-- What stops in a trip leaves the unpowered module with registers of its own. -/
theorem Dev.stopForTrip_eq (d : Dev) : ∃ rs l, d.stopForTrip = { d.unpowered l with regs := rs } := by
  unfold Dev.stopForTrip
  dsimp only
  generalize ((List.range 4).find? _).getD 0 = g
  obtain ⟨r1, h1⟩ := Dev.foldl_wf_zero F.FAB_PORT_STAT_STATE (List.range 6) (d.unpowered { d.linkOf 6 with groupsOwn := 2 ^ g })
  obtain ⟨r2, h2⟩ := Dev.foldl_wf_zero F.HBM_STATUS_STATE (List.range 8) { d.unpowered { d.linkOf 6 with groupsOwn := 2 ^ g } with regs := r1 }
  unfold Dev.unpowered at h1 h2
  rw [h1, h2]
  split
  · exact ⟨r2, _, rfl⟩
  · exact ⟨_, _, rfl⟩

/-- The record of a trip (R737): the sensor of a thermal cause, the rail of an electrical one. -/
def tripRecord (c inst : Nat) : ErrRec :=
  if c ≤ 2 then { cls := 4, source := 0x15, event := 0x03, inst := inst }
  else { cls := 4, source := 0x14, event := 0x02, inst := if c = 4 then 0xFF else inst }

/-- A trip: the units stop, the cause is kept for the companion, THERMTRIP_N falls and the in-band interrupt follows. -/
theorem Dev.trip_eq (d : Dev) (causes inst : Nat) : d.trip causes inst =
    ((({ d.stopForTrip with pwr := { d.pwr with cause := tripCause causes } } : Dev).postError
      (tripRecord (tripCause causes) inst)).emit (.thermtrip false)).ibi true := rfl

theorem Dev.ibi_eq (d : Dev) (tripped : Bool) : ∃ b, d.ibi tripped = d.emit (.i3cIbi b) := ⟨_, rfl⟩

theorem Dev.trip_fenceDue (d : Dev) (causes inst : Nat) : (d.trip causes inst).mem.fenceDue = [] := by
  obtain ⟨rs, l, stopped⟩ := d.stopForTrip_eq
  rw [Dev.trip_eq]
  exact (congrArg MemSt.fenceDue (Dev.postError_mem _ _)).trans (congrArg (fun e : Dev => e.mem.fenceDue) stopped)

/-- The lowest of the causes is kept. -/
theorem tripCause_eq (causes : Nat) :
    tripCause causes = if bitAt causes 1 then 1 else if bitAt causes 2 then 2 else if bitAt causes 3 then 3 else 4 := by
  simp only [tripCause, List.find?_cons, List.find?_nil]
  cases bitAt causes 1 <;> cases bitAt causes 2 <;> cases bitAt causes 3 <;> cases bitAt causes 4 <;> rfl

/-! ### What a command does to the surroundings -/

/-- The surroundings and the module after each command that moves the surroundings. -/
inductive MovesPower (s : State) : Instr → State → Prop
  | kept (c : Instr) : MovesPower s c s
  | power (off : s.board.power = false) :
      MovesPower s .pwrOk { s with board := { s.board with power := true, pwrOk := true, resetN := false, tripped := false } }
  | release (ok : Bool) (power : s.board.power = true) (pwrOk : s.board.pwrOk = true) (low : s.board.resetN = false) :
      MovesPower s (.resetRelease ok) { s with board := { s.board with resetN := true }, dev := s.dev.restart.sramTest ok }
  | pulse (ok : Bool) (sound : s.board.tripped = false) : MovesPower s (.resetPulse ok) { s with dev := s.dev.restart.sramTest ok }
  | trips (causes inst : Nat) (power : s.board.power = true) (high : s.board.resetN = true) :
      MovesPower s (.trip causes inst)
        { s with board := { s.board with tripped := true, pwrOk := s.board.pwrOk && !bitAt causes 4 }, dev := s.dev.trip causes inst }
  | down : MovesPower s .powerDown
      { s with board := { s.board with power := false, pwrOk := false, resetN := false, tripped := false }, dev := s.dev.restart }

/-- The five commands of the board do what their rules say, or nothing. -/
theorem exec_movesPower {c : Instr} {s t : State} (moves : c.movesPower = true) (h : exec c s = .next t) : MovesPower s c t := by
  have kept {c : Instr} (h : (Host.Outcome.next s : Out') = .next t) : MovesPower s c t := Host.Outcome.next.inj h ▸ .kept c
  cases c <;> try contradiction
  case pwrOk =>
    change execPwrOk s = _ at h
    unfold execPwrOk at h
    split at h
    · exact kept h
    · rename_i off
      exact Host.Outcome.next.inj h ▸ .power (Bool.not_eq_true _ ▸ off)
  case resetRelease ok =>
    change execResetRelease ok s = _ at h
    unfold execResetRelease at h
    split at h
    · rename_i ready
      exact Host.Outcome.next.inj h ▸ .release ok ready.1 ready.2.1 ready.2.2
    · exact kept h
  case resetPulse ok =>
    change execResetPulse ok s = _ at h
    unfold execResetPulse at h
    split at h
    · rename_i ready
      exact Host.Outcome.next.inj h ▸ .pulse ok ready.2.2.2
    · exact kept h
  case trip causes inst =>
    change execTrip causes inst s = _ at h
    unfold execTrip at h
    split at h
    · rename_i ready
      exact Host.Outcome.next.inj h ▸ .trips causes inst ready.1 ready.2.1
    · exact kept h
  case powerDown => exact Host.Outcome.next.inj h ▸ .down

/-- Every other command leaves the surroundings and the queue. -/
theorem exec_keeps_board {c : Instr} {s t : State} (stays : c.movesPower = false) (h : exec c s = .next t) :
    t = s ∨ ∃ d, t = s.after d := by
  rcases exec_shape h with moves | kept
  · rw [stays] at moves
    contradiction
  · exact kept

/-- What `Board.legal` says, field by field. -/
theorem Board.legal_iff {b : Board} : b.legal = true ↔ (b.pwrOk = true → b.power = true) ∧ (b.resetN = true → b.power = true)
    ∧ (b.resetN = true → b.pwrOk = true ∨ b.tripped = true) ∧ (b.tripped = true → b.power = true ∧ b.resetN = true) := by
  obtain ⟨power, pwrOk, resetN, tripped, straps⟩ := b
  cases power <;> cases pwrOk <;> cases resetN <;> cases tripped <;> simp [Board.legal]

theorem State.inv_iff {s : State} : s.inv = true ↔ s.board.legal = true ∧ s.dev.mem.fenceDue = [] := by
  simp [State.inv]

/-- A command of the board keeps the invariant. -/
theorem MovesPower.inv {c : Instr} {s t : State} (moves : MovesPower s c t) (h : s.inv = true) : t.inv = true := by
  obtain ⟨legal, due⟩ := State.inv_iff.1 h
  cases moves with
  | kept => exact h
  | power off => exact State.inv_iff.2 ⟨rfl, due⟩
  | release ok power pwrOk low => exact State.inv_iff.2 ⟨by simp [Board.legal_iff, power, pwrOk], rfl⟩
  | pulse ok sound => exact State.inv_iff.2 ⟨legal, rfl⟩
  | trips causes inst power high => exact State.inv_iff.2 ⟨by simp [Board.legal_iff, power, high], s.dev.trip_fenceDue causes inst⟩
  | down => exact State.inv_iff.2 ⟨rfl, rfl⟩

/-- Every command keeps the invariant: it fences what failed in it, or is one of the board's. -/
theorem exec_inv {c : Instr} {s t : State} (h : s.inv = true) (next : exec c s = .next t) : t.inv = true := by
  cases moves : c.movesPower with
  | true => exact (exec_movesPower moves next).inv h
  | false =>
    obtain rfl | ⟨d, rfl⟩ := exec_keeps_board moves next
    · exact h
    · exact State.inv_iff.2 ⟨(State.inv_iff.1 h).1, d.fenceAll_due⟩

/-- Settles O5: idling counts time alone, and a command keeps the invariant. -/
theorem invariantKeptByEveryStep : Obligations.InvariantKeptByEveryStep := by
  unfold Obligations.InvariantKeptByEveryStep
  intro s t h next
  unfold step at next
  split at next
  · obtain rfl := Host.Outcome.next.inj next
    unfold State.idle
    split <;> exact h
  · next c rest front => exact exec_inv (s := { s with pending := rest }) h next

/-- Settles O6: by the shape of the command's answer. -/
theorem commandsKeepQueueAndSurroundings : Obligations.CommandsKeepQueueAndSurroundings := by
  unfold Obligations.CommandsKeepQueueAndSurroundings
  intro c s t next
  cases moves : c.movesPower with
  | true => cases exec_movesPower moves next <;> exact ⟨rfl, nofun, rfl⟩
  | false => obtain rfl | ⟨d, rfl⟩ := exec_keeps_board moves next <;> exact ⟨rfl, fun _ => rfl, rfl⟩

/-- Settles O7: in a trip power and RESET_N stand, so that no other command of the board acts. -/
theorem onlyPowerDownEndsTrip : Obligations.OnlyPowerDownEndsTrip := by
  unfold Obligations.OnlyPowerDownEndsTrip
  intro c s t legal tripped notDown next
  obtain ⟨power, high⟩ := (Board.legal_iff.1 legal).2.2.2 tripped
  cases moves : c.movesPower with
  | true =>
    cases exec_movesPower moves next with
    | kept => exact tripped
    | power off => simp [off] at power
    | release ok _ _ low => simp [low] at high
    | pulse ok sound => exact tripped
    | trips => rfl
    | down => exact absurd rfl notDown
  | false => obtain rfl | ⟨d, rfl⟩ := exec_keeps_board moves next <;> exact tripped

/-- A command of a port other than the Companion Link is one of the units that stop. -/
theorem onPort_stopped {port : Nat} {f : Dev → Dev} {s : State} (other : port ≠ 6) (h : s.running = false) : onPort port f s = .next s := by
  rw [onPort, if_neg other, onDev_stopped h]

/-- Settles O8: a tripped module does not run, and every command left out by `survivesTrip` needs a running module. -/
theorem tripStopsTheModule : Obligations.TripStopsTheModule := by
  unfold Obligations.TripStopsTheModule
  intro c s tripped stops
  have stopped := State.not_running_of_tripped tripped
  cases c <;> first
    | contradiction
    | exact onDev_stopped stopped
    | exact onPort_stopped (of_decide_eq_false stops) stopped

/-- Settles O9: the trip's module is the unpowered one with the record posted. -/
theorem tripLosesWorkAndMemory : Obligations.TripLosesWorkAndMemory := by
  unfold Obligations.TripLosesWorkAndMemory
  intro s causes inst power high sound some
  obtain ⟨rs, l, stopped⟩ := s.dev.stopForTrip_eq
  obtain ⟨b, interrupt⟩ := Dev.ibi_eq ((({ s.dev.stopForTrip with pwr := { s.dev.pwr with cause := tripCause causes } } : Dev).postError
    (tripRecord (tripCause causes) inst)).emit (.thermtrip false)) true
  refine ⟨_, if_pos ⟨power, high, sound, some⟩, rfl, by simp, ?_⟩
  simp only [Dev.trip_eq, interrupt, ← tripCause_eq]
  simp [Dev.emit, stopped, Dev.unpowered, MemSt.reset]

/-- A reset leaves every register at its reset value, nothing in memory or at work, and the flash as it was. -/
theorem Dev.restart_sramTest (d : Dev) (ok : Bool) : (∀ off, (d.restart.sramTest ok).reg off = regReset off)
    ∧ (d.restart.sramTest ok).flash = d.flash ∧ (d.restart.sramTest ok).mem.hbm = [] ∧ (d.restart.sramTest ok).ctl.items = [] :=
  ⟨fun _ => rfl, rfl, rfl, rfl⟩

/-- Settles O10: each command of the board, on the board that it acts on. -/
theorem powerAndReset : Obligations.PowerAndReset := by
  unfold Obligations.PowerAndReset
  intro s ok
  refine ⟨?power, ?release, ?pulse, ?tripped, ⟨_, rfl, rfl, rfl, rfl, rfl, rfl, rfl⟩⟩
  case power => exact fun off => if_neg (by simp [off])
  case release =>
    intro power pwrOk low
    exact ⟨_, if_pos ⟨power, pwrOk, low⟩, rfl, by simp [State.miller, power, Dev.sramTest], s.dev.restart_sramTest ok⟩
  case pulse =>
    intro power pwrOk high sound
    exact ⟨_, if_pos ⟨power, pwrOk, high, sound⟩, rfl, by simp [State.running, State.miller, power, pwrOk, high, sound, Dev.sramTest],
      s.dev.restart_sramTest ok⟩
  case tripped => exact fun tripped => if_neg (by simp [tripped])

end Sys2Proof.Machine
end

section
/-!
Proofs, packets and flits as bytes (R492, R509, R510, R641, R642): byte strings and the numbers they spell, a packet read back from its words, a flit's
check.
-/
namespace Sys2Proof.Machine

/-! ### Numbers as bytes -/

theorem leNat_lt (bs : List Byte) : leNat bs < 256 ^ bs.length := by
  induction bs with
  | nil => exact Nat.one_pos
  | cons b bs ih =>
    have hb : b.toNat < 256 := b.isLt
    simp only [leNat, List.length_cons, Nat.pow_succ]
    omega

/-- The bytes of a number spell it, cut to their count. -/
theorem leNat_leBytes (n x : Nat) : leNat (leBytes n x) = x % 256 ^ n := by
  induction n generalizing x with
  | zero => simp [leBytes, leNat, Nat.mod_one]
  | succ n ih =>
    simp only [leBytes, leNat, ih, BitVec.toNat_ofNat]
    rw [show 256 ^ (n + 1) = 256 * 256 ^ n from Nat.pow_succ']
    exact Nat.mod_mul.symm

/-- Byte strings of one length that spell one number are the same. -/
theorem eq_of_leNat_eq {as bs : List Byte} (length : as.length = bs.length) (h : leNat as = leNat bs) : as = bs := by
  induction as generalizing bs with
  | nil => exact (List.length_eq_zero_iff.1 length.symm).symm
  | cons a as ih =>
    cases bs with
    | nil => simp at length
    | cons b bs =>
      have ha : a.toNat < 256 := a.isLt
      have hb : b.toNat < 256 := b.isLt
      simp only [leNat] at h
      have low : a.toNat = b.toNat := by omega
      rw [BitVec.eq_of_toNat_eq low, ih (by simpa using length) (by omega)]

theorem leNat_leBytes_word {w : Nat} (h : w < 2 ^ 64) : leNat (leBytes 8 w) = w := by
  rw [leNat_leBytes]
  exact Nat.mod_eq_of_lt h

theorem take_leBytes (n w : Nat) (l : List Byte) : (leBytes n w ++ l).take n = leBytes n w :=
  List.take_left' (length_leBytes n w)

theorem drop_leBytes (n w : Nat) (l : List Byte) : (leBytes n w ++ l).drop n = l :=
  List.drop_left' (length_leBytes n w)

theorem length_pad8 (bs : List Byte) : (pad8 bs).length = (bs.length + 7) / 8 * 8 := by
  simp only [pad8, List.length_append, List.length_replicate]
  omega

theorem take_pad8 (bs rest : List Byte) : (pad8 bs ++ rest).take bs.length = bs := by
  rw [pad8, List.append_assoc]
  exact List.take_left

theorem drop_pad8 (bs rest : List Byte) : (pad8 bs ++ rest).drop ((bs.length + 7) / 8 * 8) = rest :=
  List.drop_left' (length_pad8 bs)

/-! ### Packets -/

theorem bitAt_eq_decide (x i : Nat) : bitAt x i = decide (x / 2 ^ i % 2 = 1) := by
  rw [bitAt, Nat.shiftRight_eq_div_pow]

/-- A flag is a bit that reads as the flag. -/
theorem b2n_reads (b : Bool) : b2n b < 2 ∧ decide (b2n b = 1) = b := by
  cases b <;> decide

/-- The bytes of payload that follow a header (R510): data of the kinds that carry it. -/
def payloadLength (kind len : Nat) : Nat := if kind ∈ [0x1, 0x5, 0x9, 0xA, 0xD] then 0 else len

/-- What `Packet.parse` reads from three header words and the payload behind them. -/
theorem Packet.parse_words {w0 w1 w2 : Nat} (h0 : w0 < 2 ^ 64) (h1 : w1 < 2 ^ 64) (h2 : w2 < 2 ^ 64) (pay rest : List Byte)
    (hn : pay.length = payloadLength (bitsAt w0 0 4) (bitsAt w1 0 9)) :
    Packet.parse (leBytes 8 w0 ++ leBytes 8 w1 ++ leBytes 8 w2 ++ pad8 pay ++ rest) =
      some ({ kind := bitsAt w0 0 4, dst := bitsAt w0 4 18, src := bitsAt w0 22 18, job := bitsAt w0 40 16,
              len := bitsAt w1 0 9, tag := bitsAt w1 9 10, sub := bitsAt w1 19 4, typ := bitsAt w1 23 3,
              status := bitsAt w1 26 2, noret := bitAt w1 28, aux := bitsAt w1 32 32, addr := bitsAt w2 0 52, payload := pay }, rest) := by
  generalize hbs : leBytes 8 w0 ++ leBytes 8 w1 ++ leBytes 8 w2 ++ pad8 pay ++ rest = bs
  have first : bs = leBytes 8 w0 ++ (leBytes 8 w1 ++ (leBytes 8 w2 ++ (pad8 pay ++ rest))) := by simp [← hbs, List.append_assoc]
  have d8 : bs.drop 8 = leBytes 8 w1 ++ (leBytes 8 w2 ++ (pad8 pay ++ rest)) := by rw [first, drop_leBytes]
  have d16 : bs.drop 16 = leBytes 8 w2 ++ (pad8 pay ++ rest) := by rw [show 16 = 8 + 8 from rfl, ← List.drop_drop, d8, drop_leBytes]
  have d24 : bs.drop 24 = pad8 pay ++ rest := by rw [show 24 = 16 + 8 from rfl, ← List.drop_drop, d16, drop_leBytes]
  have long : bs.length = 24 + ((pay.length + 7) / 8 * 8 + rest.length) := by
    simp only [first, List.length_append, length_leBytes, length_pad8]
    omega
  have word0 : leNat (bs.take 8) = w0 := by rw [first, take_leBytes, leNat_leBytes_word h0]
  have word1 : leNat ((bs.drop 8).take 8) = w1 := by rw [d8, take_leBytes, leNat_leBytes_word h1]
  have word2 : leNat ((bs.drop 16).take 8) = w2 := by rw [d16, take_leBytes, leNat_leBytes_word h2]
  unfold Packet.parse
  rw [if_neg (by omega)]
  dsimp only
  rw [word0, word1, word2]
  have complete {plen : Nat} (same : plen = pay.length) : ¬ bs.length < 24 + (plen + 7) / 8 * 8 ∧ (bs.drop 24).take plen = pay
      ∧ bs.drop (24 + (plen + 7) / 8 * 8) = rest := by
    subst same
    exact ⟨by omega, by rw [d24, take_pad8], by rw [← List.drop_drop, d24, drop_pad8]⟩
  split
  case h_6 =>
    obtain ⟨long, read, left⟩ := complete (plen := bitsAt w1 0 9) (by simp_all [payloadLength])
    rw [if_neg long, read, left]
  all_goals
    obtain ⟨long, read, left⟩ := complete (plen := 0) (by simp_all [payloadLength])
    rw [if_neg long, read, left]

/-- A fabric packet is read from its own bytes, whatever follows (R509, R510). -/
theorem Packet.parse_bytes {p : Packet} (rest : List Byte) (kind : p.kind < 16) (dst : p.dst < 2 ^ 18) (src : p.src < 2 ^ 18) (job : p.job < 2 ^ 16)
    (len : p.len < 512) (tag : p.tag < 1024) (sub : p.sub < 16) (typ : p.typ < 8) (status : p.status < 4) (aux : p.aux < 2 ^ 32) (addr : p.addr < 2 ^ 52)
    (pay : p.payload.length = payloadLength p.kind p.len) : Packet.parse (p.bytes ++ rest) = some (p, rest) := by
  obtain ⟨kd, ds, sr, jb, ln, tg, sb, ty, st, nr, ax, ad, py⟩ := p
  simp only at *
  simp only [Packet.bytes, Packet.header, Nat.mod_eq_of_lt, *]
  obtain ⟨bit, flag⟩ := b2n_reads nr
  rw [Packet.parse_words (by omega) (by omega) (by omega)]
  · simp only [bitsAt_eq, bitAt_eq_decide, Option.some.injEq, Prod.mk.injEq, and_true, Packet.mk.injEq]
    refine ⟨by omega, by omega, by omega, by omega, by omega, by omega, by omega, by omega, by omega, ?_, by omega, by omega⟩
    exact (decide_eq_decide.2 (by omega)).trans flag
  · simp only [bitsAt_eq]
    rw [pay]
    congr 1 <;> omega

/-- What `CplPacket.parse` reads from two header words and the payload behind them. -/
theorem CplPacket.parse_words {w0 w1 : Nat} (h0 : w0 < 2 ^ 64) (h1 : w1 < 2 ^ 64) (pay rest : List Byte)
    (hn : pay.length = if cplHasPayload (bitsAt w0 0 8) then bitsAt w0 20 9 else 0) :
    CplPacket.parse (leBytes 8 w0 ++ leBytes 8 w1 ++ pad8 pay ++ rest) =
      some ({ op := bitsAt w0 0 8, tag := bitsAt w0 8 12, len := bitsAt w0 20 9, poison := bitAt w0 29,
              code := bitsAt w0 32 8, arg := bitsAt w0 40 24, addr := bitsAt w1 0 52, payload := pay,
              resv := bitsAt w0 30 2 + 4 * bitsAt w1 52 12 }, rest) := by
  generalize hbs : leBytes 8 w0 ++ leBytes 8 w1 ++ pad8 pay ++ rest = bs
  have first : bs = leBytes 8 w0 ++ (leBytes 8 w1 ++ (pad8 pay ++ rest)) := by simp [← hbs, List.append_assoc]
  have d8 : bs.drop 8 = leBytes 8 w1 ++ (pad8 pay ++ rest) := by rw [first, drop_leBytes]
  have d16 : bs.drop 16 = pad8 pay ++ rest := by rw [show 16 = 8 + 8 from rfl, ← List.drop_drop, d8, drop_leBytes]
  have long : bs.length = 16 + ((pay.length + 7) / 8 * 8 + rest.length) := by
    simp only [first, List.length_append, length_leBytes, length_pad8]
    omega
  have word0 : leNat (bs.take 8) = w0 := by rw [first, take_leBytes, leNat_leBytes_word h0]
  have word1 : leNat ((bs.drop 8).take 8) = w1 := by rw [d8, take_leBytes, leNat_leBytes_word h1]
  unfold CplPacket.parse
  rw [if_neg (by omega)]
  dsimp only
  rw [word0, word1, ← hn, if_neg (by omega), d16, take_pad8, ← List.drop_drop, d16, drop_pad8]

/-- A packet of the Companion Link is read from its own bytes, whatever follows (R641, R642). -/
theorem CplPacket.parse_bytes {p : CplPacket} (rest : List Byte) (op : p.op < 256) (tag : p.tag < 4096) (len : p.len < 512) (code : p.code < 256)
    (arg : p.arg < 2 ^ 24) (addr : p.addr < 2 ^ 52) (resv : p.resv < 2 ^ 14) (pay : p.payload.length = if cplHasPayload p.op then p.len else 0) :
    CplPacket.parse (p.bytes ++ rest) = some (p, rest) := by
  obtain ⟨o, tg, ln, po, cd, ar, ad, py, rv⟩ := p
  simp only at *
  simp only [CplPacket.bytes, Nat.mod_eq_of_lt, *]
  obtain ⟨bit, flag⟩ := b2n_reads po
  generalize h0 : o + tg * 2 ^ 8 + ln * 2 ^ 20 + b2n po * 2 ^ 29 + cd * 2 ^ 32 + ar * 2 ^ 40 + rv % 4 * 2 ^ 30 = w0
  have read : bitsAt w0 0 8 = o ∧ bitsAt w0 20 9 = ln := by
    simp only [bitsAt_eq]
    omega
  rw [CplPacket.parse_words (by omega) (by omega) _ _ (by rw [read.1, read.2, pay])]
  simp only [bitsAt_eq, bitAt_eq_decide, Option.some.injEq, Prod.mk.injEq, and_true, CplPacket.mk.injEq]
  refine ⟨by omega, by omega, by omega, ?_, by omega, by omega, by omega, trivial, by omega⟩
  exact (decide_eq_decide.2 (by omega)).trans flag

/-! ### Flits -/

theorem crcBit_lt {c : Nat} (h : c < 2 ^ 32) : crcBit c < 2 ^ 32 := by
  unfold crcBit
  split
  · exact Nat.xor_lt_two_pow (by omega) (by decide)
  · omega

theorem crcByte_lt {c : Nat} (h : c < 2 ^ 32) (b : Byte) : crcByte c b < 2 ^ 32 := by
  have hb : b.toNat < 2 ^ 32 := Nat.lt_of_lt_of_le b.isLt (by decide)
  have start : c ^^^ b.toNat < 2 ^ 32 := Nat.xor_lt_two_pow h hb
  unfold crcByte
  iterate 8 refine crcBit_lt ?_
  exact start

/-- A check is a 32-bit number. -/
theorem crc32c_lt (bs : List Byte) : crc32c bs < 2 ^ 32 := by
  have fold (c : Nat) (h : c < 2 ^ 32) : bs.foldl crcByte c < 2 ^ 32 := by
    induction bs generalizing c with
    | nil => exact h
    | cons b bs ih => exact ih _ (crcByte_lt h b)
  exact Nat.xor_lt_two_pow (fold _ (by decide)) (by decide)

/-- The 252 bytes that a flit's check covers: the header, the payload and zeros. -/
def flitBody (header : Nat) (payload : List Byte) : List Byte :=
  leBytes 8 header ++ (payload ++ List.replicate (244 - payload.length) 0).take 244

theorem flitBytes_eq (header : Nat) (payload : List Byte) :
    flitBytes header payload = flitBody header payload ++ leBytes 4 (crc32c (flitBody header payload)) := rfl

theorem length_flitBody (header : Nat) (payload : List Byte) : (flitBody header payload).length = 252 := by
  simp only [flitBody, List.length_append, length_leBytes, List.length_take, List.length_replicate]
  omega

theorem flitHeader_flitBytes {header : Nat} (h : header < 2 ^ 64) (payload : List Byte) : flitHeader (flitBytes header payload) = header := by
  rw [flitHeader, flitBytes_eq, flitBody, List.append_assoc, take_leBytes, leNat_leBytes_word h]

/-- A flit with its own check is bad by its length alone. -/
theorem flitBad_flitBytes {header : Nat} (h : header < 2 ^ 64) (payload : List Byte) :
    flitBad (flitBytes header payload) = decide (244 < bitsAt header 30 8) := by
  have body := length_flitBody header payload
  have long : (flitBytes header payload).length = 256 := by rw [flitBytes_eq, List.length_append, body, length_leBytes]
  have covered : (flitBytes header payload).take 252 = flitBody header payload := by rw [flitBytes_eq]; exact List.take_left' body
  have behind : (flitBytes header payload).drop 252 = leBytes 4 (crc32c (flitBody header payload)) := by rw [flitBytes_eq]; exact List.drop_left' body
  have check : leNat (((flitBytes header payload).drop 252).take 4) = crc32c (flitBody header payload) := by
    rw [behind, List.take_of_length_le (by rw [length_leBytes]), leNat_leBytes]
    exact Nat.mod_eq_of_lt (crc32c_lt _)
  simp [flitBad, long, check, covered, flitHeader_flitBytes h]

/-- A flit carries its payload behind the header. -/
theorem payload_flitBytes (header : Nat) {payload : List Byte} (short : payload.length ≤ 244) :
    ((flitBytes header payload).drop 8).take payload.length = payload := by
  rw [flitBytes_eq, flitBody, List.append_assoc, drop_leBytes, List.take_append_of_le_length (by simp; omega), List.take_take,
    Nat.min_eq_left short, List.take_left]

/-- Another check makes a bad flit of a good one. -/
theorem flitBad_of_check {f : Flit} {c : List Byte} (long : f.length = 256) (four : c.length = 4) (other : c ≠ (f.drop 252).take 4)
    (good : flitBad f = false) : flitBad (f.take 252 ++ c) = true := by
  have body : (f.take 252).length = 252 := by rw [List.length_take, long]; rfl
  have own : leNat ((f.drop 252).take 4) = crc32c (f.take 252) := by
    simp only [flitBad, Bool.or_eq_false_iff, decide_eq_false_iff_not, ne_eq, Decidable.not_not] at good
    exact good.1.2
  have covered : (f.take 252 ++ c).take 252 = f.take 252 := List.take_left' body
  have behind : (f.take 252 ++ c).drop 252 = c := List.drop_left' body
  have check : leNat c ≠ crc32c (f.take 252) := fun same =>
    other (eq_of_leNat_eq (by simp [four, long]) (same.trans own.symm))
  simp [flitBad, covered, behind, List.take_of_length_le (Nat.le_of_eq four), check]

/-- Every field of a header is read from it, and the bits above them are zero (R492). -/
theorem LinkSt.header_fields (l : LinkSt) {seq vc len cvc credits : Nat} (nak rpl : Bool) (hseq : seq < 4096) (hvc : vc < 8) (hlen : len ≤ 244)
    (hcvc : cvc < 8) (hcr : credits < 4096) (hrx : l.rxNext < 4096) :
    let h := l.header seq vc len nak rpl cvc credits
    h < 2 ^ 64 ∧ bitsAt h 0 12 = seq ∧ (bitsAt h 12 12 + 1) % 4096 = l.rxNext ∧ bitAt h 24 = l.rxAny ∧ bitAt h 25 = nak ∧ bitAt h 26 = rpl
      ∧ bitsAt h 27 3 = vc ∧ bitsAt h 30 8 = len ∧ bitsAt h 38 3 = cvc ∧ bitsAt h 41 12 = credits ∧ h / 2 ^ 53 = 0 := by
  obtain ⟨any2, any⟩ := b2n_reads l.rxAny
  obtain ⟨nak2, nak'⟩ := b2n_reads nak
  obtain ⟨rpl2, rpl'⟩ := b2n_reads rpl
  intro h
  have word : h = seq + (l.rxNext + 4095) % 4096 * 2 ^ 12 + b2n l.rxAny * 2 ^ 24 + b2n nak * 2 ^ 25 + b2n rpl * 2 ^ 26 + vc * 2 ^ 27
      + len * 2 ^ 30 + cvc * 2 ^ 38 + credits * 2 ^ 41 := by
    simp only [h, LinkSt.header, Nat.mod_eq_of_lt, hseq, hvc, hcvc, hcr, (by omega : len < 256)]
  clear_value h
  simp only [bitsAt_eq, bitAt_eq_decide]
  refine ⟨by omega, by omega, by omega, ?any, ?nak, ?rpl, by omega, by omega, by omega, by omega, by omega⟩
  case any => exact (decide_eq_decide.2 (by omega)).trans any
  case nak => exact (decide_eq_decide.2 (by omega)).trans nak'
  case rpl => exact (decide_eq_decide.2 (by omega)).trans rpl'

/-- Settles O55: the round trips of the two kinds of packets and of the flit, field by field. -/
theorem packetBytes : Obligations.PacketBytes := by
  unfold Obligations.PacketBytes
  refine ⟨?fabric, ?companion, ?flit, ?check, ?header⟩
  case fabric =>
    exact fun p rest kind dst src job len tag sub typ status aux addr pay => Packet.parse_bytes rest kind dst src job len tag sub typ status aux addr pay
  case companion => exact fun p rest op tag len code arg addr resv pay => CplPacket.parse_bytes rest op tag len code arg addr resv pay
  case flit => exact fun h pay word => ⟨flitHeader_flitBytes word pay, flitBad_flitBytes word pay, payload_flitBytes h⟩
  case check => exact fun f c long four other good => flitBad_of_check long four other good
  case header => exact fun l seq vc len cvc credits nak rpl hseq hvc hlen hcvc hcr hrx => l.header_fields nak rpl hseq hvc hlen hcvc hcr hrx

end Sys2Proof.Machine
end

section
/-!
Proofs, requests that reach the module (R504, R511, R514 to R517, R520 to R523): the route a packet takes, the ingress checks in their order, and what
each request is answered; the statement of O48.
-/
namespace Sys2Proof.Machine

/-! ### Dimension order -/

/-- The step of dimension order on one axis: 0 towards higher coordinates, 1 towards lower. -/
def axisStep (dims own dst ax : Nat) : Nat :=
  if (coordOf dst ax + axisSize dims ax - coordOf own ax) % axisSize dims ax ≤ axisSize dims ax / 2 then 0 else 1

theorem axisStep_lt (dims own dst ax : Nat) : axisStep dims own dst ax < 2 := by
  unfold axisStep
  split <;> decide

/-- Dimension order goes by the lowest axis whose coordinates differ (R504). -/
theorem dimensionPort_eq (dims own dst : Nat) : dimensionPort dims own dst =
    if coordOf own 0 ≠ coordOf dst 0 then some (axisStep dims own dst 0)
    else if coordOf own 1 ≠ coordOf dst 1 then some (2 + axisStep dims own dst 1)
    else if coordOf own 2 ≠ coordOf dst 2 then some (4 + axisStep dims own dst 2)
    else none := by
  have axes : List.range 3 = [0, 1, 2] := rfl
  unfold dimensionPort axisStep
  rw [axes]
  by_cases x : coordOf own 0 = coordOf dst 0 <;> by_cases y : coordOf own 1 = coordOf dst 1 <;> by_cases z : coordOf own 2 = coordOf dst 2 <;>
    simp [x, y, z]

theorem dimensionPort_some {dims own dst q : Nat} (h : dimensionPort dims own dst = some q) :
    ∃ ax, ax < 3 ∧ q = 2 * ax + axisStep dims own dst ax ∧ coordOf own ax ≠ coordOf dst ax ∧ ∀ b, b < ax → coordOf own b = coordOf dst b := by
  rw [dimensionPort_eq] at h
  split at h
  · next x => exact ⟨0, by decide, by simpa using h.symm, x, by omega⟩
  · next x =>
    split at h
    · next y =>
      refine ⟨1, by decide, by simpa using h.symm, y, fun b hb => ?_⟩
      obtain rfl : b = 0 := by omega
      exact Decidable.not_not.1 x
    · next y =>
      split at h
      · next z =>
        refine ⟨2, by decide, by simpa using h.symm, z, fun b hb => ?_⟩
        obtain rfl | rfl : b = 0 ∨ b = 1 := by omega
        · exact Decidable.not_not.1 x
        · exact Decidable.not_not.1 y
      · simp at h

/-- No step is left for the own node alone. -/
theorem dimensionPort_eq_none {dims own dst : Nat} (hown : own < 2 ^ 18) (hdst : dst < 2 ^ 18) : dimensionPort dims own dst = none ↔ own = dst := by
  have coords : own = dst ↔ coordOf own 0 = coordOf dst 0 ∧ coordOf own 1 = coordOf dst 1 ∧ coordOf own 2 = coordOf dst 2 := by
    simp only [coordOf, bitsAt_eq]
    omega
  rw [dimensionPort_eq, coords]
  by_cases x : coordOf own 0 = coordOf dst 0 <;> by_cases y : coordOf own 1 = coordOf dst 1 <;> by_cases z : coordOf own 2 = coordOf dst 2 <;>
    simp [x, y, z]

/-! ### Sending on -/

/-- `e` is `d` after packets have been routed and sent: the links, what is counted and what has left the module may differ. -/
def Dev.carries (d e : Dev) : Prop :=
  e = { d with regs := e.regs, pmu := e.pmu, out := e.out, cpl := e.cpl, fab := { d.fab with links := e.fab.links } }

theorem Dev.carries_refl (d : Dev) : d.carries d := rfl

theorem Dev.carries.trans {a b c : Dev} (hab : a.carries b) (hbc : b.carries c) : a.carries c := by
  unfold Dev.carries at *
  rw [hbc, hab]

theorem Dev.sends.carries {d e : Dev} (h : d.sends e) : d.carries e := h.same

theorem Dev.carries_bump (d : Dev) (f : Fld) (n : Nat) : d.carries (d.bump f n) := by
  unfold Dev.bump
  split <;> rfl

section
variable {d e : Dev} (h : d.carries e)
include h

theorem Dev.carries.mem : e.mem = d.mem := by rw [h]
theorem Dev.carries.ctl : e.ctl = d.ctl := by rw [h]
theorem Dev.carries.fab : e.fab = { d.fab with links := e.fab.links } := by rw [h]

end

theorem Dev.carries_putOnPort (d : Dev) {n : Nat} (hn : n < 6) (b : Bool) (pkt : Packet) : d.carries (d.putOnPort n b pkt) := by
  unfold Dev.putOnPort
  split
  · exact Dev.carries.trans (b := d.emit (.fabric n pkt)) rfl (Dev.sends_transmit _ (by omega) _ _).carries
  · exact d.carries_refl

theorem Dev.override_lt {d : Dev} {dst p : Nat} {f : Bool} (h : d.override dst = some (p, f)) : p < 8 := by
  obtain ⟨i, -, entry⟩ := List.exists_of_findSome?_eq_some h
  dsimp only at entry
  split at entry
  · obtain ⟨rfl, -⟩ := Prod.mk.inj (Option.some.inj entry)
    exact Nat.mod_lt _ (by decide)
  · contradiction

/-- A route leads out of one of the six ports, or the packet is counted and discarded (R504 to R507). -/
theorem Dev.route_spec (d : Dev) (dst : Nat) (inp : Option (Nat × Bool)) :
    d.carries (d.route dst inp).1 ∧ ∀ p b, (d.route dst inp).2 = some (p, b) → p < 6 := by
  have chosen {p : Nat} (h : (match d.override dst with
      | some (p, f) => (if p = 0 ∨ p = 7 then none else some (p - 1), f)
      | none => (dimensionPort (d.fab.dims.getD 0) d.ownNode dst, false)).1 = some p) : p < 6 := by
    split at h
    · next q f found =>
      have := Dev.override_lt found
      simp only [Option.ite_none_left_eq_some, Option.some.injEq] at h
      omega
    · obtain ⟨ax, hax, rfl, -⟩ := dimensionPort_some h
      have := axisStep_lt (d.fab.dims.getD 0) d.ownNode dst ax
      omega
  unfold Dev.route
  dsimp only
  split
  · exact ⟨d.carries_bump F.FAB_EVENTS_NO_ROUTE 1, nofun⟩
  · next p hp =>
    split
    · exact ⟨d.carries_bump F.FAB_EVENTS_NO_ROUTE 1, nofun⟩
    · exact ⟨d.carries_refl, fun q b h => by obtain ⟨rfl, -⟩ := Prod.mk.inj (Option.some.inj h); exact chosen hp⟩

theorem Dev.carries_sendOn (d : Dev) (pkt : Packet) (inp : Option (Nat × Bool)) : d.carries (d.sendOn pkt inp) := by
  obtain ⟨routed, out⟩ := d.route_spec pkt.dst inp
  unfold Dev.sendOn
  split
  · next e p b found =>
    rw [found] at routed out
    exact routed.trans (e.carries_putOnPort (out p b rfl) b pkt)
  · next e found =>
    rw [found] at routed
    exact routed

/-! ### The ingress checks -/

/-- The entry that admits a job is in force, not stopped, and names the job (R514). -/
theorem Dev.ingressEntry_some {d : Dev} {job a : Nat} (h : d.ingressEntry job = some a) :
    ∃ i, i < 64 ∧ a = SMap.get (fun _ => 0) d.fab.ing i ∧ bitAt a 28 = true ∧ d.rbit F.FAB_ING_STOP_STOPPED i = false ∧ bitsAt a 0 16 = job := by
  obtain ⟨i, found, rfl⟩ := Option.map_eq_some_iff.1 h
  have holds := List.find?_some found
  simp only [Bool.and_eq_true, Bool.not_eq_eq_eq_not, Bool.not_true, decide_eq_true_eq] at holds
  exact ⟨i, List.mem_range.1 (List.mem_of_find?_eq_some found), rfl, holds.1.1, holds.1.2, holds.2⟩

/-- The checks of R515 before the translation, in one condition. -/
theorem Dev.ingress_eq (d : Dev) (n bit : Nat) (p : Packet) :
    (∃ a, d.ingressEntry p.job = some a ∧ (bit = 27 ∨ bitAt a (18 + n) = true) ∧ bitAt a bit = true ∧ d.jobOf (bitsAt a 16 2) = p.job
      ∧ d.ready (bitsAt a 16 2) = true ∧ d.ingress (some n) bit p = (d, some (bitsAt a 16 2)))
    ∨ ((∀ a, d.ingressEntry p.job = some a → ¬((bit = 27 ∨ bitAt a (18 + n) = true) ∧ bitAt a bit = true ∧ d.jobOf (bitsAt a 16 2) = p.job
      ∧ d.ready (bitsAt a 16 2) = true)) ∧ ∃ f, d.ingress (some n) bit p = ((d.bump f 1).event (34 + n) 0x705 none 0 1, none)) := by
  unfold Dev.ingress
  dsimp only
  cases entry : d.ingressEntry p.job with
  | none => exact .inr ⟨nofun, _, rfl⟩
  | some a =>
    dsimp only
    by_cases perm : (bit = 27 ∨ bitAt a (18 + n) = true) ∧ bitAt a bit = true
    · have allowed : (!(decide (bit = 27) || bitAt a (18 + n)) || !bitAt a bit) = false := by
        rw [Bool.or_eq_false_iff, Bool.not_eq_false', Bool.not_eq_false', Bool.or_eq_true, decide_eq_true_eq]
        exact perm
      rw [if_neg (by rw [allowed]; exact Bool.false_ne_true)]
      by_cases part : d.jobOf (bitsAt a 16 2) = p.job ∧ d.ready (bitsAt a 16 2) = true
      · rw [if_neg (by simpa using part)]
        exact .inl ⟨a, rfl, perm.1, perm.2, part.1, part.2, rfl⟩
      · rw [if_pos (by simpa [Decidable.imp_iff_not_or] using part)]
        exact .inr ⟨fun b hb h => part (Option.some.inj hb ▸ h.2.2), _, rfl⟩
    · rw [if_pos (by simpa [Decidable.imp_iff_not_or] using perm)]
      exact .inr ⟨fun b hb h => perm (Option.some.inj hb ▸ ⟨h.1, h.2.1⟩), _, rfl⟩

theorem Dev.ingress_some_iff (d : Dev) (n bit : Nat) (p : Packet) (q : Nat) : (d.ingress (some n) bit p).2 = some q ↔
    ∃ a, d.ingressEntry p.job = some a ∧ (bit = 27 ∨ bitAt a (18 + n) = true) ∧ bitAt a bit = true ∧ q = bitsAt a 16 2
      ∧ d.jobOf q = p.job ∧ d.ready q = true := by
  rcases d.ingress_eq n bit p with ⟨a, entry, port, perm, job, ready, passes⟩ | ⟨fails, f, denied⟩
  · rw [passes]
    constructor
    · intro h
      obtain rfl := Option.some.inj h
      exact ⟨a, entry, port, perm, rfl, job, ready⟩
    · rintro ⟨b, hb, -, -, rfl, -⟩
      rw [entry] at hb
      rw [Option.some.inj hb]
  · rw [denied]
    constructor
    · exact nofun
    · rintro ⟨a, entry, port, perm, rfl, job, ready⟩
      exact absurd ⟨port, perm, job, ready⟩ (fails a entry)

/-- A request that passes changes nothing; one that is denied is counted. -/
theorem Dev.ingress_keeps (d : Dev) (n bit : Nat) (p : Packet) : ((d.ingress (some n) bit p).2 ≠ none → (d.ingress (some n) bit p).1 = d)
    ∧ (d.ingress (some n) bit p).1.mem = d.mem ∧ (d.ingress (some n) bit p).1.ctl = d.ctl ∧ (d.ingress (some n) bit p).1.err = d.err
    ∧ (d.ingress (some n) bit p).1.out = d.out := by
  rcases d.ingress_eq n bit p with ⟨a, -, -, -, -, -, passes⟩ | ⟨-, f, denied⟩
  · rw [passes]
    exact ⟨fun _ => rfl, rfl, rfl, rfl, rfl⟩
  · rw [denied]
    exact ⟨fun h => absurd rfl h, by simp, by simp, by simp, by simp⟩

/-! ### What each request is answered -/

section
variable {d : Dev} {port : Nat} {p : Packet} (hport : port < 6) (running : d.portRunning port = true) (mine : d.forMe p = true)
include hport running mine

theorem Dev.reaches {kind : Nat} (hk : p.kind = kind) : (!d.arrives port kind p || !d.forMe p) = false := by
  simp [Dev.arrives, hport, hk, running, mine]

/-- An event of R695 that a window request is counted by. -/
abbrev Dev.windowCounted (d : Dev) (port : Nat) : Dev := d.event (34 + port) 0x704 none 0 1

theorem cmdWload_denied (hk : p.kind = 0x1) {d1 : Dev} (denied : (d.takePacket port p).ingress (some port) 24 p = (d1, none)) :
    cmdWload port p d = (d1.windowCounted port).respond port 0x8 0 p (List.replicate p.len 0) := by
  simp [cmdWload, Dev.reaches hport running mine hk, denied]

theorem cmdWload_untranslated (hk : p.kind = 0x1) {d1 d2 : Dev} {q : Nat} (passes : (d.takePacket port p).ingress (some port) 24 p = (d1, some q))
    (lost : d1.ingressXlat (some port) q .read p.addr p.len = (d2, false)) :
    cmdWload port p d = (d2.windowCounted port).respond port 0x8 0 p (List.replicate p.len 0) := by
  simp [cmdWload, Dev.reaches hport running mine hk, passes, lost]

theorem cmdWload_read (hk : p.kind = 0x1) {d1 d2 d3 : Dev} {q : Nat} {bs : List MByte}
    (passes : (d.takePacket port p).ingress (some port) 24 p = (d1, some q))
    (found : d1.ingressXlat (some port) q .read p.addr p.len = (d2, true)) (read : d2.vread q (fabUnit port p.tag) p.addr p.len = (d3, .ok bs)) :
    cmdWload port p d = ((d3.sweep (fabUnit port p.tag)).windowCounted port).respond port 0x8 (b2n (bs.any (·.p))) p (bs.map (·.b)) := by
  simp [cmdWload, Dev.reaches hport running mine hk, passes, found, read, plain]

theorem cmdWstore_denied (hk : p.kind = 0x2) {d1 : Dev} (denied : (d.takePacket port p).ingress (some port) 25 p = (d1, none)) :
    cmdWstore port p d = (d1.windowCounted port).respond port 0x9 0 p [] := by
  simp [cmdWstore, Dev.reaches hport running mine hk, denied]

theorem cmdWstore_untranslated (hk : p.kind = 0x2) {d1 d2 : Dev} {q : Nat} (passes : (d.takePacket port p).ingress (some port) 25 p = (d1, some q))
    (lost : d1.ingressXlat (some port) q .write p.addr p.payload.length = (d2, false)) :
    cmdWstore port p d = (d2.windowCounted port).respond port 0x9 0 p [] := by
  simp [cmdWstore, Dev.reaches hport running mine hk, passes, lost]

theorem cmdWstore_written (hk : p.kind = 0x2) {d1 d2 d3 : Dev} {q : Nat} {x : Bool}
    (passes : (d.takePacket port p).ingress (some port) 25 p = (d1, some q))
    (found : d1.ingressXlat (some port) q .write p.addr p.payload.length = (d2, true))
    (written : d2.vwrite q (fabUnit port p.tag) p.addr (p.payload.map (fun b => { b := b })) = (d3, .ok x)) :
    cmdWstore port p d = ((d3.sweep (fabUnit port p.tag)).windowCounted port).respond port 0x9 0 p [] := by
  simp [cmdWstore, Dev.reaches hport running mine hk, passes, found, written]

/-- The bytes of a window atomic's element. -/
def Packet.atomBytes (p : Packet) : Nat := ((watomElem p).map (fun e => e.ty.bytes)).getD 8

/-- The answer to a window atomic: the old value where it is asked for (R517). -/
def Dev.atomAnswered (d : Dev) (port : Nat) (p : Packet) (status v : Nat) : Dev :=
  (d.windowCounted port).respond port (if p.noret then 0x9 else 0x8) status p (if p.noret then [] else leBytes p.atomBytes v)

theorem cmdWatom_denied (hk : p.kind = 0x3) {d1 : Dev} (denied : (d.takePacket port p).ingress (some port) 26 p = (d1, none)) :
    cmdWatom port p d = d1.atomAnswered port p 0 0 := by
  simp [cmdWatom, Dev.reaches hport running mine hk, denied, Dev.atomAnswered, Packet.atomBytes]

theorem cmdWatom_performed (hk : p.kind = 0x3) {d1 d2 d3 : Dev} {q old : Nat} {el : RedElem} {pz : Bool}
    (passes : (d.takePacket port p).ingress (some port) 26 p = (d1, some q)) (elem : watomElem p = some el)
    (found : d1.ingressXlat (some port) q .atomic p.addr p.atomBytes = (d2, true))
    (performed : d2.vreducePart q p.addr [el] = (d3, .ok [(old, pz)])) :
    cmdWatom port p d = d3.atomAnswered port p (b2n pz) old := by
  unfold Packet.atomBytes at found
  simp only [elem, Option.map_some, Option.getD_some] at found
  simp [cmdWatom, Dev.reaches hport running mine hk, passes, elem, found, performed, Dev.atomAnswered, Packet.atomBytes]

/-- The packets of a transfer that have come, this one counted (log entry 48). -/
def Dev.putCount (d : Dev) (p : Packet) : Nat :=
  ((d.fab.putRx.find? (fun r => decide (r.src = p.src) && decide (r.tag = p.tag))).map (·.count)).getD 0 + 1

/-- The fabric with the transfer's count, dropped after its last packet. -/
def FabSt.putNoted (f : FabSt) (last : Bool) (p : Packet) (n : Nat) : FabSt :=
  let rest := f.putRx.filter (fun r => !(decide (r.src = p.src) && decide (r.tag = p.tag)))
  { f with putRx := if last then rest else rest ++ [{ src := p.src, tag := p.tag, count := n }] }

theorem cmdPutPacket_arrives (hk : p.kind = 0x4) (last : Bool) {d1 : Dev} (put : (d.takePacket port p).putArrives (some port) p = some d1) :
    cmdPutPacket port last p d =
      if last = true ∨ d1.putCount p % 64 = 0 then
        ({ d1 with fab := d1.fab.putNoted last p (d1.putCount p) } : Dev).sendOn
          { kind := 0xA, dst := p.src, src := d1.ownNode, job := p.job, tag := p.tag, aux := d1.putCount p } none
      else { d1 with fab := d1.fab.putNoted last p (d1.putCount p) } := by
  simp only [cmdPutPacket, Dev.reaches hport running mine hk, put]
  rfl

theorem cmdGetPacket_answers (hk : p.kind = 0x5) {d1 : Dev} {bs : List Byte} {pz : Bool}
    (read : (d.takePacket port p).getArrives (some port) p = (d1, some (bs, pz))) :
    cmdGetPacket port p d = d1.sendOn
      { kind := 0xB, dst := p.src, src := d1.ownNode, job := p.job, len := bs.length, tag := p.tag, status := b2n pz, aux := p.aux,
        addr := 256 * p.aux, payload := bs } none := by
  simp [cmdGetPacket, Dev.reaches hport running mine hk, read]

theorem cmdSendPacket_answers (hk : p.kind = 0x6) {d1 : Dev} {st : Nat} (sent : (d.takePacket port p).sendArrives (some port) p = (d1, some st)) :
    cmdSendPacket port p d = d1.sendOn { kind := 0xA, dst := p.src, src := d1.ownNode, job := p.job, tag := p.tag, status := st } none := by
  simp [cmdSendPacket, Dev.reaches hport running mine hk, sent]

end

theorem Dev.takePacket_portRunning (d : Dev) {port : Nat} (hport : port < 6) (p : Packet) : (d.takePacket port p).portRunning port = d.portRunning port :=
  (d.sends_takePacket port p).floods.portRunning hport

/-- A packet for another node goes on with the axis it came in on (R504). -/
theorem cmdForwardPacket_goes {d : Dev} {port : Nat} {p : Packet} (hport : port < 6) (running : d.portRunning port = true) (coord : d.coordValid = true)
    (other : p.dst ≠ d.ownNode) (b : Bool) {c : Nat} (known : kindClass p.kind = some c) (low : c < 3) :
    cmdForwardPacket port b p d = (d.takePacket port p).sendOn p (some (port / 2, b)) := by
  have elsewhere : d.forMe p = false := by simp [Dev.forMe, other]
  unfold cmdForwardPacket
  rw [if_neg (by simp [hport, coord, elsewhere])]
  dsimp only
  rw [known, if_pos ((d.takePacket_portRunning hport p).trans running)]
  split
  · next three => exact absurd (Option.some.inj three) (by omega)
  · rfl
  · contradiction

/-- Settles O48: each clause is the lemma above about its command or its check. -/
theorem fabricRequests : Obligations.FabricRequests := by
  unfold Obligations.FabricRequests
  refine ⟨fun s port p run hport running => ⟨fun mine => ⟨?wload, ?wstore, ?watom, ?put, ?get, ?send⟩, ?forward⟩, ?checks, ?entry, ?order, ?own⟩
  case wload =>
    exact fun hk => ⟨fun d1 denied => onDev_of_eq run (cmdWload_denied hport running mine hk denied),
      fun d1 q d2 passes lost => onDev_of_eq run (cmdWload_untranslated hport running mine hk passes lost),
      fun d1 q d2 d3 bs passes found read => onDev_of_eq run (cmdWload_read hport running mine hk passes found read)⟩
  case wstore =>
    exact fun hk => ⟨fun d1 denied => onDev_of_eq run (cmdWstore_denied hport running mine hk denied),
      fun d1 q d2 passes lost => onDev_of_eq run (cmdWstore_untranslated hport running mine hk passes lost),
      fun d1 q d2 d3 x passes found written => onDev_of_eq run (cmdWstore_written hport running mine hk passes found written)⟩
  case watom =>
    exact fun hk => ⟨fun d1 denied => onDev_of_eq run (cmdWatom_denied hport running mine hk denied),
      fun d1 q d2 el d3 old pz passes elem found performed =>
        onDev_of_eq run (cmdWatom_performed hport running mine hk passes elem found performed)⟩
  case put =>
    intro hk last d1 put
    have effect := cmdPutPacket_arrives hport running mine hk last put
    by_cases due : last = true ∨ d1.putCount p % 64 = 0
    · rw [if_pos due] at effect
      have sent := Dev.carries_sendOn ({ d1 with fab := d1.fab.putNoted last p (d1.putCount p) } : Dev)
        { kind := 0xA, dst := p.src, src := d1.ownNode, job := p.job, tag := p.tag, aux := d1.putCount p } none
      refine ⟨_, onDev_of_eq run effect, sent.mem, fun more rest => ?_, fun _ => ⟨_, ?_, rfl⟩⟩
      · rcases due with ends | full
        · rw [more] at ends
          contradiction
        · exact absurd full rest
      · rw [sent.fab]
    · rw [if_neg due] at effect
      exact ⟨_, onDev_of_eq run effect, rfl, fun _ _ => rfl, fun now => absurd now due⟩
  case get => exact fun hk d1 bs pz read => onDev_of_eq run (cmdGetPacket_answers hport running mine hk read)
  case send => exact fun hk d1 st sent => onDev_of_eq run (cmdSendPacket_answers hport running mine hk sent)
  case forward => exact fun coord other c b known low => onDev_of_eq run (cmdForwardPacket_goes hport running coord other b known low)
  case checks => exact fun d n bit p _ _ => ⟨d.ingress_some_iff n bit p, d.ingress_keeps n bit p⟩
  case entry => exact fun d job a found => Dev.ingressEntry_some found
  case order =>
    intro dims own dst q found
    obtain ⟨ax, hax, rfl, differ, lower⟩ := dimensionPort_some found
    have step := axisStep_lt dims own dst ax
    have axis : (2 * ax + axisStep dims own dst ax) / 2 = ax := by omega
    rw [axis]
    refine ⟨by omega, differ, lower, ?_⟩
    rw [Nat.mul_add_mod, Nat.mod_eq_of_lt step]
    unfold axisStep
    split
    · next up => exact iff_of_true rfl up
    · next down => exact iff_of_false (by decide) down
  case own => exact fun dims own dst hown hdst => dimensionPort_eq_none hown hdst

end Sys2Proof.Machine
end

section
/-!
Proofs, the module's own requests on the fabric (R512, R518 to R520, R523, R525, R526): answers, timeouts and the transfers of messages; the statement
of O49.
-/
namespace Sys2Proof.Machine

/-! ### Answers to window requests -/

/-- A response that finds no request of its tag changes a count alone (R518). -/
theorem Dev.lateTag_keeps (d : Dev) (port tag : Nat) :
    (d.lateTag port tag).mem = d.mem ∧ (d.lateTag port tag).ctl = d.ctl ∧ (d.lateTag port tag).fab = d.fab := by
  unfold Dev.lateTag
  split
  · exact ⟨Dev.bump_mem .., Dev.bump_ctl .., Dev.bump_fab ..⟩
  · exact ⟨rfl, rfl, rfl⟩

/-- A list none of whose elements is hit stays as it is. -/
theorem map_ite_of_none {α : Type} {l : List α} {hit : α → Prop} [DecidablePred hit] (f : α → α) (none : ∀ x ∈ l, ¬hit x) :
    l.map (fun x => if hit x then f x else x) = l :=
  (List.map_congr_left fun x hx => if_neg (none x hx)).trans (List.map_id' l)

theorem filterMap_ite_of_none {α : Type} {l : List α} {hit : α → Prop} [DecidablePred hit] (f : α → Option α) (none : ∀ x ∈ l, ¬hit x) :
    l.filterMap (fun x => if hit x then f x else some x) = l :=
  (List.filterMap_congr fun x hx => if_neg (none x hx)).trans List.filterMap_some

/-- A load or an atomic with a return that waits for data of `tag`. -/
abbrev WinReq.awaitsData (port tag : Nat) (w : WinReq) : Prop :=
  w.port = port ∧ w.tag = tag ∧ w.state = 0 ∧ (w.kind = .load ∨ w.kind = .atomicRet)

/-- A store or an atomic without a return that waits for the acknowledgement of `tag`. -/
abbrev WinReq.awaitsAck (port tag : Nat) (w : WinReq) : Prop :=
  w.port = port ∧ w.tag = tag ∧ w.state = 0 ∧ (w.kind = .store ∨ w.kind = .atomicNoret)

/-- A request with the data of its answer. -/
def WinReq.filled (p : Packet) (w : WinReq) : WinReq :=
  { w with state := 1, data := (List.range w.len).map (fun i => { b := p.payload.getD i 0, p := decide (p.status = 1) }) }

/-- A request that has ended: kept while its unit has not taken it. -/
def WinReq.ended (w : WinReq) : Option WinReq := if w.taken then none else some { w with state := 1 }

section
variable {d : Dev} {port : Nat} {p : Packet} (hport : port < 6) (running : d.portRunning port = true) (mine : d.forMe p = true)
include hport running mine

/-- Data end the load or returning atomic of their tag (R511, R517). -/
theorem cmdWdata_ends (hk : p.kind = 0x8) : ∃ e, cmdWdata port p d = e ∧ e.mem = (d.takePacket port p).mem ∧ e.ctl = (d.takePacket port p).ctl
    ∧ e.fab.links = (d.takePacket port p).fab.links
    ∧ e.fab.wins = (d.takePacket port p).fab.wins.map (fun w => if w.awaitsData port p.tag then w.filled p else w) := by
  simp only [cmdWdata, Dev.reaches hport running mine hk, Bool.false_eq_true, if_false]
  generalize d.takePacket port p = e
  have is (w : WinReq) : (w.is port p.tag && decide (w.kind = .load ∨ w.kind = .atomicRet)) = true ↔ w.awaitsData port p.tag := by
    simp [WinReq.is, and_assoc]
  refine ⟨_, rfl, ?_⟩
  split
  · exact ⟨rfl, rfl, rfl, List.map_congr_left fun w _ => if_congr (is w) rfl rfl⟩
  · next none =>
    obtain ⟨mem, ctl, fab⟩ := e.lateTag_keeps port p.tag
    refine ⟨mem, ctl, by rw [fab], ?_⟩
    rw [fab, map_ite_of_none]
    exact fun w hw hit => none (List.any_eq_true.2 ⟨w, hw, (is w).2 hit⟩)

/-- An acknowledgement ends the store of its tag (R517). -/
theorem cmdWack_ends (hk : p.kind = 0x9) : ∃ e, cmdWack port p d = e ∧ e.mem = (d.takePacket port p).mem ∧ e.ctl = (d.takePacket port p).ctl
    ∧ e.fab.links = (d.takePacket port p).fab.links
    ∧ e.fab.wins = (d.takePacket port p).fab.wins.filterMap (fun w => if w.awaitsAck port p.tag then w.ended else some w) := by
  simp only [cmdWack, Dev.reaches hport running mine hk, Bool.false_eq_true, if_false]
  generalize d.takePacket port p = e
  have is (w : WinReq) : (w.is port p.tag && decide (w.kind = .store ∨ w.kind = .atomicNoret)) = true ↔ w.awaitsAck port p.tag := by
    simp [WinReq.is, and_assoc]
  refine ⟨_, rfl, ?_⟩
  split
  · exact ⟨rfl, rfl, rfl, List.filterMap_congr fun w _ => if_congr (is w) rfl rfl⟩
  · next none =>
    obtain ⟨mem, ctl, fab⟩ := e.lateTag_keeps port p.tag
    refine ⟨mem, ctl, by rw [fab], ?_⟩
    rw [fab, filterMap_ite_of_none]
    exact fun w hw hit => none (List.any_eq_true.2 ⟨w, hw, (is w).2 hit⟩)

/-! ### Answers to messages -/

theorem cmdPack_of_put (hk : p.kind = 0xA) {m : MsgOp} {it : Item} (tagged : (d.takePacket port p).msgTagged p = some (m, it)) (put : m.kind = 0) :
    cmdPack port p d =
      ((d.takePacket port p).setMsg
        { m with acked := max m.acked (min p.aux m.sent),
                 times := m.times.filter (fun t => decide (max m.acked (min p.aux m.sent) ≤ t.1)) }).setItem
        { it with prog := min m.len (256 * max m.acked (min p.aux m.sent)) } := by
  simp [cmdPack, Dev.reaches hport running mine hk, tagged, put]

theorem cmdPack_of_refusal (hk : p.kind = 0xA) {m : MsgOp} {it : Item} (tagged : (d.takePacket port p).msgTagged p = some (m, it)) (send : m.kind = 2)
    (full : p.status = 2) : cmdPack port p d = (d.takePacket port p).setMsg { m with refused := true, times := [] } := by
  simp [cmdPack, Dev.reaches hport running mine hk, tagged, send, full]

theorem cmdPack_of_acceptance (hk : p.kind = 0xA) {m : MsgOp} {it : Item} (tagged : (d.takePacket port p).msgTagged p = some (m, it))
    (send : m.kind = 2) (taken : p.status ≠ 2) :
    cmdPack port p d = ((d.takePacket port p).setMsg { m with acked := 1, times := [] }).setItem { it with prog := m.len } := by
  simp [cmdPack, Dev.reaches hport running mine hk, tagged, send, taken]

theorem cmdGdata_written (hk : p.kind = 0xB) {m : MsgOp} {it : Item} {e : Dev} (tagged : d.msgTagged p = some (m, it)) (get : m.kind = 1)
    (written : (d.takePacket port p).gdataWrite it m p.aux p.payload (decide (p.status = 1)) = some e) : cmdGdata port p d = e := by
  simp [cmdGdata, Dev.reaches hport running mine hk, tagged, get, written]

end

/-! ### Timeouts -/

/-- The requests of a port that time out, and what stays (R518). -/
theorem Dev.timeOutWins_spec (d : Dev) (port : Nat) (f : WinReq → Bool) : ∃ e, d.timeOutWins port f = e ∧ e.mem = d.mem ∧ e.ctl = d.ctl ∧ e.out = d.out
    ∧ e.fab.wins = d.fab.wins.map (fun w => if w.port = port ∧ w.state = 0 ∧ f w = true then w.timeOut d.time else w) := by
  unfold Dev.timeOutWins
  dsimp only
  refine ⟨_, rfl, ?_⟩
  split
  · next none =>
    refine ⟨rfl, rfl, rfl, (map_ite_of_none _ fun w hw hit => ?_).symm⟩
    have kept := List.filter_eq_nil_iff.1 (List.head?_eq_none_iff.1 none) w hw
    simp only [Bool.and_eq_true, decide_eq_true_eq, and_assoc] at kept
    exact kept hit
  · split
    · simp only [Dev.bump_mem, Dev.bump_ctl, Dev.bump_out, Dev.bump_fab, and_self]
    · simp only [Dev.postError_mem, Dev.postError_ctl, Dev.postError_out, Dev.postError_fab, Dev.setLink, Dev.bump_mem, Dev.bump_ctl, Dev.bump_out,
        Dev.bump_fab, and_self]

/-- A message with a packet outstanding for a Turn period ends with poison (R525). -/
theorem cmdMessageTimeout_ends {d : Dev} {item : Nat} {it : Item} {m : MsgOp} (found : d.item item = some it) (message : d.msgOf item = some m)
    (runs : it.place = .running) (past : m.times.any (fun t => d.periodPast t.2) = true) (notGet : m.kind ≠ 1) :
    cmdMessageTimeout item d = ((d.bump F.FAB_TIMEOUTS_TIMEOUTS 1).dropMsg item).finishItem { it with poison := true } := by
  simp [cmdMessageTimeout, found, message, runs, past, notGet]

/-! ### The transfers -/

theorem Item.sawPoison_place (it : Item) (space a : Nat) (bs : List MByte) : (it.sawPoison space a bs).place = it.place := by
  unfold Item.sawPoison
  split
  · split <;> rfl
  · rfl

theorem Item.sawPoison_prog (it : Item) (space a : Nat) (bs : List MByte) : (it.sawPoison space a bs).prog = it.prog := by
  unfold Item.sawPoison
  split
  · split <;> rfl
  · rfl

/-- A transfer's command takes up its work and sends up to n packets. -/
theorem Dev.msgRun_of_work {d d1 : Dev} {op item : Nat} {it : Item} {m : MsgOp} (work : d.msgWork op item = some (d1, it, m)) (n : Nat) :
    d.msgRun op item n = (stepMany msgStep n d1 it).1.setItem (stepMany msgStep n d1 it).2 := by
  simp [Dev.msgRun, work]

/-- The bytes of a transfer's next packet. -/
def MsgOp.nextLen (m : MsgOp) : Nat := min 256 (m.len - 256 * m.sent)

/-- The next packet of a transfer (R520, R521): its index and remote address, or a SEND's words. -/
def Dev.msgPacket (d : Dev) (it : Item) (m : MsgOp) (bs : List MByte) : Packet :=
  { kind := 4 + m.kind, dst := it.desc.fld 1 0 18, src := d.ownNode, job := d.jobOf it.part, tag := m.tag, len := m.nextLen,
    aux := if m.kind = 2 then it.desc.word 5 % 2 ^ 32 else m.sent,
    addr := if m.kind = 2 then it.desc.word 5 / 2 ^ 32 % 2 ^ 32 else (it.desc.fld 4 0 52 + 256 * m.sent) % 2 ^ 52,
    payload := if m.kind = 1 then [] else bs.map (·.b) }

/-- The item once its packet's bytes have been read. -/
def Item.msgRead (it : Item) (m : MsgOp) (bs : List MByte) : Item :=
  let r := refOf (it.desc.word 3)
  { it.sawPoison r.space (r.base + 256 * m.sent) bs with poison := it.poison || bs.any (·.p) }

/-- A transfer to another module sends its next packet (R519, R520). -/
theorem msgStep_sends {d d' : Dev} {it : Item} {m : MsgOp} {bs : List MByte} (message : d.msgOf it.id = some m) (kind : m.kind ≤ 2) (away : m.port < 7)
    (left : m.sent < m.packets) (long : m.len ≠ 0) (room : (if m.kind = 1 then m.sent - m.got.length else m.sent - m.acked) < 8192)
    (read : (if m.kind = 1 then (d, some []) else d.localRead it (refOf (it.desc.word 3)) ((refOf (it.desc.word 3)).base + 256 * m.sent) m.nextLen)
      = (d', some bs)) :
    msgStep d it = ((((d'.setMsg { m with sent := m.sent + 1, times := m.times ++ [(m.sent, d.time)] }).setItem (it.msgRead m bs)).sendOn
      (d.msgPacket it m bs) none).sweep (.item it.id), it.msgRead m bs, true) := by
  have packet : (if m.kind = 0 then
        { ({ kind := 4 + m.kind, dst := msgNode it.desc, src := d.ownNode, job := d.jobOf it.part, tag := m.tag } : Packet) with
          len := m.nextLen, aux := m.sent, addr := (msgRemote it.desc + 256 * m.sent) % 2 ^ 52, payload := bs.map (·.b) }
      else if m.kind = 1 then
        { ({ kind := 4 + m.kind, dst := msgNode it.desc, src := d.ownNode, job := d.jobOf it.part, tag := m.tag } : Packet) with
          len := m.nextLen, aux := m.sent, addr := (msgRemote it.desc + 256 * m.sent) % 2 ^ 52 }
      else
        { ({ kind := 4 + m.kind, dst := msgNode it.desc, src := d.ownNode, job := d.jobOf it.part, tag := m.tag } : Packet) with
          len := m.nextLen, aux := it.desc.word 5 % 2 ^ 32, addr := it.desc.word 5 / 2 ^ 32 % 2 ^ 32, payload := bs.map (·.b) })
      = d.msgPacket it m bs := by
    obtain put | get | send : m.kind = 0 ∨ m.kind = 1 ∨ m.kind = 2 := by omega
    · simp [Dev.msgPacket, put, msgNode, msgRemote]
    · simp [Dev.msgPacket, get, msgNode, msgRemote]
    · simp [Dev.msgPacket, send, msgNode]
  have open' : ¬(m.packets ≤ m.sent ∨ m.len = 0 ∨ 8192 ≤ (if m.kind = 1 then m.sent - m.got.length else m.sent - m.acked)) := by omega
  have elsewhere : m.port ≠ 7 := by omega
  unfold MsgOp.nextLen at read packet
  simp only [msgStep, message, if_neg open', msgLocal, read, packet, if_neg elsewhere]
  rfl

/-- Settles O49: each clause is the lemma above about its command. -/
theorem fabricMessages : Obligations.FabricMessages := by
  unfold Obligations.FabricMessages
  refine fun s port run => ⟨fun p hport running mine => ⟨?wdata, ?wack, ?pack, ?gdata⟩, ?timeout, fun tag => onDev_of_eq run rfl, ?transfer, ?late⟩
  case wdata =>
    intro hk
    obtain ⟨e, effect, kept⟩ := cmdWdata_ends hport running mine hk
    exact ⟨e, onDev_of_eq run effect, kept⟩
  case wack =>
    intro hk
    obtain ⟨e, effect, kept⟩ := cmdWack_ends hport running mine hk
    exact ⟨e, onDev_of_eq run effect, kept⟩
  case pack =>
    exact fun hk m it tagged => ⟨fun put => onDev_of_eq run (cmdPack_of_put hport running mine hk tagged put),
      fun send full => onDev_of_eq run (cmdPack_of_refusal hport running mine hk tagged send full),
      fun send taken => onDev_of_eq run (cmdPack_of_acceptance hport running mine hk tagged send taken)⟩
  case gdata => exact fun hk m it e tagged get written => onDev_of_eq run (cmdGdata_written hport running mine hk tagged get written)
  case timeout =>
    intro tag
    obtain ⟨e, effect, mem, ctl, out, wins⟩ := s.dev.timeOutWins_spec port (fun w => decide (w.tag = tag) && s.dev.periodPast w.sentAt)
    refine ⟨e, onDev_of_eq run effect, mem, ctl, out, wins.trans (List.map_congr_left fun w _ => if_congr ?_ rfl rfl)⟩
    rw [Bool.and_eq_true, decide_eq_true_eq]
  case transfer =>
    intro k op item d it m hk work
    have runs (n : Nat) : exec (k item n) s = .next (s.after ((stepMany msgStep n d it).1.setItem (stepMany msgStep n d it).2)) := by
      simp only [List.mem_cons, List.not_mem_nil, or_false, Prod.mk.injEq] at hk
      obtain ⟨rfl, rfl⟩ | ⟨rfl, rfl⟩ | ⟨rfl, rfl⟩ := hk <;> exact onDev_of_eq run (Dev.msgRun_of_work work n)
    refine ⟨runs 0, fun message kind away left long room d' bs read => ⟨it.msgRead m bs, ?_, ?_, ?_, ?_, rfl⟩⟩
    · rw [runs 1, stepMany_one (msgStep_sends message kind away left long room read)]
      rfl
    · exact it.sawPoison_id ..
    · exact it.sawPoison_place ..
    · exact it.sawPoison_prog ..
  case late => exact fun item it m found message runs past notGet => onDev_of_eq run (cmdMessageTimeout_ends found message runs past notGet)

end Sys2Proof.Machine
end

section
/-!
Proofs, the state of a link: what a link reads after it is written, what traffic leaves of it, and the widths that a port shows (R489, R490).
-/
namespace Sys2Proof.Machine

theorem Dev.linkOf_setLink (d : Dev) (n m : Nat) (l : LinkSt) : (d.setLink n l).linkOf m = if m = n then l else d.linkOf m :=
  getD_setAt ..

@[simp] theorem Dev.linkOf_setLink_same (d : Dev) (n : Nat) (l : LinkSt) : (d.setLink n l).linkOf n = l := by
  rw [Dev.linkOf_setLink, if_pos rfl]

theorem Dev.linkOf_congr {d e : Dev} (h : e.fab = d.fab) (n : Nat) : e.linkOf n = d.linkOf n := by rw [Dev.linkOf, h, Dev.linkOf]

/-! ### What traffic leaves of a link -/

/-- A link without its traffic: numbers, buffers, waiting flits and packets, credits. -/
def LinkSt.standing (l : LinkSt) : LinkSt :=
  { l with txNext := 0, replay := [], txWait := [], credits := [], lastVc := 0, rxUsed := [], rxPackets := [], rxCpl := [] }

theorem Dev.sendFlit_standing (d : Dev) (port m : Nat) : ((d.sendFlit port).linkOf m).standing = (d.linkOf m).standing := by
  unfold Dev.sendFlit
  dsimp only
  split
  · rfl
  · split
    · rfl
    · split
      · rfl
      · have noted (e : Dev) (b ev : Nat) : ((e.event b ev none 0 1).linkOf m).standing = (e.linkOf m).standing :=
          congrArg LinkSt.standing (Dev.linkOf_congr (Dev.event_fab ..) m)
        split
        all_goals
          rw [noted]
          refine (congrArg LinkSt.standing (Dev.linkOf_setLink ..)).trans ?_
          split
          · next same => subst same; rfl
          · rfl

theorem Dev.transmit_standing (d : Dev) (port vc m : Nat) (bytes : List Byte) :
    ((d.transmit port vc bytes).linkOf m).standing = (d.linkOf m).standing := by
  refine (foldl_keep (fun e : Dev => (e.linkOf m).standing) _ (fun e _ => e.sendFlit_standing port m) _ _).trans ?_
  refine (congrArg LinkSt.standing (Dev.linkOf_setLink ..)).trans ?_
  split
  · next same => subst same; rfl
  · rfl

theorem Dev.sendLink_standing (d : Dev) (port sub m : Nat) (p : Packet) : ((d.sendLink port sub p).linkOf m).standing = (d.linkOf m).standing :=
  (Dev.transmit_standing ..)

/-- A link written with the same standing. -/
theorem Dev.setLink_standing (d : Dev) (port m : Nat) {l : LinkSt} (same : l.standing = (d.linkOf port).standing) :
    ((d.setLink port l).linkOf m).standing = (d.linkOf m).standing := by
  rw [Dev.linkOf_setLink]
  split
  · next here => rw [here, same]
  · rfl

theorem Dev.returnCredits_standing (d : Dev) (port vc m : Nat) : ((d.returnCredits port vc).linkOf m).standing = (d.linkOf m).standing := by
  unfold Dev.returnCredits
  dsimp only
  split
  · rfl
  · exact d.setLink_standing port m rfl

theorem Dev.takePacket_standing (d : Dev) (port m : Nat) (p : Packet) : ((d.takePacket port p).linkOf m).standing = (d.linkOf m).standing := by
  unfold Dev.takePacket
  dsimp only
  split
  · exact (Dev.returnCredits_standing ..).trans (d.setLink_standing port m rfl)
  · rfl

/-- Taking a packet writes no register. -/
theorem Dev.takePacket_regs (d : Dev) (port : Nat) (p : Packet) : (d.takePacket port p).regs = d.regs := by
  unfold Dev.takePacket
  dsimp only
  split
  · unfold Dev.returnCredits
    dsimp only
    split <;> rfl
  · rfl

theorem Dev.rf_congr {d e : Dev} (h : e.regs = d.regs) (f : Fld) : e.rf f = d.rf f := by rw [Dev.rf, Dev.reg, h, ← Dev.reg, ← Dev.rf]

@[simp] theorem Dev.rf_setLink (d : Dev) (n : Nat) (l : LinkSt) (f : Fld) : (d.setLink n l).rf f = d.rf f := rfl

theorem Dev.reg_bump_elsewhere (d : Dev) {f : Fld} (n : Nat) {off : Nat} (h : off ≠ f.off) : (d.bump f n).reg off = d.reg off := by
  unfold Dev.bump
  split
  · rfl
  · rw [Dev.reg_wf, if_neg h]

theorem Dev.rf_bump_apart (d : Dev) {f g : Fld} (n : Nat) (hg : g.inWord) (h : g.apart f) : (d.bump f n).rf g = d.rf g := by
  unfold Dev.bump
  split
  · rfl
  · exact d.rf_wf_apart _ hg h

theorem Dev.takePacket_rf (d : Dev) (port : Nat) (p : Packet) (f : Fld) : (d.takePacket port p).rf f = d.rf f :=
  Dev.rf_congr (d.takePacket_regs port p) f

section
variable {a b : LinkSt} (h : a.standing = b.standing)
include h

theorem LinkSt.step_of_standing : a.step = b.step := (congrArg LinkSt.step h :)
theorem LinkSt.delays_of_standing : a.delays = b.delays := (congrArg LinkSt.delays h :)
theorem LinkSt.hopDelay_of_standing : a.hopDelay = b.hopDelay := (congrArg LinkSt.hopDelay h :)
theorem LinkSt.groupsOut_of_standing : a.groupsOut = b.groupsOut := (congrArg LinkSt.groupsOut h :)
theorem LinkSt.groups_of_standing : a.groups = b.groups := (congrArg LinkSt.groups h :)

end

/-! ### Widths -/

theorem popcount_le (w x : Nat) : popcount w x ≤ w := by
  induction w generalizing x with
  | zero => exact Nat.le_refl 0
  | succ w ih =>
    have := ih (x / 2)
    have := Nat.mod_lt x (show 0 < 2 by decide)
    simp only [popcount]
    omega

theorem popcount_mod (w x : Nat) : popcount w (x % 2 ^ w) = popcount w x := by
  induction w generalizing x with
  | zero => rfl
  | succ w ih =>
    have half : x % 2 ^ (w + 1) / 2 = x / 2 % 2 ^ w := by rw [Nat.pow_succ', Nat.mod_mul_right_div_self]
    have low : x % 2 ^ (w + 1) % 2 = x % 2 := Nat.mod_mod_of_dvd x (dvd_pow_self 2 (Nat.succ_ne_zero w))
    simp only [popcount, half, low, ih]

theorem LinkSt.groups_lt (l : LinkSt) : l.groups < 16 :=
  Nat.and_lt_two_pow (n := 4) _ (Nat.xor_lt_two_pow (by decide) (Nat.mod_lt _ (by decide)))

theorem LinkSt.groups_of_none_out {l : LinkSt} (h : l.groupsOut = 0) : l.groups = (l.groupsOwn &&& l.groupsPeer) % 16 := by
  rw [LinkSt.groups, LinkSt.groups.maskGroups, h]
  exact Nat.and_two_pow_sub_one_eq_mod _ 4

/-- A group out of service is not in use. -/
theorem LinkSt.groups_out {l : LinkSt} {g : Nat} (hg : g < 4) (out : bitAt l.groupsOut g = true) : bitAt l.groups g = false := by
  rw [bitAt_eq_testBit] at *
  have within : (15).testBit g = true := Nat.testBit_two_pow_sub_one 4 g |>.trans (decide_eq_true hg)
  have cut : (l.groupsOut % 16).testBit g = true := by rw [show 16 = 2 ^ 4 from rfl, Nat.testBit_mod_two_pow, out, decide_eq_true hg]; rfl
  rw [LinkSt.groups, LinkSt.groups.maskGroups, Nat.testBit_and, Nat.testBit_xor, within, cut]
  simp

section
variable (d : Dev) (port : Nat)

/-- The fields of FAB_PORT_STATn lie within the register. -/
theorem Fld.stat_inWord : (F.FAB_PORT_STAT_STATE port).inWord ∧ (F.FAB_PORT_STAT_GROUPS port).inWord ∧ (F.FAB_PORT_STAT_WIDTH port).inWord
    ∧ (F.FAB_PORT_STAT_LINKUPS port).inWord :=
  ⟨show 0 + 3 ≤ 64 by decide, show 3 + 4 ≤ 64 by decide, show 7 + 6 ≤ 64 by decide, show 16 + 16 ≤ 64 by decide⟩

/-- What a port shows of its width lies above its state and below its counters. -/
theorem Fld.stat_apart : (F.FAB_PORT_STAT_STATE port).apart (F.FAB_PORT_STAT_GROUPS port)
    ∧ (F.FAB_PORT_STAT_STATE port).apart (F.FAB_PORT_STAT_WIDTH port) ∧ (F.FAB_PORT_STAT_STATE port).apart (F.FAB_PORT_STAT_DEGRADED port)
    ∧ (F.FAB_PORT_STAT_GROUPS port).apart (F.FAB_PORT_STAT_WIDTH port) ∧ (F.FAB_PORT_STAT_GROUPS port).apart (F.FAB_PORT_STAT_DEGRADED port)
    ∧ (F.FAB_PORT_STAT_WIDTH port).apart (F.FAB_PORT_STAT_DEGRADED port) :=
  ⟨fun _ => .inr (show 0 + 3 ≤ 3 by decide), fun _ => .inr (show 0 + 3 ≤ 7 by decide), fun _ => .inr (show 0 + 3 ≤ 13 by decide),
    fun _ => .inr (show 3 + 4 ≤ 7 by decide), fun _ => .inr (show 3 + 4 ≤ 13 by decide), fun _ => .inr (show 7 + 6 ≤ 13 by decide)⟩

theorem Dev.showWidth_groups : (d.showWidth port).rf (F.FAB_PORT_STAT_GROUPS port) = (d.linkOf port).groups := by
  obtain ⟨-, word, -⟩ := Fld.stat_inWord port
  obtain ⟨-, -, -, width, degraded, -⟩ := Fld.stat_apart port
  unfold Dev.showWidth
  dsimp only
  rw [Dev.rf_wb_apart _ _ word degraded, Dev.rf_wf_apart _ _ word width, Dev.rf_wf_same _ _ word]
  exact Nat.mod_eq_of_lt (LinkSt.groups_lt _)

theorem Dev.showWidth_width : (d.showWidth port).rf (F.FAB_PORT_STAT_WIDTH port) = 8 * popcount 4 (d.linkOf port).groups := by
  obtain ⟨-, -, word, -⟩ := Fld.stat_inWord port
  obtain ⟨-, -, -, -, -, degraded⟩ := Fld.stat_apart port
  have few := popcount_le 4 (d.linkOf port).groups
  unfold Dev.showWidth
  dsimp only
  rw [Dev.rf_wb_apart _ _ word degraded, Dev.rf_wf_same _ _ word]
  exact Nat.mod_eq_of_lt (show _ < 64 by omega)

/-- The state of the port is not among what the width shows. -/
theorem Dev.showWidth_state : (d.showWidth port).rf (F.FAB_PORT_STAT_STATE port) = d.rf (F.FAB_PORT_STAT_STATE port) := by
  obtain ⟨word, -⟩ := Fld.stat_inWord port
  obtain ⟨groups, width, degraded, -⟩ := Fld.stat_apart port
  unfold Dev.showWidth
  dsimp only
  rw [Dev.rf_wb_apart _ _ word degraded, Dev.rf_wf_apart _ _ word width, Dev.rf_wf_apart _ _ word groups]

@[simp] theorem Dev.showWidth_fab : (d.showWidth port).fab = d.fab := rfl
@[simp] theorem Dev.showWidth_mem : (d.showWidth port).mem = d.mem := rfl
@[simp] theorem Dev.showWidth_ctl : (d.showWidth port).ctl = d.ctl := rfl
@[simp] theorem Dev.showWidth_out : (d.showWidth port).out = d.out := rfl
@[simp] theorem Dev.showWidth_linkOf (n : Nat) : (d.showWidth port).linkOf n = d.linkOf n := rfl

theorem Dev.showDelay_spec : (d.showDelay port).fab = d.fab ∧ (d.showDelay port).mem = d.mem ∧ (d.showDelay port).ctl = d.ctl := by
  unfold Dev.showDelay
  split <;> exact ⟨rfl, rfl, rfl⟩

end

end Sys2Proof.Machine
end

section
/-!
Proofs, flits as a port receives them (R492 to R496): bad flits, acknowledgements, replay, and data in and out of sequence.
-/
namespace Sys2Proof.Machine

/-- With no flit waiting nothing is sent. -/
theorem Dev.pump_of_idle {d : Dev} {port : Nat} (idle : (d.linkOf port).txWait = []) : d.pump port = d := by
  simp [Dev.pump, idle]

/-- A run of messages that leave the module. -/
theorem Dev.foldl_emit {α : Type} (f : α → Out) (l : List α) (d : Dev) : l.foldl (fun e x => e.emit (f x)) d = { d with out := d.out ++ l.map f } := by
  induction l generalizing d with
  | nil => simp
  | cons x xs ih => rw [List.foldl_cons, ih]; simp [Dev.emit]

/-- A replay sends every unacknowledged flit in order and counts them (R494). -/
theorem Dev.replayAll_eq (d : Dev) {port : Nat} (hport : port < 6) : d.replayAll port =
    (({ d with out := d.out ++ (d.linkOf port).replay.map (fun x => Out.flit port ((d.linkOf port).again x.1 x.2)) } : Dev).bump
      (F.FAB_PORT_ERR_REPLAYS port) (d.linkOf port).replay.length).event (34 + port) 0x702 none 0 (d.linkOf port).replay.length := by
  unfold Dev.replayAll
  dsimp only
  rw [if_neg (by omega), Dev.foldl_emit (fun x : Nat × Flit => Out.flit port ((d.linkOf port).again x.1 x.2))]

theorem Dev.replayAll_fab (d : Dev) {port : Nat} (hport : port < 6) : (d.replayAll port).fab = d.fab := by
  rw [d.replayAll_eq hport, Dev.event_fab, Dev.bump_fab]

theorem Dev.replayAll_out (d : Dev) {port : Nat} (hport : port < 6) :
    (d.replayAll port).out = d.out ++ (d.linkOf port).replay.map (fun x => Out.flit port ((d.linkOf port).again x.1 x.2)) := by
  rw [d.replayAll_eq hport, Dev.event_out, Dev.bump_out]

/-- A link after a flit's acknowledgement and credits (R494, R495). -/
def LinkSt.credited (l : LinkSt) (h : Nat) : LinkSt :=
  let l1 := if bitAt h 24 then l.acked (bitsAt h 12 12) else l
  { l1 with credits := l1.credits.modify (bitsAt h 38 3) (· + bitsAt h 41 12) }

/-- What the receiver of flits goes by is not changed by an acknowledgement. -/
theorem LinkSt.credited_receives (l : LinkSt) (h : Nat) : (l.credited h).txWait = l.txWait ∧ (l.credited h).rxNext = l.rxNext
    ∧ (l.credited h).naking = l.naking ∧ (l.credited h).rxUsed = l.rxUsed := by
  unfold LinkSt.credited
  dsimp only
  split <;> exact ⟨rfl, rfl, rfl, rfl⟩

/-- The data of a good flit: out of sequence, without a credit, or put to the bytes of their channel (R494 to R496). -/
def Dev.flitData (d : Dev) (port : Nat) (flit : Flit) : Dev :=
  let h := flitHeader flit
  let len := bitsAt h 30 8
  let vc := bitsAt h 27 3
  if len = 0 then d
  else
    let l := d.linkOf port
    if bitsAt h 0 12 ≠ l.rxNext ∨ (l.naking ∧ !bitAt h 26) then (if l.naking then d else d.sendNak port)
    else if 2048 ≤ l.rxUsed.getD vc 0 then (if port = 6 then d else d.bump (F.FAB_PORT_ERR_NO_CREDIT port) 1)
    else
      let d := d.setLink port { l with rxNext := (l.rxNext + 1) % 4096, rxAny := true, naking := false, rxUsed := l.rxUsed.modify vc (· + 1) }
      let d := d.bwCount (32 + port) false len
      let d := if port = 6 then d.event 40 0x801 none 0 1 else d.event (34 + port) 0x701 none 0 1
      d.reassemble port vc ((flit.drop 8).take len)

/-- The module once a good flit's acknowledgement and its NAK have been acted on. -/
def Dev.flitHeard (d : Dev) (port : Nat) (flit : Flit) : Dev :=
  let d := d.setLink port ((d.linkOf port).credited (flitHeader flit))
  if bitAt (flitHeader flit) 25 then d.replayAll port else d

section
variable {d : Dev} {port : Nat} {flit : Flit} (hport : port < 6) (up : d.linkUp port = true)
include hport up

theorem cmdFlitReceived_bad (bad : flitBad flit = true) : cmdFlitReceived port flit d =
    if (d.linkOf port).naking then d.bump (F.FAB_PORT_ERR_BAD_FLITS port) 1 else (d.bump (F.FAB_PORT_ERR_BAD_FLITS port) 1).sendNak port := by
  have here : ¬(7 ≤ port ∨ (!d.linkUp port) = true) := by simp [up]; omega
  have six : ¬port = 6 := by omega
  unfold cmdFlitReceived
  rw [if_neg here, if_pos (by rw [bad]; rfl)]
  dsimp only
  rw [if_neg six, Dev.linkOf_congr (Dev.bump_fab ..)]

section
variable (good : flitBad flit = false) (idle : (d.linkOf port).txWait = [])
include good idle

/-- A good flit is acknowledged and replayed for before its data are looked at. -/
theorem cmdFlitReceived_good : cmdFlitReceived port flit d = (d.flitHeard port flit).flitData port flit := by
  have link : (d.flitHeard port flit).linkOf port = (d.linkOf port).credited (flitHeader flit) := by
    unfold Dev.flitHeard
    dsimp only
    split
    · rw [Dev.linkOf_congr (Dev.replayAll_fab _ hport), Dev.linkOf_setLink_same]
    · rw [Dev.linkOf_setLink_same]
  have still : (d.flitHeard port flit).pump port = d.flitHeard port flit :=
    Dev.pump_of_idle (by rw [link, ((d.linkOf port).credited_receives _).1, idle])
  have here : ¬(7 ≤ port ∨ (!d.linkUp port) = true) := by simp [up]; omega
  have six : ¬port = 6 := by omega
  have heard : cmdFlitReceived port flit d = ((d.flitHeard port flit).pump port).flitData port flit := by
    unfold cmdFlitReceived
    rw [if_neg here, if_neg (by simp [good, six])]
    rfl
  rw [heard, still]

theorem cmdFlitReceived_idle (empty : bitsAt (flitHeader flit) 30 8 = 0) : cmdFlitReceived port flit d = d.flitHeard port flit := by
  rw [cmdFlitReceived_good hport up good idle]
  exact if_pos empty

section
variable (noNak : bitAt (flitHeader flit) 25 = false) (data : bitsAt (flitHeader flit) 30 8 ≠ 0)
include noNak data

/-- Data are judged by the link as it stood when the flit came. -/
theorem cmdFlitReceived_data :
    let d2 := d.setLink port ((d.linkOf port).credited (flitHeader flit))
    cmdFlitReceived port flit d =
      if bitsAt (flitHeader flit) 0 12 ≠ (d.linkOf port).rxNext ∨ ((d.linkOf port).naking ∧ !bitAt (flitHeader flit) 26) then
        (if (d.linkOf port).naking then d2 else d2.sendNak port)
      else if 2048 ≤ (d.linkOf port).rxUsed.getD (bitsAt (flitHeader flit) 27 3) 0 then d2.bump (F.FAB_PORT_ERR_NO_CREDIT port) 1
      else
        (((d2.setLink port { (d.linkOf port).credited (flitHeader flit) with
          rxNext := ((d.linkOf port).rxNext + 1) % 4096, rxAny := true, naking := false,
          rxUsed := (d.linkOf port).rxUsed.modify (bitsAt (flitHeader flit) 27 3) (· + 1) }).bwCount (32 + port) false
            (bitsAt (flitHeader flit) 30 8)).event (34 + port) 0x701 none 0 1).reassemble port (bitsAt (flitHeader flit) 27 3)
              ((flit.drop 8).take (bitsAt (flitHeader flit) 30 8)) := by
  obtain ⟨-, next, naking, used⟩ := (d.linkOf port).credited_receives (flitHeader flit)
  have six : ¬port = 6 := by omega
  have heard : d.flitHeard port flit = d.setLink port ((d.linkOf port).credited (flitHeader flit)) :=
    if_neg (by rw [noNak]; exact Bool.false_ne_true)
  rw [cmdFlitReceived_good hport up good idle, heard, Dev.flitData]
  dsimp only
  rw [if_neg data, Dev.linkOf_setLink_same, next, naking, used, if_neg six, if_neg six]

end
end
end

end Sys2Proof.Machine
end

section
/-!
Proofs, the work of the link layer (R489 to R500, R532): lanes and widths, training, delays, identity and coordinate; the statement of O54.
-/
namespace Sys2Proof.Machine

/-! ### Lanes -/

/-- A link whose lane leaves service with its group (R490). -/
def LinkSt.laneOut (l : LinkSt) (lane : Nat) : LinkSt :=
  { l with groupsOut := l.groupsOut ||| 2 ^ (lane / 8), retraining := l.retraining ++ [lane], groupsBack := l.groupsBack &&& (15 ^^^ 2 ^ (lane / 8)) }

theorem LinkSt.laneOut_groups (l : LinkSt) {lane : Nat} (hl : lane < 32) : bitAt (l.laneOut lane).groups (lane / 8) = false :=
  LinkSt.groups_out (by omega) (bitAt_or_two_pow l.groupsOut (lane / 8))

section
variable {d : Dev} {port lane : Nat} (hport : port < 6) (hl : lane < 32) (enabled : d.rb (F.FAB_PORT_CTL_RETRAIN_EN port) = true)
  (trained : 2 ≤ d.rf (F.FAB_PORT_STAT_STATE port)) (inService : (d.linkOf port).retraining.contains lane = false)
include hport hl enabled trained inService

/-- The module once a lane has left service. -/
def Dev.laneLeft (d : Dev) (port lane : Nat) : Dev :=
  (d.setLink port ((d.linkOf port).laneOut lane)).bump (F.FAB_PORT_STAT_RETRAINS port) 1

omit hport hl enabled trained inService in
theorem Dev.laneLeft_linkOf (d : Dev) (port lane : Nat) : (d.laneLeft port lane).linkOf port = (d.linkOf port).laneOut lane :=
  (Dev.linkOf_congr (Dev.bump_fab ..) port).trans (d.linkOf_setLink_same port _)

theorem cmdLaneRetrain_eq : cmdLaneRetrain port lane d =
    if popcount 4 ((d.linkOf port).laneOut lane).groups < d.rf (F.FAB_PORT_CTL_MIN_WIDTH port) + 1 then (d.laneLeft port lane).portDown port
    else
      let e := (d.laneLeft port lane).sendLink port 4 { kind := 0xE, aux := (d.linkOf port).txNext, addr := ((d.linkOf port).laneOut lane).groups }
      (e.setLink port { e.linkOf port with widthAtTx := some ((d.linkOf port).txNext, ((d.linkOf port).laneOut lane).groups) }).showWidth port := by
  have least : (d.laneLeft port lane).rf (F.FAB_PORT_CTL_MIN_WIDTH port) = d.rf (F.FAB_PORT_CTL_MIN_WIDTH port) :=
    Dev.rf_bump_elsewhere _ _ (show 0xE00000 + 0x8 * port ≠ 0xE00040 + 0x8 * port by omega)
  unfold cmdLaneRetrain
  rw [if_neg (by omega), if_neg (by simp [enabled]; omega)]
  dsimp only
  rw [if_neg (by rw [inService]; exact Bool.false_ne_true)]
  change (if _ < (d.laneLeft port lane).rf _ + 1 then _ else _) = _
  rw [least]
  rfl

/-- A port that keeps enough groups narrows and tells its peer (R490, log entry 45). -/
theorem cmdLaneRetrain_narrows (wide : d.rf (F.FAB_PORT_CTL_MIN_WIDTH port) + 1 ≤ popcount 4 ((d.linkOf port).laneOut lane).groups) :
    ∃ e, cmdLaneRetrain port lane d = e ∧ (e.linkOf port).groups = ((d.linkOf port).laneOut lane).groups
      ∧ e.rf (F.FAB_PORT_STAT_GROUPS port) = ((d.linkOf port).laneOut lane).groups
      ∧ e.rf (F.FAB_PORT_STAT_WIDTH port) = 8 * popcount 4 ((d.linkOf port).laneOut lane).groups
      ∧ Out.fabric port { kind := 0xE, sub := 4, src := d.ownNode, dst := (d.linkOf port).peerNode.getD 0, aux := (d.linkOf port).txNext,
                          addr := ((d.linkOf port).laneOut lane).groups } ∈ e.out
      ∧ e.mem = d.mem ∧ e.ctl = d.ctl := by
  rw [cmdLaneRetrain_eq hport hl enabled trained inService, if_neg (Nat.not_lt.2 wide)]
  dsimp only
  generalize hp : ({ kind := 0xE, aux := (d.linkOf port).txNext, addr := ((d.linkOf port).laneOut lane).groups } : Packet) = p
  have link := d.laneLeft_linkOf port lane
  have own : (d.laneLeft port lane).ownNode = d.ownNode := by
    unfold Dev.ownNode Dev.laneLeft
    rw [Dev.bump_fab]
    rfl
  have groups : (((d.laneLeft port lane).sendLink port 4 p).linkOf port).groups = ((d.linkOf port).laneOut lane).groups :=
    (LinkSt.groups_of_standing (Dev.sendLink_standing ..)).trans (congrArg LinkSt.groups link)
  have sent : ((d.laneLeft port lane).emit (.fabric port { p with kind := 0xE, sub := 4, src := d.ownNode, dst := (d.linkOf port).peerNode.getD 0 })).sends
      ((d.laneLeft port lane).sendLink port 4 p) := by
    unfold Dev.sendLink
    rw [Dev.putOnPort_eq _ _ _ (c := 3) rfl, own, link]
    exact Dev.sends_transmit _ (by omega) _ _
  obtain ⟨os, out, -⟩ := sent.out
  have mem := sent.mem.trans (Dev.bump_mem ..)
  have ctl := sent.ctl.trans (Dev.bump_ctl ..)
  generalize (d.laneLeft port lane).sendLink port 4 p = e at *
  have shown : ((e.setLink port { e.linkOf port with
      widthAtTx := some ((d.linkOf port).txNext, ((d.linkOf port).laneOut lane).groups) }).linkOf port).groups
      = ((d.linkOf port).laneOut lane).groups := (congrArg LinkSt.groups (Dev.linkOf_setLink_same ..)).trans groups
  refine ⟨_, rfl, shown, (Dev.showWidth_groups ..).trans shown, ?_, ?_, mem, ctl⟩
  · rw [Dev.showWidth_width, shown]
  · show _ ∈ e.out
    rw [out, ← hp]
    exact List.mem_append_left _ (List.mem_append_right _ (List.mem_singleton.2 rfl))

end

/-- A link whose lane has come back from retraining (R490). -/
def LinkSt.laneBack (l : LinkSt) (lane : Nat) : LinkSt :=
  { l with retraining := l.retraining.erase lane, laneFails := SMap.set (fun _ => 0) l.laneFails lane 0 }

/-- No lane of the group is in retraining or has failed three times. -/
def LinkSt.groupSound (l : LinkSt) (g : Nat) : Bool :=
  !l.retraining.any (fun x => decide (x / 8 = g)) && (List.range 8).all (fun i => decide (SMap.get (fun _ => 0) l.laneFails (8 * g + i) < 3))

theorem LinkSt.groupSound_iff (l : LinkSt) (g : Nat) : l.groupSound g = true ↔
    (∀ m ∈ l.retraining, m / 8 ≠ g) ∧ ∀ m < 8, SMap.get (fun _ => 0) l.laneFails (8 * g + m) < 3 := by
  simp [LinkSt.groupSound]

/-- A link whose lane has failed another retraining. -/
def LinkSt.laneFailed (l : LinkSt) (lane : Nat) : LinkSt :=
  { l with laneFails := SMap.set (fun _ => 0) l.laneFails lane (SMap.get (fun _ => 0) l.laneFails lane + 1),
           retraining := if 3 ≤ SMap.get (fun _ => 0) l.laneFails lane + 1 then l.retraining.erase lane else l.retraining }

theorem cmdLaneRetrainDone_eq {d : Dev} {port lane : Nat} (hport : port < 6) (retrains : (d.linkOf port).retraining.contains lane = true) (ok : Bool) :
    cmdLaneRetrainDone port lane ok d = d.setLink port
      (if ok then
        (if ((d.linkOf port).laneBack lane).groupSound (lane / 8) then
          { (d.linkOf port).laneBack lane with groupsBack := (d.linkOf port).groupsBack ||| 2 ^ (lane / 8) } else (d.linkOf port).laneBack lane)
      else (d.linkOf port).laneFailed lane) := by
  unfold cmdLaneRetrainDone
  dsimp only
  rw [if_neg (by omega), if_neg (by simp only [retrains]; simp; omega)]
  cases ok <;> rfl

/-! ### Training -/

section
variable {d : Dev} {port : Nat} (hport : port < 6) (enabled : d.rb (F.FAB_PORT_CTL_ENABLE port) = true) (sound : bitAt d.tst.colDead port = false)
  (groups : Nat)
include hport enabled sound

/-- A training step of an enabled port whose unit is sound. -/
theorem cmdLinkTrainingDone_eq (ok : Bool) : cmdLinkTrainingDone port groups ok d =
    if ok = false then
      (if 3 ≤ d.rf (F.FAB_PORT_STAT_STATE port) then d
      else (d.setLink port { d.linkOf port with step := 0, delays := [] }).wf (F.FAB_PORT_STAT_STATE port) 1)
    else if (d.linkOf port).step = 0 then (d.setLink port { d.linkOf port with step := 1 }).wf (F.FAB_PORT_STAT_STATE port) 1
    else if (d.linkOf port).step = 1 then
      (d.setLink port { d.linkOf port with step := 2, groupsPeer := groups % 16, groupsOut := 0, delays := [] }).showWidth port
    else if (d.linkOf port).step = 2 then
      if (d.linkOf port).delays.length < 16 then d
      else
        let e := (d.setLink port { d.linkOf port with
          step := 3, hopDelay := ((d.linkOf port).delays.take 16).foldl (· + ·) (0 : Int) / 32 }).showDelay port
        e.sendLink port 1 { kind := 0xE, len := 96, payload := e.identityBlock port }
    else d := by
  unfold cmdLinkTrainingDone
  rw [if_neg (by omega), if_neg (by simp [enabled, sound]; omega)]
  cases ok <;> rfl

/-- The groups that both ends find healthy are in use after the exchange (R489, R497). -/
theorem cmdLinkTrainingDone_exchanged (step : (d.linkOf port).step = 1) : ∃ e, cmdLinkTrainingDone port groups true d = e
    ∧ e.fab = (d.setLink port { d.linkOf port with step := 2, groupsPeer := groups % 16, groupsOut := 0, delays := [] }).fab ∧ e.out = d.out ∧ e.mem = d.mem
    ∧ e.rf (F.FAB_PORT_STAT_GROUPS port) = ((d.linkOf port).groupsOwn &&& groups) % 16
    ∧ e.rf (F.FAB_PORT_STAT_WIDTH port) = 8 * popcount 4 ((d.linkOf port).groupsOwn &&& groups)
    ∧ e.rf (F.FAB_PORT_STAT_STATE port) = d.rf (F.FAB_PORT_STAT_STATE port) := by
  have inUse : ({ d.linkOf port with step := 2, groupsPeer := groups % 16, groupsOut := 0, delays := [] } : LinkSt).groups
      = ((d.linkOf port).groupsOwn &&& groups) % 16 := by
    refine (LinkSt.groups_of_none_out rfl).trans ?_
    rw [show 16 = 2 ^ 4 from rfl, Nat.and_mod_two_pow, Nat.and_mod_two_pow, Nat.mod_mod]
  rw [cmdLinkTrainingDone_eq hport enabled sound groups true, if_neg (by decide), if_neg (by omega), if_pos step]
  refine ⟨_, rfl, rfl, rfl, rfl, ?_, ?_, Dev.showWidth_state ..⟩
  · rw [Dev.showWidth_groups, Dev.linkOf_setLink_same, inUse]
  · rw [Dev.showWidth_width, Dev.linkOf_setLink_same, inUse, show 16 = 2 ^ 4 from rfl, popcount_mod]

/-- After sixteen exchanges the hop delay is their mean (R532). -/
theorem cmdLinkTrainingDone_measured (step : (d.linkOf port).step = 2) (sixteen : (d.linkOf port).delays.length = 16) : ∃ e : Dev,
    e = (d.setLink port { d.linkOf port with step := 3, hopDelay := (d.linkOf port).delays.sum / 32 }).showDelay port
    ∧ cmdLinkTrainingDone port groups true d = e.sendLink port 1 { kind := 0xE, len := 96, payload := e.identityBlock port } := by
  refine ⟨_, rfl, ?_⟩
  rw [cmdLinkTrainingDone_eq hport enabled sound groups true, if_neg (by decide), if_neg (by omega), if_neg (by omega), if_pos step, if_neg (by omega),
    List.take_of_length_le (by omega), ← List.sum_eq_foldl]

end

/-! ### Delays -/

section
variable {d : Dev} {port : Nat} {p : Packet} (hport : port < 6) (link : p.kind = 0xE)
include hport link

theorem cmdDelayRequest_answers (up : d.linkUp port = true) (sub : p.sub = 0) (t2 t3 : Nat) : cmdDelayRequest port t2 t3 p d =
    (d.takePacket port p).sendLink port 2 { kind := 0xE, len := 16, tag := p.tag, payload := leBytes 8 t2 ++ leBytes 8 t3 } :=
  if_neg (by simp [link, sub, up, hport])

section
variable (up : d.linkUp port = true) (sub : p.sub = 2) {t1 t2 t3 t4 : Nat} (h2 : t2 < 2 ^ 64) (h3 : t3 < 2 ^ 64)
  (times : p.payload = leBytes 8 t2 ++ leBytes 8 t3)
include up sub h2 h3 times

/-- The exchange of one delay joins those measured. -/
theorem cmdDelayResponse_eq {ds : List Int} (hds : ds = (d.linkOf port).delays ++ [((t4 : Int) - (t1 : Int)) - ((t3 : Int) - (t2 : Int))])
    (few : ds.length ≤ 16) :
    let e := d.takePacket port p
    cmdDelayResponse port t1 t4 p d =
      if (d.linkOf port).step < 3 then e.setLink port { e.linkOf port with delays := ds }
      else if ds.length = 16 then
        (e.setLink port { e.linkOf port with delays := [], hopDelay := ds.foldl (· + ·) (0 : Int) / 32 }).showDelay port
      else e.setLink port { e.linkOf port with delays := ds } := by
  have standing := d.takePacket_standing port port p
  have first : leNat (p.payload.take 8) = t2 := by rw [times, take_leBytes, leNat_leBytes_word h2]
  have second : leNat ((p.payload.drop 8).take 8) = t3 := by
    rw [times, drop_leBytes, List.take_of_length_le (by rw [length_leBytes]), leNat_leBytes_word h3]
  unfold cmdDelayResponse
  rw [if_neg (by simp [link, sub, up, hport])]
  dsimp only
  rw [first, second, LinkSt.delays_of_standing standing, LinkSt.step_of_standing standing, ← hds, List.take_of_length_le few]

end

end

/-! ### Identity and coordinate -/

/-- Registers written one after another, each at a place of its own. -/
theorem Dev.foldl_setReg (off : Nat → Nat) (apart : ∀ i j, off i = off j → i = j) (v : Nat → Word) (n : Nat) (e : Dev) :
    (∀ k, k < n → ((List.range n).foldl (fun d k => d.setReg (off k) (v k)) e).reg (off k) = v k)
    ∧ ∀ x, (∀ k, k < n → x ≠ off k) → ((List.range n).foldl (fun d k => d.setReg (off k) (v k)) e).reg x = e.reg x := by
  induction n with
  | zero => exact ⟨fun k hk => absurd hk (Nat.not_lt_zero k), fun _ _ => rfl⟩
  | succ n ih =>
    rw [List.range_succ, List.foldl_append]
    generalize (List.range n).foldl (fun d k => d.setReg (off k) (v k)) e = a at ih
    have read (x : Nat) : (a.setReg (off n) (v n)).reg x = if x = off n then v n else a.reg x := SMap.get_set ..
    refine ⟨fun k hk => (read _).trans ?_, fun x other => (read x).trans ?_⟩
    · split
      · next same => rw [apart _ _ same]
      · next differ => exact ih.1 k (by have : k ≠ n := fun h => differ (by rw [h]); omega)
    · rw [if_neg (other n (Nat.lt_succ_self n)), ih.2 x (fun k hk => other k (Nat.lt_succ_of_lt hk))]

/-- The twelve words of a peer's block in FAB_PEERn (R498). -/
def Dev.peerStored (d : Dev) (port : Nat) (p : Packet) : Dev :=
  (List.range 12).foldl (fun d k => d.setReg (Reg.FAB_PEER port k) (BitVec.ofNat 64 (leNat ((p.payload.drop (8 * k)).take 8)))) d

theorem Dev.peerStored_spec (d : Dev) (port : Nat) (p : Packet) :
    (∀ k, k < 12 → (d.peerStored port p).reg (Reg.FAB_PEER port k) = BitVec.ofNat 64 (leNat ((p.payload.drop (8 * k)).take 8)))
    ∧ ∀ x, (∀ k, k < 12 → x ≠ Reg.FAB_PEER port k) → (d.peerStored port p).reg x = d.reg x :=
  Dev.foldl_setReg (Reg.FAB_PEER port) (fun i j same => by unfold Reg.FAB_PEER at same; omega) _ 12 d

theorem Dev.peerStored_fab (d : Dev) (port : Nat) (p : Packet) : (d.peerStored port p).fab = d.fab :=
  foldl_keep Dev.fab (fun (d : Dev) k => d.setReg (Reg.FAB_PEER port k) _) (fun _ _ => rfl) _ d

/-- The module once a peer's block has made its port identified (R497, R498). -/
def Dev.identified (d : Dev) (port : Nat) (p : Packet) : Dev :=
  let e := (d.takePacket port p).peerStored port p
  ((e.setLink port { e.linkOf port with step := 4 }).wf (F.FAB_PORT_STAT_STATE port) 2).bump (F.FAB_PORT_STAT_LINKUPS port) 1

/-- A register that stores no word of a peer is kept while the block is stored. -/
theorem Dev.peerStored_rf {d : Dev} {port : Nat} (hport : port < 6) (p : Packet) {f : Fld} (off : f.off = 0xE00040 + 0x8 * port) :
    ((d.takePacket port p).peerStored port p).rf f = d.rf f := by
  rw [Dev.rf, ((d.takePacket port p).peerStored_spec port p).2 f.off (fun k _ => by rw [off]; unfold Reg.FAB_PEER; omega), ← Dev.rf, Dev.takePacket_rf]

theorem cmdIdentity_identifies {d : Dev} {port : Nat} {p : Packet} (hport : port < 6) (link : p.kind = 0xE) (sub : p.sub = 1)
    (trained : 3 ≤ (d.linkOf port).step) (low : d.rf (F.FAB_PORT_STAT_STATE port) < 2) :
    cmdIdentity port p d = ((d.identified port p).postError { cls := 0, source := 0x08, event := 0x01, inst := port }).announce port := by
  have state : ((d.takePacket port p).peerStored port p).rf (F.FAB_PORT_STAT_STATE port) = d.rf (F.FAB_PORT_STAT_STATE port) :=
    Dev.peerStored_rf hport p rfl
  have below (l : LinkSt) : (((d.takePacket port p).peerStored port p).setLink port l).rf (F.FAB_PORT_STAT_STATE port) < 2 := by
    rw [Dev.rf_setLink, state]
    exact low
  unfold cmdIdentity
  rw [if_neg (by simp [link, sub]; omega)]
  dsimp only
  rw [← Dev.peerStored, if_pos (below _)]
  rfl

theorem Dev.identified_spec (d : Dev) {port : Nat} (hport : port < 6) (p : Packet) :
    (∀ k, k < 12 → ((d.identified port p).reg (Reg.FAB_PEER port k)).toNat = leNat ((p.payload.drop (8 * k)).take 8))
    ∧ (d.identified port p).rf (F.FAB_PORT_STAT_STATE port) = 2 ∧ ((d.identified port p).linkOf port).step = 4
    ∧ (d.identified port p).rf (F.FAB_PORT_STAT_LINKUPS port) = (d.rf (F.FAB_PORT_STAT_LINKUPS port) + 1) % 2 ^ 16 := by
  obtain ⟨state, -, -, linkups⟩ := Fld.stat_inWord port
  have stored := ((d.takePacket port p).peerStored_spec port p).1
  have counts : ((d.takePacket port p).peerStored port p).rf (F.FAB_PORT_STAT_LINKUPS port) = d.rf (F.FAB_PORT_STAT_LINKUPS port) :=
    Dev.peerStored_rf hport p rfl
  unfold Dev.identified
  dsimp only
  generalize (d.takePacket port p).peerStored port p = e at *
  have link : (((e.setLink port { e.linkOf port with step := 4 }).wf (F.FAB_PORT_STAT_STATE port) 2).bump (F.FAB_PORT_STAT_LINKUPS port) 1).linkOf port
      = { e.linkOf port with step := 4 } :=
    (Dev.linkOf_congr (Dev.bump_fab ..) port).trans (Dev.linkOf_setLink_same ..)
  refine ⟨fun k hk => ?_, ?_, by rw [link], ?_⟩
  · have away : Reg.FAB_PEER port k ≠ 0xE00040 + 0x8 * port := by unfold Reg.FAB_PEER; omega
    have word : leNat ((p.payload.drop (8 * k)).take 8) < 2 ^ 64 :=
      (leNat_lt _).trans_le (Nat.pow_le_pow_right (by decide) ((List.length_take_le 8 _)))
    have kept : (((e.setLink port { e.linkOf port with step := 4 }).wf (F.FAB_PORT_STAT_STATE port) 2).bump (F.FAB_PORT_STAT_LINKUPS port) 1).reg
        (Reg.FAB_PEER port k) = e.reg (Reg.FAB_PEER port k) :=
      (Dev.reg_bump_elsewhere _ _ away).trans ((Dev.reg_wf ..).trans (if_neg away))
    rw [kept, stored k hk, BitVec.toNat_ofNat]
    exact Nat.mod_eq_of_lt word
  · have below : (F.FAB_PORT_STAT_STATE port).apart (F.FAB_PORT_STAT_LINKUPS port) := fun _ => .inr (show 0 + 3 ≤ 16 by decide)
    rw [Dev.rf_bump_apart _ _ state below, Dev.rf_wf_same _ _ state]
    rfl
  · rw [Dev.rf_bump_one _ linkups, Dev.rf_wf_apart _ _ linkups (fun _ => .inl (show 0 + 3 ≤ 16 by decide)), Dev.rf_setLink, counts]
    rfl

/-- What the peer is expected and judged by does not depend on the traffic. -/
theorem Dev.sends.coordValid {d e : Dev} (h : d.sends e) : e.coordValid = d.coordValid := by rw [Dev.coordValid, h.fab, Dev.coordValid]

theorem Dev.sends.expectedPeer {d e : Dev} (h : d.sends e) (port : Nat) : e.expectedPeer port = d.expectedPeer port := by
  rw [Dev.expectedPeer, Dev.ownNode, h.fab, ← Dev.ownNode, ← Dev.expectedPeer]

/-- A coordinate makes the port running or miswired, once the module's own is known (R499, R500). -/
theorem cmdCoordinate_judges {d : Dev} {port : Nat} {p : Packet} (hport : port < 6) (link : p.kind = 0xE) (sub : p.sub = 3)
    (identified : 2 ≤ d.rf (F.FAB_PORT_STAT_STATE port)) :
    ∃ e, cmdCoordinate port p d = e ∧ (e.linkOf port).peerNode = some (p.addr % 2 ^ 18) ∧ e.mem = d.mem ∧ e.ctl = d.ctl
      ∧ e.rf (F.FAB_PORT_STAT_STATE port) =
          if d.coordValid then (if d.expectedPeer port = some (p.addr % 2 ^ 18) then 3 else 4) else d.rf (F.FAB_PORT_STAT_STATE port) := by
  obtain ⟨state, -⟩ := Fld.stat_inWord port
  have sent := d.sends_takePacket port p
  have reg := d.takePacket_rf port p (F.FAB_PORT_STAT_STATE port)
  unfold cmdCoordinate
  rw [if_neg (by simp [link, sub]; omega)]
  dsimp only
  refine ⟨_, rfl, ?_⟩
  have coord := sent.coordValid
  have peer := sent.expectedPeer port
  have mem := sent.mem
  have ctl := sent.ctl
  generalize d.takePacket port p = e at *
  generalize hl : ({ e.linkOf port with peerNode := some (p.addr % 2 ^ 18) } : LinkSt) = l
  have node : l.peerNode = some (p.addr % 2 ^ 18) := by rw [← hl]
  have valid : (e.setLink port l).coordValid = d.coordValid := coord
  have expected : (e.setLink port l).expectedPeer port = d.expectedPeer port := peer
  unfold Dev.judgePeer
  rw [Dev.linkOf_setLink_same, node]
  dsimp only
  rw [Dev.rf_setLink, reg, valid, expected]
  cases known : d.coordValid
  · rw [if_neg (by simp)]
    exact ⟨by rw [Dev.linkOf_setLink_same, node], mem, ctl, reg⟩
  · rw [if_pos ⟨identified, rfl⟩]
    refine ⟨(congrArg LinkSt.peerNode (e.linkOf_setLink_same port l)).trans node, mem, ctl, ?_⟩
    rw [Dev.showWidth_state, Dev.rf_wf_same _ _ state, if_pos rfl]
    split <;> rfl

/-- The peer's width change: the groups in use are those that both ends keep (R490). -/
theorem cmdWidthChange_eq {d : Dev} {port : Nat} {p : Packet} (hport : port < 6) (link : p.kind = 0xE) (sub : p.sub = 4)
    (identified : 2 ≤ d.rf (F.FAB_PORT_STAT_STATE port)) :
    let e := d.takePacket port p
    let l : LinkSt := { e.linkOf port with
      groupsPeer := p.addr % 16 ||| (d.linkOf port).groupsOut, widthAtRx := some (p.aux % 4096, p.addr % 16) }
    cmdWidthChange port p d = if popcount 4 l.groups < d.rf (F.FAB_PORT_CTL_MIN_WIDTH port) + 1 then (e.setLink port l).portDown port
      else (e.setLink port l).showWidth port := by
  have out := LinkSt.groupsOut_of_standing (d.takePacket_standing port port p)
  have least := d.takePacket_rf port p (F.FAB_PORT_CTL_MIN_WIDTH port)
  unfold cmdWidthChange
  rw [if_neg (by simp [link, sub]; omega)]
  dsimp only
  rw [Dev.linkOf_setLink_same, Dev.rf_setLink, least, out]

/-! ### A port that goes down -/

theorem Dev.timeOutWins_linkOf (d : Dev) (port : Nat) (f : WinReq → Bool) :
    ∃ b, (d.timeOutWins port f).linkOf port = { d.linkOf port with timeoutPosted := b } := by
  unfold Dev.timeOutWins
  dsimp only
  split
  · exact ⟨_, rfl⟩
  · split
    · exact ⟨_, Dev.linkOf_congr (Dev.bump_fab ..) port⟩
    · refine ⟨true, (Dev.linkOf_congr (Dev.postError_fab ..) port).trans ((Dev.linkOf_setLink_same ..).trans ?_)⟩
      exact congrArg (fun l : LinkSt => { l with timeoutPosted := true }) (Dev.linkOf_congr (Dev.bump_fab ..) port)

theorem Dev.portDown_fab (d : Dev) (port : Nat) : (d.portDown port).fab = ((d.setLink port
    { timeoutPosted := (d.linkOf port).timeoutPosted, groupsOwn := (d.linkOf port).groupsOwn }).timeOutWins port (fun _ => true)).fab :=
  Dev.postError_fab ..

/-- A port that is down holds no unacknowledged flit, has no training behind it, and none of its requests is outstanding (R491). -/
theorem Dev.portDown_link (d : Dev) (port : Nat) : ((d.portDown port).linkOf port).replay = [] ∧ ((d.portDown port).linkOf port).step = 0
    ∧ ∀ w ∈ (d.portDown port).fab.wins, w.port = port → w.state ≠ 0 := by
  have fab := d.portDown_fab port
  generalize hd : d.setLink port { timeoutPosted := (d.linkOf port).timeoutPosted, groupsOwn := (d.linkOf port).groupsOwn } = e at fab
  obtain ⟨b, link⟩ := e.timeOutWins_linkOf port (fun _ => true)
  obtain ⟨-, rfl, -, -, -, wins⟩ := e.timeOutWins_spec port (fun _ => true)
  have fresh : e.linkOf port = { timeoutPosted := (d.linkOf port).timeoutPosted, groupsOwn := (d.linkOf port).groupsOwn } := by
    rw [← hd, Dev.linkOf_setLink_same]
  rw [Dev.linkOf_congr fab, link, fresh, fab, wins]
  refine ⟨rfl, rfl, fun w hw here => ?_⟩
  obtain ⟨x, -, rfl⟩ := List.mem_map.1 hw
  split at here
  · next hit => rw [if_pos hit]; exact Nat.succ_ne_zero 1
  · next kept => rw [if_neg kept]; exact fun zero => kept ⟨here, zero, rfl⟩

theorem Dev.portDown_width (d : Dev) (port : Nat) : (d.portDown port).rf (F.FAB_PORT_STAT_WIDTH port) = 0 := by
  obtain ⟨-, -, width, -⟩ := Fld.stat_inWord port
  obtain ⟨-, -, -, -, -, degraded⟩ := Fld.stat_apart port
  rw [Dev.portDown_eq, Dev.rf_wb_apart _ _ width degraded, Dev.rf_wf_same _ _ width, Nat.zero_mod]

/-- The expected peer is the module's neighbour on the axis of the port (R499). -/
theorem Dev.expectedPeer_coord {d : Dev} {port n : Nat} (hport : port < 6) (expected : d.expectedPeer port = some n) :
    1 < axisSize (d.fab.dims.getD 0) (port / 2) ∧ ∀ x, x < 3 → coordOf n x =
      if x = port / 2 then
        (if port % 2 = 0 then (coordOf d.ownNode (port / 2) + 1) % axisSize (d.fab.dims.getD 0) (port / 2)
        else (coordOf d.ownNode (port / 2) + axisSize (d.fab.dims.getD 0) (port / 2) - 1) % axisSize (d.fab.dims.getD 0) (port / 2))
      else coordOf d.ownNode x := by
  have small : axisSize (d.fab.dims.getD 0) (port / 2) ≤ 64 := Nat.mod_lt _ (by decide)
  unfold Dev.expectedPeer at expected
  dsimp only at expected
  split at expected
  · contradiction
  · next long =>
    obtain rfl := Option.some.inj expected
    refine ⟨Nat.not_le.1 long, fun x hx => ?_⟩
    have pos : 0 < axisSize (d.fab.dims.getD 0) (port / 2) := by omega
    unfold coordOf
    by_cases same : x = port / 2
    · subst same
      rw [if_pos rfl, bitsAt_withBits_same]
      refine Nat.mod_eq_of_lt (lt_of_lt_of_le ?_ small)
      split <;> exact Nat.mod_lt _ pos
    · rw [if_neg same]
      exact bitsAt_withBits_apart _ _ (by omega)

/-- Settles O54: each clause is the lemma above about its command or its port. -/
theorem linkWork : Obligations.LinkWork := by
  unfold Obligations.LinkWork
  have port {port : Nat} (hport : port < 6) {f : Dev → Dev} {s : State} {e : Dev} (run : s.running = true) (effect : f s.dev = e) :
      onPort port f s = .next (s.after e) := (if_neg (by omega)).trans (onDev_of_eq run effect)
  refine ⟨fun s p run hport => ⟨fun flit up => ⟨?bad, fun good idle => ?good⟩, ?nak, ?lane, ?laneDone, ?trained, ?packets⟩, ?down, ?peer⟩
  case bad => exact fun bad => ⟨_, rfl, port hport run (cmdFlitReceived_bad hport up bad)⟩
  case good =>
    have data := cmdFlitReceived_data hport up good idle
    have inSequence {seq next : Nat} {naking again : Bool} (isNext : seq = next) (taken : naking = false ∨ again = true) :
        ¬(seq ≠ next ∨ (naking = true ∧ (!again) = true)) := by
      obtain rfl | rfl := taken <;> simp [isNext]
    refine ⟨fun nak empty => ?_, fun noNak empty => ?_, fun noNak len out => ?_, fun noNak len next taken => ⟨fun full => ?_, fun room => ?_⟩⟩
    · exact port hport run ((cmdFlitReceived_idle hport up good idle empty).trans (if_pos nak))
    · exact port hport run ((cmdFlitReceived_idle hport up good idle empty).trans (if_neg (by simp [noNak])))
    · exact port hport run ((data noNak len).trans (if_pos (by simpa using out)))
    · exact port hport run ((data noNak len).trans ((if_neg (inSequence next taken)).trans (if_pos full)))
    · exact port hport run ((data noNak len).trans ((if_neg (inSequence next taken)).trans (if_neg (Nat.not_le.2 room))))
  case nak =>
    refine port hport run (if_congr ?_ rfl rfl)
    rw [Bool.and_eq_true]
    exact and_iff_right (by omega)
  case lane =>
    intro lane hl enabled trained inService
    refine ⟨fun narrow => ?_, fun wide => ?_⟩
    · exact port hport run ((cmdLaneRetrain_eq hport hl enabled trained inService).trans (if_pos narrow))
    · obtain ⟨e, effect, groups, kept⟩ := cmdLaneRetrain_narrows hport hl enabled trained inService wide
      exact ⟨e, port hport run effect, groups, (congrArg (bitAt · (lane / 8)) groups).trans ((s.dev.linkOf p).laneOut_groups hl), kept⟩
  case laneDone =>
    intro lane retrains
    refine ⟨⟨_, port hport run (cmdLaneRetrainDone_eq hport retrains true), ?_⟩,
      ⟨_, port hport run (cmdLaneRetrainDone_eq hport retrains false), rfl, rfl, SMap.get_set_same .., rfl⟩⟩
    rw [if_pos rfl]
    cases sound : ((s.dev.linkOf p).laneBack lane).groupSound (lane / 8) with
    | true => exact ⟨rfl, SMap.get_set_same .., rfl, rfl, (if_pos ((LinkSt.groupSound_iff ..).1 sound)).symm⟩
    | false =>
      refine ⟨rfl, SMap.get_set_same .., rfl, rfl, (if_neg fun all => ?_).symm⟩
      have sound' := (LinkSt.groupSound_iff ..).2 all
      exact Bool.false_ne_true (sound.symm.trans sound')
  case trained =>
    intro groups enabled sound
    have eq := cmdLinkTrainingDone_eq hport enabled sound groups
    refine ⟨fun low => ?_, fun high => ?_, fun step => ?_, fun step => ?_, fun step few => ?_, fun step sixteen => ?_⟩
    · exact port hport run ((eq false).trans ((if_pos rfl).trans (if_neg (by omega))))
    · exact port hport run ((eq false).trans ((if_pos rfl).trans (if_pos high)))
    · exact port hport run ((eq true).trans ((if_neg (by decide)).trans (if_pos step)))
    · obtain ⟨e, effect, kept⟩ := cmdLinkTrainingDone_exchanged hport enabled sound groups step
      exact ⟨e, port hport run effect, kept⟩
    · exact port hport run ((eq true).trans ((if_neg (by decide)).trans ((if_neg (by omega)).trans ((if_neg (by omega)).trans
        ((if_pos step).trans (if_pos few))))))
    · obtain ⟨e, he, effect⟩ := cmdLinkTrainingDone_measured hport enabled sound groups step sixteen
      exact ⟨e, he, port hport run effect⟩
  case packets =>
    intro pkt link
    refine ⟨fun up sub t2 t3 => ?_, fun up sub t1 t2 t3 t4 h2 h3 times => ⟨fun early few => ?_, fun late last => ?_⟩, fun sub step low => ?_,
      fun sub identified => ?_, fun sub identified => ⟨fun narrow => ?_, fun wide => ?_⟩⟩
    · exact onDev_of_eq run (cmdDelayRequest_answers hport link up sub t2 t3)
    · have effect := cmdDelayResponse_eq hport link up sub h2 h3 times (t1 := t1) (t4 := t4) rfl (by simp; omega)
      refine ⟨_, onDev_of_eq run (effect.trans (if_pos early)), ?_, ?_, s.dev.takePacket_regs p pkt⟩
      · rw [Dev.linkOf_setLink_same]
      · rw [Dev.linkOf_setLink_same]
        exact (LinkSt.hopDelay_of_standing (s.dev.takePacket_standing p p pkt) :)
    · have effect := cmdDelayResponse_eq hport link up sub h2 h3 times (t1 := t1) (t4 := t4) rfl (by simp; omega)
      refine ⟨_, onDev_of_eq run (effect.trans ((if_neg (by omega)).trans (if_pos (by simp [last])))), ?_, ?_⟩
      · rw [Dev.linkOf_congr (Dev.showDelay_spec ..).1, Dev.linkOf_setLink_same]
      · rw [Dev.linkOf_congr (Dev.showDelay_spec ..).1, Dev.linkOf_setLink_same, ← List.sum_eq_foldl]
    · exact ⟨_, onDev_of_eq run (cmdIdentity_identifies hport link sub step low), s.dev.identified_spec hport pkt⟩
    · obtain ⟨e, effect, kept⟩ := cmdCoordinate_judges hport link sub identified
      exact ⟨e, onDev_of_eq run effect, kept⟩
    · exact onDev_of_eq run ((cmdWidthChange_eq hport link sub identified).trans (if_pos narrow))
    · exact onDev_of_eq run ((cmdWidthChange_eq hport link sub identified).trans (if_neg (Nat.not_lt.2 wide)))
  case down =>
    exact fun d p hport => ⟨d.replayAll_out hport, d.replayAll_fab hport, d.portDown_state p, d.portDown_width p, d.portDown_link p⟩
  case peer => exact fun d p n hport expected => Dev.expectedPeer_coord hport expected

end Sys2Proof.Machine
end

section
/-!
Proofs, collective items at work (R546 to R548, R550, R554, R557, R562 to R564): what one packet of each command's stream does, and what a release
word, a stall and a gate word do; the statement of O50.
-/
namespace Sys2Proof.Machine

/-- The item of the run that a command finds. -/
theorem Dev.colRun_item {d : Dev} {id : Nat} {r : ColRun} (found : d.colRun id = some r) : r.item = id := by simpa using List.find?_some found

/-- One packet is at most one step. -/
theorem stepMany_one_fst_snd (f : Dev → Item → Dev × Item × Bool) (d : Dev) (it : Item) : stepMany f 1 d it = ((f d it).1, (f d it).2.1) := by
  simp only [stepMany]
  rcases f d it with ⟨e, x, again⟩
  cases again <;> rfl

/-- A collective command takes up its item's run and works on at most n packets. -/
theorem Dev.colRunN_of_work {s d : Dev} {op id : Nat} {it : Item} {r : ColRun} (work : s.colWork op id = some (d, it, r)) (found : d.colRun id = some r)
    (n : Nat) (f : Dev → Item → Dev × Item × Bool) : s.colRunN op id n f = (stepMany f n d it).1.setItem (stepMany f n d it).2 := by
  simp [Dev.colRunN, work, Dev.colRun_item found]

/-- The device and the item after a packet of an item's stream has left. -/
def Dev.packetLeft (d : Dev) (r : ColRun) (it : Item) : Dev × Item × Bool := (((d.setRun r).setItem it).sweep (.item it.id), it, true)

/-- The squares of a rank's contribution join those noted (R567). -/
def ColRun.noteLocal (r : ColRun) (e0 : Nat) (xs : List (Nat × Bool)) : ColRun :=
  { r with localSq := xs.zipIdx.foldl (fun m e => SMap.set (fun _ => 0) m (e0 + e.2) (sqF32 e.1.1)) r.localSq }

/-- A rank that is not the last and has a grant passes its own contribution on as the first partial (R547). -/
theorem Dev.reduceOne_begins {d d' : Dev} {it : Item} {r : ColRun} {i : Nat} {xs : List (Nat × Bool)} {b : Bool}
    (notLast : d.grpRank r.group + 1 ≠ d.grpSize r.group) (granted : i < r.granted.getD r.stage 0) (prompt : r.late = false)
    (own : d.contribution it r i = (d', some (xs, b))) :
    d.reduceOne it r i none = (d'.toNext r.group 0 i 4 (xs.flatMap (fun x => leBytes 4 x.1)),
      some ({ it with poison := it.poison || xs.any (·.2) }, r.noteLocal (packetElems it.desc i).1 xs)) := by
  simp only [Dev.reduceOne, notLast, decide_false, Bool.not_false, Bool.true_and, Nat.not_le.2 granted, if_false, own, prompt,
    Bool.false_eq_true, List.any_map, List.flatMap_map, Function.comp_def]
  simp [ColRun.noteLocal, prompt]

/-- Without a grant it waits (R550). -/
theorem Dev.reduceOne_of_no_grant {d : Dev} {it : Item} {r : ColRun} {i : Nat} (prev : Option (List Nat))
    (notLast : d.grpRank r.group + 1 ≠ d.grpSize r.group) (granted : r.granted.getD r.stage 0 ≤ i) : d.reduceOne it r i prev = (d, none) := by
  simp only [Dev.reduceOne, notLast, decide_false, Bool.not_false, Bool.true_and, decide_eq_true_eq, if_pos granted]

/-- A rank of the first group of a NORM2 that is not the last and has a grant begins the chain with its own vector (R564). -/
theorem Dev.normAdd_begins {d d' : Dev} {it : Item} {r : ColRun} {bs : List MByte} (notLast : d.grpRank r.group + 1 ≠ d.grpSize r.group)
    (stage : r.stage = 0) (granted : r.granted.getD r.stage 0 ≠ 0) (prompt : r.late = false)
    (read : d.localRead it (colIn it.desc) (colIn it.desc).base (4 * colCount it.desc) = (d', some bs)) :
    d.normAdd it r none = (d'.toNext r.group 4 0 4 ((numsOf 4 bs).flatMap (fun x => leBytes 4 x.1)),
      some ({ it with poison := it.poison || (numsOf 4 bs).any (·.2) }, { r with sent := 1 })) := by
  simp only [Dev.normAdd, notLast, decide_false, Bool.not_false, Bool.true_and, granted, Bool.false_eq_true, if_false, if_pos stage, Dev.normIn, read,
    prompt, Bool.false_and, List.any_map, List.flatMap_map, Function.comp_def]
  simp

section
variable {d d' : Dev} {it : Item} {r : ColRun} (found : d.colRun it.id = some r)
include found

/-- Rank 0 begins the chain with its contribution to the next packet (R547). -/
theorem reduceStep_sends {xs : List (Nat × Bool)} {b : Bool} (first : d.grpRank r.group = 0) (others : 1 < d.grpSize r.group)
    (left : r.sent < colPackets it.desc) (granted : r.sent < r.granted.getD r.stage 0) (prompt : r.late = false)
    (own : d.contribution it r r.sent = (d', some (xs, b))) :
    reduceStep d it = (d'.toNext r.group 0 r.sent 4 (xs.flatMap (fun x => leBytes 4 x.1))).packetLeft
      { r.noteLocal (packetElems it.desc r.sent).1 xs with sent := r.sent + 1 } { it with poison := it.poison || xs.any (·.2) } := by
  have notDone : ¬(d.grpRank r.group ≠ 0 ∨ colPackets it.desc ≤ r.sent) := by omega
  have notLast : d.grpRank r.group + 1 ≠ d.grpSize r.group := by omega
  simp only [reduceStep, found, if_neg notDone, Dev.reduceOne_begins notLast granted prompt own]
  rfl

/-- Without a grant rank 0 sends nothing (R550). -/
theorem reduceStep_of_no_grant (others : 1 < d.grpSize r.group) (first : d.grpRank r.group = 0) (granted : r.granted.getD r.stage 0 ≤ r.sent) :
    reduceStep d it = (d, it, false) := by
  have notLast : d.grpRank r.group + 1 ≠ d.grpSize r.group := by omega
  simp only [reduceStep, found, Dev.reduceOne_of_no_grant none notLast granted, ite_self]

/-- Without a grant KV_PASS sends nothing (R550). -/
theorem kvStep_of_no_grant (granted : r.granted.getD 0 0 ≤ r.sent) : kvStep d it = (d, it, false) := by
  simp only [kvStep, found]
  split
  · rfl
  · rw [if_pos (.inr granted)]

/-- ALL_GATHER keeps the next packet of its chunk and streams it along NEXT (R548). -/
theorem gatherColStep_sends {d1 d2 : Dev} {bs : List MByte} {lost : Bool} {lo i e0 n w : Nat}
    (hlo : lo = chunkLo it.desc (d.grpSize r.group) (d.grpRank r.group)) (hi : i = lo / colPer it.desc + r.sent)
    (he : packetElems it.desc i = (e0, n)) (hw : w = colSize (colInFmt it.desc))
    (inside : e0 < chunkHi it.desc (d.grpSize r.group) (d.grpRank r.group)) (some' : lo ≠ chunkHi it.desc (d.grpSize r.group) (d.grpRank r.group))
    (others : 1 < d.grpSize r.group) (granted : i < r.granted.getD 0 0)
    (read : d.localRead it (colIn it.desc) ((colIn it.desc).base + (e0 - lo) * w) (n * w) = (d1, some bs))
    (kept : d1.localWrite it (colOut it.desc) ((colOut it.desc).base + e0 * w) bs = (d2, some lost)) :
    gatherColStep d it = ((((d2.setRun { r with sent := r.sent + 1, written := r.written + n }).toNext r.group 1 i 0 (bs.map (·.b))).setItem
      { it with poison := it.poison || lost || bs.any (·.p) }).sweep (.item it.id), { it with poison := it.poison || lost || bs.any (·.p) }, true) := by
  subst hlo hi hw
  have more : ¬(chunkHi it.desc (d.grpSize r.group) (d.grpRank r.group) ≤ e0 ∨ chunkLo it.desc (d.grpSize r.group) (d.grpRank r.group) =
      chunkHi it.desc (d.grpSize r.group) (d.grpRank r.group) ∨ (1 < d.grpSize r.group ∧ r.granted.getD 0 0 ≤
        chunkLo it.desc (d.grpSize r.group) (d.grpRank r.group) / colPer it.desc + r.sent)) := by omega
  simp only [gatherColStep, found, he, if_neg more, read, kept, if_pos others]

/-- KV_PASS sends the next packet of its step's block (R562, R563). -/
theorem kvStep_sends {bs : List MByte} {b : Ref} (hb : b = kvBuf it.desc (r.sent / kvPer it.desc)) (some' : kvPer it.desc ≠ 0)
    (left : r.sent < d.kvSteps it * kvPer it.desc) (arrived : r.sent / kvPer it.desc ≤ r.written) (granted : r.sent < r.granted.getD 0 0)
    (read : d.localRead it b (b.base + 256 * (r.sent % kvPer it.desc)) (min 256 (colCount it.desc - 256 * (r.sent % kvPer it.desc))) = (d', some bs)) :
    kvStep d it = ((((d'.setRun { r with sent := r.sent + 1 }).toNext r.group 3 r.sent 0 (bs.map (·.b))).setItem
      { it with poison := it.poison || bs.any (·.p) }).sweep (.item it.id), { it with poison := it.poison || bs.any (·.p) }, true) := by
  subst hb
  have more : ¬(kvPer it.desc = 0 ∨ d.kvSteps it * kvPer it.desc ≤ r.sent) := by omega
  have free : ¬((2 ≤ r.sent / kvPer it.desc + 1 ∧ r.written < r.sent / kvPer it.desc) ∨ r.granted.getD 0 0 ≤ r.sent) := by omega
  simp only [kvStep, found, if_neg more, Nat.add_sub_cancel, if_neg free, read]

/-- A rank 0 of NORM2 sends its vector (R564). -/
theorem normStep_sends {bs : List MByte} (stage : r.stage = 0) (groups : 0 < r.groups.length) (some' : colCount it.desc ≠ 0)
    (first : d.grpRank r.group = 0) (unsent : r.sent = 0) (others : 1 < d.grpSize r.group) (granted : 0 < r.granted.getD 0 0) (prompt : r.late = false)
    (read : d.localRead it (colIn it.desc) (colIn it.desc).base (4 * colCount it.desc) = (d', some bs)) :
    normStep d it = (d'.toNext r.group 4 0 4 ((numsOf 4 bs).flatMap (fun x => leBytes 4 x.1))).packetLeft { r with sent := 1 }
      { it with poison := it.poison || (numsOf 4 bs).any (·.2) } := by
  have more : ¬(r.groups.length ≤ r.stage ∨ colCount it.desc = 0 ∨ d.grpRank r.group ≠ 0 ∨ r.sent ≠ 0) := by omega
  have notLast : d.grpRank r.group + 1 ≠ d.grpSize r.group := by omega
  have allowed : r.granted.getD r.stage 0 ≠ 0 := by rw [stage]; omega
  simp only [normStep, found, if_neg more, Dev.normAdd_begins notLast stage allowed prompt read]
  rfl

end

/-! ### Release words, stalls and gates -/

section
variable {d : Dev} {item : Nat} {it : Item}

/-- The run after its RELEASE word was read (R563). -/
def ColRun.released (r : ColRun) (bs : List MByte) : ColRun :=
  if bs.any (·.p) || !doorbellOk (leNat (bs.map (·.b))) then r else { r with release := leNat (bs.map (·.b)) % 2 ^ 32 }

theorem cmdKvReleasePoll_reads {e : Dev} {r : ColRun} {bs : List MByte} (found : d.item item = some it) (run : d.colRun item = some r)
    (kv : it.desc.opcode = 0x76) (read : d.vread it.part (.item item) (extWord it.ext 4 % 2 ^ 52) 8 = (e, .ok bs)) :
    cmdKvReleasePoll item d = (((e.sweep (.item item)).grantAll it (r.released bs)).1.setRun ((e.sweep (.item item)).grantAll it (r.released bs)).2) := by
  simp only [cmdKvReleasePoll, found, run, kv, ne_eq, not_true, if_false, read, plain]
  rfl

/-- An item without a packet for STALL_TURNS Turns ends with an error (R554). -/
theorem cmdCollectiveStall_ends {r : ColRun} (found : d.item item = some it) (run : d.colRun item = some r) (runs : it.place = .running)
    (quiet : max 1 (d.rf F.COL_CTRL_STALL_TURNS) ≤ r.quiet) :
    cmdCollectiveStall item d = ((d.postError
      { cls := 1, source := 0x09, event := 0x01, inst := r.group, parts := 2 ^ it.part, tag := it.desc.tag, ring := it.ring }).bump
        F.COL_EVENTS_TIMEOUTS 1).endCol it 0x31 := by
  simp only [cmdCollectiveStall, found, run, if_pos (And.intro runs quiet)]

theorem cmdCollectiveStall_waits {r : ColRun} (found : d.item item = some it) (run : d.colRun item = some r)
    (heard : r.quiet < max 1 (d.rf F.COL_CTRL_STALL_TURNS)) : cmdCollectiveStall item d = d := by
  have notQuiet : ¬(it.place = .running ∧ max 1 (d.rf F.COL_CTRL_STALL_TURNS) ≤ r.quiet) := by omega
  simp only [cmdCollectiveStall, found, run, if_neg notQuiet]

/-- A gate word that meets the count of its item (R557). -/
abbrev gateMeets (it : Item) (w : Nat) : Prop := doorbellOk w ∧ (w % 2 ^ 32 + 2 ^ 32 - extWord it.ext 2 % 2 ^ 32) % 2 ^ 32 < 2 ^ 31

variable (found : d.item item = some it) (engine : it.engine = .collective) (queued : it.place = .queued) (collective : 0x73 ≤ it.desc.opcode)
  (gated : colGate it.ext ≠ 0)
include found engine queued collective gated

theorem cmdGateWord_of_poison (w : Nat) :
    cmdGateWord item w true d = (((d.unfollow (colGate it.ext / 64)).dropRun item).finishItem { it with poison := true }) := by
  simp [cmdGateWord, found, engine, queued, collective, gated]

/-- A word that meets the gate opens it. -/
theorem cmdGateWord_of_met {w : Nat} (met : gateMeets it w) :
    ∃ e, cmdGateWord item w false d = e ∧ e.gateMet it = true ∧ e.mem = d.mem ∧ e.ctl = d.ctl := by
  have waits : ¬(it.engine ≠ .collective ∨ it.place ≠ .queued ∨ it.desc.opcode < 0x73 ∨ colGate it.ext = 0) := by
    simp [engine, queued, gated, collective]
  simp only [cmdGateWord, found, if_neg waits, Bool.false_eq_true, if_false, if_pos met]
  refine ⟨_, rfl, ?_, rfl, rfl⟩
  simp only [Dev.gateMet, Dev.id_of_item found]
  split <;> simp_all

theorem cmdGateWord_of_unmet {w : Nat} (unmet : ¬gateMeets it w) :
    cmdGateWord item w false d = { d with col := { d.col with gatesMet := d.col.gatesMet.erase item } } := by
  have waits : ¬(it.engine ≠ .collective ∨ it.place ≠ .queued ∨ it.desc.opcode < 0x73 ∨ colGate it.ext = 0) := by
    simp [engine, queued, gated, collective]
  simp only [cmdGateWord, found, if_neg waits, Bool.false_eq_true, if_false, if_neg unmet]

end

/-- Settles O50: each command's stream sends one packet as its step lemma says, and the release word, the stall and the gate word are lemmas of their
own. -/
theorem collectiveOperations : Obligations.CollectiveOperations := by
  unfold Obligations.CollectiveOperations
  refine fun s item run => ⟨?streams, ?release, ?gate⟩
  case streams =>
    intro k op d it r hk work found hid c g G rank left
    subst hid
    have runs (n : Nat) : ∃ f, exec (k it.id n) s = .next (s.after ((stepMany f n d it).1.setItem (stepMany f n d it).2))
        ∧ (op = 0x73 ∨ op = 0x75 → f = reduceStep) ∧ (op = 0x74 → f = gatherColStep) ∧ (op = 0x76 → f = kvStep) ∧ (op = 0x77 → f = normStep) := by
      simp only [List.mem_cons, List.not_mem_nil, or_false, Prod.mk.injEq] at hk
      obtain ⟨rfl, rfl⟩ | ⟨rfl, rfl⟩ | ⟨rfl, rfl⟩ | ⟨rfl, rfl⟩ | ⟨rfl, rfl⟩ := hk <;>
        exact ⟨_, onDev_of_eq run (Dev.colRunN_of_work work found n _), by simp⟩
    obtain ⟨f0, zero, -⟩ := runs 0
    obtain ⟨f, one, reduces, gathers, passes, norms⟩ := runs 1
    rw [stepMany_one_fst_snd] at one
    refine ⟨zero, ?_, ?_, ?_, ?_, ?_⟩
    · intro op first others more granted prompt d' xs b own
      rw [one, reduces op, reduceStep_sends found first others more granted prompt own]
      exact ⟨_, _, rfl, rfl, rfl, rfl, rfl, rfl, rfl⟩
    · intro work granted stage others first
      obtain reduce | kv : (op = 0x73 ∨ op = 0x75) ∨ op = 0x76 := by omega
      · rw [one, reduces reduce, reduceStep_of_no_grant found (others.resolve_left (by omega)) (first (by omega)) granted]
      · rw [one, passes kv, kvStep_of_no_grant found (stage ▸ granted)]
    · intro gather lo i e0 n w inside some' others granted d1 bs d2 lost read kept
      rw [one, gathers gather, gatherColStep_sends found rfl rfl rfl rfl inside some' others granted read kept]
      rfl
    · intro kv per b i some' left arrived granted d1 bs read it'
      rw [one, passes kv, kvStep_sends found rfl some' left arrived granted read]
    · intro norm stage groups some' first unsent others granted prompt d' bs read xs it'
      rw [one, norms norm, normStep_sends found stage groups some' first unsent others granted prompt read]
      rfl
  case release =>
    refine fun it r found held => ⟨?_, fun runs quiet => onDev_of_eq run (cmdCollectiveStall_ends found held runs quiet),
      fun heard => onDev_of_eq run (cmdCollectiveStall_waits found held heard)⟩
    intro kv d bs read v r' g
    exact onDev_of_eq run (cmdKvReleasePoll_reads found held kv read)
  case gate =>
    intro it w found engine queued collective gated met
    have meets : met = true ↔ gateMeets it w := by simp [met, gateMeets, doorbellOk]
    refine ⟨onDev_of_eq run (cmdGateWord_of_poison found engine queued collective gated w), fun opens => ?_, fun shut => ?_⟩
    · obtain ⟨e, effect, kept⟩ := cmdGateWord_of_met found engine queued collective gated (meets.1 opens)
      exact ⟨e, onDev_of_eq run effect, (Dev.id_of_item found ▸ kept : _)⟩
    · exact onDev_of_eq run (cmdGateWord_of_unmet found engine queued collective gated fun opens => by simp [meets.2 opens] at shut)

end Sys2Proof.Machine
end

section
/-!
Proofs, packets of a collective (R547, R548, R550, R553, R562 to R565): what the checks of R553 drop and count, what each packet of a running item
does, and the addition of FP32; the statement of O51.
-/
namespace Sys2Proof.Machine

/-! ### The checks of R553 -/

section
variable {d : Dev} {port sub : Nat} {p : Packet} {nx : Bool} {ok : Item → ColRun → Bool} {f : Dev → Item → ColRun → Option Dev} (hport : port < 6)
  (running : d.portRunning port = true) (mine : d.forMe p = true) (hk : p.kind = 0xC) (hsub : p.sub = sub)
include hport running mine hk hsub

/-- A packet of its own kind for this module is not passed over. -/
theorem Dev.colArrives : (!d.arrives port 0xC p || decide (p.sub ≠ sub) || !d.forMe p) = false := by
  have reaches := Dev.reaches hport running mine hk
  simp_all

theorem Dev.colArrive_dropped (head : d.colHead p = some false) :
    d.colArrive port sub p nx ok f = (d.takePacket port p).bump F.COL_EVENTS_DROP 1 := by
  simp only [Dev.colArrive, Dev.colArrives hport running mine hk hsub, Bool.false_eq_true, if_false, Dev.colJudge, head]

theorem Dev.colArrive_stale (head : d.colHead p = some true) :
    d.colArrive port sub p nx ok f = (d.takePacket port p).bump F.COL_EVENTS_STALE 1 := by
  simp only [Dev.colArrive, Dev.colArrives hport running mine hk hsub, Bool.false_eq_true, if_false, Dev.colJudge, head]

/-- A packet from another node than the neighbour of its direction is dropped. -/
theorem Dev.colArrive_stranger (head : d.colHead p = none) (src : p.src ≠ (if nx then d.grpNext (colGrp p) else d.grpPrev (colGrp p))) :
    d.colArrive port sub p nx ok f = (d.takePacket port p).bump F.COL_EVENTS_DROP 1 := by
  simp only [Dev.colArrive, Dev.colArrives hport running mine hk hsub, Bool.false_eq_true, if_false, Dev.colJudge, head, if_pos (Or.inl src)]

/-- A packet that passes the checks is handled by its command. -/
theorem Dev.colArrive_handled {r : ColRun} {it : Item} {e : Dev} (head : d.colHead p = none) (seq : p.addr / 2 ^ 8 % 256 = d.opseq (p.addr % 256) % 256)
    (run : d.col.runs.find? (fun r => r.groups.contains (p.addr % 256)) = some r) (item : d.item r.item = some it)
    (src : p.src = (if nx then d.grpNext (p.addr % 256) else d.grpPrev (p.addr % 256))) (passes : ok it r = true)
    (handled : f ((d.takePacket port p).setRun { r with heard := true }) it { r with heard := true } = some e) : d.colArrive port sub p nx ok f = e := by
  have known : ¬(p.src ≠ (if nx then d.grpNext (p.addr % 256) else d.grpPrev (p.addr % 256)) ∨ p.addr / 2 ^ 8 % 256 ≠ d.opseq (p.addr % 256) % 256) :=
    fun bad => bad.elim (· src) (· seq)
  simp only [Dev.colArrive, Dev.colArrives hport running mine hk hsub, Bool.false_eq_true, if_false, Dev.colJudge, colGrp, head, if_neg known, run, item,
    passes, if_true, handled]

end

/-! ### Packets of a running item -/

/-- A packet of group g that passes the checks of R553 for a running item, before its direction and its own check. -/
structure Dev.ColReaches (d : Dev) (port : Nat) (p : Packet) (r : ColRun) (it : Item) : Prop where
  inRange : port < 6
  running : d.portRunning port = true
  mine : d.forMe p = true
  kind : p.kind = 0xC
  head : d.colHead p = none
  seq : p.addr / 2 ^ 8 % 256 = d.opseq (p.addr % 256) % 256
  run : d.col.runs.find? (fun r => r.groups.contains (p.addr % 256)) = some r
  item : d.item r.item = some it

/-- The numbers of a payload, w bytes each. -/
abbrev Packet.words (p : Packet) (w : Nat) : List Nat := (chunks w p.payload.length p.payload).map leNat

/-- The run that a packet was heard for. -/
abbrev ColRun.hears (r : ColRun) : ColRun := { r with heard := true }

theorem decide_and_or_iff {a b c : Prop} [Decidable a] [Decidable b] [Decidable c] : (decide a && (decide b || decide c)) = true ↔ a ∧ (b ∨ c) := by
  simp only [Bool.and_eq_true, Bool.or_eq_true, decide_eq_true_eq]

section
variable {d : Dev} {port : Nat} {p : Packet} {r : ColRun} {it : Item} (h : d.ColReaches port p r it)
include h

/-- A packet of the direction and the check of its command is handled. -/
theorem Dev.ColReaches.handled {sub : Nat} {nx : Bool} {ok : Item → ColRun → Bool} {f : Dev → Item → ColRun → Option Dev} {e : Dev} (hsub : p.sub = sub)
    (src : p.src = (if nx then d.grpNext (p.addr % 256) else d.grpPrev (p.addr % 256))) (passes : ok it r = true)
    (handled : f ((d.takePacket port p).setRun r.hears) it r.hears = some e) : d.colArrive port sub p nx ok f = e :=
  Dev.colArrive_handled h.inRange h.running h.mine h.kind hsub h.head h.seq h.run h.item src passes handled

/-- A grant widens what may be sent toward NEXT (R550). -/
theorem cmdGrant_widens (hsub : p.sub = 2) (src : p.src = d.grpNext (p.addr % 256)) {k : Nat}
    (hk : k = (r.groups.findIdx? (fun x => decide (x = p.addr % 256))).getD 0) :
    cmdGrant port p d = ((d.takePacket port p).setRun r.hears).setRun
      { r.hears with granted := r.granted.set k (max (r.granted.getD k 0) (p.addr / 2 ^ 16 % 2 ^ 36 + 1)) } := by
  subst hk
  exact h.handled hsub src rfl rfl

/-- A partial in order gains this rank's contribution and goes on, and PREV may be granted more (R547, R550). -/
theorem cmdReducePartial_adds (hsub : p.sub = 0) (src : p.src = d.grpPrev (p.addr % 256)) (reduces : it.desc.opcode = 0x73 ∨ it.desc.opcode = 0x75)
    {i : Nat} (hi : i = p.addr / 2 ^ 16 % 2 ^ 36) (next : i = r.got) (granted : i < r.gave.getD 0 0) {d' : Dev} {it' : Item} {r' : ColRun}
    (added : ((d.takePacket port p).setRun r.hears).reduceOne it r.hears i (some (p.words 4)) = (d', some (it', r'))) :
    cmdReducePartial port p d = ((((d'.setItem it').grantAll it' { r' with got := r'.got + 1 }).1.setRun
      ((d'.setItem it').grantAll it' { r' with got := r'.got + 1 }).2).sweep (.item it'.id)) := by
  subst hi
  refine h.handled hsub src ?_ (by simp only [colIndex, added])
  rw [Bool.and_eq_true, Bool.and_eq_true]
  exact ⟨⟨decide_eq_true reduces, decide_eq_true next⟩, decide_eq_true granted⟩

/-- A gathered packet is kept and passed on (R548). -/
theorem cmdDeliveredResult_gathers (hsub : p.sub = 1) (gathering : d.gathering (p.addr % 256) = true) (src : p.src = d.grpPrev (p.addr % 256))
    (gathers : it.desc.opcode = 0x74) {i : Nat} (hi : i = p.addr / 2 ^ 16 % 2 ^ 36) (new : r.delivered.contains i = false)
    (granted : i < r.gave.getD 0 0) {e : Dev} (arrived : ((d.takePacket port p).setRun r.hears).gatherArrive it r.hears i p.payload = some e) :
    cmdDeliveredResult port p d = e := by
  subst hi
  simp only [cmdDeliveredResult, colGrp, gathering, if_true]
  refine h.handled hsub src ?_ arrived
  simp only [colIndex, gathers, new, granted, decide_true, Bool.not_false, Bool.and_self]

/-- A delivered result is kept where it belongs and passed on along PREV (R548). -/
theorem cmdDeliveredResult_keeps (hsub : p.sub = 1) (gathering : d.gathering (p.addr % 256) = false) (src : p.src = d.grpNext (p.addr % 256))
    (reduces : it.desc.opcode = 0x73 ∨ it.desc.opcode = 0x75) {i : Nat} (hi : i = p.addr / 2 ^ 16 % 2 ^ 36) (new : r.delivered.contains i = false)
    (inStream : i < colPackets it.desc) {d1 d' e : Dev} {it' : Item} {r' : ColRun} (hd : d1 = (d.takePacket port p).setRun r.hears)
    (kept : d1.resultWrite it { r.hears with delivered := r.delivered ++ [i] } i (p.words (colSize (colOutFmt it.desc))) = (d', some (it', r')))
    (he : e = (d'.setRun r').setItem it') {owner : Nat} (howner : owner = (packetElems it.desc i).1 / max 1 (colChunk it.desc (d1.grpSize r.group))) :
    cmdDeliveredResult port p d = ((if 0 < d1.grpRank r.group ∧ (it.desc.opcode = 0x75 ∨ owner < d1.grpRank r.group) then
      e.toPrev r.group 1 i 0 p.payload else e).sweep (.item it'.id)) := by
  subst hi hd he howner
  simp only [cmdDeliveredResult, colGrp, gathering, Bool.false_eq_true, if_false]
  refine h.handled hsub src ?_ ?_
  · simp only [colIndex, reduces, new, inStream, decide_true, Bool.not_false, Bool.and_self]
  · simp only [colIndex, kept]
    exact congrArg (fun e : Dev => some (e.sweep (.item it'.id))) (if_congr decide_and_or_iff rfl rfl)

/-- A packet inside a KV block is kept, and PREV may be granted more (R562, R563). -/
theorem cmdKvBlock_keeps (hsub : p.sub = 3) (src : p.src = d.grpPrev (p.addr % 256)) (kv : it.desc.opcode = 0x76) {i : Nat}
    (hi : i = p.addr / 2 ^ 16 % 2 ^ 36) (next : i = r.got) (granted : i < r.gave.getD 0 0) {b : Ref} (hb : b = kvBuf it.desc (i / kvPer it.desc + 1))
    (inside : i % kvPer it.desc + 1 ≠ kvPer it.desc) {d' e : Dev} {lost : Bool} {it' : Item} {r' : ColRun}
    (kept : ((d.takePacket port p).setRun r.hears).localWrite it b (b.base + 256 * (i % kvPer it.desc)) (p.payload.map (fun x => { b := x })) =
      (d', some lost)) (hit : it' = { it with poison := it.poison || lost })
    (grants : (d'.setItem it').grantAll it' { r.hears with got := r.got + 1 } = (e, r')) :
    cmdKvBlock port p d = (e.setRun r').sweep (.item it.id) := by
  subst hi hb hit
  refine h.handled hsub src ?_ ?_
  · simp only [colIndex, kv, next.symm, granted, decide_true, Bool.and_self]
  · simp only [colIndex, kept, inside, decide_false, Bool.false_eq_true, if_false, Bool.or_false]
    rw [grants]

/-- A NORM2 partial of the current group gains this rank's part (R564). -/
theorem cmdNorm2Partial_adds (hsub : p.sub = 4) (src : p.src = d.grpPrev (p.addr % 256)) (norm : it.desc.opcode = 0x77)
    (index : p.addr / 2 ^ 16 % 2 ^ 36 = 0) (current : r.group = p.addr % 256) (first : r.got = 0) {d' : Dev} {it' : Item} {r' : ColRun}
    (added : ((d.takePacket port p).setRun r.hears).normAdd it { r.hears with got := 1 } (some (p.words 4)) = (d', some (it', r'))) :
    cmdNorm2Partial port p d = (((d'.setRun r').setItem it').sweep (.item it'.id)) := by
  have here : ¬(r.hears.group ≠ colGrp p ∨ r.hears.got ≠ 0) := fun bad => bad.elim (· current) (· first)
  refine h.handled hsub src ?_ ?_
  · simp only [colIndex, norm, index, decide_true, Bool.and_self]
  · simp only [if_neg here, added]

/-- A NORM2 result is passed on, and the next group begins or the sums are written (R564, R565). -/
theorem cmdNorm2Result_passes (hsub : p.sub = 5) (src : p.src = d.grpNext (p.addr % 256)) (norm : it.desc.opcode = 0x77)
    (current : r.group = p.addr % 256) (sent : r.sent = 1) {d1 d' e : Dev} {it' : Item} {r' : ColRun} (hd : d1 = (d.takePacket port p).setRun r.hears)
    (result : d1.normResult it r.hears (p.words 4) = (d', some (it', r'))) (he : e = (d'.setRun r').setItem it') :
    cmdNorm2Result port p d = ((if 0 < d1.grpRank r.group then e.toPrev r.group 5 0 0 p.payload else e).sweep (.item it'.id)) := by
  subst hd he
  refine h.handled hsub src ?_ ?_
  · simp only [colGrp, norm, current, sent, decide_true, Bool.and_self]
  · simp only [result]
    rfl

end

/-! ### A partial, and the addition of FP32 -/

/-- A rank that is not the last and has a grant adds its contribution and passes the partial on (R547). -/
theorem Dev.reduceOne_adds {d d' : Dev} {it : Item} {r : ColRun} {i : Nat} {xs : List (Nat × Bool)} {b : Bool} (ps : List Nat)
    (notLast : d.grpRank r.group + 1 ≠ d.grpSize r.group) (granted : i < r.granted.getD r.stage 0) (prompt : r.late = false)
    (own : d.contribution it r i = (d', some (xs, b))) {sums : List (Nat × Bool × Bool)} (hsums : sums = (xs.zip ps).map (fun e => addF32 e.2 e.1.1))
    {e : Dev} (he : e = match d'.firstHop (d'.grpNext r.group) with
      | some n => d'.event (34 + n) 0x706 (some it.part) 0 1
      | none => d') :
    d.reduceOne it r i (some ps) = (e.toNext r.group 0 i 4 (sums.flatMap (fun x => leBytes 4 x.1)),
      some ({ it with sat := it.sat || sums.any (·.2.1), nan := it.nan || sums.any (·.2.2), poison := it.poison || xs.any (·.2) },
        r.noteLocal (packetElems it.desc i).1 xs)) := by
  subst hsums he
  simp only [Dev.reduceOne, notLast, decide_false, Bool.not_false, Bool.true_and, Nat.not_le.2 granted, if_false, own, prompt, Bool.false_eq_true]
  cases d'.firstHop (d'.grpNext r.group) <;> simp only [ColRun.noteLocal, prompt]

/-- The exact sum does not depend on the order of its operands. -/
theorem Num.add_comm (rdn : Bool) (x y : Num) : x.add rdn y = y.add rdn x := by
  cases x <;> cases y <;> simp only [Num.add]
  case inf.inf a b => cases a <;> cases b <;> rfl
  case zero.zero a b => cases a <;> cases b <;> rfl
  case fin.fin a m e b n f => rw [min_comm, Int.add_comm (signedOf a _)]

/-- Settles O51: a packet is dropped, counted or handled by the lemma of its command. -/
theorem collectivePackets : Obligations.CollectivePackets := by
  unfold Obligations.CollectivePackets
  refine ⟨fun s port p run hport running mine hk => ⟨?checks, ?handled⟩, ?partial', ?add⟩
  case checks =>
    intro k sub nx command hsub
    have arrives : ∃ ok f, exec (k port p) s = .next (s.after (s.dev.colArrive port sub p nx ok f)) := by
      simp only [List.mem_cons, List.not_mem_nil, or_false, Prod.mk.injEq] at command
      obtain ⟨rfl, rfl, rfl⟩ | ⟨rfl, rfl, rfl⟩ | ⟨rfl, rfl, rfl⟩ | ⟨rfl, rfl, rfl⟩ | ⟨rfl, rfl, rfl⟩ | ⟨rfl, rfl, rfl⟩ := command
      case inr.inl =>
        cases gathering : s.dev.gathering (p.addr % 256)
        · exact ⟨_, _, onDev_of_eq run (if_neg (Bool.not_eq_true _ ▸ gathering))⟩
        · exact ⟨_, _, onDev_of_eq run (if_pos gathering)⟩
      all_goals exact ⟨_, _, onDev_of_eq run rfl⟩
    obtain ⟨ok, f, judged⟩ := arrives
    rw [judged]
    exact ⟨fun head => by rw [Dev.colArrive_dropped hport running mine hk hsub head],
      fun head => by rw [Dev.colArrive_stale hport running mine hk hsub head],
      fun head src => by rw [Dev.colArrive_stranger hport running mine hk hsub head src]⟩
  case handled =>
    intro r0 it head seq found item r d words
    have h : s.dev.ColReaches port p r0 it := ⟨hport, running, mine, hk, head, seq, found, item⟩
    refine ⟨?_, ?_, ?_, ?_, ?_, ?_, ?_⟩
    · intro hsub src k
      exact onDev_of_eq run (cmdGrant_widens h hsub src rfl)
    · intro hsub src op next gave d' it' r' added x
      exact onDev_of_eq run (cmdReducePartial_adds h hsub src op rfl next gave added)
    · intro hsub gathering src op new gave e arrived
      exact onDev_of_eq run (cmdDeliveredResult_gathers h hsub gathering src op rfl new gave arrived)
    · intro hsub gathering src op new inStream d' it' r' kept e rank owner
      exact onDev_of_eq run (cmdDeliveredResult_keeps h hsub gathering src op rfl new inStream rfl kept rfl rfl)
    · intro hsub src op next gave per b inside d' lost kept it' x
      exact onDev_of_eq run (cmdKvBlock_keeps h hsub src op rfl next gave rfl inside kept rfl rfl)
    · intro hsub src op index current first d' it' r' added
      exact onDev_of_eq run (cmdNorm2Partial_adds h hsub src op index current first added)
    · intro hsub src op current sent d' it' r' result e
      exact onDev_of_eq run (cmdNorm2Result_passes h hsub src op current sent rfl result rfl)
  case partial' =>
    intro d it r i ps d' xs b notLast granted prompt own sums
    exact ⟨_, _, _, Dev.reduceOne_adds ps notLast granted prompt own rfl rfl, rfl, rfl, rfl, rfl, rfl, rfl⟩
  case add => exact fun a b _ _ => by simp only [addF32, Num.add_comm]

end Sys2Proof.Machine
end

section
/-!
Proofs, traffic of the Companion Link (R642 to R647): what taking and sending a packet leaves of the module, the checks of R658 that a command makes
first, and the reads the module sends.
-/
namespace Sys2Proof.Machine

/-! ### What a packet leaves as it is -/

/-- `e` is `d` after packets of the Companion Link were taken and sent: the companion's lines and requests are as they were. -/
structure Dev.mails (d e : Dev) : Prop where
  sends : d.sends e
  cpl : e.cpl = d.cpl

theorem Dev.mails_refl (d : Dev) : d.mails d := ⟨d.sends_refl, rfl⟩

theorem Dev.mails.trans {a b c : Dev} (hab : a.mails b) (hbc : b.mails c) : a.mails c := ⟨hab.sends.trans hbc.sends, hbc.cpl.trans hab.cpl⟩

theorem Dev.mails_ite {d a b : Dev} {c : Prop} [Decidable c] (ha : d.mails a) (hb : d.mails b) : d.mails (if c then a else b) := by
  split
  · exact ha
  · exact hb

theorem Dev.mails_event (d : Dev) {b : Nat} (hb : b < 42) (ev : Nat) (part : Option Nat) (inst n : Nat) : d.mails (d.event b ev part inst n) :=
  ⟨d.sends_event hb ev part inst n, d.event_cpl ..⟩

theorem Dev.sendFlit_cpl (d : Dev) (port : Nat) : (d.sendFlit port).cpl = d.cpl := by
  unfold Dev.sendFlit
  dsimp only
  split
  · rfl
  · split
    · rfl
    · split
      · rfl
      · split <;> exact Dev.event_cpl ..

theorem Dev.mails_sendCpl (d : Dev) (p : CplPacket) : d.mails (d.sendCpl p) :=
  ⟨d.sends_sendCpl p, (foldl_keep (fun e : Dev => e.cpl) _ (fun e _ => e.sendFlit_cpl 6) _ _).trans rfl⟩

theorem Dev.takeCpl_keeps (d : Dev) (p : CplPacket) :
    (d.takeCpl p).regs = d.regs ∧ (d.takeCpl p).cpl = d.cpl ∧ (d.takeCpl p).mem = d.mem ∧ (d.takeCpl p).ctl = d.ctl := by
  unfold Dev.takeCpl
  dsimp only
  split
  · unfold Dev.returnCredits
    dsimp only
    split <;> exact ⟨rfl, rfl, rfl, rfl⟩
  · exact ⟨rfl, rfl, rfl, rfl⟩

theorem Dev.takeCpl_regs (d : Dev) (p : CplPacket) : (d.takeCpl p).regs = d.regs := (d.takeCpl_keeps p).1
theorem Dev.takeCpl_cpl (d : Dev) (p : CplPacket) : (d.takeCpl p).cpl = d.cpl := (d.takeCpl_keeps p).2.1
theorem Dev.takeCpl_mem (d : Dev) (p : CplPacket) : (d.takeCpl p).mem = d.mem := (d.takeCpl_keeps p).2.2.1
theorem Dev.takeCpl_ctl (d : Dev) (p : CplPacket) : (d.takeCpl p).ctl = d.ctl := (d.takeCpl_keeps p).2.2.2
theorem Dev.takeCpl_rf (d : Dev) (p : CplPacket) (f : Fld) : (d.takeCpl p).rf f = d.rf f := Dev.rf_congr (d.takeCpl_regs p) f

theorem Dev.mails_takeCpl (d : Dev) (p : CplPacket) : d.mails (d.takeCpl p) := by
  refine ⟨?_, d.takeCpl_cpl p⟩
  unfold Dev.takeCpl
  dsimp only
  split
  · unfold Dev.returnCredits
    dsimp only
    exact (d.sends_setLink 6 _).trans (Dev.sends_ite (Dev.sends_refl _) ((Dev.sends_setLink _ _ _).trans (Dev.sends_emit _ rfl)))
  · exact d.sends_refl

/-- What has left the module stays left. -/
theorem Dev.sends.left {d e : Dev} (h : d.sends e) {o : Out} (ho : o ∈ d.out) : o ∈ e.out := by
  obtain ⟨os, out, -⟩ := h.out
  exact out ▸ List.mem_append_left os ho

/-- A packet that is sent has left the module. -/
theorem Dev.sendCpl_left (d : Dev) (p : CplPacket) : Out.link p ∈ (d.sendCpl p).out :=
  (Dev.sends_transmit _ (by decide) _ _).left (List.mem_append_right d.out (List.mem_singleton.2 rfl))

/-! ### What the companion's lines and requests say -/

section
variable {d e : Dev} (h : e.cpl = d.cpl)
include h

theorem Dev.cplLine_congr (n : Nat) : e.cplLine n = d.cplLine n := by rw [Dev.cplLine, h, Dev.cplLine]
theorem Dev.pinnedLine_congr (n : Nat) : e.pinnedLine n = d.pinnedLine n := by rw [Dev.pinnedLine, h, Dev.pinnedLine]
theorem Dev.cplNamed_congr (p : CplPacket) : e.cplNamed p = d.cplNamed p := by rw [Dev.cplNamed, h, Dev.cplNamed]

end

/-- The registers of the Companion Link but its counts of violations and events count no event of the PMU. -/
theorem countReg_cpl {off : Nat} (lo : 0x1000000 ≤ off) (hi : off ≤ 0x1000020) : countReg off = false :=
  countReg_low (by unfold Reg.SPL_EVENTS; omega) (by omega)

theorem Dev.sends.coherent {d e : Dev} (h : d.sends e) : e.coherent = d.coherent := by rw [Dev.coherent, h.rf (by decide), Dev.coherent]
theorem Dev.sends.snoopQuarantined {d e : Dev} (h : d.sends e) : e.snoopQuarantined = d.snoopQuarantined := by
  rw [Dev.snoopQuarantined, Dev.rbit, h.rf (by decide), ← Dev.rbit, ← Dev.snoopQuarantined]

theorem Dev.takeCpl_snoopQuarantined (d : Dev) (p : CplPacket) : (d.takeCpl p).snoopQuarantined = d.snoopQuarantined :=
  (d.mails_takeCpl p).sends.snoopQuarantined

/-! ### The checks of R658 -/

section
variable {d : Dev} {p : CplPacket} {op : Nat} (hop : p.op = op) (hears : d.cplHears p = true)
include hop hears

theorem Dev.onPacket_good (good : d.cplCode p = 0) (f : Dev → Dev) : d.onPacket op p f = f d := by
  simp [Dev.onPacket, hop, hears, good]

theorem Dev.onPacket_bad (bad : d.cplCode p ≠ 0) (f : Dev → Dev) : d.onPacket op p f = d.violate p (d.cplCode p) := by
  simp [Dev.onPacket, hop, hears, bad]

end

theorem cmdBadOp_violates {d : Dev} {p : CplPacket} (hears : d.cplHears p = true) (bad : cplCarries (d.cplVc p) p.op = false) :
    cmdBadOp p d = d.violate p (d.cplCode p) := by
  simp [cmdBadOp, hears, bad]

/-- An OP that the class does not carry fails the first check, when the class is open (R658). -/
theorem Dev.cplCode_of_op {d : Dev} {p : CplPacket} (bad : cplCarries (d.cplVc p) p.op = false) (coherent : d.coherent = true)
    (free : d.rbit F.CPL_STATUS_QUAR (d.cplVc p) = false) : d.cplCode p = 1 := by
  simp [Dev.cplCode, coherent, free, bad]

/-- A snoop that passes the checks came on an open snoop class that is not quarantined (R658, log entry 56). -/
theorem Dev.cplCode_snoop {d : Dev} {p : CplPacket} (snoop : p.op = 0x10) (good : d.cplCode p = 0) : d.coherent = true ∧ d.snoopQuarantined = false := by
  have vc : d.cplVc p = 1 := by
    by_contra other
    have unknown : cplCarries (d.cplVc p) p.op = false := by
      rw [snoop]
      unfold cplCarries
      split
      case h_2 h => exact absurd h other
      all_goals rfl
    unfold Dev.cplCode at good
    dsimp only at good
    rw [unknown] at good
    simp only [Bool.not_false, true_or, if_true] at good
    split at good
    · omega
    · split at good <;> omega
  unfold Dev.cplCode at good
  simp only [vc] at good
  split at good
  · omega
  · next closed =>
    split at good
    · omega
    · next quarantined => simp_all [Dev.snoopQuarantined]

/-! ### Reads that the module sends -/

/-- What sending a read leaves, and the request it adds (R642, R647). -/
theorem Dev.sendRead_spec (d : Dev) (n : Nat) (hold : Bool) (who : List Waiter) : d.sends (d.sendRead n hold who)
    ∧ (∃ qs, (d.sendRead n hold who).cpl = { d.cpl with reqs := d.cpl.reqs ++ qs }
      ∧ (d.coherent = true → d.cpl.reqs.length < 1024 → 
        ∃ q ∈ qs, q.op = (if hold && !d.snoopQuarantined then 2 else 1) ∧ q.addr = 64 * n ∧ q.snooped = false)) := by
  unfold Dev.sendRead
  split
  · next shut =>
    refine ⟨d.sends_refl, [], by rw [List.append_nil], fun coherent room => ?_⟩
    simp [coherent] at shut
    omega
  · dsimp only
    generalize (if hold && !d.snoopQuarantined then 2 else 1 : Nat) = op
    refine ⟨?_, [{ tag := d.freeCplTag, op := op, addr := 64 * n, len := 64, sentAt := d.time, who := who }], ?_,
      fun _ _ => ⟨_, List.mem_singleton.2 rfl, rfl, rfl, rfl⟩⟩
    · exact ((d.sends_cpl _).trans (Dev.sends_ite (Dev.sends_event _ (by decide) _ _ _ _) (Dev.sends_refl _))).trans (Dev.sends_sendCpl _ _)
    · rw [(Dev.mails_sendCpl _ _).cpl]
      split
      · rw [Dev.event_cpl]
      · rfl

end Sys2Proof.Machine
end

section
/-!
Proofs, violations and failures of the Companion Link (R643, R645, R658, R659): what a refused packet counts, records and quarantines, what a failed
request leaves, and the companion's device-physical space (log entry 55).
-/
namespace Sys2Proof.Machine

/-! ### Quarantine (R659, R661) -/

/-- The quarantined class is marked and counted; the snoop class loses the module's copies. -/
theorem Dev.quarantine_spec (d : Dev) {c : Nat} (hc : c < 2) :
    (d.quarantine c).rbit F.CPL_STATUS_QUAR c = true ∧ (d.quarantine c).cpl = (if c = 1 then { d.cpl with cache := [] } else d.cpl)
    ∧ (d.quarantine c).mem = d.mem ∧ (d.quarantine c).ctl = d.ctl ∧ (d.quarantine c).out = d.out
    ∧ ∀ f : Fld, f.off ≠ F.CPL_STATUS_QUAR.off → f.off ≠ F.CPL_EVENTS_QUARANTINES.off → f.off ≠ Reg.ERR_STATUS → (d.quarantine c).rf f = d.rf f := by
  obtain ⟨e, he⟩ : ∃ e, e = ((d.wbit F.CPL_STATUS_QUAR c true).bump F.CPL_EVENTS_QUARANTINES 1).postError
    { cls := 1, source := 0x10, event := 0x03, inst := c } := ⟨_, rfl⟩
  have cleared : d.quarantine c = if c = 1 then { e with cpl := { e.cpl with cache := [] } } else e := by rw [he]; rfl
  have cpl : e.cpl = d.cpl := by rw [he, Dev.postError_cpl, Dev.bump_cpl, Dev.wbit_cpl]
  have mark : e.rf F.CPL_STATUS_QUAR = (d.wbit F.CPL_STATUS_QUAR c true).rf F.CPL_STATUS_QUAR := by
    rw [he, Dev.rf_postError _ _ (by decide), Dev.rf_bump_elsewhere _ _ (by decide)]
  have marked : e.rbit F.CPL_STATUS_QUAR c = true := by
    rw [Dev.rbit, mark, ← Dev.rbit, Dev.rbit_wbit d (by decide) hc hc, if_pos rfl]
  have kept (f : Fld) (status : f.off ≠ F.CPL_STATUS_QUAR.off) (events : f.off ≠ F.CPL_EVENTS_QUARANTINES.off) (err : f.off ≠ Reg.ERR_STATUS) :
      e.rf f = d.rf f := by
    rw [he, Dev.rf_postError _ _ err, Dev.rf_bump_elsewhere _ _ events]
    exact d.rf_wf_elsewhere _ status
  have mem : e.mem = d.mem := by rw [he, Dev.postError_mem, Dev.bump_mem, Dev.wbit_mem]
  have ctl : e.ctl = d.ctl := by rw [he, Dev.postError_ctl, Dev.bump_ctl, Dev.wbit_ctl]
  have out : e.out = d.out := by rw [he, Dev.postError_out, Dev.bump_out, Dev.wbit_out]
  rw [cleared]
  split
  · exact ⟨marked, by rw [cpl], mem, ctl, out, kept⟩
  · exact ⟨marked, cpl, mem, ctl, out, kept⟩

/-! ### Counting a violation (R658, R659) -/

/-- The violations of a class in this Turn, one more. -/
def Dev.violNext (d : Dev) (c : Nat) : Nat := if c = 0 then d.cpl.violReq + 1 else d.cpl.violSnp + 1

/-- The module with a violation of a class in its count and, where it may quarantine, in the Turn's. -/
def Dev.violCounted (d : Dev) (c code : Nat) : Dev :=
  let e := d.bump (violField c) 1
  if 1 < c ∨ 5 ≤ code then e
  else { e with cpl := if c = 0 then { e.cpl with violReq := e.cpl.violReq + 1 } else { e.cpl with violSnp := e.cpl.violSnp + 1 } }

/-- A violation quarantines its class (R659). -/
abbrev Dev.overLimit (d : Dev) (c : Nat) : Prop := d.rf F.CPL_CTL_VIOL_LIMIT < d.violNext c ∧ d.rbit F.CPL_STATUS_QUAR c = false

theorem violField_off (c : Nat) : (violField c).off = 0x1000010 := by
  unfold violField
  split <;> rfl

theorem violField_width (c : Nat) : (violField c).w = 12 := by
  unfold violField
  split <;> rfl

theorem violField_inWord (c : Nat) : (violField c).inWord := by
  unfold violField
  split <;> decide

section
variable (d : Dev) (c code : Nat)

theorem Dev.violCounted_rf {f : Fld} (hf : f.off ≠ 0x1000010) : (d.violCounted c code).rf f = d.rf f := by
  have counted := d.rf_bump_elsewhere (f := violField c) 1 ((violField_off c).symm ▸ hf)
  unfold Dev.violCounted
  split <;> exact counted

theorem Dev.violCounted_count : (d.violCounted c code).rf (violField c) = (d.rf (violField c) + 1) % 2 ^ 12 := by
  have counted := d.rf_bump_one (violField_inWord c)
  rw [violField_width] at counted
  unfold Dev.violCounted
  split <;> exact counted

theorem Dev.violCounted_keeps : (d.violCounted c code).mem = d.mem ∧ (d.violCounted c code).ctl = d.ctl ∧ (d.violCounted c code).out = d.out := by
  unfold Dev.violCounted
  split <;> exact ⟨Dev.bump_mem .., Dev.bump_ctl .., Dev.bump_out ..⟩

/-- The Turn's count of a class's violations, where it is kept. -/
def Dev.violTurn (d : Dev) (c : Nat) : Nat := if c = 0 then d.cpl.violReq else d.cpl.violSnp

theorem Dev.violCounted_turn (kept : ¬(1 < c ∨ 5 ≤ code)) : (d.violCounted c code).violTurn c = d.violNext c := by
  unfold Dev.violCounted Dev.violTurn Dev.violNext
  rw [if_neg kept]
  split <;> simp only [Dev.bump_cpl]

theorem Dev.countViolation_eq : d.countViolation c code =
    if ¬(1 < c ∨ 5 ≤ code) ∧ d.overLimit c then (d.violCounted c code).quarantine c else d.violCounted c code := by
  have limit := d.violCounted_rf c code (f := F.CPL_CTL_VIOL_LIMIT) (by decide)
  have mark : (d.violCounted c code).rbit F.CPL_STATUS_QUAR c = d.rbit F.CPL_STATUS_QUAR c := congrArg (bitAt · c) (d.violCounted_rf c code (by decide))
  by_cases never : 1 < c ∨ 5 ≤ code
  · rw [if_neg fun tooMany => tooMany.1 never, Dev.countViolation, Dev.violCounted]
    dsimp only
    rw [if_pos never, if_pos never]
  · have counted : d.countViolation c code = if (d.violCounted c code).rf F.CPL_CTL_VIOL_LIMIT < (d.violCounted c code).violTurn c
        ∧ (!(d.violCounted c code).rbit F.CPL_STATUS_QUAR c) = true then (d.violCounted c code).quarantine c else d.violCounted c code := by
      rw [Dev.countViolation, Dev.violCounted]
      dsimp only
      rw [if_neg never, if_neg never]
      rfl
    rw [counted, limit, mark, d.violCounted_turn c code never]
    exact if_congr (by simp only [never, not_false_eq_true, true_and, Bool.not_eq_true', Dev.overLimit]) rfl rfl

end

/-- What counting a violation changes. -/
theorem Dev.countViolation_spec (d : Dev) (c code : Nat) :
    (d.countViolation c code).rf (violField c) = (d.rf (violField c) + 1) % 2 ^ 12 ∧ (d.countViolation c code).mem = d.mem
    ∧ (d.countViolation c code).ctl = d.ctl ∧ (d.countViolation c code).out = d.out
    ∧ ∀ f : Fld, f.off = 0x1000018 → (d.countViolation c code).rf f = d.rf f := by
  obtain ⟨mem, ctl, out⟩ := d.violCounted_keeps c code
  have count := d.violCounted_count c code
  rw [Dev.countViolation_eq]
  split
  · next tooMany =>
    obtain ⟨-, -, qmem, qctl, qout, kept⟩ := (d.violCounted c code).quarantine_spec (show c < 2 by omega)
    have own (f : Fld) (low : 0x1000008 ≤ f.off) (high : f.off < 0x1000020) : ((d.violCounted c code).quarantine c).rf f = (d.violCounted c code).rf f :=
      kept f (show f.off ≠ 0x1000000 by omega) (show f.off ≠ 0x1000020 by omega) (show f.off ≠ 0x1300018 by omega)
    exact ⟨(own _ (by rw [violField_off]; decide) (by rw [violField_off]; decide)).trans count, qmem.trans mem, qctl.trans ctl, qout.trans out,
      fun f nak => (own f (by omega) (by omega)).trans (d.violCounted_rf c code (by omega))⟩
  · exact ⟨count, mem, ctl, out, fun f nak => d.violCounted_rf c code (by omega)⟩

/-- A violation that may not quarantine leaves the classes and the Turn's counts. -/
theorem Dev.countViolation_of_kept (d : Dev) {c code : Nat} (never : 1 < c ∨ 5 ≤ code) :
    (d.countViolation c code).rf F.CPL_STATUS_QUAR = d.rf F.CPL_STATUS_QUAR ∧ (d.countViolation c code).cpl = d.cpl := by
  have mark := d.violCounted_rf c code (f := F.CPL_STATUS_QUAR) (by decide)
  rw [Dev.countViolation_eq, if_neg fun tooMany => tooMany.1 never]
  refine ⟨mark, ?_⟩
  rw [Dev.violCounted, if_pos never, Dev.bump_cpl]

/-- A violation of the request or snoop class is one more in the Turn, and one too many quarantines the class (R659). -/
theorem Dev.countViolation_quarantines (d : Dev) {c code : Nat} (hc : c < 2) (hcode : code < 5) :
    (d.countViolation c code).violTurn c = d.violNext c
    ∧ ((d.countViolation c code).rbit F.CPL_STATUS_QUAR c = true ↔ d.rbit F.CPL_STATUS_QUAR c = true ∨ d.rf F.CPL_CTL_VIOL_LIMIT < d.violNext c)
    ∧ (d.overLimit c → c = 1 → (d.countViolation c code).cpl.cache = []) := by
  have kept : ¬(1 < c ∨ 5 ≤ code) := by omega
  have turn := d.violCounted_turn c code kept
  have mark : (d.violCounted c code).rbit F.CPL_STATUS_QUAR c = d.rbit F.CPL_STATUS_QUAR c := congrArg (bitAt · c) (d.violCounted_rf c code (by decide))
  rw [Dev.countViolation_eq]
  by_cases tooMany : d.overLimit c
  · rw [if_pos ⟨kept, tooMany⟩]
    obtain ⟨marked, cpl, -⟩ := (d.violCounted c code).quarantine_spec hc
    refine ⟨Eq.trans ?_ turn, ⟨fun _ => .inr tooMany.1, fun _ => marked⟩, fun _ snoop => by rw [cpl, if_pos snoop]⟩
    unfold Dev.violTurn
    rw [cpl]
    split <;> split <;> rfl
  · rw [if_neg fun both => tooMany both.2]
    refine ⟨turn, ?_, fun yes => absurd yes tooMany⟩
    rw [mark]
    refine ⟨.inl, fun either => ?_⟩
    by_contra free
    exact tooMany ⟨either.resolve_left free, Bool.eq_false_of_not_eq_true free⟩

/-! ### A refused packet (R658) -/

/-- CPL_NAK_LAST names the last packet answered by NAK. -/
def Dev.nakNoted (d : Dev) (p : CplPacket) (c code : Nat) : Dev :=
  (((d.wf F.CPL_NAK_LAST_CODE code).wf F.CPL_NAK_LAST_CLASS c).wf F.CPL_NAK_LAST_TAG p.tag).wf F.CPL_NAK_LAST_TURN d.turn

theorem Dev.nakNoted_rf (d : Dev) (p : CplPacket) (c code : Nat) {f : Fld} (hf : f.off ≠ 0x1000018) : (d.nakNoted p c code).rf f = d.rf f := by
  unfold Dev.nakNoted
  exact (Dev.rf_wf_elsewhere _ _ hf).trans ((Dev.rf_wf_elsewhere _ _ hf).trans ((Dev.rf_wf_elsewhere _ _ hf).trans (Dev.rf_wf_elsewhere _ _ hf)))

theorem Dev.nakNoted_last (d : Dev) (p : CplPacket) (c code : Nat) : (d.nakNoted p c code).rf F.CPL_NAK_LAST_CODE = code % 2 ^ 8
    ∧ (d.nakNoted p c code).rf F.CPL_NAK_LAST_CLASS = c % 2 ^ 3 ∧ (d.nakNoted p c code).rf F.CPL_NAK_LAST_TAG = p.tag % 2 ^ 12 := by
  unfold Dev.nakNoted
  refine ⟨?_, ?_, ?_⟩
  · rw [Dev.rf_wf_apart _ _ (by decide) (by decide), Dev.rf_wf_apart _ _ (by decide) (by decide), Dev.rf_wf_apart _ _ (by decide) (by decide)]
    exact Dev.rf_wf_same _ _ (by decide)
  · rw [Dev.rf_wf_apart _ _ (by decide) (by decide), Dev.rf_wf_apart _ _ (by decide) (by decide)]
    exact Dev.rf_wf_same _ _ (by decide)
  · rw [Dev.rf_wf_apart _ _ (by decide) (by decide)]
    exact Dev.rf_wf_same _ _ (by decide)

/-- The NAK that answers a refused packet. -/
abbrev CplPacket.nak (p : CplPacket) (c code : Nat) : CplPacket := { op := 0x21, tag := p.tag, code := code, arg := c }

/-- The module after the answer to a packet that fails a check, before the violation is counted. -/
def Dev.refused (d : Dev) (p : CplPacket) (code : Nat) : Dev :=
  if p.op = 0x21 then d.takeCpl p
  else (((d.takeCpl p).sendCpl (p.nak (d.cplVc p) code)).event 40 0x805 none 0 1).nakNoted p (d.cplVc p) code

theorem Dev.violate_eq (d : Dev) (p : CplPacket) (code : Nat) : d.violate p code = (d.refused p code).countViolation (d.cplVc p) code := rfl

theorem Dev.nakked_mails (d : Dev) (p : CplPacket) (c code : Nat) : d.mails (((d.takeCpl p).sendCpl (p.nak c code)).event 40 0x805 none 0 1) :=
  ((d.mails_takeCpl p).trans (Dev.mails_sendCpl _ _)).trans (Dev.mails_event _ (by decide) _ _ _ _)

/-- What the answer to a refused packet leaves. -/
theorem Dev.refused_keeps (d : Dev) (p : CplPacket) (code : Nat) : (d.refused p code).mem = d.mem ∧ (d.refused p code).ctl = d.ctl
    ∧ (d.refused p code).cpl = d.cpl ∧ ∀ f : Fld, f.off ≠ 0x1000018 → countReg f.off = false → (d.refused p code).rf f = d.rf f := by
  have answered := d.nakked_mails p (d.cplVc p) code
  unfold Dev.refused
  split
  · have taken := d.mails_takeCpl p
    exact ⟨taken.sends.mem, taken.sends.ctl, taken.cpl, fun f _ plain => taken.sends.rf plain⟩
  · generalize ((d.takeCpl p).sendCpl (p.nak (d.cplVc p) code)).event 40 0x805 none 0 1 = e at *
    exact ⟨answered.sends.mem, answered.sends.ctl, answered.cpl, fun f nak plain => (e.nakNoted_rf p _ _ nak).trans (answered.sends.rf plain)⟩

/-- A refused packet that is no NAK is answered by one, and CPL_NAK_LAST names it. -/
theorem Dev.refused_naks (d : Dev) {p : CplPacket} (code : Nat) (answers : p.op ≠ 0x21) : Out.link (p.nak (d.cplVc p) code) ∈ (d.refused p code).out
    ∧ (d.refused p code).rf F.CPL_NAK_LAST_CODE = code % 2 ^ 8 ∧ (d.refused p code).rf F.CPL_NAK_LAST_CLASS = d.cplVc p % 2 ^ 3
    ∧ (d.refused p code).rf F.CPL_NAK_LAST_TAG = p.tag % 2 ^ 12 := by
  have left := (d.takeCpl p).sendCpl_left (p.nak (d.cplVc p) code)
  unfold Dev.refused
  rw [if_neg answers]
  generalize (d.takeCpl p).sendCpl (p.nak (d.cplVc p) code) = e at *
  have stays := (e.mails_event (b := 40) (by decide) 0x805 none 0 1).sends.left left
  generalize e.event 40 0x805 none 0 1 = e' at *
  exact ⟨stays, e'.nakNoted_last p _ _⟩

/-! ### A failed request (R645) -/

/-- What a failed request's readers are given: poison. -/
def CplReq.failed (r : CplReq) : List CplGot :=
  if r.op ≤ 2 then r.who.map (fun w => { line := r.addr / 64, who := w, bytes := List.replicate 64 0, poison := true }) else []

theorem Dev.cplFail_spec (d : Dev) (r : CplReq) : ∃ e : Dev, d.cplFail r = e.pumpCpl.srvTryAll
    ∧ e.cpl.reqs = d.cpl.reqs.filter (fun x => decide (x.tag ≠ r.tag)) ∧ e.cpl.got = d.cpl.got ++ r.failed
    ∧ e.rf F.CPL_EVENTS_FAILED = (d.rf F.CPL_EVENTS_FAILED + 1) % 2 ^ 16 ∧ e.cpl.failTurn = d.cpl.failTurn + 1 ∧ e.cpl.cache = d.cpl.cache
    ∧ e.mem = d.mem := by
  unfold Dev.cplFail CplReq.failed
  dsimp only
  refine ⟨_, rfl, ?_⟩
  have count := (d.cplFree r).rf_bump_one (f := F.CPL_EVENTS_FAILED) (by decide)
  have cpl := (d.cplFree r).bump_cpl F.CPL_EVENTS_FAILED 1
  have mem := (d.cplFree r).bump_mem F.CPL_EVENTS_FAILED 1
  generalize (d.cplFree r).bump F.CPL_EVENTS_FAILED 1 = e at *
  have free : e.cpl = { d.cpl with reqs := d.cpl.reqs.filter (fun x => decide (x.tag ≠ r.tag)) } := cpl
  have same : e.mem = d.mem := mem
  split
  · exact ⟨by rw [Dev.cplDeliver, free], by rw [Dev.cplDeliver, free], count, by rw [Dev.cplDeliver, free], by rw [Dev.cplDeliver, free], same⟩
  · rw [List.append_nil]
    split
    · split <;> exact ⟨by simp only [Dev.setCkpt, free], by simp only [Dev.setCkpt, free], count, by simp only [Dev.setCkpt, free],
        by simp only [Dev.setCkpt, free], same⟩
    · exact ⟨by rw [free], by rw [free], count, by rw [free], by rw [free], same⟩

/-! ### The companion's device-physical space (R643, log entry 55) -/

/-- An address below the regions' sum lies in one of them. -/
theorem Dev.devFind_isSome (d : Dev) (rs : List Region) (a : Nat) : (d.devFind rs a).isSome = true ↔ a < (rs.map d.regionSize).sum := by
  induction rs generalizing a with
  | nil => simp [Dev.devFind]
  | cons r rs ih =>
    rw [Dev.devFind, List.map_cons, List.sum_cons]
    split
    · exact iff_of_true rfl (by omega)
    · rw [ih]
      omega

/-- The offset that an address names lies in its region. -/
theorem Dev.devFind_lt {d : Dev} {rs : List Region} {a : Nat} {r : Region} {o : Nat} (found : d.devFind rs a = some (r, o)) : o < d.regionSize r := by
  induction rs generalizing a with
  | nil => cases found
  | cons x rs ih =>
    rw [Dev.devFind] at found
    split at found
    · cases found
      assumption
    · exact ih found

theorem Dev.devFind_populated (d : Dev) (a : Nat) : (d.devFind d.devRegions a).isSome = true ↔ a < d.devBytes := by
  rw [Dev.devFind_isSome, Dev.devBytes, List.sum_eq_foldl_nat]

end Sys2Proof.Machine
end

section
/-!
Proofs, packets of the companion that pass their checks (R640, R642 to R645, R650 to R652): requests, snoops, answers, followed lines and the link's
width; the statement of O56.
-/
namespace Sys2Proof.Machine

/-! ### Requests of the companion (R643) -/

/-- What a masked write writes, by offset (R642). -/
theorem CplPacket.mem_written {p : CplPacket} (masked : p.op = 4) (x : Nat × MByte) : x ∈ p.written ↔ x.1 < 64 ∧ x.1 + 8 < p.payload.length
    ∧ bitAt (leNat (p.payload.take 8)) x.1 = true ∧ x.2 = { b := p.payload.getD (8 + x.1) 0, p := p.poison } := by
  rcases x with ⟨i, v⟩
  simp only [CplPacket.written, masked, if_true, List.mem_filterMap, Option.ite_none_right_eq_some, Option.some.injEq, Prod.mk.injEq, Prod.exists,
    List.mem_zipIdx_iff_getElem?, List.getElem?_take, List.getElem?_drop, List.getD_eq_getElem?_getD]
  constructor
  · rintro ⟨b, j, ⟨small, found⟩, marked, rfl, rfl⟩
    have inside := (List.getElem?_eq_some_iff.1 found).1
    exact ⟨small, by omega, marked, by rw [found]; rfl⟩
  · rintro ⟨small, inside, marked, rfl⟩
    refine ⟨p.payload[8 + i], i, ⟨small, List.getElem?_eq_getElem (by omega)⟩, marked, rfl, ?_⟩
    rw [List.getElem?_eq_getElem (by omega)]
    rfl

/-- Its offsets ascend. -/
theorem CplPacket.pairwise_written {p : CplPacket} (masked : p.op = 4) : p.written.Pairwise (fun x y => x.1 < y.1) := by
  simp only [CplPacket.written, masked, if_true]
  rw [List.pairwise_filterMap]
  simp only [List.pairwise_iff_getElem, List.getElem_zipIdx, Nat.zero_add, Option.ite_none_right_eq_some, Option.some.injEq]
  rintro i j - - less _ ⟨-, rfl⟩ _ ⟨-, rfl⟩
  exact less

/-- The list of a masked write's bytes is the one of its offsets in ascending order. -/
theorem CplPacket.written_eq {p : CplPacket} (masked : p.op = 4) {ws : List (Nat × MByte)}
    (bytes : ∀ x : Nat × MByte, x ∈ ws ↔ x.1 < 64 ∧ x.1 + 8 < p.payload.length ∧ bitAt (leNat (p.payload.take 8)) x.1 = true
      ∧ x.2 = { b := p.payload.getD (8 + x.1) 0, p := p.poison }) (ascending : ws.Pairwise (fun x y => x.1 < y.1)) : p.written = ws := by
  have asymm : Std.Antisymm fun x y : Nat × MByte => x.1 < y.1 := ⟨fun x y h k => absurd (h.trans k) (Nat.lt_irrefl _)⟩
  have irrefl : Std.Irrefl fun x y : Nat × MByte => x.1 < y.1 := ⟨fun x => Nat.lt_irrefl _⟩
  exact (CplPacket.pairwise_written masked).eq_of_mem_iff ascending fun x => (CplPacket.mem_written masked x).trans (bytes x).symm

section
variable {d e : Dev} {p : CplPacket} (hears : d.cplHears p = true) (good : d.cplCode p = 0)
include hears good

theorem cmdCplRd_answers (hop : p.op = 1) {bs : List MByte} (read : (d.takeCpl p).devRead (linesOf p.addr (p.arg % 512)) = (e, some bs)) :
    cmdCplRd p d = e.sendCpl { op := 0x30, tag := p.tag, len := p.arg % 512, poison := bs.any (·.p), payload := bs.map (·.b) } := by
  rw [cmdCplRd, Dev.onPacket_good hop hears good]
  simp only [read]

theorem cmdCplWr_writes (hop : p.op = 3)
    (written : (d.takeCpl p).devWrite p.addr (p.payload.zipIdx.map (fun x => (x.2, { b := x.1, p := p.poison }))) (linesOf p.addr p.len) = some e) :
    cmdCplWr p d = e.sendCpl { op := 0x20, tag := p.tag } := by
  have bytes : p.written = p.payload.zipIdx.map (fun x => (x.2, { b := x.1, p := p.poison })) := if_neg (by omega)
  have span : p.span = p.len := by simp [CplPacket.span, hop]
  rw [cmdCplWr, Dev.onPacket_good hop hears good, Dev.cplWrites, bytes, span]
  simp only [written]

theorem cmdCplWrMask_writes (hop : p.op = 4) {ws : List (Nat × MByte)} (hws : p.written = ws)
    (written : (d.takeCpl p).devWrite p.addr ws (linesOf p.addr 64) = some e) : cmdCplWrMask p d = e.sendCpl { op := 0x20, tag := p.tag } := by
  have span : p.span = 64 := by simp [CplPacket.span, hop]
  rw [cmdCplWrMask, Dev.onPacket_good hop hears good, Dev.cplWrites, hws, span]
  simp only [written]

end

/-! ### Snoops (R650 to R652) -/

/-- A read of line n that a snoop meets (R651). -/
def CplReq.snoop (n : Nat) (r : CplReq) : CplReq := if r.op = 2 ∧ r.addr / 64 = n then { r with snooped := true } else r

/-- The module after a snoop's acknowledgement, its reads of the line marked. -/
def Dev.snoopAcked (d : Dev) (p : CplPacket) : Dev :=
  let e := ((d.takeCpl p).sendCpl { op := 0x20, tag := p.tag }).event 40 0x802 none 0 1
  { e with cpl := { e.cpl with reqs := e.cpl.reqs.map (CplReq.snoop (p.addr / 64)) } }

theorem Dev.snoopAcked_spec (d : Dev) (p : CplPacket) : d.sends (d.snoopAcked p)
    ∧ (d.snoopAcked p).cpl = { d.cpl with reqs := d.cpl.reqs.map (CplReq.snoop (p.addr / 64)) }
    ∧ Out.link { op := 0x20, tag := p.tag } ∈ (d.snoopAcked p).out := by
  have left := (d.takeCpl p).sendCpl_left { op := 0x20, tag := p.tag }
  have acked := (d.mails_takeCpl p).trans (Dev.mails_sendCpl _ { op := 0x20, tag := p.tag })
  unfold Dev.snoopAcked
  generalize (d.takeCpl p).sendCpl { op := 0x20, tag := p.tag } = a at *
  have noted := a.mails_event (b := 40) (by decide) 0x802 none 0 1
  have sent := (acked.trans noted).sends.trans (Dev.sends_cpl _ { (a.event 40 0x802 none 0 1).cpl with
    reqs := (a.event 40 0x802 none 0 1).cpl.reqs.map (CplReq.snoop (p.addr / 64)) })
  exact ⟨sent, by dsimp only; rw [(acked.trans noted).cpl], noted.sends.left left⟩

/-- The module once a line is dropped for a snoop: a Pinned line is read again (R651, R652). -/
def Dev.snoopDropped (d : Dev) (n : Nat) (used : Bool) : Dev :=
  let e := (if used then d else d.event 40 0x803 none 0 1).setCplLine n none
  if e.pinnedLine n && !e.reading n then e.sendRead n true else e

theorem cmdSnpInv_eq {d : Dev} {p : CplPacket} (hears : d.cplHears p = true) (good : d.cplCode p = 0) (hop : p.op = 0x10) :
    cmdSnpInv p d = match d.cplLine (p.addr / 64) with
      | some l => (d.snoopAcked p).snoopDropped (p.addr / 64) l.used
      | none => d.snoopAcked p := by
  rw [cmdSnpInv, Dev.onPacket_good hop hears good]
  rfl

theorem Dev.snoopDropped_spec (d : Dev) (n : Nat) (used : Bool) : d.sends (d.snoopDropped n used)
    ∧ (∃ qs, (d.snoopDropped n used).cpl = { d.cpl with cache := SMap.set (fun _ => none) d.cpl.cache n none, reqs := d.cpl.reqs ++ qs }
      ∧ (d.pinnedLine n = true → d.reading n = false → d.coherent = true → d.snoopQuarantined = false → d.cpl.reqs.length < 1024 →
        ∃ q ∈ qs, q.op = 2 ∧ q.addr = 64 * n ∧ q.snooped = false)) := by
  unfold Dev.snoopDropped
  dsimp only
  have noted : d.mails (if used then d else d.event 40 0x803 none 0 1) := Dev.mails_ite d.mails_refl (d.mails_event (by decide) _ _ _ _)
  generalize (if used then d else d.event 40 0x803 none 0 1) = a at *
  have cpl : (a.setCplLine n none).cpl = { d.cpl with cache := SMap.set (fun _ => none) d.cpl.cache n none } := by rw [← noted.cpl]; rfl
  have sent : d.sends (a.setCplLine n none) := noted.sends.trans (a.sends_cpl _)
  generalize a.setCplLine n none = e at *
  have pinned : e.pinnedLine n = d.pinnedLine n := by rw [Dev.pinnedLine, cpl]; rfl
  have reading : e.reading n = d.reading n := by rw [Dev.reading, cpl]; rfl
  obtain ⟨read, qs, added, asks⟩ := e.sendRead_spec n true []
  rw [pinned, reading]
  split
  · exact ⟨sent.trans read, qs, by rw [added, cpl], fun _ _ coherent free room => by
      simpa [sent.snoopQuarantined, free] using asks (sent.coherent.trans coherent) (by rwa [cpl])⟩
  · next no => exact ⟨sent, [], by rw [cpl, List.append_nil], fun pin idle => absurd (by rw [pin, idle]; rfl) no⟩

/-- Marking its reads does not change whether a line is read. -/
theorem any_snoop (n m : Nat) (rs : List CplReq) : (rs.map (CplReq.snoop n)).any (fun r => decide (r.op ≤ 2) && decide (r.addr / 64 = m)) =
    rs.any (fun r => decide (r.op ≤ 2) && decide (r.addr / 64 = m)) := by
  rw [List.any_map]
  refine List.any_congr rfl fun r => ?_
  simp only [Function.comp, CplReq.snoop]
  split <;> rfl

/-- A snoop is acknowledged, drops the copy, marks the reads of the line and reads a Pinned line again (R650 to R652). -/
theorem cmdSnpInv_spec {d : Dev} {p : CplPacket} (hears : d.cplHears p = true) (good : d.cplCode p = 0) (hop : p.op = 0x10) :
    let e := cmdSnpInv p d
    let n := p.addr / 64
    Out.link { op := 0x20, tag := p.tag } ∈ e.out ∧ e.cplLine n = none ∧ (∀ m, m ≠ n → e.cplLine m = d.cplLine m) ∧ e.mem = d.mem ∧ e.ctl = d.ctl
    ∧ e.cpl.followed = d.cpl.followed ∧ (∀ r ∈ d.cpl.reqs, r.op = 2 → r.addr / 64 = n → { r with snooped := true } ∈ e.cpl.reqs)
    ∧ ((d.cplLine n).isSome = true → d.pinnedLine n = true → d.reading n = false → d.cpl.reqs.length < 1024 →
        ∃ r ∈ e.cpl.reqs, r.op = 2 ∧ r.addr = 64 * n ∧ r.snooped = false) := by
  intro e n
  obtain ⟨coherent, free⟩ := Dev.cplCode_snoop hop good
  obtain ⟨sent, cpl, left⟩ := d.snoopAcked_spec p
  have effect : e = _ := cmdSnpInv_eq hears good hop
  have marked {r : CplReq} (hr : r ∈ d.cpl.reqs) (shared : r.op = 2) (here : r.addr / 64 = n) :
      { r with snooped := true } ∈ d.cpl.reqs.map (CplReq.snoop (p.addr / 64)) := List.mem_map.2 ⟨r, hr, if_pos ⟨shared, here⟩⟩
  cases had : d.cplLine n with
  | none =>
    rw [show d.cplLine (p.addr / 64) = none from had] at effect
    rw [effect]
    dsimp only
    have lines (m : Nat) : (d.snoopAcked p).cplLine m = d.cplLine m := by rw [Dev.cplLine, cpl]; rfl
    exact ⟨left, (lines n).trans had, fun m _ => lines m, sent.mem, sent.ctl, by rw [cpl], fun r hr shared here => by rw [cpl]; exact marked hr shared here,
      fun some' => by cases some'⟩
  | some l =>
    rw [show d.cplLine (p.addr / 64) = some l from had] at effect
    rw [effect]
    dsimp only
    obtain ⟨dropped, qs, dcpl, asks⟩ := (d.snoopAcked p).snoopDropped_spec (p.addr / 64) l.used
    rw [cpl] at dcpl
    have all := sent.trans dropped
    refine ⟨dropped.left left, ?_, fun m other => ?_, all.mem, all.ctl, by rw [dcpl], fun r hr shared here => ?_, fun _ pin idle room => ?_⟩
    · rw [Dev.cplLine, dcpl]
      exact SMap.get_set_same ..
    · rw [Dev.cplLine, dcpl]
      exact SMap.get_set_other _ _ other
    · rw [dcpl]
      exact List.mem_append_left _ (marked hr shared here)
    · obtain ⟨q, hq, asked⟩ := asks (by rw [Dev.pinnedLine, cpl]; exact pin) (by rw [Dev.reading, cpl]; exact (any_snoop ..).trans idle)
        (sent.coherent.trans coherent) (sent.snoopQuarantined.trans free) (by rw [cpl, List.length_map]; exact room)
      exact ⟨q, by rw [dcpl]; exact List.mem_append_right _ hq, asked⟩

end Sys2Proof.Machine
end

section
/-!
Proofs, answers to the module's requests (R644, R645, R647, R651), followed lines (R652, R661) and the width of the Companion Link (R638, R640); the
statement of O56.
-/
namespace Sys2Proof.Machine

/-! ### Answers (R644, R645) -/

/-- A late answer changes the counts alone (R645). -/
theorem Dev.cplLateDrop_spec (d : Dev) (p : CplPacket) : ((d.takeCpl p).cplLateDrop p).mem = d.mem ∧ ((d.takeCpl p).cplLateDrop p).ctl = d.ctl
    ∧ ((d.takeCpl p).cplLateDrop p).cpl = { d.cpl with failedTags := d.cpl.failedTags.filter (· ≠ p.tag) }
    ∧ ((d.takeCpl p).cplLateDrop p).rf F.CPL_EVENTS_LATE = (d.rf F.CPL_EVENTS_LATE + 1) % 2 ^ 16 := by
  unfold Dev.cplLateDrop
  refine ⟨(Dev.bump_mem ..).trans (d.takeCpl_mem p), (Dev.bump_ctl ..).trans (d.takeCpl_ctl p), ?_, ?_⟩
  · rw [Dev.bump_cpl]
    dsimp only
    rw [Dev.takeCpl_cpl]
  · refine (Dev.rf_bump_one _ (by decide)).trans ?_
    rw [← d.takeCpl_rf p]
    rfl

section
variable {d : Dev} {p : CplPacket} (hears : d.cplHears p = true) (good : d.cplCode p = 0)
include hears good

section
variable {r : CplReq} (named : d.cplNamed p = some r)
include named

theorem cmdCplAck_frees (hop : p.op = 0x20) : cmdCplAck p d = ((d.takeCpl p).cplFree r).pumpCpl.srvTryAll := by
  rw [cmdCplAck, Dev.onPacket_good hop hears good]
  simp only [Dev.cplNamed_congr (d.takeCpl_cpl p), named]

theorem cmdCplNak_fails (hop : p.op = 0x21) : cmdCplNak p d = (d.takeCpl p).cplFail r := by
  rw [cmdCplNak, Dev.onPacket_good hop hears good]
  simp only [Dev.cplNamed_congr (d.takeCpl_cpl p), named]

/-- The module after a line was delivered to the accesses that wait for it. -/
abbrev Dev.lineArrived (d : Dev) (p : CplPacket) (r : CplReq) : Dev := ((d.takeCpl p).cplFree r).cplDeliver r p.payload p.poison

omit hears good named in
theorem Dev.lineArrived_snoopQuarantined : (d.lineArrived p r).snoopQuarantined = d.snoopQuarantined := d.takeCpl_snoopQuarantined p

omit hears good named in
theorem Dev.lineArrived_pinnedLine (n : Nat) : (d.lineArrived p r).pinnedLine n = d.pinnedLine n :=
  (show (d.lineArrived p r).pinnedLine n = (d.takeCpl p).pinnedLine n from rfl).trans (Dev.pinnedLine_congr (d.takeCpl_cpl p) n)

/-- A delivered line is kept when it was read to be held, was not snooped and the snoop class is open (R647). -/
theorem cmdCplData_keeps (hop : p.op = 0x30) (unsnooped : r.snooped = false) (free : d.snoopQuarantined = false) : cmdCplData p d =
    (if r.op = 2 then (d.lineArrived p r).keepLine (r.addr / 64) p.payload p.poison else d.lineArrived p r).pumpCpl.srvTryAll := by
  have quar : (d.lineArrived p r).snoopQuarantined = false := Dev.lineArrived_snoopQuarantined.trans free
  rw [cmdCplData, Dev.onPacket_good hop hears good]
  simp only [Dev.cplNamed_congr (d.takeCpl_cpl p), named, unsnooped, quar, Bool.not_false, and_true, Bool.false_eq_true, false_and, if_false]

/-- With the snoop class quarantined the module keeps no line (R661). -/
theorem cmdCplData_quarantined (hop : p.op = 0x30) (quarantined : d.snoopQuarantined = true) : cmdCplData p d = (d.lineArrived p r).pumpCpl.srvTryAll := by
  have quar : (d.lineArrived p r).snoopQuarantined = true := Dev.lineArrived_snoopQuarantined.trans quarantined
  rw [cmdCplData, Dev.onPacket_good hop hears good]
  simp only [Dev.cplNamed_congr (d.takeCpl_cpl p), named, quar, Bool.not_true, Bool.false_eq_true, and_false, if_false]

/-- A line that was snooped while it was read is not kept; a Pinned one is read again (R651). -/
theorem cmdCplData_snooped (hop : p.op = 0x30) (snooped : r.snooped = true) (free : d.snoopQuarantined = false) : cmdCplData p d =
    (if d.pinnedLine (r.addr / 64) then (d.lineArrived p r).sendRead (r.addr / 64) true else d.lineArrived p r).pumpCpl.srvTryAll := by
  have quar : (d.lineArrived p r).snoopQuarantined = false := Dev.lineArrived_snoopQuarantined.trans free
  have pinned : (d.lineArrived p r).pinnedLine (r.addr / 64) = d.pinnedLine (r.addr / 64) := Dev.lineArrived_pinnedLine _
  rw [cmdCplData, Dev.onPacket_good hop hears good]
  simp only [Dev.cplNamed_congr (d.takeCpl_cpl p), named, snooped, quar, pinned, Bool.not_true, Bool.not_false, Bool.false_eq_true, and_false,
    if_false, true_and, and_true]

end

/-- An answer to a request that has ended is dropped and counted late (R645). -/
theorem cplAnswer_late (unnamed : d.cplNamed p = none) : (p.op = 0x30 → cmdCplData p d = (d.takeCpl p).cplLateDrop p)
    ∧ (p.op = 0x20 → cmdCplAck p d = (d.takeCpl p).cplLateDrop p) ∧ (p.op = 0x21 → cmdCplNak p d = (d.takeCpl p).cplLateDrop p) := by
  refine ⟨fun hop => ?_, fun hop => ?_, fun hop => ?_⟩
  · rw [cmdCplData, Dev.onPacket_good hop hears good]
    simp only [Dev.cplNamed_congr (d.takeCpl_cpl p), unnamed]
  · rw [cmdCplAck, Dev.onPacket_good hop hears good]
    simp only [Dev.cplNamed_congr (d.takeCpl_cpl p), unnamed]
  · rw [cmdCplNak, Dev.onPacket_good hop hears good]
    simp only [Dev.cplNamed_congr (d.takeCpl_cpl p), unnamed]

/-! ### The width of the link (R638, R640) -/

/-- The link once the peer has named its lane groups. -/
abbrev LinkSt.peerGroups (l : LinkSt) (g : Nat) : LinkSt := { l with groupsPeer := g }

theorem cmdLinkCtlGroups_eq (hop : p.op = 0x4C) (sub : p.arg % 256 = 0) : cmdLinkCtlGroups p d =
    if ((d.takeCpl p).linkOf 6).step = 0 then d.takeCpl p
    else if (((d.takeCpl p).linkOf 6).peerGroups (bitsAt p.arg 8 4)).groups = 0 then
      ((d.takeCpl p).setLink 6 (((d.takeCpl p).linkOf 6).peerGroups (bitsAt p.arg 8 4))).cplDown
    else if 2 ≤ d.rf F.CPL_STATUS_STATE then ((d.takeCpl p).setLink 6 (((d.takeCpl p).linkOf 6).peerGroups (bitsAt p.arg 8 4))).cplShowWidth
    else
      let e := ((((d.takeCpl p).setLink 6 (((d.takeCpl p).linkOf 6).peerGroups (bitsAt p.arg 8 4))).wf F.CPL_STATUS_STATE 2).cplShowWidth.wf
        F.CPL_STATUS_QUAR 0).bump F.CPL_STATUS_LINKUPS 1
      if e.rf F.SEC_STATUS_STAGE = 0 then e.bootRom else e := by
  rw [cmdLinkCtlGroups, if_neg fun other => other sub, Dev.onPacket_good hop hears good]
  simp only [Dev.linkOf_setLink_same, Dev.rf_setLink, Dev.takeCpl_rf]

theorem cmdLinkCtlWidthChange_eq (hop : p.op = 0x4C) (sub : p.arg % 256 = 1) (up : 2 ≤ d.rf F.CPL_STATUS_STATE) {g : Nat} (hg : g = bitsAt p.arg 8 4)
    {l : LinkSt} (hl : l = (d.takeCpl p).linkOf 6)
    {d2 : Dev} (hd2 : d2 = (d.takeCpl p).sendCpl { op := 0x4C, arg := 2 + g * 2 ^ 8, addr := l.txNext % 4096 })
    {l' : LinkSt} (hl' : l' = { d2.linkOf 6 with groupsPeer := g, widthAtTx := some (l.txNext, g), widthAtRx := some (p.addr % 4096, g) }) :
    cmdLinkCtlWidthChange p d = if l'.groups = 0 then (d2.setLink 6 l').cplDown else (d2.setLink 6 l').cplShowWidth := by
  rw [cmdLinkCtlWidthChange, if_neg fun other => other sub, Dev.onPacket_good hop hears good]
  simp only [Dev.takeCpl_rf, Nat.not_lt.2 up, if_false, Dev.sendLinkCtl, ← hg, ← hl, ← hd2, ← hl', Dev.linkOf_setLink_same]

theorem cmdLinkCtlWidthAnswer_eq (hop : p.op = 0x4C) (sub : p.arg % 256 = 2) : cmdLinkCtlWidthAnswer p d =
    if d.cpl.widthAsked ≠ some (bitsAt p.arg 8 4) then d.takeCpl p
    else
      ({ (d.takeCpl p).setLink 6 { (d.takeCpl p).linkOf 6 with widthAtRx := some (p.addr % 4096, bitsAt p.arg 8 4) } with
        cpl := { (d.takeCpl p).cpl with widthAsked := none } } : Dev).cplShowWidth := by
  rw [cmdLinkCtlWidthAnswer, if_neg fun other => other sub, Dev.onPacket_good hop hears good]
  exact if_congr (by rw [Dev.takeCpl_cpl]) rfl rfl

end

/-- A link that comes up shows its groups and width, with no class quarantined (R638, R640). -/
theorem Dev.cplUp_spec {d e : Dev} {l : LinkSt} (he : e = (((d.setLink 6 l).wf F.CPL_STATUS_STATE 2).cplShowWidth.wf F.CPL_STATUS_QUAR 0).bump
      F.CPL_STATUS_LINKUPS 1) :
    e.linkOf 6 = l ∧ e.rf F.CPL_STATUS_STATE = 2 ∧ e.rf F.CPL_STATUS_GROUPS = l.groups ∧ e.rf F.CPL_STATUS_WIDTH = 4 * popcount 4 l.groups
    ∧ e.rf F.CPL_STATUS_QUAR = 0 ∧ e.rf F.CPL_STATUS_LINKUPS = (d.rf F.CPL_STATUS_LINKUPS + 1) % 2 ^ 16
    ∧ e.rf F.SEC_STATUS_STAGE = d.rf F.SEC_STATUS_STAGE := by
  have link : ((d.setLink 6 l).wf F.CPL_STATUS_STATE 2).linkOf 6 = l := d.linkOf_setLink_same 6 l
  have shown : ((d.setLink 6 l).wf F.CPL_STATUS_STATE 2).cplShowWidth =
      (((d.setLink 6 l).wf F.CPL_STATUS_STATE 2).wf F.CPL_STATUS_GROUPS l.groups).wf F.CPL_STATUS_WIDTH (4 * popcount 4 l.groups) := by
    rw [Dev.cplShowWidth, link]
  have fab : e.fab = (d.setLink 6 l).fab := by rw [he, Dev.bump_fab]; rfl
  have groups := l.groups_lt
  have lanes := popcount_le 4 l.groups
  rw [shown] at he
  refine ⟨(Dev.linkOf_congr fab 6).trans (d.linkOf_setLink_same 6 l), ?_, ?_, ?_, ?_, ?_, ?_⟩
  · rw [he, Dev.rf_bump_apart _ _ (by decide) (by decide), Dev.rf_wf_apart _ _ (by decide) (by decide), Dev.rf_wf_apart _ _ (by decide) (by decide),
      Dev.rf_wf_apart _ _ (by decide) (by decide), Dev.rf_wf_same _ _ (by decide)]
    rfl
  · rw [he, Dev.rf_bump_apart _ _ (by decide) (by decide), Dev.rf_wf_apart _ _ (by decide) (by decide), Dev.rf_wf_apart _ _ (by decide) (by decide),
      Dev.rf_wf_same _ _ (by decide)]
    exact Nat.mod_eq_of_lt groups
  · rw [he, Dev.rf_bump_apart _ _ (by decide) (by decide), Dev.rf_wf_apart _ _ (by decide) (by decide), Dev.rf_wf_same _ _ (by decide)]
    exact Nat.mod_eq_of_lt (show 4 * popcount 4 l.groups < 2 ^ 5 by omega)
  · rw [he, Dev.rf_bump_apart _ _ (by decide) (by decide), Dev.rf_wf_same _ _ (by decide)]
    rfl
  · rw [he, Dev.rf_bump_one _ (by decide), Dev.rf_wf_apart _ _ (by decide) (by decide), Dev.rf_wf_apart _ _ (by decide) (by decide),
      Dev.rf_wf_apart _ _ (by decide) (by decide), Dev.rf_wf_apart _ _ (by decide) (by decide), Dev.rf_setLink]
    rfl
  · rw [he, Dev.rf_bump_elsewhere _ _ (by decide), Dev.rf_wf_elsewhere _ _ (by decide), Dev.rf_wf_elsewhere _ _ (by decide),
      Dev.rf_wf_elsewhere _ _ (by decide), Dev.rf_wf_elsewhere _ _ (by decide), Dev.rf_setLink]

/-! ### Timeouts and followed lines (R645, R652, R661) -/

theorem cmdCplRequestTimeout_eq {d : Dev} {tag : Nat} {r : CplReq} (found : d.cpl.reqs.find? (fun r => decide (r.tag = tag)) = some r) :
    cmdCplRequestTimeout tag d = if d.periodPast r.sentAt then d.cplFail r else d := by
  simp only [cmdCplRequestTimeout, found]

theorem cmdPollLine_idle {d : Dev} {line : Nat} (idle : d.cpl.followed.contains line = false ∨ d.reading line = true) : cmdPollLine line d = d := by
  rw [cmdPollLine, if_pos (by simpa using idle)]

section
variable {d : Dev} {line : Nat} (followed : d.cpl.followed.contains line = true) (idle : d.reading line = false)
include followed idle

theorem cmdPollLine_quarantined (quarantined : d.snoopQuarantined = true) : cmdPollLine line d = d.sendRead line false := by
  simp only [cmdPollLine, followed, idle, quarantined, Bool.not_true, Bool.or_false, Bool.false_eq_true, if_false, if_true]

variable (free : d.snoopQuarantined = false)
include free

theorem cmdPollLine_bad (polled : d.cpl.polled.contains line = true) (bad : d.badLine line = true) : cmdPollLine line d = d.sendRead line false := by
  simp only [cmdPollLine, followed, idle, free, polled, bad, Bool.not_true, Bool.or_false, Bool.false_eq_true, if_false, if_true]

theorem cmdPollLine_pinned (pinned : d.cpl.polled.contains line = false) :
    cmdPollLine line d = if (d.cplLine line).isNone then d.sendRead line true else d := by
  simp only [cmdPollLine, followed, idle, free, pinned, Bool.not_true, Bool.or_false, Bool.false_eq_true, if_false]

/-- Lines of a line's set that are Pinned beside it (R652). -/
def Dev.pinsBeside (d : Dev) (line : Nat) : Nat :=
  (d.cpl.followed.eraseDups.filter (fun m => decide (m % 4096 = line % 4096) && decide (m ≠ line) && d.pinnedLine m)).length

theorem cmdPollLine_good (polled : d.cpl.polled.contains line = true) (good : d.badLine line = false) :
    cmdPollLine line d = (d.pollEnd line).sendRead line (!(d.pollEnd line).cpl.polled.contains line) := by
  simp only [cmdPollLine, followed, idle, free, polled, good, Bool.not_true, Bool.or_false, Bool.false_eq_true, if_false, if_true]

omit idle free in
/-- A polled line takes a free place of its set: it is Pinned again, and nothing else changes. -/
theorem Dev.pollEnd_pins (room : d.pinsBeside line < 8) : (d.pollEnd line).cpl.polled.contains line = false ∧ (d.pollEnd line).pinnedLine line = true
    ∧ (∀ m, m ≠ line → (d.pollEnd line).pinnedLine m = d.pinnedLine m) ∧ (d.pollEnd line).mem = d.mem ∧ (d.pollEnd line).regs = d.regs
    ∧ (d.pollEnd line).cpl.cache = d.cpl.cache := by
  have pins : ¬8 ≤ (d.cpl.followed.eraseDups.filter (fun m => decide (m % 4096 = line % 4096) && decide (m ≠ line) && d.pinnedLine m)).length :=
    Nat.not_le.2 room
  rw [Dev.pollEnd]
  simp only [if_neg pins]
  have gone : (d.cpl.polled.filter (fun m => decide (m ≠ line))).contains line = false := by simp
  refine ⟨gone, ?_, fun m other => ?_, trivial, trivial, trivial⟩
  · simp only [Dev.pinnedLine, followed, gone, Bool.not_false, Bool.and_self]
  · have kept : (d.cpl.polled.filter (fun m => decide (m ≠ line))).contains m = d.cpl.polled.contains m := by
      rw [Bool.eq_iff_iff]
      simp [other]
    simp only [Dev.pinnedLine, kept]

omit followed idle free in
theorem Dev.pollEnd_full (full : 8 ≤ d.pinsBeside line) : d.pollEnd line = d := if_pos full

end

/-- Settles O56: each clause is the lemma of its command; the violations, failures and the device-physical space are lemmas of their own. -/
theorem companionPackets : Obligations.CompanionPackets := by
  unfold Obligations.CompanionPackets
  refine ⟨fun s p run hears => ⟨?refused, ?badOp, ?reserved, fun good => ⟨?read, ?write, ?masked, ?snoop, ?data, ?answers, ?late, ?link⟩⟩,
    fun s tag line run => ⟨?timeout, ?idle, ?poll⟩, ?violation, fun d r => d.cplFail_spec r, fun d a => ⟨d.devFind_populated a, fun r o => Dev.devFind_lt⟩⟩
  case refused =>
    intro k op command hop bad
    have refuses (f : Dev → Dev) : s.dev.onPacket op p f = s.dev.violate p (s.dev.cplCode p) := Dev.onPacket_bad hop hears bad f
    simp only [List.mem_cons, List.not_mem_nil, or_false, Prod.mk.injEq] at command
    obtain ⟨rfl, rfl⟩ | ⟨rfl, rfl⟩ | ⟨rfl, rfl⟩ | ⟨rfl, rfl⟩ | ⟨rfl, rfl⟩ | ⟨rfl, rfl⟩ | ⟨rfl, rfl⟩ := command <;> exact onDev_of_eq run (refuses _)
  case badOp =>
    exact fun bad => ⟨(onMiller_runs (State.miller_of_running run)).trans (by rw [cmdBadOp_violates hears bad]), Dev.cplCode_of_op bad⟩
  case reserved =>
    intro hop unknown first good
    refine (onMiller_runs (State.miller_of_running run)).trans ?_
    rw [cmdReservedCommand, if_neg (by simp [hop, unknown, hears, first]), if_neg (by simp [good])]
  case read => exact fun hop e bs read => onDev_of_eq run (cmdCplRd_answers hears good hop read)
  case write => exact fun hop e written => onDev_of_eq run (cmdCplWr_writes hears good hop written)
  case masked =>
    exact fun hop ws e bytes ascending written => onDev_of_eq run (cmdCplWrMask_writes hears good hop (CplPacket.written_eq hop bytes ascending) written)
  case snoop => exact fun hop => ⟨_, onDev_running run, cmdSnpInv_spec hears good hop⟩
  case data =>
    intro r hop named m e
    exact ⟨fun unsnooped free => onDev_of_eq run (cmdCplData_keeps hears good named hop unsnooped free),
      fun quarantined => onDev_of_eq run (cmdCplData_quarantined hears good named hop quarantined),
      fun snooped free => onDev_of_eq run (cmdCplData_snooped hears good named hop snooped free)⟩
  case answers =>
    exact fun r named => ⟨fun hop => onDev_of_eq run (cmdCplAck_frees hears good named hop),
      fun hop => onDev_of_eq run (cmdCplNak_fails hears good named hop)⟩
  case late =>
    intro unnamed k op command hop
    obtain ⟨data, ack, nak⟩ := cplAnswer_late hears good unnamed
    obtain ⟨mem, ctl, cpl, count⟩ := s.dev.cplLateDrop_spec p
    refine ⟨(s.dev.takeCpl p).cplLateDrop p, ?_, mem, ctl, by rw [cpl], by rw [cpl], by rw [cpl], count⟩
    simp only [List.mem_cons, List.not_mem_nil, or_false, Prod.mk.injEq] at command
    obtain ⟨rfl, rfl⟩ | ⟨rfl, rfl⟩ | ⟨rfl, rfl⟩ := command
    · exact onDev_of_eq run (data hop)
    · exact onDev_of_eq run (ack hop)
    · exact onDev_of_eq run (nak hop)
  case link =>
    intro hop g l
    have runs (f : Dev → Dev) {e : Dev} (effect : f s.dev = e) : onMiller f s = .next (s.after e) :=
      (onMiller_runs (State.miller_of_running run)).trans (by rw [effect])
    refine ⟨fun sub still => runs _ ((cmdLinkCtlGroups_eq hears good hop sub).trans (if_pos still)), ?_, ?_, fun sub asked => ?_, fun sub other => ?_⟩
    · intro sub moving l'
      have named := (cmdLinkCtlGroups_eq hears good hop sub).trans (if_neg moving)
      refine ⟨fun shut => runs _ (named.trans (if_pos shut)), fun some' up => runs _ (named.trans ((if_neg some').trans (if_pos up))),
        fun some' down booted => ?_⟩
      obtain ⟨link, state, groups, width, quar, linkups, stage⟩ := Dev.cplUp_spec (d := s.dev.takeCpl p) (l := l') rfl
      rw [Dev.takeCpl_rf] at linkups stage
      exact ⟨_, runs _ (named.trans ((if_neg some').trans ((if_neg (by omega)).trans (if_neg (by rw [stage]; exact booted))))), link, state, groups, width,
        quar, linkups⟩
    · intro sub up d2 l'
      exact runs _ (cmdLinkCtlWidthChange_eq hears good hop sub up rfl rfl rfl rfl)
    · exact runs _ ((cmdLinkCtlWidthAnswer_eq hears good hop sub).trans (if_neg fun other => other asked))
    · exact runs _ ((cmdLinkCtlWidthAnswer_eq hears good hop sub).trans (if_pos other))
  case timeout => exact fun r found => onDev_of_eq run (cmdCplRequestTimeout_eq found)
  case idle => exact fun idle => onDev_of_eq run (cmdPollLine_idle idle)
  case poll =>
    intro followed idle
    refine ⟨fun quarantined => onDev_of_eq run (cmdPollLine_quarantined followed idle quarantined),
      fun free polled bad => onDev_of_eq run (cmdPollLine_bad followed idle free polled bad),
      fun free pinned => onDev_of_eq run (cmdPollLine_pinned followed idle free pinned), ?_⟩
    intro free polled good pins
    refine ⟨fun full => ?_, fun room => ?_⟩
    · refine onDev_of_eq run ((cmdPollLine_good followed idle free polled good).trans ?_)
      rw [Dev.pollEnd_full full, polled]
      rfl
    · obtain ⟨gone, kept⟩ := Dev.pollEnd_pins followed room
      refine ⟨s.dev.pollEnd line, onDev_of_eq run ((cmdPollLine_good followed idle free polled good).trans ?_), kept⟩
      rw [gone]
      rfl
  case violation =>
    intro d p code _ small tag c e
    obtain ⟨rmem, rctl, rcpl, kept⟩ := d.refused_keeps p code
    have plain (f : Fld) (nak : f.off ≠ 0x1000018) (low : 0x1000000 ≤ f.off) (high : f.off ≤ 0x1000020) : (d.refused p code).rf f = d.rf f :=
      kept f nak (countReg_cpl low high)
    have status : (d.refused p code).rf F.CPL_STATUS_QUAR = d.rf F.CPL_STATUS_QUAR := plain _ (by decide) (by decide) (by decide)
    have limit : (d.refused p code).rf F.CPL_CTL_VIOL_LIMIT = d.rf F.CPL_CTL_VIOL_LIMIT := plain _ (by decide) (by decide) (by decide)
    have mark : (d.refused p code).rbit F.CPL_STATUS_QUAR c = d.rbit F.CPL_STATUS_QUAR c := congrArg (bitAt · c) status
    have next : (d.refused p code).violNext c = d.violNext c := by rw [Dev.violNext, rcpl, Dev.violNext]
    have effect : e = (d.refused p code).countViolation c code := d.violate_eq p code
    obtain ⟨count, mem, ctl, out, last⟩ := (d.refused p code).countViolation_spec c code
    rw [effect]
    refine ⟨?_, mem.trans rmem, ctl.trans rctl, fun answers => ?_, fun wide => ?_, fun narrow late => ?_, fun narrow early => ?_⟩
    · rw [count, plain _ (by rw [violField_off]; decide) (by rw [violField_off]; decide) (by rw [violField_off]; decide)]
    · obtain ⟨left, lastCode, lastClass, lastTag⟩ := d.refused_naks code answers
      refine ⟨out ▸ left, fun hc => ⟨?_, ?_, ?_⟩⟩
      · rw [last _ rfl, lastCode, Nat.mod_eq_of_lt (by omega)]
      · rw [last _ rfl, lastClass, Nat.mod_eq_of_lt (by omega)]
      · rw [last _ rfl, lastTag, Nat.mod_eq_of_lt (by omega)]
    · exact ((d.refused p code).countViolation_of_kept (.inl wide)).1.trans status
    · obtain ⟨same, cpl⟩ := (d.refused p code).countViolation_of_kept (c := c) (.inr late)
      exact ⟨same.trans status, by rw [cpl, rcpl], by rw [cpl, rcpl]⟩
    · obtain ⟨turn, marked, lost⟩ := (d.refused p code).countViolation_quarantines narrow early
      rw [next] at turn
      rw [mark, limit, next] at marked
      refine ⟨turn, marked, fun free more snoop => lost ⟨?_, ?_⟩ snoop⟩
      · rw [limit, next]
        exact more
      · rw [mark]
        exact free

end Sys2Proof.Machine
end

section
/-!
Proofs, commands of the management channel (R653 to R656, R659, R664, R669, R670, R681 to R683): how a command is taken and answered, the coherent
classes, images, packs, and the reports of the module's identity.
-/
namespace Sys2Proof.Machine

/-! ### What sending leaves of the module's store -/

section
variable {d e : Dev} (h : d.sends e)
include h

theorem Dev.sends.boot : e.boot = d.boot := by rw [h.same]
theorem Dev.sends.cfg : e.cfg = d.cfg := by rw [h.same]
theorem Dev.sends.pwr : e.pwr = d.pwr := by rw [h.same]
theorem Dev.sends.flash : e.flash = d.flash := by rw [h.same]

end

section
variable (d : Dev) (p : CplPacket)

theorem Dev.takeCpl_boot : (d.takeCpl p).boot = d.boot := (d.mails_takeCpl p).sends.boot
theorem Dev.takeCpl_cfg : (d.takeCpl p).cfg = d.cfg := (d.mails_takeCpl p).sends.cfg
theorem Dev.takeCpl_pwr : (d.takeCpl p).pwr = d.pwr := (d.mails_takeCpl p).sends.pwr
theorem Dev.takeCpl_flash : (d.takeCpl p).flash = d.flash := (d.mails_takeCpl p).sends.flash
theorem Dev.takeCpl_rb (f : Fld) : (d.takeCpl p).rb f = d.rb f := by rw [Dev.rb, Dev.takeCpl_rf, Dev.rb]
theorem Dev.takeCpl_coherent : (d.takeCpl p).coherent = d.coherent := (d.mails_takeCpl p).sends.coherent

end

/-- An answer leaves the boot stage. -/
theorem Dev.cplResult_stage (d : Dev) (p : CplPacket) (status addr : Nat) : (d.cplResult p status addr).rf F.SEC_STATUS_STAGE = d.rf F.SEC_STATUS_STAGE :=
  (d.mails_sendCpl _).sends.rf (by decide)

/-! ### Taking a command (R655, R656) -/

section
variable {d : Dev} {p : CplPacket} (hears : d.cplHears p = true) (hop : p.op = 0x42) (first : d.cmdFirst p = true)
include hears hop first

theorem Dev.onCommand_bad {c : Nat} (code : p.arg % 256 = c) (bad : d.cplCode p ≠ 0) (f : Dev → Dev) : d.onCommand c p f = d.violate p (d.cplCode p) :=
  (if_pos ⟨code, first⟩).trans (Dev.onPacket_bad hop hears bad _)

variable (good : d.cplCode p = 0)
include good

theorem Dev.onCommand_good {c : Nat} (code : p.arg % 256 = c) (f : Dev → Dev) : d.onCommand c p f = f (d.takeCpl p) :=
  (if_pos ⟨code, first⟩).trans (Dev.onPacket_good hop hears good _)

/-- A command that is open before stage 0x04 is answered with a free status there (log entry 58). -/
theorem Dev.onCommand_early {c : Nat} (code : p.arg % 256 = c) (early : d.rf F.SEC_STATUS_STAGE < 4) {f : Dev → Dev}
    (opens : ∀ e : Dev, e.rf F.SEC_STATUS_STAGE < 4 → f e = e.answerOpen p) : d.onCommand c p f = (d.takeCpl p).answerOpen p :=
  (Dev.onCommand_good hears hop first good code f).trans (opens _ (by rw [Dev.takeCpl_rf]; exact early))

/-- From stage 0x04 on it does its work. -/
theorem Dev.onCommand_late {c : Nat} (code : p.arg % 256 = c) (late : 4 ≤ d.rf F.SEC_STATUS_STAGE) (f : Dev → Dev) :
    d.onCommand c p (fun e => if e.rf F.SEC_STATUS_STAGE < 4 then e.answerOpen p else f e) = f (d.takeCpl p) := by
  rw [Dev.onCommand_good hears hop first good code, Dev.takeCpl_rf, if_neg (by omega)]

/-! ### The coherent classes (R653, R659) -/

theorem cmdLinkCoherent_open (code : p.arg % 256 = 0x01) (shut : d.rf F.SEC_STATUS_STAGE < 5 ∨ d.pwr.cause ≠ 0) :
    cmdLinkCoherent p d = (d.takeCpl p).answerOpen p := by
  rw [cmdLinkCoherent, Dev.onCommand_good hears hop first good code, Dev.takeCpl_rf, Dev.takeCpl_pwr, if_pos shut]

theorem cmdLinkCoherent_opens (code : p.arg % 256 = 0x01) (ready : 5 ≤ d.rf F.SEC_STATUS_STAGE) (untripped : d.pwr.cause = 0) :
    cmdLinkCoherent p d = (((d.takeCpl p).wf F.CPL_STATUS_STATE 3).cplResult p 0 0).refollow.pumpCpl.srvTryAll := by
  rw [cmdLinkCoherent, Dev.onCommand_good hears hop first good code, Dev.takeCpl_rf, Dev.takeCpl_pwr, if_neg (by omega)]

theorem cmdRelease_open (code : p.arg % 256 = 0x02) (shut : d.rf F.SEC_STATUS_STAGE < 4 ∨ d.pwr.cause ≠ 0) :
    cmdRelease p d = (d.takeCpl p).answerOpen p := by
  rw [cmdRelease, Dev.onCommand_good hears hop first good code, Dev.takeCpl_rf, Dev.takeCpl_pwr, if_pos shut]

/-- Quarantine of the classes that ADDR names ends. -/
theorem cmdRelease_releases (code : p.arg % 256 = 0x02) (ready : 4 ≤ d.rf F.SEC_STATUS_STAGE) (untripped : d.pwr.cause = 0) :
    cmdRelease p d =
      (((d.takeCpl p).wf F.CPL_STATUS_QUAR (d.rf F.CPL_STATUS_QUAR &&& (3 - p.addr % 4))).cplResult p 0 0).refollow := by
  rw [cmdRelease, Dev.onCommand_good hears hop first good code, Dev.takeCpl_rf, Dev.takeCpl_pwr, if_neg (by omega), Dev.takeCpl_rf]

/-! ### Images (R664, R669) -/

theorem cmdImgBegin_eq (code : p.arg % 256 = 0x10) : cmdImgBegin p d = if 0x200000 < p.addr then (d.takeCpl p).cplResult p 1 0
    else ({ d.takeCpl p with boot := { (d.takeCpl p).boot with image := some { len := p.addr }, pack := none } } : Dev).cplResult p 0 0 := by
  rw [cmdImgBegin, Dev.onCommand_good hears hop first good code]

end

/-- The module once the image under transfer is taken up. -/
abbrev Dev.imgTaken (d : Dev) (p : CplPacket) : Dev := { d.takeCpl p with boot := { (d.takeCpl p).boot with image := none } }

/-- The boot ROM waits again where it waited. -/
def Dev.bootAgain (d : Dev) (stage : Nat) : Dev := if stage < 4 then d.bootStage 3 else d

theorem Dev.imgFailed_eq (d : Dev) (p : CplPacket) (status : Nat) :
    d.imgFailed p status = (d.cplResult p status 0).bootAgain (d.rf F.SEC_STATUS_STAGE) := by
  rw [Dev.imgFailed, Dev.cplResult_stage]
  rfl

theorem Dev.imgTaken_stage (d : Dev) (p : CplPacket) : (d.imgTaken p).rf F.SEC_STATUS_STAGE = d.rf F.SEC_STATUS_STAGE := d.takeCpl_rf p _

section
variable {d : Dev} {p : CplPacket} (hears : d.cplHears p = true) (hop : p.op = 0x42) (first : d.cmdFirst p = true) (good : d.cplCode p = 0)
  (code : p.arg % 256 = 0x11) (ok : Bool) {u : Upload} (image : d.boot.image = some u)
include hears hop first good code image

/-- An image that did not arrive whole, or whose format or lengths fail, is refused. -/
theorem cmdImgEnd_of_format (fails : u.whole = false ∨ checkImage u.bytes = .format) : cmdImgEnd p ok d = (d.imgTaken p).imgFailed p 1 := by
  have taken : (d.takeCpl p).boot.image = some u := by rw [Dev.takeCpl_boot, image]
  rw [cmdImgEnd, Dev.onCommand_good hears hop first good code]
  simp only [taken, Option.getD_some]
  cases whole : u.whole
  · rfl
  · simp only [fails.resolve_left (by simp [whole]), Bool.not_true, Bool.false_eq_true, if_false]

theorem cmdImgEnd_of_signature (whole : u.whole = true) (fails : checkImage u.bytes = .signature) : cmdImgEnd p ok d = (d.imgTaken p).imgFailed p 3 := by
  have taken : (d.takeCpl p).boot.image = some u := by rw [Dev.takeCpl_boot, image]
  rw [cmdImgEnd, Dev.onCommand_good hears hop first good code]
  simp only [taken, Option.getD_some, whole, fails, Bool.not_true, Bool.false_eq_true, if_false]

theorem cmdImgEnd_of_verified {n : Nat} (whole : u.whole = true) (passes : checkImage u.bytes = .ok n) :
    cmdImgEnd p ok d = (d.imgTaken p).imgVerified p u.bytes n ok := by
  have taken : (d.takeCpl p).boot.image = some u := by rw [Dev.takeCpl_boot, image]
  rw [cmdImgEnd, Dev.onCommand_good hears hop first good code]
  simp only [taken, Option.getD_some, whole, passes, Bool.not_true, Bool.false_eq_true, if_false]

end

/-- A verified image runs as recovery where the boot ROM waits. -/
def Dev.recovered (d : Dev) (stage : Nat) (bs : List Byte) (n : Nat) : Dev := if stage < 4 then d.firmwareStart bs n true else d

theorem Dev.imgVerified_eq (d : Dev) (p : CplPacket) (bs : List Byte) (n : Nat) (ok : Bool) : d.imgVerified p bs n ok =
    if p.addr % 2 = 0 then (d.cplResult p 0 0).recovered (d.rf F.SEC_STATUS_STAGE) bs n
    else (d.recovered (d.rf F.SEC_STATUS_STAGE) bs n).writeImage p bs ok := by
  unfold Dev.imgVerified Dev.recovered
  simp only [decide_eq_true_eq]

end Sys2Proof.Machine
end

section
/-!
Proofs, transfers on the management channel (R604, R654, R656, R670, R679 to R683): the bytes of an upload, pattern packs, and the report and the record
that the module sends.
-/
namespace Sys2Proof.Machine

/-! ### Uploads (R656) -/

/-- Bytes put one after another from `o` on: those below the announced length are there. -/
theorem get_putBytes (len o : Nat) (bs : List Byte) (m : SMap (Option Byte)) (i : Nat) :
    SMap.get (fun _ => none) (bs.zipIdx.foldl (fun m e => if o + e.2 < len then SMap.set (fun _ => none) m (o + e.2) (some e.1) else m) m) i =
      if o ≤ i ∧ i < o + bs.length ∧ i < len then bs[i - o]? else SMap.get (fun _ => none) m i := by
  induction bs using List.reverseRecOn with
  | nil =>
    rw [if_neg (by simp only [List.length_nil]; omega)]
    rfl
  | append_singleton bs b ih =>
    rw [List.zipIdx_append, List.foldl_append, List.length_append, List.length_singleton]
    simp only [List.zipIdx_singleton, List.foldl_cons, List.foldl_nil, Nat.zero_add]
    by_cases last : i = o + bs.length
    · subst last
      by_cases fits : o + bs.length < len
      · rw [if_pos fits, SMap.get_set_same, if_pos (by omega), Nat.add_sub_cancel_left, List.getElem?_concat_length]
      · rw [if_neg fits, ih, if_neg (by omega), if_neg (by omega)]
    · have others : SMap.get (fun _ => none) (if o + bs.length < len then SMap.set (fun _ => none) (bs.zipIdx.foldl (fun m e =>
          if o + e.2 < len then SMap.set (fun _ => none) m (o + e.2) (some e.1) else m) m) (o + bs.length) (some b) else bs.zipIdx.foldl (fun m e =>
          if o + e.2 < len then SMap.set (fun _ => none) m (o + e.2) (some e.1) else m) m) i = SMap.get (fun _ => none) (bs.zipIdx.foldl (fun m e =>
          if o + e.2 < len then SMap.set (fun _ => none) m (o + e.2) (some e.1) else m) m) i := by
        split
        · exact SMap.get_set_other _ _ last
        · rfl
      rw [others, ih]
      by_cases inside : o ≤ i ∧ i < o + bs.length ∧ i < len
      · rw [if_pos inside, if_pos (by omega), List.getElem?_append_left (by omega)]
      · rw [if_neg inside, if_neg (by omega)]

theorem Upload.put_spec (u : Upload) (o : Nat) (bs : List Byte) : ((u.put o bs).beyond = true ↔ u.beyond = true ∨ u.len < o + bs.length)
    ∧ ∀ i, SMap.get (fun _ => none) (u.put o bs).got i = if o ≤ i ∧ i < o + bs.length ∧ i < u.len then bs[i - o]? else SMap.get (fun _ => none) u.got i :=
  ⟨by simp only [Upload.put, Bool.or_eq_true, decide_eq_true_eq], fun i => get_putBytes u.len o bs u.got i⟩

/-! ### Pattern packs (R604, R670) -/

section
variable {d e : Dev} (flash : e.flash = d.flash)
include flash

theorem Dev.packBytes_congr (k : Nat) : e.packBytes k = d.packBytes k := by
  unfold Dev.packBytes Dev.packSlot
  rw [flash]

theorem Dev.packVer_congr (k : Nat) : e.packVer k = d.packVer k := by rw [Dev.packVer, Dev.packBytes_congr flash, Dev.packVer]

theorem Dev.packOk_congr (running : e.boot.running = d.boot.running) (k : Nat) : e.packOk k = d.packOk k := by
  rw [Dev.packOk, Dev.packBytes_congr flash, Dev.packKeyHash, running, Dev.packOk, Dev.packKeyHash]

end

theorem Dev.inactiveSlot_lt (d : Dev) : d.inactiveSlot < 2 := by
  unfold Dev.inactiveSlot
  split <;> decide

theorem Dev.setPack_boot (d : Dev) (k : Nat) (s : PackSlot) : (d.setPack k s).boot = d.boot := by
  unfold Dev.setPack
  split <;> rfl

theorem Dev.setPack_regs (d : Dev) (k : Nat) (s : PackSlot) : (d.setPack k s).regs = d.regs := by
  unfold Dev.setPack
  split <;> rfl

theorem Dev.packBytes_setPack_same (d : Dev) (k : Nat) (s : PackSlot) :
    (d.setPack k s).packBytes k = (List.range s.len).map (fun i => SMap.get (fun _ => 0) s.bytes i) := by
  unfold Dev.packBytes Dev.packSlot Dev.setPack
  by_cases zero : k = 0
  · simp only [if_pos zero]
  · simp only [if_neg zero]

/-- A write of one slot leaves the other. -/
theorem Dev.packBytes_setPack_other (d : Dev) {j k : Nat} (hj : j < 2) (hk : k < 2) (other : j ≠ k) (s : PackSlot) :
    (d.setPack k s).packBytes j = d.packBytes j := by
  unfold Dev.packBytes Dev.packSlot Dev.setPack
  obtain ⟨rfl, rfl⟩ | ⟨rfl, rfl⟩ : (j = 0 ∧ k = 1) ∨ (j = 1 ∧ k = 0) := by omega
  · rfl
  · rfl

/-- The pack in slot k is newer than the active one (R604). -/
def Dev.packNewer (d : Dev) (k : Nat) : Bool := d.boot.packActive.all (fun a => decide (d.packVer a < d.packVer k))

/-- The module once the pack under transfer is taken up. -/
def Dev.packTaken (d : Dev) (p : CplPacket) : Dev := { d.takeCpl p with boot := { (d.takeCpl p).boot with pack := none } }

/-- The module when a pack's slot does not read back as written. -/
def Dev.packGarbled (d : Dev) : Dev :=
  d.tick.setPack d.inactiveSlot
    { len := (Config.flashGarbage d.fresh).length,
      bytes := ((Config.flashGarbage d.fresh).zipIdx.map (fun e => (e.2, e.1))).filter (fun e => decide (e.2 ≠ 0)) }

section
variable {d : Dev} {p : CplPacket} (hears : d.cplHears p = true) (good : d.cplCode p = 0) (hop : p.op = 0x42)
  (first : d.cmdFirst p = true) (late : 4 ≤ d.rf F.SEC_STATUS_STAGE)
include hears good hop first late

/-- PACK_BEGIN erases the inactive slot. -/
theorem cmdPackBegin_erases (code : p.arg % 256 = 0x18) : ∃ e : Dev, cmdPackBegin p d = e.cplResult p 0 0 ∧ e.boot.pack = some { len := p.addr }
    ∧ e.boot.image = none ∧ e.boot.packActive = d.boot.packActive ∧ e.packBytes d.inactiveSlot = []
    ∧ ∀ k, k < 2 → k ≠ d.inactiveSlot → e.packBytes k = d.packBytes k := by
  have slot : (d.takeCpl p).inactiveSlot = d.inactiveSlot := by rw [Dev.inactiveSlot, Dev.takeCpl_boot, Dev.inactiveSlot]
  refine ⟨_, Dev.onCommand_late hears hop first good code late _, ?_, ?_, ?_, ?_, fun k hk other => ?_⟩
  · rw [Dev.setPack_boot]
  · rw [Dev.setPack_boot]
  · rw [Dev.setPack_boot]
    exact (congrArg BootSt.packActive (d.takeCpl_boot p) :)
  · rw [← slot]
    exact Dev.packBytes_setPack_same ..
  · refine (Dev.packBytes_setPack_other _ hk (Dev.inactiveSlot_lt _) ?_ _).trans (Dev.packBytes_congr (d.takeCpl_flash p) k)
    exact slot ▸ other

/-- The checks of PACK_END, in their order. -/
theorem cmdPackEnd_eq (code : p.arg % 256 = 0x19) (ok : Bool) {u : Upload} (pack : d.boot.pack = some u) : cmdPackEnd p ok d =
    if (!u.whole) = true ∨ packSlotBytes < u.len then (d.packTaken p).packFails p 1
    else if (!d.packOk d.inactiveSlot) = true then (d.packTaken p).packFails p 3
    else if (!d.packNewer d.inactiveSlot) = true then (d.packTaken p).packFails p 6
    else if (!ok) = true then (d.packTaken p).packGarbled.packFails p 7
    else ({ d.packTaken p with boot := { (d.packTaken p).boot with packDue := some d.inactiveSlot } } : Dev).cplResult p 0 0 := by
  have taken : (d.takeCpl p).boot.pack = some u := by rw [Dev.takeCpl_boot, pack]
  have active : (d.packTaken p).boot.packActive = d.boot.packActive := (congrArg BootSt.packActive (d.takeCpl_boot p) :)
  have slot : (d.packTaken p).inactiveSlot = d.inactiveSlot := by rw [Dev.inactiveSlot, active, Dev.inactiveSlot]
  have valid (k : Nat) : (d.packTaken p).packOk k = d.packOk k := Dev.packOk_congr (d.takeCpl_flash p) (congrArg BootSt.running (d.takeCpl_boot p) :) k
  have version (k : Nat) : (d.packTaken p).packVer k = d.packVer k := Dev.packVer_congr (e := d.packTaken p) (d.takeCpl_flash p) k
  have newer (k : Nat) : (d.packTaken p).packNewer k = d.packNewer k := by
    rw [Dev.packNewer, active, Dev.packNewer]
    simp only [version]
  have judged (k : Nat) : (match (d.takeCpl p).boot.packActive with
      | some a => decide ((d.packTaken p).packVer a < (d.packTaken p).packVer k)
      | none => true) = (d.packTaken p).packNewer k := by
    change _ = (d.takeCpl p).boot.packActive.all _
    cases (d.takeCpl p).boot.packActive <;> rfl
  have upload : u = (d.takeCpl p).boot.pack.getD { len := 0, beyond := true } := by rw [taken, Option.getD_some]
  refine (Dev.onCommand_late hears hop first good code late _).trans ?_
  rw [← newer, ← valid, ← slot, ← judged, upload]
  rfl

end

/-! ### Blocks (R656) -/

section
variable {d : Dev} {p : CplPacket} (hears : d.cplHears p = true) (good : d.cplCode p = 0) (hop : p.op = 0x43)
include hears good hop

/-- A block of the image under transfer is put at its offset. -/
theorem cmdBlock_image {u : Upload} (image : d.boot.image = some u) :
    cmdBlock p d = { d.takeCpl p with boot := { (d.takeCpl p).boot with image := some (u.put p.addr p.payload) } } := by
  have taken : (d.takeCpl p).boot.image = some u := by rw [Dev.takeCpl_boot, image]
  rw [cmdBlock, Dev.onPacket_good hop hears good]
  simp only [taken]

/-- A block of the pack under transfer is put there and written to the inactive slot. -/
theorem cmdBlock_pack {u : Upload} (image : d.boot.image = none) (pack : d.boot.pack = some u) : ∃ e, cmdBlock p d = e
    ∧ e.boot = { (d.takeCpl p).boot with pack := some (u.put p.addr p.payload) } ∧ (∀ k, k < 2 → k ≠ d.inactiveSlot → e.packBytes k = d.packBytes k)
    ∧ e.regs = d.regs := by
  have noImage : (d.takeCpl p).boot.image = none := by rw [Dev.takeCpl_boot, image]
  have taken : (d.takeCpl p).boot.pack = some u := by rw [Dev.takeCpl_boot, pack]
  have slot : (d.takeCpl p).inactiveSlot = d.inactiveSlot := by rw [Dev.inactiveSlot, Dev.takeCpl_boot, Dev.inactiveSlot]
  rw [cmdBlock, Dev.onPacket_good hop hears good]
  simp only [noImage, taken]
  refine ⟨_, rfl, Dev.setPack_boot .., fun k hk other => ?_, (Dev.setPack_regs ..).trans (d.takeCpl_regs p)⟩
  exact (Dev.packBytes_setPack_other _ hk (Dev.inactiveSlot_lt _) (slot ▸ other) _).trans (Dev.packBytes_congr (d.takeCpl_flash p) k)

theorem cmdBlock_none (image : d.boot.image = none) (pack : d.boot.pack = none) : cmdBlock p d = d.takeCpl p := by
  have noImage : (d.takeCpl p).boot.image = none := by rw [Dev.takeCpl_boot, image]
  have noPack : (d.takeCpl p).boot.pack = none := by rw [Dev.takeCpl_boot, pack]
  rw [cmdBlock, Dev.onPacket_good hop hears good]
  simp only [noImage, noPack]

end

/-- A byte string cut into blocks (R654). -/
theorem chunks_spec {n : Nat} (pos : 0 < n) (f : Nat) {bs : List Byte} (enough : bs.length ≤ f) :
    (chunks n f bs).flatten = bs ∧ ∀ c ∈ chunks n f bs, c.length ≤ n := by
  induction f generalizing bs with
  | zero =>
    rw [List.length_eq_zero_iff.1 (Nat.le_zero.1 enough)]
    simp [chunks]
  | succ f ih =>
    cases bs with
    | nil => simp [chunks]
    | cons b bs =>
      have shorter : ((b :: bs).drop n).length ≤ f := by rw [List.length_drop]; omega
      obtain ⟨whole, short⟩ := ih shorter
      refine ⟨?_, fun c hc => ?_⟩
      · rw [chunks, List.flatten_cons, whole, List.take_append_drop]
        exact List.cons_ne_nil _ _
      · rw [chunks] at hc
        · obtain rfl | rest := List.mem_cons.1 hc
          · exact List.length_take_le ..
          · exact short c rest
        · exact List.cons_ne_nil _ _

/-! ### The identity and the report (R679 to R683) -/

theorem length_fit (n : Nat) (bs : List Byte) : (fit n bs).length = n := by
  rw [fit, List.length_take, List.length_append, List.length_replicate]
  omega

theorem Dev.length_wordBytes (d : Dev) (f : Nat → Fld) : (d.wordBytes f).length = 64 := by
  simp only [Dev.wordBytes, List.length_flatMap, length_leBytes]
  rfl

theorem length_identityRecord (x : Nat) : (identityRecord x).length = 7227 := by
  simp only [identityRecord, identityPublic, List.length_append, length_fit, length_leBytes]

/-- The report's bytes before the nonce. -/
def Dev.reportHead (d : Dev) : List Byte :=
  leBytes 4 1
    ++ leBytes 4 (d.rf F.SEC_STATUS_RECOVERY + 2 * d.rf F.SEC_CFG_STAT_TRIAL + 4 * d.rf F.SEC_STATUS_STORE_FAULT + 8 * b2n d.boot.packActive.isNone)
    ++ leBytes 8 Config.serial ++ leBytes 8 d.time ++ leBytes 4 d.turn ++ leBytes 4 (d.rf F.SEC_STATUS_FW_VERSION)
    ++ leBytes 4 (d.rf F.SEC_CFG_GEN_CURRENT) ++ leBytes 4 (d.rf F.TST_PACK_VERSION) ++ List.replicate 24 0

/-- The digest of the active pack. -/
def Dev.reportPack (d : Dev) : List Byte :=
  match d.boot.packActive with
  | some k => leBytes 64 (Config.packDigest (d.packBytes k))
  | none => List.replicate 64 0

theorem Dev.report_eq (d : Dev) (x : Nat) (nonce : List Byte) : d.report x nonce =
    d.reportHead ++ (fit 64 nonce ++ (d.wordBytes F.SEC_FW_MEAS_WORD ++ (d.wordBytes F.SEC_CFG_MEAS_WORD ++ (d.reportPack ++ identityPublic x)))) := by
  simp only [Dev.report, Dev.reportHead, Dev.reportPack, List.append_assoc] <;> rfl

theorem Dev.length_reportHead (d : Dev) : d.reportHead.length = 64 := by
  simp only [Dev.reportHead, List.length_append, length_leBytes, List.length_replicate]

theorem Dev.length_reportPack (d : Dev) : d.reportPack.length = 64 := by
  unfold Dev.reportPack
  split
  · exact length_leBytes ..
  · exact List.length_replicate ..

theorem Dev.length_report (d : Dev) (x : Nat) (nonce : List Byte) : (d.report x nonce).length = 2912 := by
  simp only [Dev.report_eq, identityPublic, List.length_append, length_fit, Dev.length_wordBytes, Dev.length_reportHead, Dev.length_reportPack]

theorem Dev.length_signedReport (d : Dev) (x : Nat) (nonce : List Byte) : (d.signedReport x nonce).length = 7539 := by
  simp only [Dev.signedReport, List.length_append, length_fit, Dev.length_report]

/-- The nonce stands at byte 64 of the report. -/
theorem Dev.report_nonce (d : Dev) (x : Nat) (nonce : List Byte) : ((d.report x nonce).drop 64).take 64 = fit 64 nonce := by
  rw [Dev.report_eq, List.drop_left' d.length_reportHead, List.take_left' (length_fit 64 nonce)]

end Sys2Proof.Machine
end

section
/-!
Proofs, configuration generations (R671 to R678): staging, returning and confirming a blob, the check of the store, and what a boundary does with a
staged generation, a return and a trial.
-/
namespace Sys2Proof.Machine

/-! ### Registers and the store -/

theorem Dev.rb_congr {d e : Dev} {f : Fld} (h : e.rf f = d.rf f) : e.rb f = d.rb f := by rw [Dev.rb, h, Dev.rb]

theorem Dev.setWords_rf (d : Dev) (f : Nat → Fld) (v : Nat) {g : Fld} (h : ∀ k, k < 8 → g.off ≠ (f k).off) : (d.setWords f v).rf g = d.rf g := by
  unfold Dev.setWords
  refine List.foldlRecOn (motive := fun e : Dev => e.rf g = d.rf g) _ _ rfl fun e kept k hk => ?_
  exact (e.rf_wf_elsewhere _ (h k (List.mem_range.1 hk))).trans kept

theorem Dev.setWords_cfg (d : Dev) (f : Nat → Fld) (v : Nat) : (d.setWords f v).cfg = d.cfg :=
  foldl_keep Dev.cfg _ (fun e k => e.wf_cfg (f k) _) _ _

theorem Dev.setWords_out (d : Dev) (f : Nat → Fld) (v : Nat) : (d.setWords f v).out = d.out :=
  foldl_keep Dev.out _ (fun e k => e.wf_out (f k) _) _ _

theorem Dev.timeOutWins_cfg (d : Dev) (port : Nat) (f : WinReq → Bool) : (d.timeOutWins port f).cfg = d.cfg := by
  unfold Dev.timeOutWins
  dsimp only
  split
  · rfl
  · split
    · exact Dev.bump_cfg ..
    · exact (Dev.postError_cfg ..).trans (Dev.bump_cfg ..)

theorem Dev.portDown_cfg (d : Dev) (port : Nat) : (d.portDown port).cfg = d.cfg :=
  (Dev.postError_cfg ..).trans (Dev.timeOutWins_cfg ..)

theorem Dev.writeLoop_cfg (d : Dev) (k off v : Nat) : (d.writeLoop k off v).cfg = d.cfg := by
  simp only [Dev.writeLoop, apply_ite Dev.cfg, Dev.bump_cfg, Dev.wf_cfg, Dev.setReg_cfg, ite_self]

theorem Dev.afterWrite_cfg (d : Dev) (r : RegSpec) (idx : List Nat) (off old v : Nat) : (d.afterWrite r idx off old v).cfg = d.cfg := by
  simp only [Dev.afterWrite, apply_ite Dev.cfg, Dev.upstreamMoved, Dev.setSrv, Dev.clamped_cfg, Dev.wf_cfg, Dev.wb_cfg, Dev.portDown_cfg, ite_self]

/-- A register that a blob writes leaves the store of generations (R671). -/
theorem Dev.applyReg_cfg (d : Dev) (off v : Nat) : (d.applyReg off v).cfg = d.cfg := by
  unfold Dev.applyReg
  split
  · rfl
  · next r idx _ =>
    have judged : (d.judge r idx off v).1.cfg = d.cfg := Dev.bump_cfg ..
    dsimp only
    split
    · exact (Dev.writeLoop_cfg ..).trans judged
    · split <;> exact (Dev.afterWrite_cfg ..).trans judged

theorem Dev.applyRec_cfg (d : Dev) (off v : Nat) : (d.applyRec off v).cfg = d.cfg := by
  unfold Dev.applyRec
  split
  · rfl
  · exact (Dev.applyReg_cfg ..).trans (Dev.bump_cfg ..)

theorem Dev.applyRecs_cfg (d : Dev) (recs : List (Nat × Word)) :
    (d.applyRecs recs).cfg = { d.cfg with applied := d.cfg.applied ++ recs.map (·.1) } := by
  have kept : (recs.foldl (fun d e => d.applyRec e.1 e.2.toNat) d).cfg = d.cfg := foldl_keep Dev.cfg _ (fun _ _ => Dev.applyRec_cfg ..) _ _
  unfold Dev.applyRecs
  dsimp only
  rw [kept]

/-! ### A commit (R673) -/

/-- The registers show a generation that begins its trial, and the commit is recorded. -/
def Dev.showCommit (d : Dev) (b : Blob) (prev : Nat) : Dev :=
  ((((((((d.wf F.SEC_CFG_GEN_CURRENT b.gen).wf F.SEC_CFG_GEN_PREVIOUS prev).setWords F.SEC_CFG_MEAS_WORD b.meas).setTrial true 64).wb
    F.SEC_CFG_STAT_CONFIRMED false).wf F.SEC_CFG_STAT_HEALTH b.health).wb F.CFG_STATUS_FIRST_COMMIT true)).postError
    { cls := 0, source := 0x12, event := 0x01, detail0 := b.gen }

theorem Fld.measWord_off {g : Fld} (low : 0x12000F8 < g.off ∨ g.off < 0x12000C0) (k : Nat) (hk : k < 8) : g.off ≠ (F.SEC_CFG_MEAS_WORD k).off := by
  intro same
  rw [show (F.SEC_CFG_MEAS_WORD k).off = 0x12000C0 + 0x8 * k from rfl] at same
  omega

theorem Dev.showCommit_cfg (d : Dev) (b : Blob) (prev : Nat) : (d.showCommit b prev).cfg = d.cfg := by
  rw [Dev.showCommit, Dev.postError_cfg, Dev.wb_cfg, Dev.wf_cfg, Dev.wb_cfg, Dev.setTrial, Dev.wf_cfg, Dev.wb_cfg, Dev.setWords_cfg, Dev.wf_cfg, Dev.wf_cfg]

/-- What the registers then show. -/
theorem Dev.showCommit_shows (d : Dev) {b : Blob} (hgen : b.gen < 2 ^ 32) (hhealth : b.health < 16) (prev : Nat) :
    (d.showCommit b prev).rf F.SEC_CFG_GEN_CURRENT = b.gen ∧ (d.showCommit b prev).rf F.SEC_CFG_GEN_PREVIOUS = prev % 2 ^ 32
    ∧ (d.showCommit b prev).rb F.SEC_CFG_STAT_TRIAL = true ∧ (d.showCommit b prev).rf F.SEC_CFG_STAT_TRIAL_LEFT = 64
    ∧ (d.showCommit b prev).rf F.SEC_CFG_STAT_HEALTH = b.health ∧ (d.showCommit b prev).rb F.CFG_STATUS_FIRST_COMMIT = true := by
  have words (e : Dev) (f : Fld) (low : 0x12000F8 < f.off) : (e.setWords F.SEC_CFG_MEAS_WORD b.meas).rf f = e.rf f :=
    e.setWords_rf _ _ (Fld.measWord_off (.inl low))
  unfold Dev.showCommit Dev.setTrial
  refine ⟨?_, ?_, ?_, ?_, ?_, ?_⟩
  · rw [Dev.rf_postError _ _ (by decide), Dev.rf_wb_elsewhere _ _ (by decide), Dev.rf_wf_elsewhere _ _ (by decide), Dev.rf_wb_elsewhere _ _ (by decide),
      Dev.rf_wf_elsewhere _ _ (by decide), Dev.rf_wb_elsewhere _ _ (by decide), words _ _ (by decide), Dev.rf_wf_apart _ _ (by decide) (by decide),
      Dev.rf_wf_same _ _ (by decide)]
    exact Nat.mod_eq_of_lt hgen
  · rw [Dev.rf_postError _ _ (by decide), Dev.rf_wb_elsewhere _ _ (by decide), Dev.rf_wf_elsewhere _ _ (by decide), Dev.rf_wb_elsewhere _ _ (by decide),
      Dev.rf_wf_elsewhere _ _ (by decide), Dev.rf_wb_elsewhere _ _ (by decide), words _ _ (by decide), Dev.rf_wf_same _ _ (by decide)]
    rfl
  · refine (Dev.rb_congr ((Dev.rf_postError _ _ (by decide)).trans (Dev.rf_wb_elsewhere _ _ (by decide)))).trans ?_
    rw [Dev.rb_wf_apart _ _ (by decide) (by decide), Dev.rb_wb_apart _ _ (by decide) (by decide), Dev.rb_wf_apart _ _ (by decide) (by decide),
      Dev.rb_wb_same _ _ (by decide) rfl]
  · rw [Dev.rf_postError _ _ (by decide), Dev.rf_wb_elsewhere _ _ (by decide), Dev.rf_wf_apart _ _ (by decide) (by decide),
      Dev.rf_wb_apart _ _ (by decide) (by decide), Dev.rf_wf_same _ _ (by decide)]
    rfl
  · rw [Dev.rf_postError _ _ (by decide), Dev.rf_wb_elsewhere _ _ (by decide), Dev.rf_wf_same _ _ (by decide)]
    exact Nat.mod_eq_of_lt hhealth
  · exact (Dev.rb_congr (Dev.rf_postError _ _ (by decide))).trans (Dev.rb_wb_same _ _ (by decide) rfl)

/-- The store after a commit: the blob is current and its predecessor the one that was, unless it had been lost (R673, R675). -/
def Dev.commitStore (d : Dev) (b : Blob) : Dev :=
  let a := d.unstage.applyRecs b.recs
  { a with
    cfg := { a.cfg with
      current := some b, previous := if a.cfg.lost then none else a.cfg.current, undo := (b.recs.map (·.1)).eraseDups.map (fun o => (o, d.reg o)),
      lost := false, fatalsAt := a.err.fatals, portsAt := a.runningPorts } }

theorem Dev.commitStore_cfg (d : Dev) (b : Blob) : (d.commitStore b).cfg.staged = none ∧ (d.commitStore b).cfg.current = some b
    ∧ (d.commitStore b).cfg.previous = if d.cfg.lost then none else d.cfg.current := by
  have applied := d.unstage.applyRecs_cfg b.recs
  unfold Dev.commitStore
  generalize d.unstage.applyRecs b.recs = a at *
  dsimp only
  rw [applied]
  exact ⟨rfl, rfl, rfl⟩

/-- A commit is what the registers show of it, over the store it leaves; a first one asks for partition resets beside (R662 step 8). -/
theorem Dev.commit_eq (d : Dev) (b : Blob) : ∃ reqs, d.commit b = if !d.rb F.CFG_STATUS_FIRST_COMMIT then
      { (d.commitStore b).showCommit b (d.rf F.SEC_CFG_GEN_CURRENT) with ctl := reqs }
    else (d.commitStore b).showCommit b (d.rf F.SEC_CFG_GEN_CURRENT) := ⟨_, rfl⟩

theorem Dev.commit_keeps (d : Dev) (b : Blob) : (d.commit b).regs = ((d.commitStore b).showCommit b (d.rf F.SEC_CFG_GEN_CURRENT)).regs
    ∧ (d.commit b).cfg = ((d.commitStore b).showCommit b (d.rf F.SEC_CFG_GEN_CURRENT)).cfg := by
  obtain ⟨reqs, effect⟩ := d.commit_eq b
  rw [effect]
  generalize (d.commitStore b).showCommit b (d.rf F.SEC_CFG_GEN_CURRENT) = e
  split <;> exact ⟨rfl, rfl⟩

/-- A committed generation is current and on trial (R673, R676). -/
theorem Dev.commitStaged_spec (d : Dev) {b : Blob} (hgen : b.gen < 2 ^ 32) (hhealth : b.health < 16) : let e := d.commitStaged b
    e.cfg.staged = none ∧ e.cfg.current = some b ∧ e.cfg.previous = (if d.cfg.lost then none else d.cfg.current)
    ∧ e.rb F.SEC_CFG_STAT_PREV_VALID = !d.cfg.lost ∧ e.rf F.SEC_CFG_GEN_CURRENT = b.gen ∧ e.rf F.SEC_CFG_GEN_PREVIOUS = d.rf F.SEC_CFG_GEN_CURRENT
    ∧ e.rb F.SEC_CFG_STAT_TRIAL = true ∧ e.rf F.SEC_CFG_STAT_TRIAL_LEFT = 64 ∧ e.rf F.SEC_CFG_STAT_HEALTH = b.health
    ∧ e.rb F.CFG_STATUS_FIRST_COMMIT = true := by
  intro e
  obtain ⟨staged, current, previous⟩ := d.commitStore_cfg b
  obtain ⟨regs, cfg⟩ := d.commit_keeps b
  rw [Dev.showCommit_cfg] at cfg
  obtain ⟨gen, prev, trial, left, health, first⟩ := (d.commitStore b).showCommit_shows hgen hhealth (d.rf F.SEC_CFG_GEN_CURRENT)
  generalize (d.commitStore b).showCommit b (d.rf F.SEC_CFG_GEN_CURRENT) = y at *
  have shown (f : Fld) : (d.commit b).rf f = y.rf f := Dev.rf_congr regs f
  have effect : e = (d.commit b).wb F.SEC_CFG_STAT_PREV_VALID (!d.cfg.lost) := rfl
  generalize d.commit b = z at *
  rw [effect, Dev.wb_cfg, cfg]
  refine ⟨staged, current, previous, Dev.rb_wb_same _ _ (by decide) rfl, ?_, ?_, ?_, ?_, ?_, ?_⟩
  · rw [Dev.rf_wb_elsewhere _ _ (by decide), shown, gen]
  · rw [Dev.rf_wb_elsewhere _ _ (by decide), shown, prev]
    exact Nat.mod_eq_of_lt (d.rf_lt F.SEC_CFG_GEN_CURRENT)
  · rw [Dev.rb_wb_apart _ _ (by decide) (by decide), Dev.rb_congr (shown _), trial]
  · rw [Dev.rf_wb_apart _ _ (by decide) (by decide), shown, left]
  · rw [Dev.rf_wb_apart _ _ (by decide) (by decide), shown, health]
  · rw [Dev.rb_congr (Dev.rf_wb_elsewhere _ _ (by decide)), Dev.rb_congr (shown _), first]

/-! ### A return (R677) -/

/-- The registers show that a return took effect; a notice says so. -/
def Dev.showReturn (d : Dev) (gen meas health : Nat) : Dev :=
  ((((((((d.wf F.SEC_CFG_GEN_CURRENT gen).wf F.SEC_CFG_GEN_PREVIOUS 0).setWords F.SEC_CFG_MEAS_WORD meas).setTrial false 0).wb
    F.SEC_CFG_STAT_PREV_VALID false).wb F.SEC_CFG_STAT_RETURN_STAGED false).wf F.SEC_CFG_STAT_HEALTH health).wb F.SEC_CFG_STAT_CONFIRMED false).notice 3 gen

theorem Dev.showReturn_shows (d : Dev) (gen meas health : Nat) : (d.showReturn gen meas health).cfg = d.cfg
    ∧ (d.showReturn gen meas health).rf F.SEC_CFG_GEN_CURRENT = gen % 2 ^ 32 ∧ (d.showReturn gen meas health).rb F.SEC_CFG_STAT_PREV_VALID = false
    ∧ (d.showReturn gen meas health).rb F.SEC_CFG_STAT_TRIAL = false
    ∧ Out.link { op := 0x4B, arg := 3, addr := gen } ∈ (d.showReturn gen meas health).out := by
  obtain ⟨e, he⟩ : ∃ e : Dev, e = ((d.wf F.SEC_CFG_GEN_CURRENT gen).wf F.SEC_CFG_GEN_PREVIOUS 0).setWords F.SEC_CFG_MEAS_WORD meas := ⟨_, rfl⟩
  have cfg : e.cfg = d.cfg := by rw [he, Dev.setWords_cfg, Dev.wf_cfg, Dev.wf_cfg]
  have current : e.rf F.SEC_CFG_GEN_CURRENT = gen % 2 ^ 32 := by
    rw [he, Dev.setWords_rf _ _ _ (Fld.measWord_off (.inl (by decide))), Dev.rf_wf_apart _ _ (by decide) (by decide), Dev.rf_wf_same _ _ (by decide)]
    rfl
  unfold Dev.showReturn Dev.notice
  rw [← he]
  clear he
  have sent := Dev.mails_sendCpl (((((e.setTrial false 0).wb F.SEC_CFG_STAT_PREV_VALID false).wb F.SEC_CFG_STAT_RETURN_STAGED false).wf
    F.SEC_CFG_STAT_HEALTH health).wb F.SEC_CFG_STAT_CONFIRMED false) { op := 0x4B, arg := 3, addr := gen }
  refine ⟨?_, ?_, ?_, ?_, Dev.sendCpl_left ..⟩
  · rw [sent.sends.cfg, Dev.wb_cfg, Dev.wf_cfg, Dev.wb_cfg, Dev.wb_cfg, Dev.setTrial, Dev.wf_cfg, Dev.wb_cfg, cfg]
  · rw [sent.sends.rf (by decide), Dev.rf_wb_elsewhere _ _ (by decide), Dev.rf_wf_elsewhere _ _ (by decide), Dev.rf_wb_elsewhere _ _ (by decide),
      Dev.rf_wb_elsewhere _ _ (by decide), Dev.setTrial, Dev.rf_wf_elsewhere _ _ (by decide), Dev.rf_wb_elsewhere _ _ (by decide), current]
  · rw [sent.sends.rb (by decide), Dev.rb_wb_apart _ _ (by decide) (by decide), Dev.rb_wf_apart _ _ (by decide) (by decide),
      Dev.rb_wb_apart _ _ (by decide) (by decide), Dev.rb_wb_same _ _ (by decide) rfl]
  · rw [sent.sends.rb (by decide), Dev.rb_wb_apart _ _ (by decide) (by decide), Dev.rb_wf_apart _ _ (by decide) (by decide),
      Dev.rb_wb_apart _ _ (by decide) (by decide), Dev.rb_wb_apart _ _ (by decide) (by decide), Dev.setTrial, Dev.rb_wf_apart _ _ (by decide) (by decide),
      Dev.rb_wb_same _ _ (by decide) rfl]

/-- The store after a return: the previous blob is current. -/
def Dev.returnStore (d : Dev) : Dev :=
  let recs := (d.cfg.previous.map (·.recs)).getD []
  let a := (d.applyRecs recs).applyRecs (d.cfg.undo.filter (fun e => !(recs.map (·.1)).contains e.1))
  { a with cfg := { a.cfg with current := d.cfg.previous, previous := none, undo := [], lost := false, failed := none } }

theorem Dev.doReturn_eq (d : Dev) : ∃ meas health r, d.doReturn = (d.returnStore.showReturn (d.rf F.SEC_CFG_GEN_PREVIOUS) meas health).postError r :=
  ⟨_, _, _, rfl⟩

theorem Dev.doReturn_spec (d : Dev) : d.doReturn.cfg.current = d.cfg.previous ∧ d.doReturn.cfg.previous = none
    ∧ d.doReturn.rf F.SEC_CFG_GEN_CURRENT = d.rf F.SEC_CFG_GEN_PREVIOUS ∧ d.doReturn.rb F.SEC_CFG_STAT_PREV_VALID = false
    ∧ d.doReturn.rb F.SEC_CFG_STAT_TRIAL = false ∧ Out.link { op := 0x4B, arg := 3, addr := d.rf F.SEC_CFG_GEN_PREVIOUS } ∈ d.doReturn.out := by
  obtain ⟨meas, health, r, effect⟩ := d.doReturn_eq
  obtain ⟨cfg, current, valid, trial, left⟩ := d.returnStore.showReturn_shows (d.rf F.SEC_CFG_GEN_PREVIOUS) meas health
  generalize d.returnStore.showReturn (d.rf F.SEC_CFG_GEN_PREVIOUS) meas health = y at *
  rw [effect, Dev.postError_cfg, Dev.postError_out, cfg, Dev.rf_postError _ _ (by decide), Dev.rb_congr (Dev.rf_postError _ _ (by decide)),
    Dev.rb_congr (Dev.rf_postError _ _ (by decide))]
  exact ⟨rfl, rfl, current.trans (Nat.mod_eq_of_lt (d.rf_lt F.SEC_CFG_GEN_PREVIOUS)), valid, trial, left⟩

/-! ### A trial (R676) -/

theorem Dev.setTrial_cfg (d : Dev) (on : Bool) (left : Nat) : (d.setTrial on left).cfg = d.cfg := rfl

theorem Dev.setTrial_shows (d : Dev) (on : Bool) {left : Nat} (short : left < 2 ^ 7) : (d.setTrial on left).rb F.SEC_CFG_STAT_TRIAL = on
    ∧ (d.setTrial on left).rf F.SEC_CFG_STAT_TRIAL_LEFT = left ∧ (d.setTrial on left).rb F.SEC_CFG_STAT_RETURN_STAGED = d.rb F.SEC_CFG_STAT_RETURN_STAGED
    ∧ (d.setTrial on left).rb F.SEC_CFG_STAT_PREV_VALID = d.rb F.SEC_CFG_STAT_PREV_VALID := by
  unfold Dev.setTrial
  refine ⟨?_, (Dev.rf_wf_same _ _ (by decide)).trans (Nat.mod_eq_of_lt short), ?_, ?_⟩
  · rw [Dev.rb_wf_apart _ _ (by decide) (by decide), Dev.rb_wb_same _ _ (by decide) rfl]
  · rw [Dev.rb_wf_apart _ _ (by decide) (by decide), Dev.rb_wb_apart _ _ (by decide) (by decide)]
  · rw [Dev.rb_wf_apart _ _ (by decide) (by decide), Dev.rb_wb_apart _ _ (by decide) (by decide)]

theorem Dev.healthFails_of_none (d : Dev) (last : Bool) (unasked : d.rf F.SEC_CFG_STAT_HEALTH = 0) : d.healthFails last = none := by
  have bit (i : Nat) : bitAt 0 i = false := by rw [bitAt_eq_testBit, Nat.zero_testBit]
  simp only [Dev.healthFails, unasked, bit, Bool.false_and, Bool.false_eq_true, if_false]

section
variable {d : Dev} (trial : d.rb F.SEC_CFG_STAT_TRIAL = true)
include trial

theorem Dev.trialBoundary_passes (fails : d.healthFails (decide (d.rf F.SEC_CFG_STAT_TRIAL_LEFT - 1 = 0)) = none) : d.trialBoundary =
    if d.rf F.SEC_CFG_STAT_TRIAL_LEFT - 1 = 0 ∨ d.rb F.SEC_CFG_STAT_CONFIRMED then d.setTrial false 0
    else d.setTrial true (d.rf F.SEC_CFG_STAT_TRIAL_LEFT - 1) := by
  simp only [Dev.trialBoundary, trial, Bool.not_true, Bool.false_eq_true, if_false, fails]

/-- A trial that fails ends, and stages a return where there is a previous generation. -/
theorem Dev.trialBoundary_fails (fails : d.healthFails (decide (d.rf F.SEC_CFG_STAT_TRIAL_LEFT - 1 = 0)) ≠ none)
    (unstaged : d.rb F.SEC_CFG_STAT_RETURN_STAGED = false) : d.trialBoundary.rb F.SEC_CFG_STAT_TRIAL = false
    ∧ d.trialBoundary.rb F.SEC_CFG_STAT_RETURN_STAGED = d.rb F.SEC_CFG_STAT_PREV_VALID := by
  obtain ⟨b, hb⟩ := Option.ne_none_iff_exists'.1 fails
  obtain ⟨off, -, returns, valid⟩ := d.setTrial_shows false (left := 0) (by decide)
  simp only [Dev.trialBoundary, trial, Bool.not_true, Bool.false_eq_true, if_false, hb]
  generalize d.setTrial false 0 = e at *
  rw [valid]
  cases previous : d.rb F.SEC_CFG_STAT_PREV_VALID
  · exact ⟨off, returns.trans unstaged⟩
  · exact ⟨(Dev.rb_wb_apart _ _ (by decide) (by decide)).trans off, Dev.rb_wb_same _ _ (by decide) rfl⟩

end

end Sys2Proof.Machine
end

section
/-!
Proofs, the commands of configuration generations (R671, R672, R675, R676, R678): staging, returning and confirming a blob, and the check of the store;
the statement of O58.
-/
namespace Sys2Proof.Machine

/-! ### Staging (R672) -/

/-- The generation that a blob's words name. -/
def blobGen (blob : List Byte) : Nat := leNat ((blob.drop 8).take 4)

theorem leNat_mod_take (l : List Byte) (n : Nat) : leNat l % 256 ^ n = leNat (l.take n) := by
  induction l generalizing n with
  | nil => rw [List.take_nil]; exact Nat.zero_mod _
  | cons b l ih =>
    cases n with
    | zero => rw [pow_zero, Nat.mod_one, List.take_zero]; rfl
    | succ n =>
      have low : b.toNat < 256 := b.isLt
      have rest : (b.toNat + 256 * leNat l) / 256 = leNat l := by omega
      have head : (b.toNat + 256 * leNat l) % 256 = b.toNat := by omega
      rw [List.take_succ_cons, leNat, leNat, pow_succ', Nat.mod_mul, head, rest, ih]

theorem bitsAt_blobWord (blob : List Byte) : bitsAt (blobWord blob 1) 0 32 = blobGen blob := by
  have low := leNat_mod_take ((blob.drop 8).take 8) 4
  rw [List.take_take] at low
  rw [bitsAt_eq]
  simpa [blobWord, slice, blobGen] using low

theorem parseBlob_gen {blob : List Byte} {b : Blob} (parsed : parseBlob blob = some b) : b.gen = blobGen blob := by
  rw [← bitsAt_blobWord]
  unfold parseBlob at parsed
  dsimp only at parsed
  split at parsed
  · cases parsed
    rfl
  · cases parsed

/-- The module takes no blob now. -/
def Dev.cfgBusy (d : Dev) : Bool := !d.coherent || d.rb F.SEC_CFG_STAT_TRIAL || d.rb F.SEC_CFG_STAT_RETURN_STAGED

theorem Dev.takeCpl_newGeneration (d : Dev) (p : CplPacket) (g : Nat) : (d.takeCpl p).newGeneration g = d.newGeneration g := by
  simp only [Dev.newGeneration, Dev.takeCpl_rf, Dev.takeCpl_rb]

/-- A blob is staged in place of one that waited. -/
def Dev.stage (d : Dev) (b : Blob) : Dev :=
  let e := if d.cfg.staged.isSome then d.wb F.TRN_STATUS_COMMIT_REPLACED true else d
  (({ e with cfg := { e.cfg with staged := some b } } : Dev).wf F.SEC_CFG_STAT_STAGED b.gen).wb F.SEC_CFG_STAT_STAGED_VALID true

theorem Dev.stage_spec (d : Dev) {b : Blob} (hgen : b.gen < 2 ^ 32) : (d.stage b).cfg = { d.cfg with staged := some b }
    ∧ (d.stage b).rf F.SEC_CFG_STAT_STAGED = b.gen ∧ (d.stage b).rb F.SEC_CFG_STAT_STAGED_VALID = true
    ∧ ((d.stage b).rb F.TRN_STATUS_COMMIT_REPLACED = true ↔ d.rb F.TRN_STATUS_COMMIT_REPLACED = true ∨ d.cfg.staged.isSome = true)
    ∧ (d.stage b).mem = d.mem := by
  unfold Dev.stage
  obtain ⟨e, he⟩ : ∃ e, e = if d.cfg.staged.isSome then d.wb F.TRN_STATUS_COMMIT_REPLACED true else d := ⟨_, rfl⟩
  have cfg : e.cfg = d.cfg := by rw [he, apply_ite Dev.cfg, Dev.wb_cfg, ite_self]
  have mem : e.mem = d.mem := by rw [he, apply_ite Dev.mem, Dev.wb_mem, ite_self]
  have replaced : e.rb F.TRN_STATUS_COMMIT_REPLACED = true ↔ d.rb F.TRN_STATUS_COMMIT_REPLACED = true ∨ d.cfg.staged.isSome = true := by
    rw [he]
    split
    · next waiting => exact iff_of_true (Dev.rb_wb_same _ _ (by decide) rfl) (.inr waiting)
    · next none => exact ⟨.inl, fun either => either.resolve_right none⟩
  dsimp only
  rw [← he]
  clear he
  refine ⟨by rw [Dev.wb_cfg, Dev.wf_cfg, cfg], ?_, Dev.rb_wb_same _ _ (by decide) rfl, ?_, by rw [Dev.wb_mem, Dev.wf_mem, mem]⟩
  · rw [Dev.rf_wb_apart _ _ (by decide) (by decide), Dev.rf_wf_same _ _ (by decide)]
    exact Nat.mod_eq_of_lt hgen
  · rw [Dev.rb_congr ((Dev.rf_wb_elsewhere _ _ (by decide)).trans (Dev.rf_wf_elsewhere _ _ (by decide)))]
    exact replaced

section
variable {d : Dev} {p : CplPacket} (hears : d.cplHears p = true) (good : d.cplCode p = 0) (hop : p.op = 0x42)
  (first : d.cmdFirst p = true) (late : 4 ≤ d.rf F.SEC_STATUS_STAGE)
include hears good hop first late

section
variable (code : p.arg % 256 = 0x20) (blob : List Byte)
include code

theorem cmdCfgStage_busy (bad : Bool) (busy : d.cfgBusy = true) : cmdCfgStage p blob bad d = (d.takeCpl p).cplResult p 2 0 := by
  refine (Dev.onCommand_late hears hop first good code late _).trans (if_pos ?_)
  rw [Dev.takeCpl_coherent, Dev.takeCpl_rb, Dev.takeCpl_rb]
  simpa [Dev.cfgBusy, or_assoc] using busy

/-- A module that is not busy reads the blob. -/
theorem cmdCfgStage_idle (bad : Bool) (idle : d.cfgBusy = false) : cmdCfgStage p blob bad d =
    match (if bad then none else parseBlob blob) with
      | none => (d.takeCpl p).cplResult p 1 (if bad then 0 else blobGen blob)
      | some b => if !(d.takeCpl p).newGeneration b.gen then (d.takeCpl p).cplResult p 1 (if bad then 0 else blobGen blob)
          else ((d.takeCpl p).stage b).cplResult p 0 b.gen := by
  refine (Dev.onCommand_late hears hop first good code late _).trans ((if_neg ?_).trans ?_)
  · rw [Dev.takeCpl_coherent, Dev.takeCpl_rb, Dev.takeCpl_rb]
    simpa [Dev.cfgBusy, and_assoc] using idle
  · rw [← bitsAt_blobWord]
    rfl

theorem cmdCfgStage_bad (idle : d.cfgBusy = false) : cmdCfgStage p blob true d = (d.takeCpl p).cplResult p 1 0 :=
  cmdCfgStage_idle hears good hop first late code blob true idle

/-- A blob that R671 forbids, or of a generation that is not new, is refused. -/
theorem cmdCfgStage_refused (idle : d.cfgBusy = false) (refused : ∀ b, parseBlob blob = some b → d.newGeneration b.gen = false) :
    cmdCfgStage p blob false d = (d.takeCpl p).cplResult p 1 (blobGen blob) := by
  rw [cmdCfgStage_idle hears good hop first late code blob false idle]
  cases parsed : parseBlob blob with
  | none => simp only [Bool.false_eq_true, if_false]
  | some b =>
    have old : (d.takeCpl p).newGeneration b.gen = false := (d.takeCpl_newGeneration p b.gen).trans (refused b parsed)
    simp only [Bool.false_eq_true, if_false, old, Bool.not_false, if_true]

theorem cmdCfgStage_stages (idle : d.cfgBusy = false) {b : Blob} (parsed : parseBlob blob = some b) (new : d.newGeneration b.gen = true) :
    cmdCfgStage p blob false d = ((d.takeCpl p).stage b).cplResult p 0 (blobGen blob) := by
  have fresh : (d.takeCpl p).newGeneration b.gen = true := (d.takeCpl_newGeneration p b.gen).trans new
  rw [cmdCfgStage_idle hears good hop first late code blob false idle, ← parseBlob_gen parsed]
  simp only [Bool.false_eq_true, if_false, parsed, fresh, Bool.not_true]

end

/-! ### Returning and confirming (R676, R678) -/

/-- A return to the previous generation is staged. -/
def Dev.stageReturn (d : Dev) : Dev :=
  (if d.rb F.SEC_CFG_STAT_RETURN_STAGED then d else { d with cfg := { d.cfg with failed := none } }).unstage.wb F.SEC_CFG_STAT_RETURN_STAGED true

omit hears good hop first late in
theorem Dev.stageReturn_spec (d : Dev) : d.stageReturn.cfg.staged = none ∧ d.stageReturn.rb F.SEC_CFG_STAT_STAGED_VALID = false
    ∧ d.stageReturn.rb F.SEC_CFG_STAT_RETURN_STAGED = true ∧ d.stageReturn.cfg.current = d.cfg.current ∧ d.stageReturn.cfg.previous = d.cfg.previous := by
  have kept : (if d.rb F.SEC_CFG_STAT_RETURN_STAGED then d else { d with cfg := { d.cfg with failed := none } } : Dev).cfg.current = d.cfg.current
      ∧ (if d.rb F.SEC_CFG_STAT_RETURN_STAGED then d else { d with cfg := { d.cfg with failed := none } } : Dev).cfg.previous = d.cfg.previous := by
    split <;> exact ⟨rfl, rfl⟩
  unfold Dev.stageReturn Dev.unstage
  generalize (if d.rb F.SEC_CFG_STAT_RETURN_STAGED then d else { d with cfg := { d.cfg with failed := none } } : Dev) = e at *
  refine ⟨rfl, ?_, Dev.rb_wb_same _ _ (by decide) rfl, kept.1, kept.2⟩
  rw [Dev.rb_wb_apart _ _ (by decide) (by decide), Dev.rb_wb_same _ _ (by decide) rfl]

section
variable (code : p.arg % 256 = 0x21)
include code

theorem cmdCfgReturn_refused (none : d.rb F.SEC_CFG_STAT_PREV_VALID = false) : cmdCfgReturn p d = (d.takeCpl p).cplResult p 4 0 :=
  (Dev.onCommand_late hears hop first good code late _).trans (if_pos (by rw [Dev.takeCpl_rb, none]; rfl))

theorem cmdCfgReturn_stages (valid : d.rb F.SEC_CFG_STAT_PREV_VALID = true) :
    cmdCfgReturn p d = ((d.takeCpl p).stageReturn).cplResult p 0 (d.rf F.SEC_CFG_GEN_PREVIOUS) := by
  have prev : (if (d.takeCpl p).rb F.SEC_CFG_STAT_RETURN_STAGED then d.takeCpl p
      else { d.takeCpl p with cfg := { (d.takeCpl p).cfg with failed := none } } : Dev).rf F.SEC_CFG_GEN_PREVIOUS = d.rf F.SEC_CFG_GEN_PREVIOUS := by
    split <;> exact d.takeCpl_rf p _
  refine (Dev.onCommand_late hears hop first good code late _).trans ((if_neg (by rw [Dev.takeCpl_rb, valid]; decide)).trans ?_)
  exact congrArg (Dev.cplResult _ p 0) prev

end

theorem cmdCfgConfirm_eq (code : p.arg % 256 = 0x22) : cmdCfgConfirm p d =
    (if d.rb F.SEC_CFG_STAT_TRIAL then (d.takeCpl p).wb F.SEC_CFG_STAT_CONFIRMED true else d.takeCpl p).cplResult p 0 0 := by
  refine (Dev.onCommand_late hears hop first good code late _).trans ?_
  rw [Dev.takeCpl_rb]

/-! ### The identity and the report (R681 to R683) -/

theorem cmdAttest_refused (code : p.arg % 256 = 0x30) (none : d.boot.seed = none) : cmdAttest p d = (d.takeCpl p).cplResult p 5 0 := by
  refine (Dev.onCommand_late hears hop first good code late _).trans ?_
  simp only [Dev.takeCpl_boot, none]

theorem cmdAttest_reports (code : p.arg % 256 = 0x30) {x : Nat} (seed : d.boot.seed = some x) :
    cmdAttest p d = ((d.takeCpl p).cplResult p 0 7539).blockOut p ((d.takeCpl p).signedReport x p.payload) := by
  refine (Dev.onCommand_late hears hop first good code late _).trans ?_
  simp only [Dev.takeCpl_boot, seed]

theorem cmdIdGet_refused (code : p.arg % 256 = 0x31) (none : d.boot.seed = none) : cmdIdGet p d = (d.takeCpl p).cplResult p 5 0 := by
  refine (Dev.onCommand_late hears hop first good code late _).trans ?_
  simp only [Dev.takeCpl_boot, none]

theorem cmdIdGet_answers (code : p.arg % 256 = 0x31) {x : Nat} (seed : d.boot.seed = some x) :
    cmdIdGet p d = ((d.takeCpl p).cplResult p 0 7227).blockOut p (identityRecord x) := by
  refine (Dev.onCommand_late hears hop first good code late _).trans ?_
  simp only [Dev.takeCpl_boot, seed]

end

/-! ### The check of the store (R675) -/

/-- The fault is shown and recorded. -/
def Dev.storeFault (d : Dev) : Dev := (d.wb F.SEC_STATUS_STORE_FAULT true).postError { cls := 1, source := 0x12, event := 0x04 }

theorem Dev.storeFault_spec (d : Dev) : d.storeFault.rb F.SEC_STATUS_STORE_FAULT = true ∧ d.storeFault.cfg = d.cfg
    ∧ d.storeFault.rf F.SEC_CFG_GEN_CURRENT = d.rf F.SEC_CFG_GEN_CURRENT := by
  unfold Dev.storeFault
  refine ⟨(Dev.rb_congr (Dev.rf_postError _ _ (by decide))).trans (Dev.rb_wb_same _ _ (by decide) rfl), Dev.postError_cfg .., ?_⟩
  rw [Dev.rf_postError _ _ (by decide), Dev.rf_wb_elsewhere _ _ (by decide)]

section
variable {d : Dev} (late : 4 ≤ d.rf F.SEC_STATUS_STAGE)
include late

/-- A mismatch in the previous blob or the undo list loses the previous generation. -/
theorem cmdConfigStoreCheck_previous : ∃ e, cmdConfigStoreCheck 1 d = e ∧ e.rb F.SEC_STATUS_STORE_FAULT = true ∧ e.cfg.previous = none
    ∧ e.cfg.current = d.cfg.current ∧ e.rb F.SEC_CFG_STAT_PREV_VALID = false ∧ e.rb F.SEC_CFG_STAT_RETURN_STAGED = false := by
  obtain ⟨fault, cfg, -⟩ := d.storeFault_spec
  have effect : cmdConfigStoreCheck 1 d = ((({ d.storeFault with cfg := { d.storeFault.cfg with previous := none, undo := [] } } : Dev).wb
      F.SEC_CFG_STAT_PREV_VALID false).wf F.SEC_CFG_GEN_PREVIOUS 0).wb F.SEC_CFG_STAT_RETURN_STAGED false := if_neg (by omega)
  generalize d.storeFault = e at *
  refine ⟨_, effect, ?_, rfl, (congrArg CfgSt.current cfg :), ?_, Dev.rb_wb_same _ _ (by decide) rfl⟩
  · exact (Dev.rb_congr ((Dev.rf_wb_elsewhere _ _ (by decide)).trans ((Dev.rf_wf_elsewhere _ _ (by decide)).trans
      (Dev.rf_wb_elsewhere _ _ (by decide))))).trans fault
  · rw [Dev.rb_wb_apart _ _ (by decide) (by decide), Dev.rb_congr (Dev.rf_wf_elsewhere _ _ (by decide)), Dev.rb_wb_same _ _ (by decide) rfl]

/-- A mismatch in the current blob loses it. -/
theorem cmdConfigStoreCheck_current : ∃ e, cmdConfigStoreCheck 2 d = e ∧ e.rb F.SEC_STATUS_STORE_FAULT = true ∧ e.cfg.current = none ∧ e.cfg.lost = true
    ∧ e.cfg.previous = d.cfg.previous ∧ e.rf F.SEC_CFG_GEN_CURRENT = d.rf F.SEC_CFG_GEN_CURRENT := by
  obtain ⟨fault, cfg, gen⟩ := d.storeFault_spec
  have effect : cmdConfigStoreCheck 2 d = { d.storeFault with cfg := { d.storeFault.cfg with current := none, lost := true } } := if_neg (by omega)
  generalize d.storeFault = e at *
  exact ⟨_, effect, fault, rfl, rfl, (congrArg CfgSt.previous cfg :), gen⟩

end

/-! ### The statement -/

/-- Ending the quarantine of the classes that an address names. -/
theorem bitAt_released (q a : Nat) {c : Nat} (hc : c < 2) : bitAt ((q &&& (3 - a % 4)) % 4) c = (bitAt q c && !bitAt a c) := by
  have low : a.testBit c = (a % 4).testBit c := by rw [show 4 = 2 ^ 2 from rfl, Nat.testBit_mod_two_pow, decide_eq_true hc, Bool.true_and]
  have mask : ∀ r < 4, ∀ c < 2, (3 - r).testBit c = !r.testBit c := by decide
  rw [bitAt_eq_testBit, bitAt_eq_testBit, bitAt_eq_testBit, show 4 = 2 ^ 2 from rfl, Nat.testBit_mod_two_pow, decide_eq_true hc, Bool.true_and,
    Nat.testBit_and, show 2 ^ 2 = 4 from rfl, mask _ (Nat.mod_lt a (by decide)) c hc, low]

/-- Settles O58: each command is the lemma about it; uploads, the boundary's generations, the report and the blocks are lemmas of their own. -/
theorem managementCommands : Obligations.ManagementCommands := by
  unfold Obligations.ManagementCommands
  refine ⟨fun s p run hears hop first => ?command, fun s p run hears hop => ?block, Upload.put_spec, fun s run late => ?store,
    fun d b hgen hhealth unreturned staged => ?commit, fun d returns => ?returns, fun d unreturned unstaged trial left => ?trial,
    fun d x nonce => ⟨d.length_report x nonce, d.length_signedReport x nonce, length_identityRecord x, d.report_nonce x nonce⟩,
    fun bs => chunks_spec (by decide) _ (Nat.le_refl _)⟩
  case command =>
    intro d d1 stage answer open'
    have runs (f : Dev → Dev) {e : Dev} (effect : f s.dev = e) : onMiller f s = .next (s.after e) :=
      (onMiller_runs (State.miller_of_running run)).trans (by rw [effect])
    refine ⟨?bad, fun good => ⟨?early, fun code shut => ⟨_, runs _ (cmdLinkCoherent_open hears hop first good code shut)⟩,
      fun code tripped => ⟨_, runs _ (cmdRelease_open hears hop first good code (.inr tripped))⟩, ?coherent, ?release,
      fun code => runs _ (cmdImgBegin_eq hears hop first good code), ?image, ?packBegin, ?packEnd, ?stage, ?cfgReturn,
      fun code late => runs _ (cmdCfgConfirm_eq hears good hop first late code),
      fun code late => ⟨fun none => runs _ (cmdAttest_refused hears good hop first late code none),
        fun x seed => runs _ (cmdAttest_reports hears good hop first late code seed)⟩,
      fun code late => ⟨fun none => runs _ (cmdIdGet_refused hears good hop first late code none),
        fun x seed => runs _ (cmdIdGet_answers hears good hop first late code seed)⟩⟩⟩
    case bad =>
      intro k c listed code bad
      simp only [open', List.mem_append, List.mem_cons, List.not_mem_nil, or_false, Prod.mk.injEq] at listed
      have refuses (f : Dev → Dev) := Dev.onCommand_bad hears hop first code bad f
      obtain (⟨rfl, rfl⟩ | ⟨rfl, rfl⟩ | ⟨rfl, rfl⟩ | ⟨rfl, rfl⟩ | ⟨rfl, rfl⟩ | ⟨rfl, rfl⟩) | ⟨rfl, rfl⟩ | ⟨rfl, rfl⟩ := listed <;> exact runs _ (refuses _)
    case early =>
      intro k c listed code early
      simp only [open', List.mem_cons, List.not_mem_nil, or_false, Prod.mk.injEq] at listed
      have opens {f : Dev → Dev} := Dev.onCommand_early hears hop first good code early (f := f)
      obtain ⟨rfl, rfl⟩ | ⟨rfl, rfl⟩ | ⟨rfl, rfl⟩ | ⟨rfl, rfl⟩ | ⟨rfl, rfl⟩ | ⟨rfl, rfl⟩ := listed
      case inl => exact ⟨_, runs _ (opens fun e h => if_pos (.inl h))⟩
      all_goals exact ⟨_, runs _ (opens fun e h => if_pos h)⟩
    case coherent =>
      intro code ready untripped
      refine ⟨_, ?_, rfl, runs _ (cmdLinkCoherent_opens hears hop first good code ready untripped)⟩
      exact (Dev.mails_sendCpl _ _).sends.coherent.trans (decide_eq_true (Dev.rf_wf_same _ _ (by decide)))
    case release =>
      intro code late untripped
      refine ⟨_, runs _ (cmdRelease_releases hears hop first good code late untripped), fun c hc => ?_, rfl, rfl⟩
      rw [Dev.rbit, Dev.rf_wf_same _ _ (by decide)]
      exact bitAt_released _ _ hc
    case image =>
      intro code ok u image d2 again
      refine ⟨fun fails => ?_, fun whole forged => ?_, fun n whole passes => ⟨fun run => ?_, fun flash => ?_⟩⟩
      · refine runs _ ((cmdImgEnd_of_format hears hop first good code ok image fails).trans ((Dev.imgFailed_eq _ _ _).trans ?_))
        rw [Dev.imgTaken_stage]
        rfl
      · refine runs _ ((cmdImgEnd_of_signature hears hop first good code ok image whole forged).trans ((Dev.imgFailed_eq _ _ _).trans ?_))
        rw [Dev.imgTaken_stage]
        rfl
      · refine runs _ ((cmdImgEnd_of_verified hears hop first good code ok image whole passes).trans ((Dev.imgVerified_eq _ _ _ _ _).trans ?_))
        rw [if_pos run, Dev.imgTaken_stage]
        rfl
      · have verified := (cmdImgEnd_of_verified hears hop first good code ok image whole passes).trans (Dev.imgVerified_eq _ _ _ _ _)
        rw [if_neg (by omega), Dev.imgTaken_stage] at verified
        refine ⟨fun good => ?_, fun bad => ?_⟩
        · subst good
          exact runs _ verified
        · subst bad
          exact ⟨_, runs _ verified, rfl, rfl⟩
    case packBegin =>
      intro code late
      obtain ⟨e, effect, kept⟩ := cmdPackBegin_erases hears good hop first late code
      exact ⟨e, runs _ effect, kept⟩
    case packEnd =>
      intro code late ok u pack d2 k fails whole newer
      have checks := cmdPackEnd_eq hears good hop first late code ok pack
      have arrived : whole = true ↔ ¬((!u.whole) = true ∨ packSlotBytes < u.len) := by
        simp only [whole, Bool.and_eq_true, decide_eq_true_eq, Bool.not_eq_true', packSlotBytes, not_or, Nat.not_lt, Bool.not_eq_false]
      have opened (full : whole = true) := checks.trans (if_neg (arrived.1 full))
      refine ⟨fun short => runs _ (checks.trans (if_pos ?_)), fun full bad => runs _ ((opened full).trans (if_pos ?_)),
        fun full valid old => runs _ ((opened full).trans ((if_neg ?_).trans (if_pos ?_))),
        fun full valid new good => runs _ ((opened full).trans ((if_neg ?_).trans ((if_neg ?_).trans (if_neg ?_)))),
        fun full valid new bad => ⟨_, runs _ ((opened full).trans ((if_neg ?_).trans ((if_neg ?_).trans (if_pos ?_)))), ?_⟩⟩
      · by_contra full
        rw [arrived.2 full] at short
        cases short
      · exact congrArg not bad
      · exact ne_true_of_eq_false (congrArg not valid)
      · exact congrArg not old
      · exact ne_true_of_eq_false (congrArg not valid)
      · exact ne_true_of_eq_false (congrArg not new)
      · exact ne_true_of_eq_false (congrArg not good)
      · exact ne_true_of_eq_false (congrArg not valid)
      · exact ne_true_of_eq_false (congrArg not new)
      · exact congrArg not bad
      · exact Dev.setPack_boot ..
    case stage =>
      intro code late blob bad busy g
      have idle : busy = s.dev.cfgBusy := rfl
      refine ⟨fun now => runs _ (cmdCfgStage_busy hears good hop first late code blob bad now), fun free poison => ?_, fun free clean refused => ?_,
        fun b free clean parsed new => ?_⟩
      · subst poison
        exact runs _ (cmdCfgStage_bad hears good hop first late code blob free)
      · subst clean
        exact runs _ (cmdCfgStage_refused hears good hop first late code blob free refused)
      · subst clean
        have gen : b.gen = blobGen blob := parseBlob_gen parsed
        have small : b.gen < 2 ^ 32 := by rw [gen, ← bitsAt_blobWord]; exact Nat.mod_lt _ (by decide)
        obtain ⟨cfg, staged, valid, replaced, mem⟩ := (s.dev.takeCpl p).stage_spec small
        refine ⟨_, runs _ (cmdCfgStage_stages hears good hop first late code blob free parsed new), ?_, staged.trans gen, valid, ?_, ?_⟩
        · rw [cfg, Dev.takeCpl_cfg]
        · rw [replaced, Dev.takeCpl_rb, Dev.takeCpl_cfg]
        · rw [mem, Dev.takeCpl_mem]
    case cfgReturn =>
      intro code late
      refine ⟨fun none => runs _ (cmdCfgReturn_refused hears good hop first late code none), fun valid => ?_⟩
      obtain ⟨staged, off, on, current, previous⟩ := (s.dev.takeCpl p).stageReturn_spec
      rw [Dev.takeCpl_cfg] at current previous
      exact ⟨_, runs _ (cmdCfgReturn_stages hears good hop first late code valid), staged, off, on, current, previous⟩
  case block =>
    intro d d1
    have runs {e : Dev} (effect : cmdBlock p s.dev = e) : exec (.block p) s = .next (s.after e) :=
      (onMiller_runs (State.miller_of_running run)).trans (by rw [effect])
    refine ⟨fun bad => runs (Dev.onPacket_bad hop hears bad _), fun good => ⟨fun u image => runs (cmdBlock_image hears good hop image),
      fun u image pack => ?_, fun image pack => runs (cmdBlock_none hears good hop image pack)⟩⟩
    obtain ⟨e, effect, kept⟩ := cmdBlock_pack hears good hop image pack
    exact ⟨e, runs effect, kept⟩
  case store =>
    obtain ⟨e, effect, kept⟩ := cmdConfigStoreCheck_previous late
    obtain ⟨e', effect', kept'⟩ := cmdConfigStoreCheck_current late
    exact ⟨onDev_of_eq run (if_pos (.inr rfl)), ⟨e, onDev_of_eq run effect, kept⟩, e', onDev_of_eq run effect', kept'⟩
  case commit =>
    have effect : d.cfgBoundary = d.commitStaged b := by simp only [Dev.cfgBoundary, unreturned, staged, Bool.false_eq_true, if_false]
    rw [effect]
    exact d.commitStaged_spec hgen hhealth
  case returns =>
    have effect : d.cfgBoundary = d.doReturn := if_pos returns
    rw [effect]
    exact d.doReturn_spec
  case trial =>
    intro e remaining fails
    have effect : e = d.trialBoundary := by
      show d.cfgBoundary = _
      simp only [Dev.cfgBoundary, unreturned, unstaged, Bool.false_eq_true, if_false]
    have short : remaining < 2 ^ 7 := Nat.lt_of_le_of_lt (Nat.sub_le _ _) (d.rf_lt F.SEC_CFG_STAT_TRIAL_LEFT)
    rw [effect]
    refine ⟨fun passes more open' => ?_, fun passes ends => ?_, fun failed => Dev.trialBoundary_fails trial failed unreturned, d.healthFails_of_none _⟩
    · obtain ⟨on, shown, -⟩ := d.setTrial_shows true short
      rw [Dev.trialBoundary_passes trial passes, if_neg (fun ends => ends.elim more (by simp [open']))]
      exact ⟨on, shown, rfl⟩
    · obtain ⟨off, -, returns, -⟩ := d.setTrial_shows false (left := 0) (by decide)
      rw [Dev.trialBoundary_passes trial passes, if_pos ends]
      exact ⟨off, rfl, returns.trans unreturned⟩

end Sys2Proof.Machine
end
